-- ==== Sys2Proof/Word.lean ====
section
/-! DEFINITION. The word types of the Penposer and their plainest arithmetic (00 R4-R6, R11). -/
namespace Sys2Proof

/-- A 64-bit scalar (04 R94). -/
abbrev Word := BitVec 64
/-- One byte of scratchpad, vault, block-table or host memory (00 R5). -/
abbrev Byte := BitVec 8
/-- A 16-bit code word (05 R111). -/
abbrev CodeWord := BitVec 16
/-- A 32-bit accumulator word (04 R100). -/
abbrev W32 := BitVec 32
/-- A vector register, a scratchpad line or a vault column: 256 bytes (00 R6, 11 R249). -/
abbrev Vec := BitVec 2048
/-- A vector predicate: one bit for each byte lane (00 R6). -/
abbrev Mask := BitVec 256
/-- A bundle (05 R117). -/
abbrev Bundle := BitVec 384
/-- The 40 bits of a slot (05 R120). -/
abbrev SlotWord := BitVec 40

end Sys2Proof
end

