-- ==== Sys2Proof/Syntax.lean ====
section
/-! DEFINITION. The instructions: one constructor for each row of spec/opcode_table.json. Code words (05 R111),
slot operations (05 R125) and the package's events (95_what_each_step_holds.md). Register numbers are bit vectors of
their field's width (05 R122); type codes, modes, conditions and operations are constructors. -/
namespace Sys2Proof

/-- Guard of a slot (05 R120): predicate number and inversion. -/
structure Guard where
  neg : Bool
  p : BitVec 5
  deriving DecidableEq, Repr

/-- The nine slots of a bundle (05 R117). -/
inductive Slot where
  | C | S | L | VA | VB | M | X | DR | DC
  deriving DecidableEq, Repr

/-- The vector slot that an operation issues in (07 R167). -/
inductive VSlot where
  | va | vb
  deriving DecidableEq, Repr

/-- Type codes 0x0 to 0xD in order (03 Table 3-1). -/
inductive Ty where
  | f32 | bf16 | f16 | e4m3 | e5m2 | p2s8 | s8 | s16 | s32 | s64 | n8 | n16 | n32 | n64
  deriving DecidableEq, Repr

/-- Rounding modes 0b000 to 0b100 in order (03 Table 3-6). -/
inductive RMode where
  | rne | rtz | sat | ef | dith
  deriving DecidableEq, Repr

/-- Condition codes 0b000 to 0b101 in order (06 Table 6-3). -/
inductive Cond where
  | eq | ne | lt | ge | le | gt
  deriving DecidableEq, Repr

/-- Float conditions 0b000 to 0b110 in order (07 Table 7-5). -/
inductive FCond where
  | eq | ne | lt | ge | le | gt | un
  deriving DecidableEq, Repr

/-- Combining operations of scans and reductions (07 R186). -/
inductive COp where
  | add | max | min | amax
  deriving DecidableEq, Repr

/-- Destination of a compare (05 R123). -/
inductive CmpDest where
  | pair (k : BitVec 4)
  | steer (n : BitVec 4)
  deriving DecidableEq, Repr

/-- Count of a `loop` (05 Table 5-5): cnt10 = count - 1, or the scalar that holds the count. -/
inductive LoopCount where
  | imm (cnt : BitVec 10)
  | reg (sc : BitVec 6)
  deriving DecidableEq, Repr

/-- Condition of a `rdv` (06 R155): none, or tl and the scalar that holds n. -/
inductive RdvCond where
  | always
  | level (tl : BitVec 3) (sv : BitVec 6)
  deriving DecidableEq, Repr

/-- A command of the copy or far engine on the asynchronous port (10 R245). -/
inductive EngineCmd where
  | act (bank row : Nat)
  | pre (bank : Nat)
  | rdCol (tl num k : Nat)
  | wrCol (tl num k : Nat)
  deriving DecidableEq, Repr

/-- A tandem flit (19 Table 19-4): the fields of its header, payload and CRC-32. Beside it, `fec` are the FEC codewords that
the lanes corrected, and what R353 lets travel unchanged through the crossing though the 276 bytes name no place for it: the
push's source tile, descriptor and own CRC-32 (notes/assumptions/28.md). -/
structure Flit where
  kind : Byte
  gen : BitVec 8
  seq : BitVec 16
  ack : BitVec 16
  nak : Bool
  tile : BitVec 9
  addr : BitVec 21
  inject : BitVec 32
  data : Vec
  crc : BitVec 32
  fec : Nat
  src : BitVec 9
  desc : Word
  pushCrc : BitVec 32
  deriving DecidableEq, Repr

/-- What packages report to each other (02 R64, 12 R270, 14 R305, 17): conditions and commits to package 0; refusals, cancels
(a strike's or another's) and a relay point without a common variant to all. -/
inductive ReportKind where
  | ready | held | rdv (id : Nat) | reloadDone (cancels : Nat) | committed (phase : Nat) | refused (code : Nat)
  | cancelled (frame : Nat) (strike : Bool) | noVariant
  deriving DecidableEq, Repr

/-- A condition report flit (19 Table 19-4 type 0x04) as package 0 receives it; `frame` is the frame cycle of the condition,
`tile` the lowest tile of the sender's launch, `restore` whether it restores an image (14 R305). -/
structure Report where
  pkg : Nat
  kind : ReportKind
  tag : BitVec 32
  count : Nat
  relay : Nat
  variants : BitVec 8
  ports : BitVec 16
  frame : Nat
  tile : Nat
  restore : Bool
  deriving DecidableEq, Repr

/-- A far frame as it arrives (12 R275): whether its tag authenticates, and one column of a contribution as the wire
carries it (12 R277), or, with `ack`, the word of the peer that a column sent has been delivered, or, with `set`, the word of
the root that S is fixed (12 R278). -/
structure FarFrame where
  session : Nat
  good : Bool
  ack : Bool
  set : Option (BitVec 64)
  member : Nat
  tag : BitVec 32
  len : Nat
  col : Nat
  data : List Byte
  deriving DecidableEq, Repr

/-- A peer's certificate with what it led to: its attestation and the key establishment (12 R275, 20 R365). -/
structure PeerProof where
  cert : List Byte
  attested : Bool
  keyed : Bool
  deriving DecidableEq, Repr

/-- A stop message for a coach: class, code and frame cycle of the fault (17 R328 step 1). -/
structure StopNote where
  coach : Nat
  cls : Nat
  code : Nat
  frame : Nat
  deriving DecidableEq, Repr

/-- The instruction set and the package's events. -/
inductive Instr where
  -- code words (05 Table 5-1)
  | issue (n : BitVec 12)
  | escape
  | idle (n : BitVec 10)
  | seg (n : BitVec 10)
  | endStream
  -- any slot: opcode 0x00 (05 R119)
  | nop (sl : Slot)
  -- C slot (05 Table 5-5)
  | prep (g : Guard) (st : BitVec 4) (target : BitVec 17)
  | prepr (g : Guard) (st : BitVec 4) (sa : BitVec 6)
  | br (g : Guard) (st : BitVec 4)
  | brn (g : Guard) (st : BitVec 4)
  | jmp (g : Guard) (st : BitVec 4)
  | loop (g : Guard) (l : BitVec 2) (count : LoopCount) (len : BitVec 14)
  | lper (g : Guard) (l : BitVec 2) (per : BitVec 16)
  | lbrk (g : Guard) (l : BitVec 2)
  | commit (g : Guard) (rl : BitVec 8) (os : BitVec 4)
  | relay (g : Guard)
  | rdv (g : Guard) (id : BitVec 8) (cond : RdvCond)
  | tlsig (g : Guard) (tl : BitVec 3)
  | tlrd (g : Guard) (sd : BitVec 6) (tl : BitVec 3)
  | acopyIn (g : Guard) (tl : BitVec 3) (sh sv sn : BitVec 6)
  | acopyOut (g : Guard) (tl : BitVec 3) (sh sv sn : BitVec 6)
  | farxSend (g : Guard) (tl : BitVec 3) (sd : BitVec 6)
  | farxRecv (g : Guard) (tl : BitVec 3) (sd : BitVec 6)
  | farmSum (g : Guard) (tl : BitVec 3) (sd : BitVec 6)
  | farmGather (g : Guard) (tl : BitVec 3) (sd : BitVec 6)
  | farmBcast (g : Guard) (tl : BitVec 3) (sd : BitVec 6)
  | ftload (g : Guard) (sa : BitVec 6) (mask : BitVec 16)
  | fclr (g : Guard) (fs : BitVec 4)
  | rdsys (g : Guard) (sd : BitVec 6) (idx : BitVec 10)
  | wrsys (g : Guard) (sa : BitVec 6) (idx : BitVec 10)
  | trap (g : Guard) (k : BitVec 16)
  -- S slot (06)
  | add (g : Guard) (sd sa sb : BitVec 6)
  | sub (g : Guard) (sd sa sb : BitVec 6)
  | mul (g : Guard) (sd sa sb : BitVec 6)
  | mulh (g : Guard) (sd sa sb : BitVec 6)
  | mulhn (g : Guard) (sd sa sb : BitVec 6)
  | divs (g : Guard) (sd sa sb : BitVec 6)
  | divn (g : Guard) (sd sa sb : BitVec 6)
  | rems (g : Guard) (sd sa sb : BitVec 6)
  | remn (g : Guard) (sd sa sb : BitVec 6)
  | and (g : Guard) (sd sa sb : BitVec 6)
  | or (g : Guard) (sd sa sb : BitVec 6)
  | xor (g : Guard) (sd sa sb : BitVec 6)
  | andn (g : Guard) (sd sa sb : BitVec 6)
  | shl (g : Guard) (sd sa sb : BitVec 6)
  | shr (g : Guard) (sd sa sb : BitVec 6)
  | sra (g : Guard) (sd sa sb : BitVec 6)
  | rotl (g : Guard) (sd sa sb : BitVec 6)
  | min (g : Guard) (sd sa sb : BitVec 6)
  | max (g : Guard) (sd sa sb : BitVec 6)
  | minn (g : Guard) (sd sa sb : BitVec 6)
  | maxn (g : Guard) (sd sa sb : BitVec 6)
  | clz (g : Guard) (sd sa : BitVec 6)
  | ctz (g : Guard) (sd sa : BitVec 6)
  | popc (g : Guard) (sd sa : BitVec 6)
  | sext (g : Guard) (sd sa : BitVec 6) (n : BitVec 6)
  | zext (g : Guard) (sd sa : BitVec 6) (n : BitVec 6)
  | sel (g : Guard) (sd sa sb : BitVec 6) (inv : Bool) (k : BitVec 5)
  | mov (g : Guard) (sd sa : BitVec 6)
  | movi (g : Guard) (sd : BitVec 6) (imm : BitVec 21)
  | ins16 (g : Guard) (sd : BitVec 6) (imm : BitVec 16) (j : BitVec 2)
  | addi (g : Guard) (sd sa : BitVec 6) (imm : BitVec 15)
  | andi (g : Guard) (sd sa : BitVec 6) (imm : BitVec 15)
  | ori (g : Guard) (sd sa : BitVec 6) (imm : BitVec 15)
  | xori (g : Guard) (sd sa : BitVec 6) (imm : BitVec 15)
  | shli (g : Guard) (sd sa : BitVec 6) (k : BitVec 6)
  | shri (g : Guard) (sd sa : BitVec 6) (k : BitVec 6)
  | srai (g : Guard) (sd sa : BitVec 6) (k : BitVec 6)
  | cmp (g : Guard) (d : CmpDest) (c : Cond) (sa sb : BitVec 6)
  | cmpi (g : Guard) (d : CmpDest) (c : Cond) (sa : BitVec 6) (imm : BitVec 12)
  | scmp (g : Guard) (d : CmpDest) (c : Cond) (sa sb : BitVec 6)
  | scmpi (g : Guard) (d : CmpDest) (c : Cond) (sa : BitVec 6) (imm : BitVec 12)
  | pand (g : Guard) (pd pa pb : BitVec 5) (na nb : Bool)
  | por (g : Guard) (pd pa pb : BitVec 5) (na nb : Bool)
  | pxor (g : Guard) (pd pa pb : BitVec 5) (na nb : Bool)
  | pandn (g : Guard) (pd pa pb : BitVec 5) (na nb : Bool)
  | blkx (g : Guard) (sd sa : BitVec 6)
  | blkalloc (g : Guard) (sd sa : BitVec 6)
  | blkfree (g : Guard) (sd sa : BitVec 6)
  | blkref (g : Guard) (sd sa sb : BitVec 6)
  -- L slot (08)
  | ldV (g : Guard) (vd : BitVec 6) (base : BitVec 5) (off : BitVec 12) (pi : Bool) (q : BitVec 3)
  | stV (g : Guard) (vs : BitVec 6) (base : BitVec 5) (off : BitVec 12) (pi : Bool) (q : BitVec 3)
  | ldbV (g : Guard) (vd : BitVec 6) (base : BitVec 5) (off : BitVec 12) (pi : Bool) (q : BitVec 3)
  | ldS (g : Guard) (sd : BitVec 6) (base : BitVec 5) (off : BitVec 12) (pi : Bool)
  | stS (g : Guard) (ss : BitVec 6) (base : BitVec 5) (off : BitVec 12) (pi : Bool)
  | ldgV (g : Guard) (vd vi : BitVec 6) (base : BitVec 5) (q : BitVec 4) (ty : Ty)
  | stgV (g : Guard) (vs vi : BitVec 6) (base : BitVec 5) (q : BitVec 4) (ty : Ty)
  | ldQ (g : Guard) (qd : BitVec 4) (base : BitVec 5) (off : BitVec 12) (pi : Bool)
  | stQ (g : Guard) (qs : BitVec 4) (base : BitVec 5) (off : BitVec 12) (pi : Bool)
  | pushV (g : Guard) (vs dsc : BitVec 6)
  | pushl (g : Guard) (sl dsc : BitVec 6)
  | lcopy (g : Guard) (sd ss : BitVec 6) (cnt : BitVec 12)
  | pushArrival (id : Nat)
  -- M slot (09)
  | mldb (g : Guard) (ty : Ty) (x : BitVec 1) (f : BitVec 3) (sa : BitVec 6) (n : BitVec 4) (sb : Bool)
  | mmul (g : Guard) (ad : BitVec 3) (x : BitVec 1) (sa : BitVec 6) (n : BitVec 4) (c : Bool) (aty : Ty) (bsel scA scB : Bool)
  | mmulTableMode (g : Guard) (ad : BitVec 3) (x : BitVec 1) (sa : BitVec 6) (n : BitVec 4) (c : Bool) (l : BitVec 2)
  | mzero (g : Guard) (ad : BitVec 3)
  | mld (g : Guard) (ad : BitVec 3) (sa : BitVec 6)
  | mst (g : Guard) (as : BitVec 3) (sa : BitVec 6) (i32 : Bool) (ty : Ty) (mode : RMode)
  | mstTableMode (g : Guard) (as : BitVec 3) (sa : BitVec 6) (l : BitVec 2)
  | mmov (g : Guard) (ad as : BitVec 3)
  | macc (g : Guard) (ad as : BitVec 3) (i32 : Bool)
  | mrowadd (g : Guard) (ad : BitVec 3) (sa : BitVec 6) (i32 : Bool)
  | mscl (g : Guard) (ad : BitVec 3) (sk : BitVec 6)
  -- X slot (08 R207)
  | xin (g : Guard) (vs : BitVec 6)
  | xout (g : Guard) (vd : BitVec 6)
  | xclr (g : Guard)
  | xmode (g : Guard) (b16 : Bool)
  -- DR slot (10 Table 10-3)
  | act (g : Guard) (bank : BitVec 5) (row : BitVec 13)
  | acti (g : Guard) (k : BitVec 5) (sn : BitVec 6)
  | pre (g : Guard) (bank : BitVec 5)
  | prea (g : Guard)
  | refb (g : Guard) (bank : BitVec 5)
  | stop (g : Guard) (sm : BitVec 6) (len : BitVec 16)
  -- DC slot (10 Table 10-5)
  | rd (g : Guard) (vd sv : BitVec 6) (ai : Bool)
  | rds (g : Guard) (sl sv : BitVec 6) (ai : Bool)
  | wr (g : Guard) (vs sv : BitVec 6) (ai : Bool)
  | wrs (g : Guard) (sl sv : BitVec 6) (ai : Bool)
  -- VA and VB slots (07)
  | vadd (g : Guard) (u : VSlot) (vd va vb : BitVec 6) (q : BitVec 4) (ty : Ty) (rz : Bool)
  | vsub (g : Guard) (u : VSlot) (vd va vb : BitVec 6) (q : BitVec 4) (ty : Ty) (rz : Bool)
  | vmul (g : Guard) (u : VSlot) (vd va vb : BitVec 6) (q : BitVec 4) (ty : Ty) (rz : Bool)
  | vfma (g : Guard) (u : VSlot) (vd va vb : BitVec 6) (q : BitVec 4) (ty : Ty) (rz : Bool)
  | vfms (g : Guard) (u : VSlot) (vd va vb : BitVec 6) (q : BitVec 4) (ty : Ty) (rz : Bool)
  | vfnma (g : Guard) (u : VSlot) (vd va vb : BitVec 6) (q : BitVec 4) (ty : Ty) (rz : Bool)
  | vmin (g : Guard) (u : VSlot) (vd va vb : BitVec 6) (q : BitVec 4) (ty : Ty) (num : Bool)
  | vmax (g : Guard) (u : VSlot) (vd va vb : BitVec 6) (q : BitVec 4) (ty : Ty) (num : Bool)
  | vabs (g : Guard) (u : VSlot) (vd va : BitVec 6) (q : BitVec 4) (ty : Ty)
  | vneg (g : Guard) (u : VSlot) (vd va : BitVec 6) (q : BitVec 4) (ty : Ty)
  | vtwosum (g : Guard) (u : VSlot) (vd va vb : BitVec 6) (q : BitVec 4) (ty : Ty)
  | vcmp (g : Guard) (u : VSlot) (qd : BitVec 4) (c : FCond) (va vb : BitVec 6) (q : BitVec 4) (ty : Ty)
  | vclass (g : Guard) (u : VSlot) (vd va : BitVec 6) (q : BitVec 4) (ty : Ty)
  | vscale (g : Guard) (u : VSlot) (vd va vb : BitVec 6) (q : BitVec 4) (ty : Ty) (inv : Bool)
  | vcvt (g : Guard) (u : VSlot) (vd va : BitVec 6) (q : BitVec 4) (dt st : Ty) (mode : RMode)
  | viadd (g : Guard) (u : VSlot) (vd va vb : BitVec 6) (q : BitVec 4) (ty : Ty)
  | visub (g : Guard) (u : VSlot) (vd va vb : BitVec 6) (q : BitVec 4) (ty : Ty)
  | vimul (g : Guard) (u : VSlot) (vd va vb : BitVec 6) (q : BitVec 4) (ty : Ty)
  | vimulh (g : Guard) (u : VSlot) (vd va vb : BitVec 6) (q : BitVec 4) (ty : Ty)
  | viaddw (g : Guard) (u : VSlot) (vd va vb : BitVec 6) (q : BitVec 4) (ty : Ty) (hi : Bool)
  | vishl (g : Guard) (u : VSlot) (vd va vb : BitVec 6) (q : BitVec 4) (ty : Ty)
  | vishr (g : Guard) (u : VSlot) (vd va vb : BitVec 6) (q : BitVec 4) (ty : Ty)
  | visra (g : Guard) (u : VSlot) (vd va vb : BitVec 6) (q : BitVec 4) (ty : Ty)
  | vand (g : Guard) (u : VSlot) (vd va vb : BitVec 6) (q : BitVec 4)
  | vor (g : Guard) (u : VSlot) (vd va vb : BitVec 6) (q : BitVec 4)
  | vxor (g : Guard) (u : VSlot) (vd va vb : BitVec 6) (q : BitVec 4)
  | vnot (g : Guard) (u : VSlot) (vd va : BitVec 6) (q : BitVec 4)
  | vimin (g : Guard) (u : VSlot) (vd va vb : BitVec 6) (q : BitVec 4) (ty : Ty)
  | vimax (g : Guard) (u : VSlot) (vd va vb : BitVec 6) (q : BitVec 4) (ty : Ty)
  | viabs (g : Guard) (u : VSlot) (vd va : BitVec 6) (q : BitVec 4) (ty : Ty) (sat : Bool)
  | vicmp (g : Guard) (u : VSlot) (qd : BitVec 4) (c : Cond) (va vb : BitVec 6) (q : BitVec 4) (ty : Ty)
  | vpopc (g : Guard) (u : VSlot) (vd va : BitVec 6) (q : BitVec 4) (ty : Ty)
  | vclz (g : Guard) (u : VSlot) (vd va : BitVec 6) (q : BitVec 4) (ty : Ty)
  | viaddsat (g : Guard) (u : VSlot) (vd va vb : BitVec 6) (q : BitVec 4) (ty : Ty) (sub : Bool)
  | vsel (g : Guard) (u : VSlot) (vd va vb : BitVec 6) (q qs : BitVec 4)
  | vmov (g : Guard) (u : VSlot) (vd va : BitVec 6) (q : BitVec 4)
  | vmovi (g : Guard) (u : VSlot) (vd : BitVec 6) (q : BitVec 4) (imm : BitVec 10) (t : Bool)
  | vbcast (g : Guard) (u : VSlot) (vd sn : BitVec 6) (q : BitVec 4) (c : BitVec 2)
  | vext (g : Guard) (u : VSlot) (sd va : BitVec 6) (c : BitVec 2) (k : BitVec 8) (signed : Bool)
  | vins (g : Guard) (u : VSlot) (vd sn : BitVec 6) (q : BitVec 4) (c : BitVec 2) (k : BitVec 8)
  | vlsh (g : Guard) (vd va sn : BitVec 6) (q : BitVec 4) (ty : Ty) (rot : Bool)
  | vperm (g : Guard) (vd va vb : BitVec 6) (q : BitVec 4) (ty : Ty) (z : Bool)
  | vrev (g : Guard) (vd va : BitVec 6) (q : BitVec 4) (ty : Ty)
  | vzip (g : Guard) (vd va vb : BitVec 6) (q : BitVec 4) (ty : Ty) (hi : Bool)
  | vunzip (g : Guard) (vd va vb : BitVec 6) (q : BitVec 4) (ty : Ty) (odd : Bool)
  | vscan (g : Guard) (vd va : BitVec 6) (q : BitVec 4) (ty : Ty) (op : COp) (excl : Bool)
  | vred (g : Guard) (vd va : BitVec 6) (q : BitVec 4) (ty : Ty) (op : COp)
  | vqand (g : Guard) (u : VSlot) (qd qa qb : BitVec 4)
  | vqor (g : Guard) (u : VSlot) (qd qa qb : BitVec 4)
  | vqxor (g : Guard) (u : VSlot) (qd qa qb : BitVec 4)
  | vqnot (g : Guard) (u : VSlot) (qd qa : BitVec 4)
  | vqcnt (g : Guard) (u : VSlot) (sd : BitVec 6) (qa : BitVec 4)
  | vrcp (g : Guard) (vd va : BitVec 6) (q : BitVec 4)
  | vrsq (g : Guard) (vd va : BitVec 6) (q : BitVec 4)
  | vsqrt (g : Guard) (vd va : BitVec 6) (q : BitVec 4)
  | vdiv (g : Guard) (vd va vb : BitVec 6) (q : BitVec 4)
  | vexp2 (g : Guard) (vd va : BitVec 6) (q : BitVec 4)
  | vlog2 (g : Guard) (vd va : BitVec 6) (q : BitVec 4)
  -- the package's events (95_what_each_step_holds.md)
  | bringUp
  | bankRefreshDone (tile bank : Nat)
  | stopWindowEnd (tile : Nat)
  | refreshDeadlineMiss (tile bank : Nat)
  | pauseRefb (tile bank : Nat)
  | idleTileRefb (tile bank : Nat)
  | pauseResume (coach : Nat)
  | rdvTimeout (coach : Nat)
  | phaseSettle (coach : Nat)
  | strikeReport (tile frame sensor : Nat)
  | replayCloseDone (coach : Nat)
  | reloadDone (coach : Nat)
  | replayRestart (coach : Nat)
  | faultHoldExpiry (coach : Nat)
  | launchCompletion (coach : Nat)
  | dispatchDecision (coach : Nat)
  | queueTailWrite (fn q : Nat) (tail : BitVec 32)
  | queueEnable (fn q : Nat)
  | queueDisable (fn q : Nat)
  | registerWrite (fn off : Nat) (x : Word)
  | cplanWrite (fn coach : Nat) (x : Word)
  | hatboxKeepRequest (fn coach : Nat)
  | hatboxHandoffRequest (fn coach : Nat)
  | hatboxRestore (fn coach : Nat) (rec : Word)
  | apertureRead (fn off len : Nat)
  | apertureWrite (fn off : Nat) (data : List Byte)
  | farSessionProgram (fn row : Nat) (peer : BitVec 48) (proof : PeerProof) (ends : List (Nat × BitVec 48))
  | relayLoaderWork (coach : Nat)
  | noVariantTimeout (coach : Nat)
  | forecastPublish (pkgWords : List (Nat × Nat × Nat))
  | thermalModelRun (temps : List (Nat × Nat))
  | lifetimeCounterSave
  | fieldRecordRequest (first : Nat)
  | copyEngineColumn (coach tl num k : Nat)
  | engineVaultCommand (tile : Nat) (cmd : EngineCmd)
  | acopyComplete (coach tl num : Nat)
  | farOpComplete (coach tl num : Nat)
  | farmMemberWaitExpiry (coach tl num : Nat)
  | farFrameReceive (f : FarFrame)
  | tandemPushFlit (port : Nat) (f : Flit)
  | flitInject (port : Nat)
  | idleFlit (port : Nat) (f : Flit)
  | epochSync (port : Nat) (count : Nat)
  | startSync (port coach epoch variant : Nat)
  | conditionReport (coach : Nat) (r : Report)
  | retrainFlit (port : Nat) (half good : Bool)
  | startWaitTimeout (coach : Nat)
  | stopMessage (note : StopNote)
  | healthTestFailure
  deriving DecidableEq, Repr

end Sys2Proof
end

