-- ==== Sys2Proof/Config.lean ====
section
/-! DEFINITION. What the part fixes (constants of the rules) and the free values: constants with no body, which no proof
can evaluate. -/
namespace Sys2Proof.Config

/-- D, the settling delay in cyc (02 R51). -/
def settle : Nat := 4096
/-- Number of tiles (01 R13). -/
def tiles : Nat := 384
/-- Logical rows of a bank (01 R17) and physical rows with the spares (04 R104). -/
def rows : Nat := 8192
def physRows : Nat := 8256
/-- First address past the scratchpad (04 R97). -/
def spEnd : Nat := 0x200000
/-- Refresh groups of a bank (10 R236). -/
def refGroups : Nat := 1032
/-- Refresh interval of a class (10 Table 10-4); 0 for a class that is not 1, 2 or 4. -/
def interval : Nat → Nat
  | 1 => 37500 | 2 => 18750 | 4 => 9375 | _ => 0
/-- Vault timing (10 Table 10-2). -/
def tRCD : Nat := 12
def tRP : Nat := 12
def tRAS : Nat := 28
def tRC : Nat := 40
def tRRD : Nat := 2
def tFAW : Nat := 16
def tCCDL : Nat := 2
def tWR : Nat := 14
def tRTP : Nat := 4
def tWTR : Nat := 6
def tRFC : Nat := 96
/-- Digest key (11 R260). -/
def digestKey : BitVec 128 := 0x9E3779B97F4A7C15F39CC0605CEDC835#128
/-- Pads of short-class and long-class tandem links (08 R202). -/
def padShort : Nat := 1536
def padLong : Nat := 4096
/-- Shortest phase (02 R44). -/
def minPhase : Nat := 4096
/-- Cycles of an epoch (02 R63). -/
def epoch : Nat := 192
/-- Most replays of a phase (02 R52) and most journalled operations of a phase (04 R106). -/
def maxReplays : Nat := 3
def maxJournal : Nat := 1024
/-- Most accepted, uncompleted asynchronous operations of a tile (06 R159). -/
def maxOps : Nat := 32
/-- Wall cycles of one microsecond (00 R3: 1.2 GHz). -/
def cycPerUs : Nat := 1200

/-! ## Free values (notes/assumptions/4.md) -/

/-- Result of a table-mode `mmul` whose row is still being read when the fixed latency ends (03 R93 states no result). -/
opaque freeAcc : Nat → W32
/-- Flags of such an `mmul`. -/
opaque freeFlags : Nat → BitVec 6
/-- Is a push in flight at a stop delivered (17 R328 step 2: delivered whole or dropped whole)? -/
opaque freePush : Nat → Bool
/-- Which of the values that a host byte held in the span a copy delivers, by draw and byte (11 R258). -/
opaque freeIndex : Nat → Nat → Nat
/-- Value of a random draw of the security controller (12 R275, 14 R297, R299). -/
opaque freeRandom : Nat → BitVec 256
/-- ML-KEM-1024 (14 R297, named, not given): the ciphertext of an encapsulation to the key of a digest under a draw, and what
the holder of that key's pair opens from a ciphertext. -/
opaque kemCipher : BitVec 512 → BitVec 256 → BitVec 12544
opaque kemOpen : BitVec 512 → BitVec 12544 → BitVec 256
/-- AES-256-GCM (14 R297, 12 R275, named, not given): the keystream that a key and nonce give, by byte, and the tag of
associated data and ciphertext under them. -/
opaque gcmStream : BitVec 256 → BitVec 96 → Nat → Byte
opaque gcmTag : BitVec 256 → BitVec 96 → List Byte → List Byte → BitVec 128
/-- ML-DSA-87 (14 R297, R301, named, not given): the signature that the holder of a public key makes of a digest, and what
other bytes verify as one. -/
opaque dsaSig : List Byte → BitVec 512 → BitVec 37016
opaque dsaOther : List Byte → BitVec 512 → List Byte → Bool
/-- Public identity key and encapsulation key of this part, the same at every bring-up (01 R30, 14 R296). -/
opaque identityBits : BitVec 20736
opaque encapBits : BitVec 12544
/-- Does a certificate chain to the Quamor root held in the firmware, as one of a public key (14 R301)? -/
opaque certGood : List Byte → List Byte → Bool
/-- E8M0 scale of a far block with an element that is not finite (12 R277 states none). -/
opaque freeScale : List Nat → Nat
/-- Column that the aperture reads where its code fails (12 R279 states none). -/
opaque freeColumn : Nat → BitVec 2048
/-- SHA3-512 of the n-th configuration image, whose bytes the spec does not lay out (01 R31). -/
opaque cfgDigest : Nat → BitVec 512

end Sys2Proof.Config
end

