-- ==== Sys2Proof/WellFormed.lean ====
section
/-! DEFINITION. Which instructions are well formed: the ranges and reserved values that the loader refuses (05 R126,
18 Table 18-2 code 0x28), for slot operations; the index ranges of the package, for events. -/
namespace Sys2Proof

/-- Width in bits of a type (03 Table 3-1). -/
def Ty.width : Ty → Nat
  | .f32 | .s32 | .n32 => 32
  | .bf16 | .f16 | .s16 | .n16 => 16
  | .e4m3 | .e5m2 | .p2s8 | .s8 | .n8 => 8
  | .s64 | .n64 => 64

/-- Type set F of 07 R168. -/
def Ty.isF : Ty → Bool
  | .f32 | .bf16 | .f16 => true
  | _ => false

/-- Signed integer types (03 R76). -/
def Ty.signed : Ty → Bool
  | .s8 | .s16 | .s32 | .s64 => true
  | _ => false

/-- Type set I of 07 R168. -/
def Ty.isI : Ty → Bool
  | .s8 | .s16 | .s32 | .s64 | .n8 | .n16 | .n32 | .n64 => true
  | _ => false

/-- Type set N of 07 R168. -/
def Ty.isN (t : Ty) : Bool := t.isI && decide (t.width ≤ 32)

/-- 8-bit floating types of the matrix engine. -/
def Ty.isF8 : Ty → Bool
  | .e4m3 | .e5m2 => true
  | _ => false

/-- Types that take a block scale in the matrix engine (03 R91). -/
def Ty.scalable : Ty → Bool
  | .e4m3 | .e5m2 | .p2s8 => true
  | _ => false

/-- Number of lanes of a width code c, w = 8·2^c (07 R184). -/
def lanesOfCode (c : BitVec 2) : Nat := 256 / 2 ^ c.toNat

/-- A steer register number is 0 to 11 (05 Table 5-5). -/
def stOk (st : BitVec 4) : Bool := decide (st.toNat < 12)

/-- Legal compare destinations (05 R123, 04 R95). -/
def CmpDest.ok : CmpDest → Bool
  | .pair k => decide (k.toNat ≠ 0)
  | .steer n => stOk n

def tileOk (t : Nat) : Bool := decide (t < 384)
def bankOk (b : Nat) : Bool := decide (b < 32)
def coachOk (c : Nat) : Bool := decide (c < 16)
def portOk (p : Nat) : Bool := decide (p < 16)
def queueOk (q : Nat) : Bool := decide (q < 32768)
/-- Owner codes: virtual functions 0x00-0x7F, physical functions 0x80 and 0x81 (12 Table 12-1). -/
def fnOk (f : Nat) : Bool := decide (f < 130)

/-- Well-formedness of an instruction. -/
def Instr.wf : Instr → Bool
  | .prep _ st _ | .prepr _ st _ | .br _ st | .brn _ st | .jmp _ st => stOk st
  | .loop _ _ _ len => decide (len.toNat ≠ 0)
  | .lper _ _ per => decide (per.toNat ≠ 0)
  | .ftload _ _ mask => decide (mask.toNat ≠ 0)
  | .fclr _ fs => decide (fs.toNat ≠ 0)
  | .cmp _ d _ _ _ | .cmpi _ d _ _ _ | .scmp _ d _ _ _ | .scmpi _ d _ _ _ => d.ok
  | .ldgV _ _ _ _ _ ty | .stgV _ _ _ _ _ ty => decide (ty.width ≤ 32)
  | .mldb _ ty _ _ _ _ sb =>
    (ty.isF8 || ty == .p2s8 || ty == .s8 || ty == .bf16 || ty == .f16) && (!sb || ty.scalable)
  | .mmul _ _ _ _ _ _ aty bsel scA scB =>
    (aty.isF8 || aty == .s8 || aty == .bf16 || aty == .f16) && ((!bsel && !scA) || aty.isF8) && (!scB || aty.isF8)
  | .stop _ _ len => decide (len.toNat ≠ 0)
  | .vadd _ _ _ _ _ _ ty _ | .vsub _ _ _ _ _ _ ty _ | .vmul _ _ _ _ _ _ ty _ | .vfma _ _ _ _ _ _ ty _
  | .vfms _ _ _ _ _ _ ty _ | .vfnma _ _ _ _ _ _ ty _ | .vmin _ _ _ _ _ _ ty _ | .vmax _ _ _ _ _ _ ty _
  | .vabs _ _ _ _ _ ty | .vneg _ _ _ _ _ ty | .vcmp _ _ _ _ _ _ _ ty | .vclass _ _ _ _ _ ty
  | .vscale _ _ _ _ _ _ ty _ => ty.isF
  | .vtwosum _ _ vd _ _ _ ty => ty.isF && decide (vd.toNat ≠ 63)
  | .viadd _ _ _ _ _ _ ty | .visub _ _ _ _ _ _ ty | .vimul _ _ _ _ _ _ ty | .vimulh _ _ _ _ _ _ ty
  | .vishl _ _ _ _ _ _ ty | .vishr _ _ _ _ _ _ ty | .visra _ _ _ _ _ _ ty | .vimin _ _ _ _ _ _ ty
  | .vimax _ _ _ _ _ _ ty | .vicmp _ _ _ _ _ _ _ ty | .vpopc _ _ _ _ _ ty | .vclz _ _ _ _ _ ty
  | .viaddsat _ _ _ _ _ _ ty _ => ty.isI
  | .viaddw _ _ _ _ _ _ ty _ => ty.isN
  | .viabs _ _ _ _ _ ty _ => ty.signed
  | .vmovi _ _ _ _ imm t => !t || decide (imm.toNat < 256)
  | .vext _ _ _ _ c k _ | .vins _ _ _ _ _ c k => decide (k.toNat < lanesOfCode c)
  | .vscan _ _ _ _ ty op _ | .vred _ _ _ _ ty op => (ty.isI && op != .amax) || ty.isF
  | .bankRefreshDone t b | .refreshDeadlineMiss t b | .pauseRefb t b | .idleTileRefb t b => tileOk t && bankOk b
  | .stopWindowEnd t | .strikeReport t _ _ | .engineVaultCommand t _ => tileOk t
  | .pauseResume c | .rdvTimeout c | .phaseSettle c | .replayCloseDone c | .reloadDone c | .replayRestart c
  | .faultHoldExpiry c | .launchCompletion c | .dispatchDecision c | .relayLoaderWork c | .noVariantTimeout c
  | .startSync _ c _ _ | .conditionReport c _ | .startWaitTimeout c => coachOk c
  | .stopMessage n => coachOk n.coach
  | .cplanWrite f c _ | .hatboxKeepRequest f c | .hatboxHandoffRequest f c | .hatboxRestore f c _ => fnOk f && coachOk c
  | .queueTailWrite f q _ | .queueEnable f q | .queueDisable f q => fnOk f && queueOk q
  | .registerWrite f _ _ | .apertureRead f _ _ | .apertureWrite f _ _ => fnOk f
  | .farSessionProgram f r _ _ _ => fnOk f && decide (r < 1024)
  | .copyEngineColumn c tl _ _ | .acopyComplete c tl _ | .farOpComplete c tl _ | .farmMemberWaitExpiry c tl _ =>
    coachOk c && decide (tl < 8)
  | .tandemPushFlit p _ | .flitInject p | .idleFlit p _ | .epochSync p _ | .retrainFlit p _ _ => portOk p
  | _ => true

end Sys2Proof
end

