-- ==== Sys2Proof/Machine/Formats.lean ====
section
/-! DEFINITION. The number formats of 03: values, rounding, P2S8, E8M0, the carding table, and the exact arithmetic and
special functions of 07 on values. Lanes and elements are natural numbers below 2^width. -/
namespace Sys2Proof.Machine

/-- IEEE flags of 03 Table 3-8 as a 6-bit set. -/
abbrev Fl := BitVec 6
def IV : Fl := 0x01#6
def DZ : Fl := 0x02#6
def OF : Fl := 0x04#6
def UF : Fl := 0x08#6
def IX : Fl := 0x10#6
def RNF : Fl := 0x20#6

/-- A value an operation reads: NaN (signalling or not), an infinity, or the exact (-1)^neg * m * 2^e with a signed zero
(03 R69-R72). -/
inductive Val where
  | nan (sig : Bool)
  | inf (neg : Bool)
  | fin (neg : Bool) (m : Nat) (e : Int)
  deriving DecidableEq, Repr

def Val.isNaN : Val → Bool
  | .nan _ => true | _ => false
def Val.isSig : Val → Bool
  | .nan b => b | _ => false
def Val.isInf : Val → Bool
  | .inf _ => true | _ => false
def Val.isZero : Val → Bool
  | .fin _ m _ => m == 0 | _ => false
def Val.isFin : Val → Bool
  | .fin _ _ _ => true | _ => false
/-- The sign of a value that is no NaN. -/
def Val.sign : Val → Bool
  | .nan _ => false | .inf n => n | .fin n _ _ => n
def Val.neg : Val → Val
  | .nan b => .nan b | .inf n => .inf (!n) | .fin n m e => .fin (!n) m e
def Val.abs : Val → Val
  | .nan b => .nan b | .inf _ => .inf false | .fin _ m e => .fin false m e

/-! ## Floating-point fields (03 Table 3-2) -/

/-- Exponent bits of a floating-point type; 0 for another type. -/
def Ty.ebits : Ty → Nat
  | .f32 => 8 | .bf16 => 8 | .f16 => 5 | .e4m3 => 4 | .e5m2 => 5 | _ => 0
/-- Fraction bits of a floating-point type. -/
def Ty.mbits : Ty → Nat
  | .f32 => 23 | .bf16 => 7 | .f16 => 10 | .e4m3 => 3 | .e5m2 => 2 | _ => 0
def Ty.bias (t : Ty) : Nat := 2 ^ (Ty.ebits t - 1) - 1
/-- Is this a floating-point format of Table 3-2? -/
def Ty.isFloat : Ty → Bool
  | .f32 | .bf16 | .f16 | .e4m3 | .e5m2 => true | _ => false
/-- Encoding of the largest finite magnitude. -/
def Ty.maxFin : Ty → Nat
  | .f32 => 0x7F7FFFFF | .bf16 => 0x7F7F | .f16 => 0x7BFF | .e4m3 => 0x7E | .e5m2 => 0x7B | _ => 0
/-- Canonical NaN of a floating-point format (03 Table 3-3); a P2S8 or integer destination gives the value of Table 3-7. -/
def Ty.canonNaN : Ty → Nat
  | .f32 => 0x7FC00000 | .bf16 => 0x7FC0 | .f16 => 0x7E00 | .e4m3 => 0x7F | .e5m2 => 0x7E | .p2s8 => 0x77 | _ => 0
/-- Encoding of +infinity (03 Table 3-3). -/
def Ty.infCode : Ty → Nat
  | .f32 => 0x7F800000 | .bf16 => 0x7F80 | .f16 => 0x7C00 | .e5m2 => 0x7C | _ => 0

/-- Two's-complement reading of a w-bit natural number. -/
def toSigned (w n : Nat) : Int := if n < 2 ^ (w - 1) then (n : Int) else (n : Int) - (2 ^ w : Nat)
/-- The w low bits of an integer (00 Wrap). -/
def wrap (w : Nat) (x : Int) : Nat := (x % ((2 ^ w : Nat) : Int)).toNat
/-- An integer as a value. -/
def Val.ofInt (x : Int) : Val := .fin (decide (x < 0)) x.natAbs 0

/-- One term of a P2S8 nibble in units of 2^-6 (03 R73). -/
def p2Term (n : Nat) : Int :=
  let c := n % 8
  let t : Int := if c = 7 then 0 else ((64 / 2 ^ c : Nat) : Int)
  if n / 8 % 2 = 1 then -t else t
/-- Value of a P2S8 byte in units of 2^-6 (03 R73). -/
def p2Val (b : Nat) : Int := p2Term (b / 16) + p2Term (b % 16)

/-- Value of a float encoding (03 R69, R70). -/
def decodeFloat (t : Ty) (n : Nat) : Val :=
  let mb := Ty.mbits t
  let f := n % 2 ^ mb
  let e := n / 2 ^ mb % 2 ^ Ty.ebits t
  let s := n / 2 ^ (mb + Ty.ebits t) % 2 == 1
  let special := match t with
    | .e4m3 => e == 15 && f == 7
    | _ => e == 2 ^ Ty.ebits t - 1
  if special then
    match t with
    | .e4m3 => .nan false
    | _ => if f = 0 then .inf s else .nan (f < 2 ^ (mb - 1))
  else if e = 0 then .fin s f (1 - (Ty.bias t : Int) - mb)
  else .fin s (2 ^ mb + f) ((e : Int) - Ty.bias t - mb)

/-- ValueOf (07 R178): the value of a lane of any type. -/
def valueOf (t : Ty) (n : Nat) : Val :=
  match t with
  | .f32 | .bf16 | .f16 | .e4m3 | .e5m2 => decodeFloat t n
  | .p2s8 => let v := p2Val n; .fin (decide (v < 0)) v.natAbs (-6)
  | .s8 | .s16 | .s32 | .s64 => .ofInt (toSigned t.width n)
  | .n8 | .n16 | .n32 | .n64 => .fin false n 0

/-! ## Rounding (03 R82, R83) -/

/-- Does the mode choose Hi, for the discarded part rem of 2^d and the parity of Lo (03 Table 3-6)? -/
def chooseHi (mode : RMode) (thr rem d : Nat) (odd : Bool) : Bool :=
  match mode with
  | .rtz => false
  | .dith => decide (rem ≠ 0 ∧ rem * 256 + thr * 2 ^ d ≥ 256 * 2 ^ d)
  | _ => decide (2 * rem > 2 ^ d) || (decide (2 * rem = 2 ^ d) && odd)

/-- |x| = m * 2^e as a multiple of 2^q: the chosen multiple and whether it is exact. -/
def roundAt (mode : RMode) (thr m : Nat) (e q : Int) : Nat × Bool :=
  if q ≤ e then (m * 2 ^ (e - q).toNat, true)
  else
    let d := (q - e).toNat
    let lo := m / 2 ^ d
    let rem := m % 2 ^ d
    (if chooseHi mode thr rem d (lo % 2 == 1) then lo + 1 else lo, rem == 0)

/-- Sign bit of a float encoding. -/
def signBit (t : Ty) (s : Bool) : Nat := if s then 2 ^ (Ty.mbits t + Ty.ebits t) else 0

/-- Rounding of a finite nonzero magnitude to a float encoding without its sign, with its flags (03 R83, Table 3-7). -/
def roundMag (t : Ty) (mode : RMode) (thr m : Nat) (e : Int) : Nat × Fl :=
  let mb : Int := Ty.mbits t
  let qmin : Int := 1 - Ty.bias t - mb
  let q : Int := max ((Nat.log2 m : Int) + e - mb) qmin
  let (n, exact) := roundAt mode thr m e q
  let bits := (q - qmin).toNat * 2 ^ Ty.mbits t + n
  if bits > Ty.maxFin t then
    let toInf := t ≠ .e4m3 ∧ (mode = .rne ∨ mode = .ef)
    (if toInf then Ty.infCode t else Ty.maxFin t, OF ||| IX)
  else if exact then (bits, 0#6)
  else (bits, if bits < 2 ^ Ty.mbits t then IX ||| UF else IX)

/-- The numerically smallest byte of value v whose sign1 is the sign of v (03 R74). -/
def p2Canon (v : Int) : Nat :=
  if v = 0 then 0x77
  else
    let base := if v < 0 then 128 else 0
    match (List.range 128).find? (fun k => p2Val (base + k) == v) with
    | some k => base + k
    | none => 0x77
/-- Is the magnitude, in units of 2^-6, a P2S8 magnitude? -/
def p2Rep (n : Nat) : Bool := n == 0 || p2Val (p2Canon n) == (n : Int)
/-- Number of nonzero terms of an encoding. -/
def p2Terms (b : Nat) : Nat := (if p2Term (b / 16) = 0 then 0 else 1) + (if p2Term (b % 16) = 0 then 0 else 1)
/-- Largest P2S8 magnitude at or below n. -/
def p2Lo : Nat → Nat
  | 0 => 0
  | n + 1 => if p2Rep (n + 1) then n + 1 else p2Lo n
/-- Smallest P2S8 magnitude above n, searched over `fuel` units. -/
def p2Hi (n : Nat) : Nat → Nat
  | 0 => 128
  | k + 1 => if p2Rep (n + 1) then n + 1 else p2Hi (n + 1) k

/-- Rounding of a finite value to P2S8 (03 R75, R83): the value in units of 2^-6 and its flags. -/
def roundP2 (mode : RMode) (thr : Nat) (neg : Bool) (m : Nat) (e : Int) : Nat × Fl :=
  let sgn (n : Nat) : Int := if neg then -(n : Int) else (n : Int)
  -- |x| in units of 2^-6 is m * 2^(e+6)
  let k : Int := e + 6
  let d := (-k).toNat
  let num := m * 2 ^ k.toNat           -- |x| = num / 2^d units
  if num > 128 * 2 ^ d then (p2Canon (sgn 128), OF ||| IX)
  else
    let lo := p2Lo (num / 2 ^ d)
    if num = lo * 2 ^ d then (p2Canon (sgn lo), 0#6)
    else
      let hi := p2Hi lo 128
      let rem := num - lo * 2 ^ d
      let span := (hi - lo) * 2 ^ d
      let up := match mode with
        | .rtz => false
        | .dith => decide (rem * 256 + thr * span ≥ 256 * span)
        | _ => decide (2 * rem > span) ||
            (decide (2 * rem = span) && decide (p2Terms (p2Canon (sgn hi)) < p2Terms (p2Canon (sgn lo))))
      let r := if up then hi else lo
      (p2Canon (sgn r), if r = 0 then IX ||| UF else IX)

/-- Least and greatest value of an integer type. -/
def Ty.intMin (t : Ty) : Int := if t.signed then -((2 ^ (t.width - 1) : Nat) : Int) else 0
def Ty.intMax (t : Ty) : Int := if t.signed then ((2 ^ (t.width - 1) : Nat) : Int) - 1 else ((2 ^ t.width : Nat) : Int) - 1

/-- Rounding of a finite value to an integer type (03 Table 3-7). -/
def roundInt (t : Ty) (mode : RMode) (thr : Nat) (neg : Bool) (m : Nat) (e : Int) : Nat × Fl :=
  let (n, exact) := roundAt mode thr m e 0
  let v : Int := if neg then -(n : Int) else (n : Int)
  if v < Ty.intMin t then (wrap t.width (Ty.intMin t), IV)
  else if v > Ty.intMax t then (wrap t.width (Ty.intMax t), IV)
  else (wrap t.width v, if exact then 0#6 else IX)

/-- RoundTo (03 R82, R83): encoding and flags. -/
def roundTo (t : Ty) (mode : RMode) (thr : Nat) (x : Val) : Nat × Fl :=
  match t with
  | .f32 | .bf16 | .f16 | .e4m3 | .e5m2 =>
    match x with
    | .nan s => (Ty.canonNaN t, if s then IV else 0#6)
    | .inf n =>
      if mode = .sat then (signBit t n + Ty.maxFin t, OF ||| IX)
      else if t = .e4m3 then (0x7F, IV)
      else (signBit t n + Ty.infCode t, 0#6)
    | .fin n m e =>
      if m = 0 then (signBit t n, 0#6)
      else let (b, f) := roundMag t mode thr m e; (signBit t n + b, f)
  | .p2s8 =>
    match x with
    | .nan _ => (0x77, IV)
    | .inf n => (p2Canon (if n then -128 else 128), if mode = .sat then OF ||| IX else IV)
    | .fin n m e => roundP2 mode thr n m e
  | .s8 | .s16 | .s32 | .s64 | .n8 | .n16 | .n32 | .n64 =>
    match x with
    | .nan _ => (0, IV)
    | .inf n => (wrap t.width (if n then Ty.intMin t else Ty.intMax t), IV)
    | .fin n m e => roundInt t mode thr n m e

/-- RoundNE (00, 03 R82). -/
def roundNE (t : Ty) (x : Val) : Nat × Fl := roundTo t .rne 0 x

/-! ## Exact arithmetic (07 R171, R172) -/

/-- The signed integer of a finite value in units of 2^e0, for e0 at most its exponent. -/
def scaled (neg : Bool) (m : Nat) (e e0 : Int) : Int :=
  let n : Int := ((m * 2 ^ (e - e0).toNat : Nat) : Int)
  if neg then -n else n

/-- Exact sum of two finite values with the zero sign of R171. -/
def addFin (n1 : Bool) (m1 : Nat) (e1 : Int) (n2 : Bool) (m2 : Nat) (e2 : Int) : Val :=
  let e0 := min e1 e2
  let r := scaled n1 m1 e1 e0 + scaled n2 m2 e2 e0
  if r = 0 then .fin (n1 && n2 && m1 == 0 && m2 == 0) 0 0
  else .fin (decide (r < 0)) r.natAbs e0

/-- Invalid raised by reading the signalling NaNs of the operands (03 R71). -/
def sigFl (xs : List Val) : Fl := if xs.any Val.isSig then IV else 0#6

/-- Exact sum: value and invalid flag (07 R171). -/
def addV (a b : Val) : Val × Fl :=
  match a, b with
  | .fin n1 m1 e1, .fin n2 m2 e2 => (addFin n1 m1 e1 n2 m2 e2, 0#6)
  | .inf n1, .inf n2 => if n1 = n2 then (.inf n1, 0#6) else (.nan false, IV)
  | .nan s, y => (.nan false, if s || y.isSig then IV else 0#6)
  | x, .nan s => (.nan false, if s || x.isSig then IV else 0#6)
  | .inf n, _ => (.inf n, 0#6)
  | _, .inf n => (.inf n, 0#6)

/-- Exact product: value and invalid flag (07 R171). -/
def mulV (a b : Val) : Val × Fl :=
  match a, b with
  | .fin n1 m1 e1, .fin n2 m2 e2 => (.fin (n1 != n2) (m1 * m2) (e1 + e2), 0#6)
  | .nan s, y => (.nan false, if s || y.isSig then IV else 0#6)
  | x, .nan s => (.nan false, if s || x.isSig then IV else 0#6)
  | .inf n1, y => if y.isZero then (.nan false, IV) else (.inf (n1 != y.sign), 0#6)
  | x, .inf n2 => if x.isZero then (.nan false, IV) else (.inf (x.sign != n2), 0#6)

/-- Exact d + a * b; invalid even when d is a quiet NaN (07 R171). -/
def fmaV (d a b : Val) : Val × Fl :=
  let (p, f1) := mulV a b
  let (r, f2) := addV d p
  (r, f1 ||| f2)

/-- Order of two values that are no NaN: is a < b? Zeros compare equal. -/
def ltV (a b : Val) : Bool :=
  match a, b with
  | .inf n1, .inf n2 => n1 && !n2
  | .inf n, _ => n
  | _, .inf n => !n
  | .fin n1 m1 e1, .fin n2 m2 e2 =>
    let e0 := min e1 e2
    decide (scaled n1 m1 e1 e0 < scaled n2 m2 e2 e0)
  | _, _ => false
def eqV (a b : Val) : Bool :=
  match a, b with
  | .nan _, _ => false
  | _, .nan _ => false
  | _, _ => !ltV a b && !ltV b a

/-- Order with -0 below +0 (07 R172). -/
def ltZ (a b : Val) : Bool := ltV a b || (a.isZero && b.isZero && a.sign && !b.sign)

/-- minimum, maximum and their number forms (07 R172): value and invalid flag. -/
def minMaxV (isMax num : Bool) (a b : Val) : Val × Fl :=
  let f := sigFl [a, b]
  let pick := if isMax then (if ltZ a b then b else a) else (if ltZ b a then b else a)
  if a.isNaN && b.isNaN then (.nan false, f)
  else if a.isNaN then (if num then b else .nan false, f)
  else if b.isNaN then (if num then a else .nan false, f)
  else (pick, f)

/-- vcmp (07 Table 7-5): condition and invalid flag. -/
def fcmpV (c : FCond) (a b : Val) : Bool × Fl :=
  let un := a.isNaN || b.isNaN
  let sig := sigFl [a, b]
  let any : Fl := if un then IV else 0#6
  match c with
  | .eq => (eqV a b, sig)
  | .ne => (!eqV a b, sig)
  | .lt => (!un && ltV a b, any)
  | .ge => (!un && !ltV a b, any)
  | .le => (!un && !ltV b a, any)
  | .gt => (!un && ltV b a, any)
  | .un => (un, sig)

/-- Class mask of a lane (07 R176). -/
def classV (t : Ty) (n : Nat) : Nat :=
  match decodeFloat t n with
  | .nan s => if s then 2 ^ 8 else 2 ^ 9
  | .inf s => if s then 1 else 2 ^ 7
  | .fin s m _ =>
    if m = 0 then (if s then 2 ^ 3 else 2 ^ 4)
    else if m < 2 ^ Ty.mbits t then (if s then 2 ^ 2 else 2 ^ 5)
    else (if s then 2 ^ 1 else 2 ^ 6)

/-- Multiplication by 2^k. -/
def Val.scaleBy (x : Val) (k : Int) : Val :=
  match x with
  | .fin n m e => .fin n m (e + k)
  | y => y

/-! ## Special functions (07 R190). A result that is not exact is given as twice a floor plus one, with at least 60 bits
below the destination's last place: it rounds, under RNE, as the exact value does (notes/assumptions/6.md). -/

/-- Integer square root, deciding bits k-1 to 0. -/
def isqrtGo (n : Nat) : Nat → Nat → Nat
  | 0, r => r
  | k + 1, r => isqrtGo n k (if (r + 2 ^ k) * (r + 2 ^ k) ≤ n then r + 2 ^ k else r)
def isqrt (n : Nat) : Nat := isqrtGo n (Nat.log2 n / 2 + 1) 0

/-- Floor with a sticky half: 2q + 1 when inexact. -/
def stick (q : Nat) (exact : Bool) : Nat := if exact then 2 * q else 2 * q + 1

/-- Square root of m * 2^e. -/
def sqrtFin (m : Nat) (e : Int) : Val :=
  let odd := e % 2 = 1
  let m' := (if odd then 2 * m else m) * 2 ^ 160
  let e' := (if odd then e - 1 else e) - 160
  let r := isqrt m'
  .fin false (stick r (r * r == m')) (e' / 2 - 1)
/-- Reciprocal square root of m * 2^e. -/
def rsqrtFin (m : Nat) (e : Int) : Val :=
  let odd := e % 2 = 1
  let m' := if odd then 2 * m else m
  let e' := if odd then e - 1 else e
  let r := isqrt (2 ^ 256 / m')
  .fin false (stick r (r * r * m' == 2 ^ 256)) (-(e' / 2) - 128 - 1)
/-- Quotient of two finite nonzero magnitudes. -/
def divFin (n : Bool) (m1 : Nat) (e1 : Int) (m2 : Nat) (e2 : Int) : Val :=
  let a := m1 * 2 ^ 128
  .fin n (stick (a / m2) (a % m2 == 0)) (e1 - e2 - 128 - 1)

/-- ln 2 in units of 2^-192. -/
def ln2 : Nat := 0xB17217F7D1CF79ABC9E3B39803F2F6AF40F343267298B62D
/-- Sum of the series of exp(x) in units of 2^-192: `k` terms from term number `i`. -/
def expSeries (x : Nat) : Nat → Nat → Nat → Nat
  | 0, _, _ => 0
  | k + 1, i, t => t + expSeries x k (i + 1) (t * x / 2 ^ 192 / (i + 1))
/-- 2^a for a finite a below 128. -/
def exp2Fin (n : Bool) (m : Nat) (e : Int) : Val :=
  let a : Int := scaled n m e (-192)
  if a < -(256 * 2 ^ 192) then .fin false 1 (-256)
  else
    let i := a / 2 ^ 192
    let f := (a % 2 ^ 192).toNat
    if f = 0 then .fin false 1 i
    else .fin false (2 * expSeries (f * ln2 / 2 ^ 192) 64 0 (2 ^ 192) + 1) (i - 193)

/-- `k` bits of log2 y for y in [1, 2) in units of 2^-192. -/
def log2Bits : Nat → Nat → Nat → Nat
  | 0, _, acc => acc
  | k + 1, y, acc =>
    let z := y * y / 2 ^ 192
    if z ≥ 2 ^ 193 then log2Bits k (z / 2) (2 * acc + 1) else log2Bits k z (2 * acc)
/-- log2 of a positive m * 2^e. -/
def log2Fin (m : Nat) (e : Int) : Val :=
  let k := Nat.log2 m
  let int : Int := (k : Int) + e
  if m = 2 ^ k then .ofInt int
  else
    let fr := log2Bits 128 (m * 2 ^ (192 - k)) 0
    let tot : Int := 2 * (int * 2 ^ 128 + fr) + 1
    .fin (decide (tot < 0)) tot.natAbs (-129)

/-- 1/a (07 Table 7-9). -/
def rcpV : Val → Val × Fl
  | .nan s => (.nan false, if s then IV else 0#6)
  | .inf n => (.fin n 0 0, 0#6)
  | .fin n m e => if m = 0 then (.inf n, DZ) else (divFin n 1 0 m e, 0#6)
/-- 1/sqrt a. -/
def rsqV : Val → Val × Fl
  | .nan s => (.nan false, if s then IV else 0#6)
  | .inf n => if n then (.nan false, IV) else (.fin false 0 0, 0#6)
  | .fin n m e => if m = 0 then (.inf n, DZ) else if n then (.nan false, IV) else (rsqrtFin m e, 0#6)
/-- sqrt a. -/
def sqrtV : Val → Val × Fl
  | .nan s => (.nan false, if s then IV else 0#6)
  | .inf n => if n then (.nan false, IV) else (.inf false, 0#6)
  | .fin n m e => if m = 0 then (.fin n 0 0, 0#6) else if n then (.nan false, IV) else (sqrtFin m e, 0#6)
/-- a/b. -/
def divV (a b : Val) : Val × Fl :=
  match a, b with
  | .nan s, y => (.nan false, if s || y.isSig then IV else 0#6)
  | x, .nan s => (.nan false, if s || x.isSig then IV else 0#6)
  | .inf _, .inf _ => (.nan false, IV)
  | .inf n, y => (.inf (n != y.sign), 0#6)
  | x, .inf n => (.fin (x.sign != n) 0 0, 0#6)
  | .fin n1 m1 e1, .fin n2 m2 e2 =>
    if m2 = 0 then (if m1 = 0 then (.nan false, IV) else (.inf (n1 != n2), DZ))
    else if m1 = 0 then (.fin (n1 != n2) 0 0, 0#6)
    else (divFin (n1 != n2) m1 e1 m2 e2, 0#6)
/-- 2^a; a at or above 128 gives +infinity with overflow and inexact. -/
def exp2V : Val → Val × Fl
  | .nan s => (.nan false, if s then IV else 0#6)
  | .inf n => (if n then .fin false 0 0 else .inf false, 0#6)
  | .fin n m e =>
    if !n && decide (scaled false m e (-192) ≥ 128 * 2 ^ 192) then (.inf false, OF ||| IX)
    else (exp2Fin n m e, 0#6)
/-- log2 a. -/
def log2V : Val → Val × Fl
  | .nan s => (.nan false, if s then IV else 0#6)
  | .inf n => if n then (.nan false, IV) else (.inf false, 0#6)
  | .fin n m e => if m = 0 then (.inf true, DZ) else if n then (.nan false, IV) else (log2Fin m e, 0#6)

/-! ## Carding table and error feedback (03 R84-R86) -/

/-- T(y, x) of R85. -/
def carding (y x : Nat) : Nat :=
  let b (n k : Nat) : Nat := n / 2 ^ k % 2
  let t (k : Nat) : Nat := (2 * ((b x k + b y k) % 2) + b y k) * 4 ^ (3 - k)
  t 0 + t 1 + t 2 + t 3

/-- One lane of R84: the output, its flags and the residual passed on. A residual of 0 leaves x as it is, so a zero keeps
its sign; where x and the residual cancel exactly the zero is positive. A lane that saturates to an integer type with IV counts as one that
has overflowed, so that no residual follows it. All are the model's choice (notes/assumptions/7.md). -/
def efLane (t : Ty) (x : Val) (res : Val) : Nat × Fl × Val :=
  let y := if res.isZero then x else (addV x res).1
  let yf : Fl := if x.isSig then IV else 0#6
  let (o, f) := roundTo t .rne 0 y
  let sat := (f &&& OF) ≠ 0#6 ∨ (f &&& IV) ≠ 0#6
  let res' := if y.isFin && !decide sat then (addV y (valueOf t o).neg).1 else .fin false 0 0
  (o, f ||| yf, res')

/-- R84 over a list of lanes (value, enabled), i the number of the first: outputs with their flags. -/
def efLanes (t : Ty) : Nat → Val → List (Val × Bool) → List (Nat × Fl)
  | _, _, [] => []
  | i, res, (x, en) :: r =>
    let res := if i % 32 = 0 then .fin false 0 0 else res
    if en then
      let (o, f, res') := efLane t x res
      (o, f) :: efLanes t (i + 1) res' r
    else (0, 0#6) :: efLanes t (i + 1) res r

end Sys2Proof.Machine
end

