-- ==== Sys2Proof/Decode.lean ====
section
/-! DEFINITION. Decoding of code words (05 R111) and of slot words (05 R120, R122-R125), total on any bits and refusing
by name, and after it the encoder, from the same tables. -/
namespace Sys2Proof

/-- Why bits are no instruction; the codes are those of 18 Table 18-2. -/
inductive DecodeErr where
  /-- 0x20: reserved code word. -/
  | reservedCodeWord
  /-- 0x25: reserved opcode in an enabled slot. -/
  | reservedOpcode
  /-- 0x26: a vector opcode in a slot that does not admit it. -/
  | wrongVectorSlot
  /-- 0x27: a bit that the layout leaves unnamed, or that a rule requires to be zero, is 1. -/
  | unnamedBits
  /-- 0x28: a register or field value outside its range, or a reserved value. -/
  | badValue
  deriving DecidableEq, Repr

/-- Image refusal code of a decoding error (18 Table 18-2). -/
def DecodeErr.code : DecodeErr → Nat
  | .reservedCodeWord => 0x20
  | .reservedOpcode => 0x25
  | .wrongVectorSlot => 0x26
  | .unnamedBits => 0x27
  | .badValue => 0x28

/-! ## Codes of the enumerated fields -/

/-- 03 Table 3-1. -/
def Ty.code : Ty → BitVec 4
  | .f32 => 0#4 | .bf16 => 1#4 | .f16 => 2#4 | .e4m3 => 3#4 | .e5m2 => 4#4 | .p2s8 => 5#4 | .s8 => 6#4
  | .s16 => 7#4 | .s32 => 8#4 | .s64 => 9#4 | .n8 => 10#4 | .n16 => 11#4 | .n32 => 12#4 | .n64 => 13#4

/-- 03 Table 3-1; codes 0xE and 0xF are reserved (R68). -/
def Ty.ofCode (c : BitVec 4) : Option Ty :=
  match c.toNat with
  | 0 => some .f32 | 1 => some .bf16 | 2 => some .f16 | 3 => some .e4m3 | 4 => some .e5m2 | 5 => some .p2s8
  | 6 => some .s8 | 7 => some .s16 | 8 => some .s32 | 9 => some .s64 | 10 => some .n8 | 11 => some .n16
  | 12 => some .n32 | 13 => some .n64 | _ => none

/-- 03 Table 3-6. -/
def RMode.code : RMode → BitVec 3
  | .rne => 0#3 | .rtz => 1#3 | .sat => 2#3 | .ef => 3#3 | .dith => 4#3

/-- 03 Table 3-6; codes 0b101 to 0b111 are reserved. -/
def RMode.ofCode (c : BitVec 3) : Option RMode :=
  match c.toNat with
  | 0 => some .rne | 1 => some .rtz | 2 => some .sat | 3 => some .ef | 4 => some .dith | _ => none

/-- 06 Table 6-3. -/
def Cond.code : Cond → BitVec 3
  | .eq => 0#3 | .ne => 1#3 | .lt => 2#3 | .ge => 3#3 | .le => 4#3 | .gt => 5#3

def Cond.ofCode (c : BitVec 3) : Option Cond :=
  match c.toNat with
  | 0 => some .eq | 1 => some .ne | 2 => some .lt | 3 => some .ge | 4 => some .le | 5 => some .gt | _ => none

/-- 07 Table 7-5. -/
def FCond.code : FCond → BitVec 3
  | .eq => 0#3 | .ne => 1#3 | .lt => 2#3 | .ge => 3#3 | .le => 4#3 | .gt => 5#3 | .un => 6#3

def FCond.ofCode (c : BitVec 3) : Option FCond :=
  match c.toNat with
  | 0 => some .eq | 1 => some .ne | 2 => some .lt | 3 => some .ge | 4 => some .le | 5 => some .gt | 6 => some .un
  | _ => none

/-- The vb field of a scan or reduction (07 Table 7-2). -/
def COp.code : COp → BitVec 6
  | .add => 0#6 | .max => 1#6 | .min => 2#6 | .amax => 3#6

def COp.ofCode (c : BitVec 6) : Option COp :=
  match c.toNat with
  | 0 => some .add | 1 => some .max | 2 => some .min | 3 => some .amax | _ => none

/-- The sd field of a compare (05 R123). -/
def CmpDest.code : CmpDest → BitVec 6
  | .pair k => 0#2 ++ k
  | .steer n => 2#2 ++ n

def CmpDest.ofCode (c : BitVec 6) : Option CmpDest :=
  match (c.extractLsb' 4 2).toNat with
  | 0 => some (.pair (c.extractLsb' 0 4))
  | 2 => some (.steer (c.extractLsb' 0 4))
  | _ => none

/-- Bits [24:14] of a `loop` (05 Table 5-5). -/
def LoopCount.code : LoopCount → BitVec 11
  | .imm cnt => 0#1 ++ cnt
  | .reg sc => 1#1 ++ (0#4 ++ sc)

def LoopCount.ofCode (c : BitVec 11) : LoopCount :=
  if c.extractLsb' 10 1 = 1#1 then .reg (c.extractLsb' 0 6) else .imm (c.extractLsb' 0 10)

/-- Bits [18:9] of a `rdv` (05 Table 5-5). -/
def RdvCond.code : RdvCond → BitVec 10
  | .always => 0#10
  | .level tl sv => tl ++ (sv ++ 1#1)

def RdvCond.ofCode (c : BitVec 10) : RdvCond :=
  if c.extractLsb' 0 1 = 1#1 then .level (c.extractLsb' 7 3) (c.extractLsb' 1 6) else .always

/-- One bit. -/
def bit (b : Bool) : BitVec 1 := if b then 1#1 else 0#1
/-- Bits [2:1] of a 3-bit code. -/
def hi2 (c : BitVec 3) : BitVec 2 := c.extractLsb' 1 2
/-- Bit [0] of a 3-bit code. -/
def lo1 (c : BitVec 3) : BitVec 1 := c.extractLsb' 0 1
/-- Bits [lo + n - 1 : lo] of a slot word. -/
def fld (w : SlotWord) (lo n : Nat) : BitVec n := w.extractLsb' lo n
/-- Bit [k] of a slot word. -/
def flag (w : SlotWord) (k : Nat) : Bool := w.getLsbD k

/-- A slot word (05 R120): gn, gp, opcode, operands. -/
def Guard.pack {n : Nat} (g : Guard) (op : BitVec 7) (operands : BitVec n) : SlotWord :=
  (bit g.neg ++ (g.p ++ (op ++ operands))).setWidth 40

/-- Guard of a slot word. -/
def guardOf (w : SlotWord) : Guard := { neg := flag w 39, p := fld w 34 5 }

/-! ## The encoder -/

/-- The vector slot as a slot. -/
def VSlot.slot : VSlot → Slot
  | .va => .VA
  | .vb => .VB

/-- The 40 bits of a slot operation (05 Tables 5-4 to 5-8, 07 Tables 7-1, 7-2, 7-7, 09 Table 9-10, 10 Table 10-3);
code words and events have none. -/
def encodeSlot : Instr → SlotWord
  | .prep g st target => g.pack 1#7 (st ++ (0#6 ++ target))
  | .prepr g st sa => g.pack 2#7 (st ++ (0#2 ++ (sa ++ 0#15)))
  | .br g st => g.pack 3#7 (st ++ 0#23)
  | .brn g st => g.pack 4#7 (st ++ 0#23)
  | .jmp g st => g.pack 5#7 (st ++ 0#23)
  | .loop g l count len => g.pack 6#7 (l ++ (count.code ++ len))
  | .lper g l per => g.pack 7#7 (l ++ (0#9 ++ per))
  | .lbrk g l => g.pack 8#7 (l ++ 0#25)
  | .commit g rl os => g.pack 9#7 (rl ++ (os ++ 0#15))
  | .relay g => g.pack 10#7 (0#27)
  | .rdv g id cond => g.pack 11#7 (id ++ (cond.code ++ 0#9))
  | .tlsig g tl => g.pack 12#7 (tl ++ 0#24)
  | .tlrd g sd tl => g.pack 13#7 (sd ++ (tl ++ 0#18))
  | .acopyIn g tl sh sv sn => g.pack 14#7 (0#1 ++ (sh ++ (sv ++ (sn ++ (tl ++ 0#5)))))
  | .acopyOut g tl sh sv sn => g.pack 14#7 (1#1 ++ (sh ++ (sv ++ (sn ++ (tl ++ 0#5)))))
  | .farxSend g tl sd => g.pack 15#7 (0#3 ++ (sd ++ (tl ++ 0#15)))
  | .farxRecv g tl sd => g.pack 15#7 (1#3 ++ (sd ++ (tl ++ 0#15)))
  | .farmSum g tl sd => g.pack 16#7 (0#3 ++ (sd ++ (tl ++ 0#15)))
  | .farmGather g tl sd => g.pack 16#7 (1#3 ++ (sd ++ (tl ++ 0#15)))
  | .farmBcast g tl sd => g.pack 16#7 (2#3 ++ (sd ++ (tl ++ 0#15)))
  | .ftload g sa mask => g.pack 17#7 (sa ++ (0#5 ++ mask))
  | .fclr g fs => g.pack 18#7 (fs ++ 0#23)
  | .rdsys g sd idx => g.pack 19#7 (sd ++ (0#11 ++ idx))
  | .wrsys g sa idx => g.pack 20#7 (0#6 ++ (sa ++ (0#5 ++ idx)))
  | .trap g k => g.pack 21#7 (0#11 ++ k)
  | .add g sd sa sb => g.pack 1#7 (sd ++ (sa ++ (sb ++ 0#9)))
  | .sub g sd sa sb => g.pack 2#7 (sd ++ (sa ++ (sb ++ 0#9)))
  | .mul g sd sa sb => g.pack 3#7 (sd ++ (sa ++ (sb ++ 0#9)))
  | .mulh g sd sa sb => g.pack 4#7 (sd ++ (sa ++ (sb ++ 0#9)))
  | .mulhn g sd sa sb => g.pack 5#7 (sd ++ (sa ++ (sb ++ 0#9)))
  | .divs g sd sa sb => g.pack 6#7 (sd ++ (sa ++ (sb ++ 0#9)))
  | .divn g sd sa sb => g.pack 7#7 (sd ++ (sa ++ (sb ++ 0#9)))
  | .rems g sd sa sb => g.pack 8#7 (sd ++ (sa ++ (sb ++ 0#9)))
  | .remn g sd sa sb => g.pack 9#7 (sd ++ (sa ++ (sb ++ 0#9)))
  | .and g sd sa sb => g.pack 10#7 (sd ++ (sa ++ (sb ++ 0#9)))
  | .or g sd sa sb => g.pack 11#7 (sd ++ (sa ++ (sb ++ 0#9)))
  | .xor g sd sa sb => g.pack 12#7 (sd ++ (sa ++ (sb ++ 0#9)))
  | .andn g sd sa sb => g.pack 13#7 (sd ++ (sa ++ (sb ++ 0#9)))
  | .shl g sd sa sb => g.pack 14#7 (sd ++ (sa ++ (sb ++ 0#9)))
  | .shr g sd sa sb => g.pack 15#7 (sd ++ (sa ++ (sb ++ 0#9)))
  | .sra g sd sa sb => g.pack 16#7 (sd ++ (sa ++ (sb ++ 0#9)))
  | .rotl g sd sa sb => g.pack 17#7 (sd ++ (sa ++ (sb ++ 0#9)))
  | .min g sd sa sb => g.pack 18#7 (sd ++ (sa ++ (sb ++ 0#9)))
  | .max g sd sa sb => g.pack 19#7 (sd ++ (sa ++ (sb ++ 0#9)))
  | .minn g sd sa sb => g.pack 20#7 (sd ++ (sa ++ (sb ++ 0#9)))
  | .maxn g sd sa sb => g.pack 21#7 (sd ++ (sa ++ (sb ++ 0#9)))
  | .clz g sd sa => g.pack 22#7 (sd ++ (sa ++ 0#15))
  | .ctz g sd sa => g.pack 23#7 (sd ++ (sa ++ 0#15))
  | .popc g sd sa => g.pack 24#7 (sd ++ (sa ++ 0#15))
  | .mov g sd sa => g.pack 28#7 (sd ++ (sa ++ 0#15))
  | .sext g sd sa n => g.pack 25#7 (sd ++ (sa ++ (0#6 ++ (0#3 ++ n))))
  | .zext g sd sa n => g.pack 26#7 (sd ++ (sa ++ (0#6 ++ (0#3 ++ n))))
  | .sel g sd sa sb inv k => g.pack 27#7 (sd ++ (sa ++ (sb ++ (0#3 ++ ((bit inv) ++ k)))))
  | .movi g sd imm => g.pack 29#7 (sd ++ imm)
  | .ins16 g sd imm j => g.pack 30#7 (sd ++ (imm ++ (j ++ 0#3)))
  | .addi g sd sa imm => g.pack 31#7 (sd ++ (sa ++ imm))
  | .andi g sd sa imm => g.pack 32#7 (sd ++ (sa ++ imm))
  | .ori g sd sa imm => g.pack 33#7 (sd ++ (sa ++ imm))
  | .xori g sd sa imm => g.pack 34#7 (sd ++ (sa ++ imm))
  | .shli g sd sa k => g.pack 35#7 (sd ++ (sa ++ (0#9 ++ k)))
  | .shri g sd sa k => g.pack 36#7 (sd ++ (sa ++ (0#9 ++ k)))
  | .srai g sd sa k => g.pack 37#7 (sd ++ (sa ++ (0#9 ++ k)))
  | .cmp g d c sa sb => g.pack 38#7 (d.code ++ (sa ++ (sb ++ (0#6 ++ c.code))))
  | .scmp g d c sa sb => g.pack 40#7 (d.code ++ (sa ++ (sb ++ (0#6 ++ c.code))))
  | .cmpi g d c sa imm => g.pack 39#7 (d.code ++ (sa ++ (c.code ++ imm)))
  | .scmpi g d c sa imm => g.pack 41#7 (d.code ++ (sa ++ (c.code ++ imm)))
  | .pand g pd pa pb na nb => g.pack 42#7 (pd ++ (pa ++ (pb ++ ((bit na) ++ ((bit nb) ++ 0#10)))))
  | .por g pd pa pb na nb => g.pack 43#7 (pd ++ (pa ++ (pb ++ ((bit na) ++ ((bit nb) ++ 0#10)))))
  | .pxor g pd pa pb na nb => g.pack 44#7 (pd ++ (pa ++ (pb ++ ((bit na) ++ ((bit nb) ++ 0#10)))))
  | .pandn g pd pa pb na nb => g.pack 45#7 (pd ++ (pa ++ (pb ++ ((bit na) ++ ((bit nb) ++ 0#10)))))
  | .blkx g sd sa => g.pack 46#7 (sd ++ (sa ++ 0#15))
  | .blkalloc g sd sa => g.pack 47#7 (sd ++ (sa ++ 0#15))
  | .blkfree g sd sa => g.pack 48#7 (sd ++ (sa ++ 0#15))
  | .blkref g sd sa sb => g.pack 49#7 (sd ++ (sa ++ (sb ++ 0#9)))
  | .ldV g vd base off pi q => g.pack 1#7 (vd ++ (base ++ (off ++ ((bit pi) ++ q))))
  | .stV g vs base off pi q => g.pack 2#7 (vs ++ (base ++ (off ++ ((bit pi) ++ q))))
  | .ldbV g vd base off pi q => g.pack 3#7 (vd ++ (base ++ (off ++ ((bit pi) ++ q))))
  | .ldS g sd base off pi => g.pack 4#7 (sd ++ (base ++ (off ++ ((bit pi) ++ 0#3))))
  | .stS g ss base off pi => g.pack 5#7 (ss ++ (base ++ (off ++ ((bit pi) ++ 0#3))))
  | .ldgV g vd vi base q ty => g.pack 6#7 (vd ++ (vi ++ (base ++ (q ++ (ty.code ++ 0#2)))))
  | .stgV g vs vi base q ty => g.pack 7#7 (vs ++ (vi ++ (base ++ (q ++ (ty.code ++ 0#2)))))
  | .ldQ g qd base off pi => g.pack 8#7 (0#2 ++ (qd ++ (base ++ (off ++ ((bit pi) ++ 0#3)))))
  | .stQ g qs base off pi => g.pack 9#7 (0#2 ++ (qs ++ (base ++ (off ++ ((bit pi) ++ 0#3)))))
  | .pushV g vs dsc => g.pack 10#7 (vs ++ (dsc ++ 0#15))
  | .pushl g sl dsc => g.pack 11#7 (sl ++ (dsc ++ 0#15))
  | .lcopy g sd ss cnt => g.pack 12#7 (sd ++ (ss ++ (cnt ++ 0#3)))
  | .mldb g ty x f sa n sb => g.pack 1#7 (f ++ (0#2 ++ (x ++ (sa ++ (n ++ (0#2 ++ (ty.code ++ (0#3 ++ ((bit sb) ++ 0#1)))))))))
  | .mmul g ad x sa n c aty bsel scA scB => g.pack 2#7 (ad ++ (0#2 ++ (x ++ (sa ++ (n ++ ((bit c) ++ (0#1 ++ (aty.code ++ (0#2 ++ ((bit bsel) ++ ((bit scB) ++ (bit scA))))))))))))
  | .mmulTableMode g ad x sa n c _ => g.pack 2#7 (ad ++ (0#2 ++ (x ++ (sa ++ (n ++ ((bit c) ++ (1#1 ++ 0#9)))))))
  | .mzero g ad => g.pack 3#7 (ad ++ 0#24)
  | .mld g ad sa => g.pack 4#7 (ad ++ (0#3 ++ (sa ++ 0#15)))
  | .mst g as sa i32 ty mode => g.pack 5#7 (as ++ (0#3 ++ (sa ++ (0#4 ++ ((bit i32) ++ (0#1 ++ (ty.code ++ (mode.code ++ 0#2))))))))
  | .mstTableMode g as sa _ => g.pack 5#7 (as ++ (0#3 ++ (sa ++ (0#5 ++ (1#1 ++ 0#9)))))
  | .mmov g ad as => g.pack 6#7 (ad ++ (as ++ 0#21))
  | .macc g ad as i32 => g.pack 7#7 (ad ++ (as ++ (0#10 ++ ((bit i32) ++ 0#10))))
  | .mrowadd g ad sa i32 => g.pack 8#7 (ad ++ (0#3 ++ (sa ++ (0#4 ++ ((bit i32) ++ 0#10)))))
  | .mscl g ad sk => g.pack 9#7 (ad ++ (0#3 ++ (sk ++ 0#15)))
  | .xin g vs => g.pack 1#7 (vs ++ 0#21)
  | .xout g vd => g.pack 2#7 (vd ++ 0#21)
  | .xclr g => g.pack 3#7 (0#27)
  | .xmode g b16 => g.pack 4#7 (0#6 ++ ((bit b16) ++ 0#20))
  | .act g bank row => g.pack 1#7 (bank ++ (row ++ 0#9))
  | .acti g k sn => g.pack 2#7 (k ++ (sn ++ 0#16))
  | .pre g bank => g.pack 3#7 (bank ++ 0#22)
  | .prea g => g.pack 4#7 (0#27)
  | .refb g bank => g.pack 5#7 (bank ++ 0#22)
  | .stop g sm len => g.pack 6#7 (sm ++ (0#5 ++ len))
  | .rd g vd sv ai => g.pack 1#7 (vd ++ (sv ++ ((bit ai) ++ 0#14)))
  | .rds g sl sv ai => g.pack 2#7 (sl ++ (sv ++ ((bit ai) ++ 0#14)))
  | .wr g vs sv ai => g.pack 3#7 (vs ++ (sv ++ ((bit ai) ++ 0#14)))
  | .wrs g sl sv ai => g.pack 4#7 (sl ++ (sv ++ ((bit ai) ++ 0#14)))
  | .vadd g _ vd va vb q ty rz => g.pack 1#7 (vd ++ (va ++ (vb ++ (q ++ (ty.code ++ (bit rz))))))
  | .vsub g _ vd va vb q ty rz => g.pack 2#7 (vd ++ (va ++ (vb ++ (q ++ (ty.code ++ (bit rz))))))
  | .vmul g _ vd va vb q ty rz => g.pack 3#7 (vd ++ (va ++ (vb ++ (q ++ (ty.code ++ (bit rz))))))
  | .vfma g _ vd va vb q ty rz => g.pack 4#7 (vd ++ (va ++ (vb ++ (q ++ (ty.code ++ (bit rz))))))
  | .vfms g _ vd va vb q ty rz => g.pack 5#7 (vd ++ (va ++ (vb ++ (q ++ (ty.code ++ (bit rz))))))
  | .vfnma g _ vd va vb q ty rz => g.pack 6#7 (vd ++ (va ++ (vb ++ (q ++ (ty.code ++ (bit rz))))))
  | .vmin g _ vd va vb q ty num => g.pack 7#7 (vd ++ (va ++ (vb ++ (q ++ (ty.code ++ (bit num))))))
  | .vmax g _ vd va vb q ty num => g.pack 8#7 (vd ++ (va ++ (vb ++ (q ++ (ty.code ++ (bit num))))))
  | .vscale g _ vd va vb q ty inv => g.pack 14#7 (vd ++ (va ++ (vb ++ (q ++ (ty.code ++ (bit inv))))))
  | .viaddw g _ vd va vb q ty hi => g.pack 20#7 (vd ++ (va ++ (vb ++ (q ++ (ty.code ++ (bit hi))))))
  | .viaddsat g _ vd va vb q ty sub => g.pack 34#7 (vd ++ (va ++ (vb ++ (q ++ (ty.code ++ (bit sub))))))
  | .vtwosum g _ vd va vb q ty => g.pack 11#7 (vd ++ (va ++ (vb ++ (q ++ (ty.code ++ 0#1)))))
  | .viadd g _ vd va vb q ty => g.pack 16#7 (vd ++ (va ++ (vb ++ (q ++ (ty.code ++ 0#1)))))
  | .visub g _ vd va vb q ty => g.pack 17#7 (vd ++ (va ++ (vb ++ (q ++ (ty.code ++ 0#1)))))
  | .vimul g _ vd va vb q ty => g.pack 18#7 (vd ++ (va ++ (vb ++ (q ++ (ty.code ++ 0#1)))))
  | .vimulh g _ vd va vb q ty => g.pack 19#7 (vd ++ (va ++ (vb ++ (q ++ (ty.code ++ 0#1)))))
  | .vishl g _ vd va vb q ty => g.pack 21#7 (vd ++ (va ++ (vb ++ (q ++ (ty.code ++ 0#1)))))
  | .vishr g _ vd va vb q ty => g.pack 22#7 (vd ++ (va ++ (vb ++ (q ++ (ty.code ++ 0#1)))))
  | .visra g _ vd va vb q ty => g.pack 23#7 (vd ++ (va ++ (vb ++ (q ++ (ty.code ++ 0#1)))))
  | .vimin g _ vd va vb q ty => g.pack 28#7 (vd ++ (va ++ (vb ++ (q ++ (ty.code ++ 0#1)))))
  | .vimax g _ vd va vb q ty => g.pack 29#7 (vd ++ (va ++ (vb ++ (q ++ (ty.code ++ 0#1)))))
  | .vabs g _ vd va q ty => g.pack 9#7 (vd ++ (va ++ (0#6 ++ (q ++ (ty.code ++ 0#1)))))
  | .vneg g _ vd va q ty => g.pack 10#7 (vd ++ (va ++ (0#6 ++ (q ++ (ty.code ++ 0#1)))))
  | .vclass g _ vd va q ty => g.pack 13#7 (vd ++ (va ++ (0#6 ++ (q ++ (ty.code ++ 0#1)))))
  | .vpopc g _ vd va q ty => g.pack 32#7 (vd ++ (va ++ (0#6 ++ (q ++ (ty.code ++ 0#1)))))
  | .vclz g _ vd va q ty => g.pack 33#7 (vd ++ (va ++ (0#6 ++ (q ++ (ty.code ++ 0#1)))))
  | .viabs g _ vd va q ty sat => g.pack 30#7 (vd ++ (va ++ (0#6 ++ (q ++ (ty.code ++ (bit sat))))))
  | .vcmp g _ qd c va vb q ty => g.pack 12#7 ((hi2 c.code) ++ (qd ++ (va ++ (vb ++ (q ++ (ty.code ++ (lo1 c.code)))))))
  | .vicmp g _ qd c va vb q ty => g.pack 31#7 ((hi2 c.code) ++ (qd ++ (va ++ (vb ++ (q ++ (ty.code ++ (lo1 c.code)))))))
  | .vcvt g _ vd va q dt st mode => g.pack 15#7 (vd ++ (va ++ (st.code ++ ((hi2 mode.code) ++ (q ++ (dt.code ++ (lo1 mode.code)))))))
  | .vand g _ vd va vb q => g.pack 24#7 (vd ++ (va ++ (vb ++ (q ++ (10#4 ++ 0#1)))))
  | .vor g _ vd va vb q => g.pack 25#7 (vd ++ (va ++ (vb ++ (q ++ (10#4 ++ 0#1)))))
  | .vxor g _ vd va vb q => g.pack 26#7 (vd ++ (va ++ (vb ++ (q ++ (10#4 ++ 0#1)))))
  | .vnot g _ vd va q => g.pack 27#7 (vd ++ (va ++ (0#6 ++ (q ++ (10#4 ++ 0#1)))))
  | .vmov g _ vd va q => g.pack 36#7 (vd ++ (va ++ (0#6 ++ (q ++ (10#4 ++ 0#1)))))
  | .vsel g _ vd va vb q qs => g.pack 35#7 (vd ++ (va ++ (vb ++ (q ++ (qs ++ 0#1)))))
  | .vmovi g _ vd q imm t => g.pack 37#7 (vd ++ (0#6 ++ (imm ++ (q ++ (bit t)))))
  | .vbcast g _ vd sn q c => g.pack 38#7 (vd ++ (sn ++ (0#8 ++ (c ++ (q ++ 0#1)))))
  | .vext g _ sd va c k signed => g.pack 39#7 (sd ++ (va ++ (c ++ (k ++ (0#4 ++ (bit signed))))))
  | .vins g _ vd sn q c k => g.pack 40#7 (vd ++ (sn ++ (c ++ (k ++ (q ++ 0#1)))))
  | .vlsh g vd va sn q ty rot => g.pack 41#7 (vd ++ (va ++ (sn ++ (q ++ (ty.code ++ (bit rot))))))
  | .vperm g vd va vb q ty z => g.pack 42#7 (vd ++ (va ++ (vb ++ (q ++ (ty.code ++ (bit z))))))
  | .vzip g vd va vb q ty hi => g.pack 44#7 (vd ++ (va ++ (vb ++ (q ++ (ty.code ++ (bit hi))))))
  | .vunzip g vd va vb q ty odd => g.pack 45#7 (vd ++ (va ++ (vb ++ (q ++ (ty.code ++ (bit odd))))))
  | .vrev g vd va q ty => g.pack 43#7 (vd ++ (va ++ (0#6 ++ (q ++ (ty.code ++ 0#1)))))
  | .vscan g vd va q ty op excl => g.pack 46#7 (vd ++ (va ++ (op.code ++ (q ++ (ty.code ++ (bit excl))))))
  | .vred g vd va q ty op => g.pack 47#7 (vd ++ (va ++ (op.code ++ (q ++ (ty.code ++ 0#1)))))
  | .vqand g _ qd qa qb => g.pack 48#7 (0#2 ++ (qd ++ (0#2 ++ (qa ++ (0#2 ++ (qb ++ 0#9))))))
  | .vqor g _ qd qa qb => g.pack 49#7 (0#2 ++ (qd ++ (0#2 ++ (qa ++ (0#2 ++ (qb ++ 0#9))))))
  | .vqxor g _ qd qa qb => g.pack 50#7 (0#2 ++ (qd ++ (0#2 ++ (qa ++ (0#2 ++ (qb ++ 0#9))))))
  | .vqnot g _ qd qa => g.pack 51#7 (0#2 ++ (qd ++ (0#2 ++ (qa ++ 0#15))))
  | .vqcnt g _ sd qa => g.pack 52#7 (sd ++ (0#2 ++ (qa ++ 0#15)))
  | .vrcp g vd va q => g.pack 56#7 (vd ++ (va ++ (0#6 ++ (q ++ 0#5))))
  | .vrsq g vd va q => g.pack 57#7 (vd ++ (va ++ (0#6 ++ (q ++ 0#5))))
  | .vsqrt g vd va q => g.pack 58#7 (vd ++ (va ++ (0#6 ++ (q ++ 0#5))))
  | .vexp2 g vd va q => g.pack 60#7 (vd ++ (va ++ (0#6 ++ (q ++ 0#5))))
  | .vlog2 g vd va q => g.pack 61#7 (vd ++ (va ++ (0#6 ++ (q ++ 0#5))))
  | .vdiv g vd va vb q => g.pack 59#7 (vd ++ (va ++ (vb ++ (q ++ 0#5))))
  | _ => 0#40

/-- The slot that an instruction issues in; code words and events have none. -/
def slotOf : Instr → Option Slot
  | .nop sl => some sl
  | .prep _ _ _ | .prepr _ _ _ | .br _ _ | .brn _ _ | .jmp _ _ | .loop _ _ _ _
  | .lper _ _ _ | .lbrk _ _ | .commit _ _ _ | .relay _ | .rdv _ _ _ | .tlsig _ _
  | .tlrd _ _ _ | .acopyIn _ _ _ _ _ | .acopyOut _ _ _ _ _ | .farxSend _ _ _ | .farxRecv _ _ _ | .farmSum _ _ _
  | .farmGather _ _ _ | .farmBcast _ _ _ | .ftload _ _ _ | .fclr _ _ | .rdsys _ _ _ | .wrsys _ _ _
  | .trap _ _ => some .C
  | .add _ _ _ _ | .sub _ _ _ _ | .mul _ _ _ _ | .mulh _ _ _ _ | .mulhn _ _ _ _ | .divs _ _ _ _
  | .divn _ _ _ _ | .rems _ _ _ _ | .remn _ _ _ _ | .and _ _ _ _ | .or _ _ _ _ | .xor _ _ _ _
  | .andn _ _ _ _ | .shl _ _ _ _ | .shr _ _ _ _ | .sra _ _ _ _ | .rotl _ _ _ _ | .min _ _ _ _
  | .max _ _ _ _ | .minn _ _ _ _ | .maxn _ _ _ _ | .clz _ _ _ | .ctz _ _ _ | .popc _ _ _
  | .mov _ _ _ | .sext _ _ _ _ | .zext _ _ _ _ | .sel _ _ _ _ _ _ | .movi _ _ _ | .ins16 _ _ _ _
  | .addi _ _ _ _ | .andi _ _ _ _ | .ori _ _ _ _ | .xori _ _ _ _ | .shli _ _ _ _ | .shri _ _ _ _
  | .srai _ _ _ _ | .cmp _ _ _ _ _ | .scmp _ _ _ _ _ | .cmpi _ _ _ _ _ | .scmpi _ _ _ _ _ | .pand _ _ _ _ _ _
  | .por _ _ _ _ _ _ | .pxor _ _ _ _ _ _ | .pandn _ _ _ _ _ _ | .blkx _ _ _ | .blkalloc _ _ _ | .blkfree _ _ _
  | .blkref _ _ _ _ => some .S
  | .ldV _ _ _ _ _ _ | .stV _ _ _ _ _ _ | .ldbV _ _ _ _ _ _ | .ldS _ _ _ _ _ | .stS _ _ _ _ _ | .ldgV _ _ _ _ _ _
  | .stgV _ _ _ _ _ _ | .ldQ _ _ _ _ _ | .stQ _ _ _ _ _ | .pushV _ _ _ | .pushl _ _ _ | .lcopy _ _ _ _ => some .L
  | .mldb _ _ _ _ _ _ _ | .mmul _ _ _ _ _ _ _ _ _ _ | .mmulTableMode _ _ _ _ _ _ _ | .mzero _ _ | .mld _ _ _ | .mst _ _ _ _ _ _
  | .mstTableMode _ _ _ _ | .mmov _ _ _ | .macc _ _ _ _ | .mrowadd _ _ _ _ | .mscl _ _ _ => some .M
  | .xin _ _ | .xout _ _ | .xclr _ | .xmode _ _ => some .X
  | .act _ _ _ | .acti _ _ _ | .pre _ _ | .prea _ | .refb _ _ | .stop _ _ _ => some .DR
  | .rd _ _ _ _ | .rds _ _ _ _ | .wr _ _ _ _ | .wrs _ _ _ _ => some .DC
  | .vlsh _ _ _ _ _ _ _ | .vperm _ _ _ _ _ _ _ | .vzip _ _ _ _ _ _ _ | .vunzip _ _ _ _ _ _ _ | .vrev _ _ _ _ _ | .vscan _ _ _ _ _ _ _
  | .vred _ _ _ _ _ _ => some .VA
  | .vrcp _ _ _ _ | .vrsq _ _ _ _ | .vsqrt _ _ _ _ | .vexp2 _ _ _ _ | .vlog2 _ _ _ _ | .vdiv _ _ _ _ _ => some .VB
  | .vadd _ u _ _ _ _ _ _ | .vsub _ u _ _ _ _ _ _ | .vmul _ u _ _ _ _ _ _ | .vfma _ u _ _ _ _ _ _ | .vfms _ u _ _ _ _ _ _
  | .vfnma _ u _ _ _ _ _ _ | .vmin _ u _ _ _ _ _ _ | .vmax _ u _ _ _ _ _ _ | .vscale _ u _ _ _ _ _ _ | .viaddw _ u _ _ _ _ _ _
  | .viaddsat _ u _ _ _ _ _ _ | .vtwosum _ u _ _ _ _ _ | .viadd _ u _ _ _ _ _ | .visub _ u _ _ _ _ _ | .vimul _ u _ _ _ _ _
  | .vimulh _ u _ _ _ _ _ | .vishl _ u _ _ _ _ _ | .vishr _ u _ _ _ _ _ | .visra _ u _ _ _ _ _ | .vimin _ u _ _ _ _ _
  | .vimax _ u _ _ _ _ _ | .vabs _ u _ _ _ _ | .vneg _ u _ _ _ _ | .vclass _ u _ _ _ _ | .vpopc _ u _ _ _ _
  | .vclz _ u _ _ _ _ | .viabs _ u _ _ _ _ _ | .vcmp _ u _ _ _ _ _ _ | .vicmp _ u _ _ _ _ _ _ | .vcvt _ u _ _ _ _ _ _
  | .vand _ u _ _ _ _ | .vor _ u _ _ _ _ | .vxor _ u _ _ _ _ | .vnot _ u _ _ _ | .vmov _ u _ _ _
  | .vsel _ u _ _ _ _ _ | .vmovi _ u _ _ _ _ | .vbcast _ u _ _ _ _ | .vext _ u _ _ _ _ _ | .vins _ u _ _ _ _ _
  | .vqand _ u _ _ _ | .vqor _ u _ _ _ | .vqxor _ u _ _ _ | .vqnot _ u _ _ | .vqcnt _ u _ _ => some u.slot
  | _ => none

/-- The header field ftl that an instruction needs (05 R118): the loop counter of a table-mode `mmul` or `mst`. -/
def ftlOf : Instr → BitVec 2
  | .mmulTableMode _ _ _ _ _ _ l | .mstTableMode _ _ _ l => l
  | _ => 0#2

/-- The 16 bits of a code word (05 Table 5-1); 0xFC00 for anything else. -/
def encodeWord : Instr → CodeWord
  | .issue n => 0#4 ++ n
  | .idle n => 0x3C#6 ++ n
  | .seg n => 0x3E#6 ++ n
  | .escape => 0xF400#16
  | _ => 0xFC00#16

/-! ## The decoder -/

/-- A code word (05 Table 5-1); the reserved ranges are refused. -/
def decodeWord (w : CodeWord) : Except DecodeErr Instr :=
  if w.toNat < 0x1000 then .ok (.issue (w.extractLsb' 0 12))
  else if w.toNat < 0xF000 then .error .reservedCodeWord
  else if w.toNat < 0xF400 then .ok (.idle (w.extractLsb' 0 10))
  else if w.toNat = 0xF400 then .ok .escape
  else if w.toNat < 0xF800 then .error .reservedCodeWord
  else if w.toNat < 0xFC00 then .ok (.seg (w.extractLsb' 0 10))
  else if w.toNat = 0xFC00 then .ok .endStream
  else .error .reservedCodeWord

/-- Candidate C-slot operation of a slot word: its fields read at their places, reserved codes giving none. -/
def candC (g : Guard) (w : SlotWord) : Nat → Option Instr
  | 1 => some (.prep g (fld w 23 4) (fld w 0 17))
  | 2 => some (.prepr g (fld w 23 4) (fld w 15 6))
  | 3 => some (.br g (fld w 23 4))
  | 4 => some (.brn g (fld w 23 4))
  | 5 => some (.jmp g (fld w 23 4))
  | 6 => some (.loop g (fld w 25 2) (LoopCount.ofCode (fld w 14 11)) (fld w 0 14))
  | 7 => some (.lper g (fld w 25 2) (fld w 0 16))
  | 8 => some (.lbrk g (fld w 25 2))
  | 9 => some (.commit g (fld w 19 8) (fld w 15 4))
  | 10 => some (.relay g)
  | 11 => some (.rdv g (fld w 19 8) (RdvCond.ofCode (fld w 9 10)))
  | 12 => some (.tlsig g (fld w 24 3))
  | 13 => some (.tlrd g (fld w 21 6) (fld w 18 3))
  | 14 =>
      if fld w 26 1 = 0#1 then some (.acopyIn g (fld w 5 3) (fld w 20 6) (fld w 14 6) (fld w 8 6))
      else if fld w 26 1 = 1#1 then some (.acopyOut g (fld w 5 3) (fld w 20 6) (fld w 14 6) (fld w 8 6))
      else none
  | 15 =>
      if fld w 24 3 = 0#3 then some (.farxSend g (fld w 15 3) (fld w 18 6))
      else if fld w 24 3 = 1#3 then some (.farxRecv g (fld w 15 3) (fld w 18 6))
      else none
  | 16 =>
      if fld w 24 3 = 0#3 then some (.farmSum g (fld w 15 3) (fld w 18 6))
      else if fld w 24 3 = 1#3 then some (.farmGather g (fld w 15 3) (fld w 18 6))
      else if fld w 24 3 = 2#3 then some (.farmBcast g (fld w 15 3) (fld w 18 6))
      else none
  | 17 => some (.ftload g (fld w 21 6) (fld w 0 16))
  | 18 => some (.fclr g (fld w 23 4))
  | 19 => some (.rdsys g (fld w 21 6) (fld w 0 10))
  | 20 => some (.wrsys g (fld w 15 6) (fld w 0 10))
  | 21 => some (.trap g (fld w 0 16))
  | _ => none

/-- Candidate S-slot operation of a slot word: its fields read at their places, reserved codes giving none. -/
def candS (g : Guard) (w : SlotWord) : Nat → Option Instr
  | 1 => some (.add g (fld w 21 6) (fld w 15 6) (fld w 9 6))
  | 2 => some (.sub g (fld w 21 6) (fld w 15 6) (fld w 9 6))
  | 3 => some (.mul g (fld w 21 6) (fld w 15 6) (fld w 9 6))
  | 4 => some (.mulh g (fld w 21 6) (fld w 15 6) (fld w 9 6))
  | 5 => some (.mulhn g (fld w 21 6) (fld w 15 6) (fld w 9 6))
  | 6 => some (.divs g (fld w 21 6) (fld w 15 6) (fld w 9 6))
  | 7 => some (.divn g (fld w 21 6) (fld w 15 6) (fld w 9 6))
  | 8 => some (.rems g (fld w 21 6) (fld w 15 6) (fld w 9 6))
  | 9 => some (.remn g (fld w 21 6) (fld w 15 6) (fld w 9 6))
  | 10 => some (.and g (fld w 21 6) (fld w 15 6) (fld w 9 6))
  | 11 => some (.or g (fld w 21 6) (fld w 15 6) (fld w 9 6))
  | 12 => some (.xor g (fld w 21 6) (fld w 15 6) (fld w 9 6))
  | 13 => some (.andn g (fld w 21 6) (fld w 15 6) (fld w 9 6))
  | 14 => some (.shl g (fld w 21 6) (fld w 15 6) (fld w 9 6))
  | 15 => some (.shr g (fld w 21 6) (fld w 15 6) (fld w 9 6))
  | 16 => some (.sra g (fld w 21 6) (fld w 15 6) (fld w 9 6))
  | 17 => some (.rotl g (fld w 21 6) (fld w 15 6) (fld w 9 6))
  | 18 => some (.min g (fld w 21 6) (fld w 15 6) (fld w 9 6))
  | 19 => some (.max g (fld w 21 6) (fld w 15 6) (fld w 9 6))
  | 20 => some (.minn g (fld w 21 6) (fld w 15 6) (fld w 9 6))
  | 21 => some (.maxn g (fld w 21 6) (fld w 15 6) (fld w 9 6))
  | 22 => some (.clz g (fld w 21 6) (fld w 15 6))
  | 23 => some (.ctz g (fld w 21 6) (fld w 15 6))
  | 24 => some (.popc g (fld w 21 6) (fld w 15 6))
  | 25 => some (.sext g (fld w 21 6) (fld w 15 6) (fld w 0 6))
  | 26 => some (.zext g (fld w 21 6) (fld w 15 6) (fld w 0 6))
  | 27 => some (.sel g (fld w 21 6) (fld w 15 6) (fld w 9 6) (flag w 5) (fld w 0 5))
  | 28 => some (.mov g (fld w 21 6) (fld w 15 6))
  | 29 => some (.movi g (fld w 21 6) (fld w 0 21))
  | 30 => some (.ins16 g (fld w 21 6) (fld w 5 16) (fld w 3 2))
  | 31 => some (.addi g (fld w 21 6) (fld w 15 6) (fld w 0 15))
  | 32 => some (.andi g (fld w 21 6) (fld w 15 6) (fld w 0 15))
  | 33 => some (.ori g (fld w 21 6) (fld w 15 6) (fld w 0 15))
  | 34 => some (.xori g (fld w 21 6) (fld w 15 6) (fld w 0 15))
  | 35 => some (.shli g (fld w 21 6) (fld w 15 6) (fld w 0 6))
  | 36 => some (.shri g (fld w 21 6) (fld w 15 6) (fld w 0 6))
  | 37 => some (.srai g (fld w 21 6) (fld w 15 6) (fld w 0 6))
  | 38 => (CmpDest.ofCode (fld w 21 6)).bind fun d => (Cond.ofCode (fld w 0 3)).bind fun c => (some (.cmp g d c (fld w 15 6) (fld w 9 6)))
  | 39 => (CmpDest.ofCode (fld w 21 6)).bind fun d => (Cond.ofCode (fld w 12 3)).bind fun c => (some (.cmpi g d c (fld w 15 6) (fld w 0 12)))
  | 40 => (CmpDest.ofCode (fld w 21 6)).bind fun d => (Cond.ofCode (fld w 0 3)).bind fun c => (some (.scmp g d c (fld w 15 6) (fld w 9 6)))
  | 41 => (CmpDest.ofCode (fld w 21 6)).bind fun d => (Cond.ofCode (fld w 12 3)).bind fun c => (some (.scmpi g d c (fld w 15 6) (fld w 0 12)))
  | 42 => some (.pand g (fld w 22 5) (fld w 17 5) (fld w 12 5) (flag w 11) (flag w 10))
  | 43 => some (.por g (fld w 22 5) (fld w 17 5) (fld w 12 5) (flag w 11) (flag w 10))
  | 44 => some (.pxor g (fld w 22 5) (fld w 17 5) (fld w 12 5) (flag w 11) (flag w 10))
  | 45 => some (.pandn g (fld w 22 5) (fld w 17 5) (fld w 12 5) (flag w 11) (flag w 10))
  | 46 => some (.blkx g (fld w 21 6) (fld w 15 6))
  | 47 => some (.blkalloc g (fld w 21 6) (fld w 15 6))
  | 48 => some (.blkfree g (fld w 21 6) (fld w 15 6))
  | 49 => some (.blkref g (fld w 21 6) (fld w 15 6) (fld w 9 6))
  | _ => none

/-- Candidate L-slot operation of a slot word: its fields read at their places, reserved codes giving none. -/
def candL (g : Guard) (w : SlotWord) : Nat → Option Instr
  | 1 => some (.ldV g (fld w 21 6) (fld w 16 5) (fld w 4 12) (flag w 3) (fld w 0 3))
  | 2 => some (.stV g (fld w 21 6) (fld w 16 5) (fld w 4 12) (flag w 3) (fld w 0 3))
  | 3 => some (.ldbV g (fld w 21 6) (fld w 16 5) (fld w 4 12) (flag w 3) (fld w 0 3))
  | 4 => some (.ldS g (fld w 21 6) (fld w 16 5) (fld w 4 12) (flag w 3))
  | 5 => some (.stS g (fld w 21 6) (fld w 16 5) (fld w 4 12) (flag w 3))
  | 6 => (Ty.ofCode (fld w 2 4)).bind fun ty => (some (.ldgV g (fld w 21 6) (fld w 15 6) (fld w 10 5) (fld w 6 4) ty))
  | 7 => (Ty.ofCode (fld w 2 4)).bind fun ty => (some (.stgV g (fld w 21 6) (fld w 15 6) (fld w 10 5) (fld w 6 4) ty))
  | 8 => some (.ldQ g (fld w 21 4) (fld w 16 5) (fld w 4 12) (flag w 3))
  | 9 => some (.stQ g (fld w 21 4) (fld w 16 5) (fld w 4 12) (flag w 3))
  | 10 => some (.pushV g (fld w 21 6) (fld w 15 6))
  | 11 => some (.pushl g (fld w 21 6) (fld w 15 6))
  | 12 => some (.lcopy g (fld w 21 6) (fld w 15 6) (fld w 3 12))
  | _ => none

/-- Candidate M-slot operation of a slot word: its fields read at their places, reserved codes giving none. -/
def candM (ftl : BitVec 2) (g : Guard) (w : SlotWord) : Nat → Option Instr
  | 1 => (Ty.ofCode (fld w 5 4)).bind fun ty => (some (.mldb g ty (fld w 21 1) (fld w 24 3) (fld w 15 6) (fld w 11 4) (flag w 1)))
  | 2 =>
      if fld w 9 1 = 0#1 then (Ty.ofCode (fld w 5 4)).bind fun aty => (some (.mmul g (fld w 24 3) (fld w 21 1) (fld w 15 6) (fld w 11 4) (flag w 10) aty (flag w 2) (flag w 0) (flag w 1)))
      else if fld w 9 1 = 1#1 then some (.mmulTableMode g (fld w 24 3) (fld w 21 1) (fld w 15 6) (fld w 11 4) (flag w 10) ftl)
      else none
  | 3 => some (.mzero g (fld w 24 3))
  | 4 => some (.mld g (fld w 24 3) (fld w 15 6))
  | 5 =>
      if fld w 9 1 = 0#1 then (Ty.ofCode (fld w 5 4)).bind fun ty => (RMode.ofCode (fld w 2 3)).bind fun mode => (some (.mst g (fld w 24 3) (fld w 15 6) (flag w 10) ty mode))
      else if fld w 9 1 = 1#1 then some (.mstTableMode g (fld w 24 3) (fld w 15 6) ftl)
      else none
  | 6 => some (.mmov g (fld w 24 3) (fld w 21 3))
  | 7 => some (.macc g (fld w 24 3) (fld w 21 3) (flag w 10))
  | 8 => some (.mrowadd g (fld w 24 3) (fld w 15 6) (flag w 10))
  | 9 => some (.mscl g (fld w 24 3) (fld w 15 6))
  | _ => none

/-- Candidate X-slot operation of a slot word: its fields read at their places, reserved codes giving none. -/
def candX (g : Guard) (w : SlotWord) : Nat → Option Instr
  | 1 => some (.xin g (fld w 21 6))
  | 2 => some (.xout g (fld w 21 6))
  | 3 => some (.xclr g)
  | 4 => some (.xmode g (flag w 20))
  | _ => none

/-- Candidate DR-slot operation of a slot word: its fields read at their places, reserved codes giving none. -/
def candDR (g : Guard) (w : SlotWord) : Nat → Option Instr
  | 1 => some (.act g (fld w 22 5) (fld w 9 13))
  | 2 => some (.acti g (fld w 22 5) (fld w 16 6))
  | 3 => some (.pre g (fld w 22 5))
  | 4 => some (.prea g)
  | 5 => some (.refb g (fld w 22 5))
  | 6 => some (.stop g (fld w 21 6) (fld w 0 16))
  | _ => none

/-- Candidate DC-slot operation of a slot word: its fields read at their places, reserved codes giving none. -/
def candDC (g : Guard) (w : SlotWord) : Nat → Option Instr
  | 1 => some (.rd g (fld w 21 6) (fld w 15 6) (flag w 14))
  | 2 => some (.rds g (fld w 21 6) (fld w 15 6) (flag w 14))
  | 3 => some (.wr g (fld w 21 6) (fld w 15 6) (flag w 14))
  | 4 => some (.wrs g (fld w 21 6) (fld w 15 6) (flag w 14))
  | _ => none

/-- Candidate VA or VB operation of a slot word: its fields read at their places, reserved codes giving none. -/
def candVec (u : VSlot) (g : Guard) (w : SlotWord) : Nat → Option Instr
  | 1 => (Ty.ofCode (fld w 1 4)).bind fun ty => (some (.vadd g u (fld w 21 6) (fld w 15 6) (fld w 9 6) (fld w 5 4) ty (flag w 0)))
  | 2 => (Ty.ofCode (fld w 1 4)).bind fun ty => (some (.vsub g u (fld w 21 6) (fld w 15 6) (fld w 9 6) (fld w 5 4) ty (flag w 0)))
  | 3 => (Ty.ofCode (fld w 1 4)).bind fun ty => (some (.vmul g u (fld w 21 6) (fld w 15 6) (fld w 9 6) (fld w 5 4) ty (flag w 0)))
  | 4 => (Ty.ofCode (fld w 1 4)).bind fun ty => (some (.vfma g u (fld w 21 6) (fld w 15 6) (fld w 9 6) (fld w 5 4) ty (flag w 0)))
  | 5 => (Ty.ofCode (fld w 1 4)).bind fun ty => (some (.vfms g u (fld w 21 6) (fld w 15 6) (fld w 9 6) (fld w 5 4) ty (flag w 0)))
  | 6 => (Ty.ofCode (fld w 1 4)).bind fun ty => (some (.vfnma g u (fld w 21 6) (fld w 15 6) (fld w 9 6) (fld w 5 4) ty (flag w 0)))
  | 7 => (Ty.ofCode (fld w 1 4)).bind fun ty => (some (.vmin g u (fld w 21 6) (fld w 15 6) (fld w 9 6) (fld w 5 4) ty (flag w 0)))
  | 8 => (Ty.ofCode (fld w 1 4)).bind fun ty => (some (.vmax g u (fld w 21 6) (fld w 15 6) (fld w 9 6) (fld w 5 4) ty (flag w 0)))
  | 9 => (Ty.ofCode (fld w 1 4)).bind fun ty => (some (.vabs g u (fld w 21 6) (fld w 15 6) (fld w 5 4) ty))
  | 10 => (Ty.ofCode (fld w 1 4)).bind fun ty => (some (.vneg g u (fld w 21 6) (fld w 15 6) (fld w 5 4) ty))
  | 11 => (Ty.ofCode (fld w 1 4)).bind fun ty => (some (.vtwosum g u (fld w 21 6) (fld w 15 6) (fld w 9 6) (fld w 5 4) ty))
  | 12 => (FCond.ofCode (fld w 25 2 ++ fld w 0 1)).bind fun c => (Ty.ofCode (fld w 1 4)).bind fun ty => (some (.vcmp g u (fld w 21 4) c (fld w 15 6) (fld w 9 6) (fld w 5 4) ty))
  | 13 => (Ty.ofCode (fld w 1 4)).bind fun ty => (some (.vclass g u (fld w 21 6) (fld w 15 6) (fld w 5 4) ty))
  | 14 => (Ty.ofCode (fld w 1 4)).bind fun ty => (some (.vscale g u (fld w 21 6) (fld w 15 6) (fld w 9 6) (fld w 5 4) ty (flag w 0)))
  | 15 => (Ty.ofCode (fld w 1 4)).bind fun dt => (Ty.ofCode (fld w 11 4)).bind fun st => (RMode.ofCode (fld w 9 2 ++ fld w 0 1)).bind fun mode => (some (.vcvt g u (fld w 21 6) (fld w 15 6) (fld w 5 4) dt st mode))
  | 16 => (Ty.ofCode (fld w 1 4)).bind fun ty => (some (.viadd g u (fld w 21 6) (fld w 15 6) (fld w 9 6) (fld w 5 4) ty))
  | 17 => (Ty.ofCode (fld w 1 4)).bind fun ty => (some (.visub g u (fld w 21 6) (fld w 15 6) (fld w 9 6) (fld w 5 4) ty))
  | 18 => (Ty.ofCode (fld w 1 4)).bind fun ty => (some (.vimul g u (fld w 21 6) (fld w 15 6) (fld w 9 6) (fld w 5 4) ty))
  | 19 => (Ty.ofCode (fld w 1 4)).bind fun ty => (some (.vimulh g u (fld w 21 6) (fld w 15 6) (fld w 9 6) (fld w 5 4) ty))
  | 20 => (Ty.ofCode (fld w 1 4)).bind fun ty => (some (.viaddw g u (fld w 21 6) (fld w 15 6) (fld w 9 6) (fld w 5 4) ty (flag w 0)))
  | 21 => (Ty.ofCode (fld w 1 4)).bind fun ty => (some (.vishl g u (fld w 21 6) (fld w 15 6) (fld w 9 6) (fld w 5 4) ty))
  | 22 => (Ty.ofCode (fld w 1 4)).bind fun ty => (some (.vishr g u (fld w 21 6) (fld w 15 6) (fld w 9 6) (fld w 5 4) ty))
  | 23 => (Ty.ofCode (fld w 1 4)).bind fun ty => (some (.visra g u (fld w 21 6) (fld w 15 6) (fld w 9 6) (fld w 5 4) ty))
  | 24 => some (.vand g u (fld w 21 6) (fld w 15 6) (fld w 9 6) (fld w 5 4))
  | 25 => some (.vor g u (fld w 21 6) (fld w 15 6) (fld w 9 6) (fld w 5 4))
  | 26 => some (.vxor g u (fld w 21 6) (fld w 15 6) (fld w 9 6) (fld w 5 4))
  | 27 => some (.vnot g u (fld w 21 6) (fld w 15 6) (fld w 5 4))
  | 28 => (Ty.ofCode (fld w 1 4)).bind fun ty => (some (.vimin g u (fld w 21 6) (fld w 15 6) (fld w 9 6) (fld w 5 4) ty))
  | 29 => (Ty.ofCode (fld w 1 4)).bind fun ty => (some (.vimax g u (fld w 21 6) (fld w 15 6) (fld w 9 6) (fld w 5 4) ty))
  | 30 => (Ty.ofCode (fld w 1 4)).bind fun ty => (some (.viabs g u (fld w 21 6) (fld w 15 6) (fld w 5 4) ty (flag w 0)))
  | 31 => (Cond.ofCode (fld w 25 2 ++ fld w 0 1)).bind fun c => (Ty.ofCode (fld w 1 4)).bind fun ty => (some (.vicmp g u (fld w 21 4) c (fld w 15 6) (fld w 9 6) (fld w 5 4) ty))
  | 32 => (Ty.ofCode (fld w 1 4)).bind fun ty => (some (.vpopc g u (fld w 21 6) (fld w 15 6) (fld w 5 4) ty))
  | 33 => (Ty.ofCode (fld w 1 4)).bind fun ty => (some (.vclz g u (fld w 21 6) (fld w 15 6) (fld w 5 4) ty))
  | 34 => (Ty.ofCode (fld w 1 4)).bind fun ty => (some (.viaddsat g u (fld w 21 6) (fld w 15 6) (fld w 9 6) (fld w 5 4) ty (flag w 0)))
  | 35 => some (.vsel g u (fld w 21 6) (fld w 15 6) (fld w 9 6) (fld w 5 4) (fld w 1 4))
  | 36 => some (.vmov g u (fld w 21 6) (fld w 15 6) (fld w 5 4))
  | 37 => some (.vmovi g u (fld w 21 6) (fld w 1 4) (fld w 5 10) (flag w 0))
  | 38 => some (.vbcast g u (fld w 21 6) (fld w 15 6) (fld w 1 4) (fld w 5 2))
  | 39 => some (.vext g u (fld w 21 6) (fld w 15 6) (fld w 13 2) (fld w 5 8) (flag w 0))
  | 40 => some (.vins g u (fld w 21 6) (fld w 15 6) (fld w 1 4) (fld w 13 2) (fld w 5 8))
  | 48 => some (.vqand g u (fld w 21 4) (fld w 15 4) (fld w 9 4))
  | 49 => some (.vqor g u (fld w 21 4) (fld w 15 4) (fld w 9 4))
  | 50 => some (.vqxor g u (fld w 21 4) (fld w 15 4) (fld w 9 4))
  | 51 => some (.vqnot g u (fld w 21 4) (fld w 15 4))
  | 52 => some (.vqcnt g u (fld w 21 6) (fld w 15 4))
  | _ => none

/-- Candidate VA-only operation of a slot word: its fields read at their places, reserved codes giving none. -/
def candVA (g : Guard) (w : SlotWord) : Nat → Option Instr
  | 41 => (Ty.ofCode (fld w 1 4)).bind fun ty => (some (.vlsh g (fld w 21 6) (fld w 15 6) (fld w 9 6) (fld w 5 4) ty (flag w 0)))
  | 42 => (Ty.ofCode (fld w 1 4)).bind fun ty => (some (.vperm g (fld w 21 6) (fld w 15 6) (fld w 9 6) (fld w 5 4) ty (flag w 0)))
  | 43 => (Ty.ofCode (fld w 1 4)).bind fun ty => (some (.vrev g (fld w 21 6) (fld w 15 6) (fld w 5 4) ty))
  | 44 => (Ty.ofCode (fld w 1 4)).bind fun ty => (some (.vzip g (fld w 21 6) (fld w 15 6) (fld w 9 6) (fld w 5 4) ty (flag w 0)))
  | 45 => (Ty.ofCode (fld w 1 4)).bind fun ty => (some (.vunzip g (fld w 21 6) (fld w 15 6) (fld w 9 6) (fld w 5 4) ty (flag w 0)))
  | 46 => (Ty.ofCode (fld w 1 4)).bind fun ty => (COp.ofCode (fld w 9 6)).bind fun op => (some (.vscan g (fld w 21 6) (fld w 15 6) (fld w 5 4) ty op (flag w 0)))
  | 47 => (Ty.ofCode (fld w 1 4)).bind fun ty => (COp.ofCode (fld w 9 6)).bind fun op => (some (.vred g (fld w 21 6) (fld w 15 6) (fld w 5 4) ty op))
  | _ => none

/-- Candidate VB-only operation of a slot word: its fields read at their places, reserved codes giving none. -/
def candVB (g : Guard) (w : SlotWord) : Nat → Option Instr
  | 56 => some (.vrcp g (fld w 21 6) (fld w 15 6) (fld w 5 4))
  | 57 => some (.vrsq g (fld w 21 6) (fld w 15 6) (fld w 5 4))
  | 58 => some (.vsqrt g (fld w 21 6) (fld w 15 6) (fld w 5 4))
  | 59 => some (.vdiv g (fld w 21 6) (fld w 15 6) (fld w 9 6) (fld w 5 4))
  | 60 => some (.vexp2 g (fld w 21 6) (fld w 15 6) (fld w 5 4))
  | 61 => some (.vlog2 g (fld w 21 6) (fld w 15 6) (fld w 5 4))
  | _ => none

/-- Is the opcode one of the VA-only vector opcodes? -/
def vaOnly (op : Nat) : Bool := decide (41 ≤ op) && decide (op ≤ 47)
/-- Is the opcode one of the VB-only vector opcodes? -/
def vbOnly (op : Nat) : Bool := decide (56 ≤ op) && decide (op ≤ 61)
/-- Vector opcodes that both slots admit. -/
def vecBoth (op : Nat) : Bool := (decide (1 ≤ op) && decide (op ≤ 40)) || (decide (48 ≤ op) && decide (op ≤ 52))

/-- Opcodes in use above `nop` (05 Tables 5-6 to 5-8); `none` where the opcode is in the wrong vector slot. -/
def opcodeKnown (sl : Slot) (op : Nat) : Option Bool :=
  match sl with
  | .C => some (decide (op ≤ 0x15))
  | .S => some (decide (op ≤ 0x31))
  | .L => some (decide (op ≤ 0x0C))
  | .M => some (decide (op ≤ 0x09))
  | .X => some (decide (op ≤ 0x04))
  | .DR => some (decide (op ≤ 0x06))
  | .DC => some (decide (op ≤ 0x04))
  | .VA => if vbOnly op then none else some (vecBoth op || vaOnly op)
  | .VB => if vaOnly op then none else some (vecBoth op || vbOnly op)

/-- Candidate of a slot word whose opcode is not 0. -/
def candidate (sl : Slot) (ftl : BitVec 2) (w : SlotWord) : Option Instr :=
  let g := guardOf w
  let op := (fld w 27 7).toNat
  match sl with
  | .C => candC g w op
  | .S => candS g w op
  | .L => candL g w op
  | .M => candM ftl g w op
  | .X => candX g w op
  | .DR => candDR g w op
  | .DC => candDC g w op
  | .VA => if vaOnly op then candVA g w op else candVec .va g w op
  | .VB => if vbOnly op then candVB g w op else candVec .vb g w op

/-- The slot word with each field made legal whose values 07 Table 7-1, 07 R184, 08 Table 8-1 or 09 R221 limit within its
place: such a field breaks the range check, not the check of unnamed bits (18 Table 18-2 codes 0x27, 0x28). -/
def legalFields (sl : Slot) (w : SlotWord) : SlotWord :=
  let op := (fld w 27 7).toNat
  match sl with
  | .L => if op = 4 ∨ op = 5 then w &&& 0xFFFFFFFFF8#40 else if op = 8 ∨ op = 9 then w &&& 0xFFF9FFFFF8#40 else w
  | .M => if op = 2 ∧ fld w 9 1 = 0#1 then w &&& 0xFFFFFFFFE7#40 else w
  | .VA | .VB =>
    if (0x18 ≤ op ∧ op ≤ 0x1B) ∨ op = 0x24 then (w &&& 0xFFFFFFFFE1#40) ||| 0x14#40
    else if 0x38 ≤ op ∧ op ≤ 0x3D then w &&& 0xFFFFFFFFE1#40
    else if op = 0x26 then w &&& 0xFFFFFF807E#40
    else if op = 0x28 then w &&& 0xFFFFFFFFFE#40 else w
  | _ => w

/-- The operation of an enabled slot. A candidate stands only if it is well formed and encodes to the word itself, so
that every bit the layouts leave unnamed is zero (05 R122, R126). -/
def decodeSlot (sl : Slot) (ftl : BitVec 2) (w : SlotWord) : Except DecodeErr Instr :=
  if (fld w 27 7).toNat = 0 then
    if w = 0#40 then .ok (.nop sl) else .error .unnamedBits
  else
    match opcodeKnown sl (fld w 27 7).toNat with
    | none => .error .wrongVectorSlot
    | some false => .error .reservedOpcode
    | some true =>
      match candidate sl ftl w with
      | none => .error .badValue
      | some i =>
        if encodeSlot i = w then (if i.wf then .ok i else .error .badValue)
        else if encodeSlot i = legalFields sl w then .error .badValue
        else .error .unnamedBits

/-! ## Bundles -/

/-- Low bit of a slot in the bundle (05 R117). -/
def Slot.base : Slot → Nat
  | .C => 320 | .S => 280 | .L => 240 | .VA => 200 | .VB => 160 | .M => 120 | .X => 80 | .DR => 40 | .DC => 0
/-- Bundle bit that enables a slot (05 Table 5-3). -/
def Slot.enBit : Slot → Nat
  | .C => 372 | .S => 371 | .L => 370 | .VA => 369 | .VB => 368 | .M => 367 | .X => 366 | .DR => 365 | .DC => 364
/-- The 40 bits of a slot. -/
def bundleSlot (b : Bundle) (sl : Slot) : SlotWord := b.extractLsb' sl.base 40
/-- Is the slot enabled? -/
def bundleEn (b : Bundle) (sl : Slot) : Bool := b.getLsbD sl.enBit
/-- Issue offset from SB (05 Table 5-3). -/
def bundleStamp (b : Bundle) : BitVec 11 := b.extractLsb' 373 11
/-- Loop counter that indexes the format table. -/
def bundleFtl (b : Bundle) : BitVec 2 := b.extractLsb' 362 2
/-- Header bits [1:0], zero. -/
def bundleRsvd (b : Bundle) : BitVec 2 := b.extractLsb' 360 2

/-- Little-endian code word of two bytes (00 R5). -/
def codeWordOfBytes (lo hi : Byte) : CodeWord := hi ++ lo

/-- The first code word of a byte stream, decoded, and the bytes after it. -/
def decodeBytes : List Byte → Except DecodeErr (Instr × List Byte)
  | lo :: hi :: rest => (decodeWord (codeWordOfBytes lo hi)).map fun i => (i, rest)
  | _ => .error .reservedCodeWord

/-- What the decoder reads from a table row's word, laid out as a code stream stores it. -/
def decodeTableWord (nbits w : Nat) : Option Instr :=
  if nbits = 16 ∧ w < 65536 then
    match decodeBytes [BitVec.ofNat 8 w, BitVec.ofNat 8 (w / 256)] with
    | .ok (i, _) => some i
    | .error _ => none
  else none

end Sys2Proof
end

