-- ==== Sys2Proof/Machine/State.lean ====
section
/-! DEFINITION. The state of one package (notes/assumptions/1.md): 384 tiles, 16 coaches, the queue table, the tandem
ports, the controllers, host memory; as plain data. INVENTORY.md lists every piece with its rule and reset value. -/
namespace Sys2Proof.Machine

/-- Bytes by address in canonical form: rising addresses, no byte 0, which is what an unlisted address reads as
(scratchpad, vault and block table: 04 R94, 01 R32; host memory: notes/assumptions/5.md). -/
abbrev Mem := List Host.Cell

/-- Who issued an operation: stream address of its bundle, issue cycle, slot code of 17 Table 17-3. -/
structure Src where
  addr : Nat
  issued : Nat
  slot : Nat
  deriving DecidableEq, Repr

/-- Steer register (06 R147) with the issue cycle of the `prep` that fills its target buffer (05 R115). -/
structure Steer where
  cond : Bool
  target : BitVec 17
  fillAt : Option Nat
  deriving DecidableEq, Repr

/-- Loop counter (06 R149, 04 Table 4-5); `period` is the period held or in use; `fillAt` starts the second buffer. -/
structure LoopSt where
  running : Bool
  period : BitVec 16
  j : Nat
  n : Nat
  b0 : Nat
  start : Nat
  len : Nat
  fillAt : Nat
  deriving DecidableEq, Repr

abbrev Acc := Vector W32 1024

/-- Register files (04 Table 4-1). -/
structure Regs where
  s : Vector Word 64
  p : Vector Bool 32
  v : Vector Vec 64
  q : Vector Mask 16
  st : Vector Steer 12
  l : Vector LoopSt 4
  a : Vector Acc 8
  deriving DecidableEq, Repr

/-- First-event record (03 R89). -/
structure FirstEvent where
  addr : BitVec 17
  slot : BitVec 3
  bit : BitVec 3
  deriving DecidableEq, Repr

/-- Flag sets and first-event record (03 R87, R89). -/
structure FlagState where
  fls : BitVec 6
  flva : BitVec 6
  flvb : BitVec 6
  flm : BitVec 6
  fer : Option FirstEvent
  deriving DecidableEq, Repr

/-- Transposer slot (08 R206): rows taken so far, ready cycle once full, columns drained. -/
structure TxSlot where
  rows : List Vec
  ready : Nat
  taken : Nat
  deriving DecidableEq, Repr

/-- Transposer (08 R206). -/
structure Tx where
  b16 : Bool
  s0 : TxSlot
  s1 : TxSlot
  fill : Bool
  drain : Bool
  deriving DecidableEq, Repr

/-- A filled chunk slot (09 R211): B type, E8M0 scale and the 32 x 32 source elements in row order; the panels Q1 to Q9
and the marks nf, nan, snan are functions of them. -/
structure ChunkSlot where
  ty : Ty
  scale : Byte
  blk : List Nat
  deriving DecidableEq, Repr

/-- An `mldb` at work (09 R212). -/
structure MldbOp where
  c : Nat
  g0 : Nat
  base : Nat
  n : Nat
  ty : Ty
  scaled : Bool
  h : Bool
  src : Src
  deriving DecidableEq, Repr

/-- One chunk as an `mmul` read it (09 R222). -/
structure Chunk where
  a : List Nat
  ea : Nat
  slot : ChunkSlot
  deriving DecidableEq, Repr

/-- Bank state (10 R230); Granted is read from the window and the coach's mode. -/
inductive BankSt where
  | closed
  | opened (row : Nat)
  | refreshing
  deriving DecidableEq, Repr

/-- A bank with its checker history (10 R231), refresh pointer (R236) and t_last (R237). -/
structure Bank where
  st : BankSt
  act : Option Nat
  pre : Option Nat
  rd : Option Nat
  wr : Option Nat
  refb : Option Nat
  ptr : Nat
  due : Nat
  deriving DecidableEq, Repr

/-- The engines' own view and history of a granted bank (10 R245), in wall cycles. -/
structure EngBank where
  row : Option Nat
  act : Option Nat
  pre : Option Nat
  rd : Option Nat
  wr : Option Nat
  refb : Option Nat
  deriving DecidableEq, Repr

/-- An open stop window (10 R244): granted in cycles c + 1 to c + len; `wall` is the wall cycle of its `stop`. -/
structure Window where
  mask : BitVec 32
  c : Nat
  len : Nat
  wall : Nat
  deriving DecidableEq, Repr

/-- Vault and its command logic (10). `drWall` and `dcWall` are the wall cycles of the last command of the DR and DC slot
(10 R245), `watermark` the progress of a migration with the old bank count and retired mask (13 R290). -/
structure VaultSt where
  cells : Mem
  banks : Vector Bank 32
  window : Option Window
  eng : Vector EngBank 32
  vttA : Vector Word 16
  vttB : Vector Word 16
  retired : BitVec 32
  n : Nat
  watermark : Option (Nat × Nat × BitVec 32)
  rfclass : Nat
  lastRefWall : Vector Nat 32
  drWall : Option Nat
  dcWall : Option Nat
  deriving DecidableEq, Repr

/-- A line copy at work (08 R196). -/
structure LCopy where
  src : Nat
  dst : Nat
  n : Nat
  h : Bool
  c : Nat
  by_ : Src
  deriving DecidableEq, Repr

/-- Block-table journal entry (04 R106): the phase, the prior memory bytes overwritten and the prior BTST fields. -/
structure JEntry where
  phase : Nat
  old : List Host.Cell
  head : Nat
  free : Nat
  deriving DecidableEq, Repr

/-- Block table (04 R105, R106). -/
structure BlkSt where
  mem : Mem
  head : Nat
  free : Nat
  ops : Nat
  journal : List JEntry
  deriving DecidableEq, Repr

/-- A write that is not yet visible (02 R41, 11 R250). `line` names a physical line and a writer kind of Table 18-4. -/
inductive Write where
  | s (r : Nat) (x : Word)
  | p (r : Nat) (b : Bool)
  | stCond (r : Nat) (b : Bool)
  | stTgt (r : Nat) (t : BitVec 17) (fill : Nat)
  | v (r : Nat) (mask : Mask) (x : Vec)
  | q (r : Nat) (mask : Mask) (x : Mask)
  | acc (r : Nat) (x : Acc)
  | line (l : Nat) (mask : Mask) (x : Vec) (kind : Nat)
  | chunk (g : Nat) (x : ChunkSlot)
  | flags (set : Nat) (bits : BitVec 6)
  | fclr (fs : BitVec 4)
  | sys (idx : Nat) (x : Word)
  | lper (l : Nat) (per : BitVec 16)
  | ft (mask : BitVec 16) (rows : Vector W32 16)
  deriving DecidableEq, Repr

/-- A pending write with the cycle from which it is visible. -/
structure Pend where
  at_ : Nat
  src : Src
  w : Write
  deriving DecidableEq, Repr

/-- An `mmul` at work (09 R222, R223). -/
structure MmulOp where
  c : Nat
  ad : Nat
  g0 : Nat
  n : Nat
  b : Nat
  classical : Bool
  base : Nat
  h : Bool
  aty : Ty
  accept : List Ty
  int : Bool
  scA : Bool
  scB : Bool
  occ : Nat
  lat : Nat
  chunks : List Chunk
  acc0 : Option Acc
  dead : Bool
  src : Src
  deriving DecidableEq, Repr

/-- Matrix engine (09). From a result that fell due before the last chunk of its `mmul` was read (03 R93) until no such `mmul` is at
work, `undo` holds the accumulators and flags before it and the writes to them since, cycle by cycle. -/
structure MatrixSt where
  bs : Vector (Option ChunkSlot) 16
  mldb : Option MldbOp
  mmuls : List MmulOp
  undo : Option (Vector Acc 8 × FlagState × List (List Pend))
  deriving DecidableEq, Repr

/-- Carry snapshot slot (04 Table 4-6) with the restart point's bank record. -/
structure Snap where
  valid : Bool
  settled : Bool
  phase : Nat
  frc : Nat
  sb : Nat
  h : Bool
  addr : Nat
  ftmask : BitVec 16
  s : Vector Word 16
  ft : Vector W32 16
  acq : Vector Word 8
  l : Vector LoopSt 4
  banks : Vector Bank 32
  rl : Nat
  os : Nat
  trigs : Vector Nat 8
  deriving DecidableEq, Repr

/-- Sequencer and fetch (05 R113-R116). `need` counts applied and not yet consumed idle and seg words; `minIssue` is
b + 1 of 18 R344; `markPc` and `markSb` are the stream address and SB after the last bundle issued and the loop ends taken
since, where a commit of that bundle restarts (02 R45). -/
structure SeqSt where
  code : List CodeWord
  dict : List Bundle
  pc : Nat
  sb : Nat
  buf : Nat
  need : Nat
  minIssue : Nat
  ended : Bool
  redirected : Bool
  lastCommit : Option Nat
  rl : Nat
  os : Nat
  refills : List (Nat × List Word)
  outs : List (Nat × List Word)
  markPc : Nat
  markSb : Nat
  deriving DecidableEq, Repr

/-- What the tile's bundle of this cycle asks of the launch: a commit, a rendezvous or a relay; `suppressed` where a code that failed
keeps its `commit` from acting. -/
inductive Meet where
  | none
  | suppressed
  | commit (rl os : Nat)
  | rdv (id : Nat) (cond : Option (Nat × Word))
  | relay
  deriving DecidableEq, Repr

/-- A stored-code error (19 R348): store as the class 0x6 code, unit, how much is in error (bytes in each of the two codewords of a
vault column; bits of the 64-bit word in `bytes` elsewhere) and its syndrome. Register idx: file * 256 + number, file 7 for a loop
counter (notes/assumptions/48.md); scratchpad idx: physical line, 8192 + g for stationary slot g, 8208 + k for
transposer slot k. `word` is the 64-bit word of a register, line or slot that carries the code. Errors come from outside: an
input; one that no code detects is no such error but another stored value. -/
structure StoreErr where
  store : Nat
  idx : Nat
  word : Nat
  bytes : Nat
  bytes1 : Nat
  syndrome : Word
  deriving DecidableEq, Repr
/-- Is an error beyond what the code of its store corrects (19 Table 19-1): more than 6 bytes of a codeword of a vault column, more than
1 bit of a word elsewhere? -/
def StoreErr.fatal (e : StoreErr) : Bool := if e.store = 4 then decide (6 < e.bytes ∨ 6 < e.bytes1) else decide (1 < e.bytes)

/-- Tile lifetime block (19 Table 19-7), with the corrected reads of each physical row (bank * 8256 + row) in the part's
lifetime (19 R351). -/
structure Life where
  sramc : Nat
  vaultc : Nat
  vaultu : Nat
  sramu : Nat
  strikes : Nat
  h1 : Nat
  h2 : Nat
  h4 : Nat
  h7 : Nat
  spares : Vector Nat 32
  fixes : List (Nat × Nat)
  deriving DecidableEq, Repr

/-- Ownership and health of a tile (01 R24, R34, 19 R351): the rows to spare (physical bank, row before translation), the
physical banks to retire, the banks that returned an uncorrectable column and the vertical groups that failed in this relay
interval (19 R352), and `lanes`, an input: the groups whose own lane parity fails. -/
structure Own where
  owner : Option Nat
  enabled : Bool
  failed : Bool
  errs : List StoreErr
  life : Life
  weak : List (Nat × Nat)
  bad : BitVec 32
  lost : BitVec 32
  groups : BitVec 8
  lanes : BitVec 8
  deriving DecidableEq, Repr

/-- A tile (04 R94). `nextSnap` is the snapshot of a commit whose slot still holds an unsettled phase (04 R108). -/
structure Tile where
  regs : Regs
  flags : FlagState
  mtx : MatrixSt
  tx : Tx
  ft : Vector W32 16
  ftmask : BitVec 16
  acq : Vector Word 8
  sp : Mem
  h : Bool
  lcopy : Option LCopy
  vault : VaultSt
  blk : BlkSt
  seq : SeqSt
  pend : List Pend
  snaps : Vector Snap 2
  nextSnap : Option Snap
  digD : BitVec 128
  digW : Nat
  own : Own
  meet : Meet
  trigs : Vector Nat 8
  marks : Vector Nat 8
  deriving DecidableEq, Repr

/-- A mesh or tandem resource (18 Table 18-4, code 0x05): router tile and kind 0-7. -/
structure Res where
  tile : Nat
  kind : Nat
  deriving DecidableEq, Repr

/-- A push in flight (08 R198, R201, R202). `takes` are the resources still to take with their cycles; `crc` is the CRC-32 that
its source generated (19 R353); `leaves` names the port of a push to another package and its cycle I. -/
structure Push where
  id : Nat
  tile : Nat
  desc : Word
  dst : Nat
  addr : Nat
  data : Vec
  crc : BitVec 32
  arrival : Nat
  takes : List (Nat × Res)
  leaves : Option (Nat × Nat)
  src : Src
  deriving DecidableEq, Repr

/-- Kind of an asynchronous operation (06 R157, R158). -/
inductive OpKind where
  | copyIn | copyOut | send | recv | sum | gather | bcast
  deriving DecidableEq, Repr

/-- An accepted, uncompleted asynchronous operation (06 R159, 12 R274, R276, R278). `startWall` is its issue in wall-clock time,
`present` the present set S once the root has fixed it. -/
structure AsyncOp where
  tl : Nat
  num : Nat
  tile : Nat
  kind : OpKind
  host : Word
  va : Nat
  len : Nat
  desc : Vec
  owner : Option Nat
  moved : List Nat
  staged : List (Nat × Nat × Vec)
  startWall : Nat
  present : Option (List Nat)
  deriving DecidableEq, Repr

/-- A timeline counter of a coach (04 R101): numbers issued, live value, completed numbers above it, and the value last
written to its mirror (11 R257). -/
structure Timeline where
  issued : Nat
  live : Nat
  done : List Nat
  shown : Nat
  deriving DecidableEq, Repr

/-- A tile fault record (17 Table 17-3). -/
structure Record where
  cls : Nat
  code : Nat
  first : Bool
  stopped : Bool
  superseded : Bool
  domain : Bool
  slot : Nat
  tile : Nat
  pkg : Nat
  source : Nat
  frame : Nat
  phase : Nat
  addr : Nat
  d1 : Word
  d2 : Word
  wall : Nat
  tag : BitVec 32
  replays : Nat
  variant : Nat
  deriving DecidableEq, Repr

/-- Coach fault log (17 R326): records newest first, at most 127, with its header. -/
structure FaultLog where
  widx : Nat
  recs : List Record
  tag : BitVec 32
  cls : Nat
  code : Nat
  cancels : Nat
  restarts : Nat
  strikes : Nat
  settled : Nat
  deriving DecidableEq, Repr

/-- A launch record (12 Table 12-2). -/
structure LaunchRec where
  type : Nat
  irq : Bool
  msix : Nat
  tag : BitVec 32
  image : Word
  imageLen : Nat
  mirror : Word
  ring : Word
  np : Nat
  timeoutUs : Nat
  completion : Word
  count : Nat
  index : Nat
  digest : BitVec 256
  deriving DecidableEq, Repr

/-- One entry of a relay table (13 Table 13-1). -/
structure RelayEntry where
  sb : Nat
  addr : Nat
  enter : Bool
  deriving DecidableEq, Repr

/-- A variant of an image (13 Table 13-1) with its streams and dictionaries by tile. -/
structure VariantImg where
  req : Word
  hash : BitVec 256
  tiles : List Nat
  nr : Nat
  relay : List RelayEntry
  code : List (Nat × List CodeWord)
  dict : List (Nat × List Bundle)
  deriving DecidableEq, Repr

/-- The per-tile sections of an image (12 Table 12-4); `hasBt` tells whether it holds a block table for the tile. -/
structure TileImg where
  sp : Mem
  vault : List (Nat × Vec)
  refills : List (Nat × List Word)
  outs : List (Nat × List Word)
  ft : Vector W32 16
  hasBt : Bool
  bt : Mem
  btst : Word
  rl0 : Nat
  os0 : Nat
  deriving DecidableEq, Repr

/-- A timetable image as the loader reads it (12 R267). -/
structure Image where
  domain : Bool
  hash : BitVec 256
  peers : List (BitVec 16)
  variants : List VariantImg
  data : List (Nat × TileImg)
  deriving DecidableEq, Repr

/-- What a launch is doing. `paused` is a rendezvous, `relaying` a relay point (true once no variant held), `held` the
hold of 17 R329, `closing`, `reloading`, `waiting` the states of 17 Table 17-6, `finishing` the time from the end or the
stop until its operations have completed (17 R328 step 4, 02 R36). -/
inductive Mode where
  | idle
  | starting
  | running
  | paused
  | relaying (noVariant : Bool)
  | held
  | closing
  | reloading
  | waiting
  | finishing
  deriving DecidableEq, Repr

/-- A committed phase that has not settled (02 R51). -/
structure Unsettled where
  phase : Nat
  start : Nat
  commit : Nat
  wall : Nat
  digests : List (Nat × BitVec 128 × Nat)
  deriving DecidableEq, Repr

/-- A launch (02 R36). `lastRelay` is the frame cycle of the last completed relay point, `spans` the settled phases with
their first frame cycles, newest first, `closingDone` the wall cycle at which a pause or replay state may end; `relayStep`,
`relayWall` and `chosen` are the loader's step at a relay point, the wall cycle it ends, and the variant selected;
`relayMaps` are the bank maps before it: tile, N, retired mask; `relayClass` and `relaySet` are the forecast class and the
variants that hold as that selection took them; `sentTag` is the launch tag that its reports carry, a restore's the image's
(14 R305); `restoring` tells that the relay work ends a restore (14 R302 step 10), `entered` are the tiles that this relay work has
placed; `roster` are the reports with which a domain launch started, and `commits` the packages, by phase, whose commit package 0 has heard
of and found to be its own; `barred` is a phase whose commit falls at other frame cycles on other packages, which never settles;
`struck` is the lowest event frame cycle of the strikes that the replay under way answers (17 R329); `meetFaults` are the
faults of the bundles of this cycle that meet at the launch, kept apart until it stands that they issue (18 R337); `tailWall` is
the wall cycle of the tail write of its record (11 R258), `hatCtr` and `hatMoved` what the image that it restores says; `told` tells
that a domain's package has reported RELOAD done in this WAIT (17 R332), `ranVariant` is the variant that its frame has run last (13
R284). -/
structure Launch where
  mode : Mode
  lrec : LaunchRec
  fn : Nat
  image : Image
  variant : Nat
  relayNo : Nat
  frc : Nat
  phase : Nat
  phaseStart : Nat
  tiles : List Nat
  unsettled : List Unsettled
  replays : List (Nat × Nat)
  pending : Option Nat
  closingDone : Option Nat
  sinceWall : Nat
  rdvId : Nat
  conds : List (Nat × Nat × Word)
  hold : Option Record
  status : Nat
  saves : List (Nat × Tile)
  lastIssued : Nat
  restored : Bool
  lineage : BitVec 128
  reported : List Report
  startEpoch : Option Nat
  logged : Bool
  lastRelay : Option Nat
  spans : List (Nat × Nat)
  relayStep : Nat
  relayWall : Nat
  chosen : Nat
  relayMaps : List (Nat × Nat × BitVec 32)
  relayClass : Nat
  relaySet : BitVec 8
  restoring : Bool
  sentTag : BitVec 32
  entered : List Nat
  roster : List Report
  commits : List (Nat × Nat)
  barred : Option Nat
  struck : Option Nat
  meetFaults : List Record
  tailWall : Nat
  hatCtr : Nat
  hatMoved : Bool
  told : Bool
  ranVariant : Nat
  deriving DecidableEq, Repr

/-- Hatbox registers of a coach (14 Table 14-1). -/
structure Hatbox where
  disp : BitVec 2
  go : Bool
  dst : Word
  peer : Word
  relay : Nat
  code : Nat
  moved : Bool
  busy : Bool
  ctr : Word
  recAddr : Word
  deriving DecidableEq, Repr

/-- A coach: its control block (12 Table 12-5, 13 R291, 14 R293), fault log, timelines, operations and launch; `hot` tells
that its idle tiles are refreshed at class 4 since a thermal stop (20 R368); `past` is the launch that it completed last, for
reports that come when it is idle (19 R358, 20 R366); `unshown` are the completed `acopy.out` operations whose numbers the mirrors do
not show yet (11 R258). -/
structure Coach where
  crect : Word
  cplan : Word
  root : Word
  ranges : List (Nat × Word × Word × Word)
  hat : Hatbox
  log : FaultLog
  rr : Vector Nat 4
  tls : Vector Timeline 8
  ops : List AsyncOp
  unshown : List AsyncOp
  pushes : List Push
  faults : List Record
  hot : Bool
  launch : Launch
  past : Launch
  deriving DecidableEq, Repr

/-- A queue table entry (12 Table 12-1); `tails` are the tail writes with their wall cycles (11 R258). -/
structure Queue where
  status : Nat
  started : BitVec 32
  coach : Nat
  owner : Nat
  prio : Nat
  en : Bool
  lsz : Nat
  tail : BitVec 32
  head : BitVec 32
  base : Word
  tails : List (BitVec 32 × Nat)
  deriving DecidableEq, Repr

/-- A tandem port (08 R202, R203, 19 R354-R357, R361). `rate` 0 down, 1 half, 2 full; `copies` counts, by sequence number,
the copies of flits that were discarded, `training` is the wall cycle at which a retrain in RELOAD began, `half` that of a retrain at half rate,
`lastSent` that of the last flit sent; `unsynced` tells that the port has retrained and its SYNC flit has not come. `holding` are the push flits held until I, `lost` the I and sequence of flits that have no good copy yet. -/
structure Port where
  long : Bool
  rate : Nat
  peer : Option (Nat × Nat)
  gen : BitVec 8
  sent : BitVec 16
  got : BitVec 16
  replay : List (Nat × Flit)
  holding : List Flit
  lost : List (Nat × Nat)
  lastResend : Option Nat
  lateInRelay : Nat
  copies : List (Nat × Nat)
  unsynced : Bool
  training : Option Nat
  half : Option Nat
  lastSent : Option Nat
  hpend : Bool
  fecc : Nat
  crcf : Nat
  r1 : Nat
  r2 : Nat
  r3 : Nat
  late : Nat
  retrains : Nat
  deriving DecidableEq, Repr

/-- A far session row (12 R275, 20 R365): the peer's address and certificate, the AES-256-GCM key, the member endpoints of a
group session by index. -/
structure Session where
  peer : BitVec 48
  cert : List Byte
  key : BitVec 256
  ends : List (Nat × BitVec 48)
  state : Nat
  failed : Nat
  nonce : Nat
  deriving DecidableEq, Repr

/-- A lineage of the counter store (14 R299). -/
structure Lineage where
  id : BitVec 128
  kmax : Nat
  moved : Bool
  deriving DecidableEq, Repr

/-- A management event entry (20 Table 20-3). -/
structure MgmtEvent where
  code : Nat
  sev : Nat
  source : Nat
  time : Nat
  d1 : Word
  d2 : Word
  deriving DecidableEq, Repr

/-- The configuration image (01 R31), with the accepted firmware measurements of peers (14 R301). -/
structure CfgImage where
  good : Bool
  firmwareGood : Bool
  disabled : List Nat
  long : BitVec 16
  rates : List Nat
  peers : List (Nat × Nat × Nat)
  rects : List (Nat × Word)
  queues : List (Nat × Nat × Nat)
  vtt : List (Nat × Nat × Word × Word)
  retired : List (Nat × BitVec 32)
  failed : List Nat
  accepted : List (BitVec 512)
  version : Nat
  deriving DecidableEq, Repr

/-- Module flash: configuration image, counter store, event log, saved lifetime blocks, Quamor's certificate of the identity
key (01 R30) and the measurement of the firmware it holds. `storeFails` is an input: the counter-store writes fail. -/
structure Flash where
  cfg : CfgImage
  storeGood : Bool
  storeFails : Bool
  store : List Lineage
  events : List MgmtEvent
  eventCount : Nat
  lives : List (Nat × Life)
  ports : List (Nat × Port)
  cert : List Byte
  measure : BitVec 512
  deriving DecidableEq, Repr

/-- What the package gives to the outside: interrupts, read data, flits, PLDM messages. -/
inductive Output where
  | msix (fn vector : Nat)
  | ready
  | readData (fn : Nat) (x : List Byte)
  | flit (port : Nat) (f : Flit)
  | idle (port : Nat) (f : Flit)
  | stopMessage (coach cls code frame : Nat)
  | farFrame (session : Nat) (nonce : BitVec 96) (text : List Byte) (tag : BitVec 128)
  | fieldRecord (x : List Byte)
  | platformEvent (n : Nat) (e : MgmtEvent)
  | linkRecord (port pkg peer : Nat)
  deriving DecidableEq, Repr

/-- What the step does next (notes/assumptions/2.md). -/
inductive Task where
  | ev (i : Instr)
  | arrive (coach : Nat)
  | mesh (coach : Nat)
  | land (coach : Nat)
  | tile (coach t : Nat)
  | slot (sl : Slot) (ftl : BitVec 2) (w : SlotWord)
  | endBundle
  | deadline (coach : Nat)
  | endCycle (coach : Nat)
  | timers (stage : Nat)
  | tick
  deriving DecidableEq, Repr

/-- The bundle being issued: its tile and coach, its source, the tile and coach as they stood before it, and the faults
its slots have met. -/
structure Cursor where
  coach : Nat
  tile : Nat
  src : Src
  save : Option (Tile × Coach)
  faults : List Record
  words : Nat
  deriving DecidableEq, Repr

/-- Package-level controllers and memories. `epoch` counts the cycles of the domain's epochs (02 R63), `treePath` is the longest padded path of the
domain tree as its training found it (02 R64), an input. Two inputs: `hostIn`
are the host's own writes to its memory, by wall cycle, address and bytes; `hostBad` are the physical host addresses, in
units of 256 bytes, whose reads end with a PCIe completion status (20 Table 20-1 code 0x8/0x0B). `hostOld` are the values that
bytes held before the host's own writes to them, with the wall cycles of those writes (11 R258). `flips` are the bits of a push that the mesh changes in flight, by
push, an input. `bundle` is what the controller signs at bring-up (14 R296, R301). `debug` tells the form QM-OP384-E (00 Table 0-1;
notes/assumptions/48.md). The host's configuration
of the functions is an input too: `fnOff` are the disabled ones, `msix` the sizes of the MSI-X tables, 2,048 where it names
none (12 R266, R268; notes/assumptions/23.md). -/
structure Pkg where
  boot : Nat
  index : Nat
  queues : List (Nat × Queue)
  apsel : List (Nat × Word)
  ports : Vector Port 16
  epoch : Nat
  treePath : Nat
  sessions : List (Nat × Session)
  fcst : Vector Word 4
  temps : Vector (Nat × Nat) 4
  flash : Flash
  host : Mem
  hostIn : List (Nat × Nat × List Byte)
  hostBad : List (Nat × Nat)
  hostOld : List (Nat × Byte × Nat)
  flips : List (Nat × Vec)
  bundle : List Byte
  debug : Bool
  fnOff : List Nat
  msix : List (Nat × Nat)
  out : List Output
  nextId : Nat
  deriving DecidableEq, Repr

/-- The state. `draws` counts the free values drawn so far: the model's own field. -/
structure State where
  wall : Nat
  todo : List Task
  agenda : List (Nat × Instr)
  draws : Nat
  cur : Cursor
  tiles : List (Nat × Tile)
  coaches : Vector Coach 16
  pkg : Pkg
  deriving DecidableEq, Repr

/-- Why the machine stops with a fault. -/
inductive Fault where
  /-- Raised by an event whose index names no tile, bank, coach, port, queue or session of the package (01 R13, R16, R18,
  R22, R23). Safe: the spec gives the package no such unit. -/
  | noSuchUnit
  deriving DecidableEq, Repr

/-- Why an instruction has no meaning. -/
inductive Refusal where
  /-- Raised by no meaning of this model; kept for an arm without its meaning yet. Safe. -/
  | notModelled (mnemonic : String)
  /-- Raised by `step` where a code word or slot word is no instruction (18 Table 18-2): the loader refuses every image
  that holds one (05 R126), so no launch reaches it. Safe. -/
  | undecodable (code : Nat)
  deriving DecidableEq, Repr

/-! ## Reset values -/

def Steer.reset : Steer := ⟨false, 0#17, none⟩
def LoopSt.reset : LoopSt := ⟨false, 0#16, 0, 0, 0, 0, 0, 0⟩
def Acc.reset : Acc := Vector.replicate 1024 0#32
def Regs.reset : Regs :=
  ⟨Vector.replicate 64 0#64, Vector.replicate 32 false, Vector.replicate 64 0#2048, Vector.replicate 16 0#256,
    Vector.replicate 12 Steer.reset, Vector.replicate 4 LoopSt.reset, Vector.replicate 8 Acc.reset⟩
def FlagState.reset : FlagState := ⟨0#6, 0#6, 0#6, 0#6, none⟩
def TxSlot.reset : TxSlot := ⟨[], 0, 0⟩
def Tx.reset : Tx := ⟨false, TxSlot.reset, TxSlot.reset, false, false⟩
def MatrixSt.reset : MatrixSt := ⟨Vector.replicate 16 none, none, [], none⟩
def Bank.reset : Bank := ⟨.closed, none, none, none, none, none, 0, 0⟩
def EngBank.reset : EngBank := ⟨none, none, none, none, none, none⟩
def VaultSt.reset : VaultSt :=
  ⟨[], Vector.replicate 32 Bank.reset, none, Vector.replicate 32 EngBank.reset, Vector.replicate 16 0#64,
    Vector.replicate 16 0#64, 0#32, 32, none, 0, Vector.replicate 32 0, none, none⟩
def BlkSt.reset : BlkSt := ⟨[], 0, 0, 0, []⟩
def SeqSt.reset : SeqSt := ⟨[], [], 0, 0, 0, 0, 0, false, false, none, 0, 0, [], [], 0, 0⟩
def Snap.reset : Snap :=
  ⟨false, false, 0, 0, 0, false, 0, 0#16, Vector.replicate 16 0#64, Vector.replicate 16 0#32, Vector.replicate 8 0#64,
    Vector.replicate 4 LoopSt.reset, Vector.replicate 32 Bank.reset, 0, 0, Vector.replicate 8 0⟩
def Life.reset : Life := ⟨0, 0, 0, 0, 0, 0, 0, 0, 0, Vector.replicate 32 0, []⟩
def Own.reset : Own := ⟨none, false, false, [], Life.reset, [], 0#32, 0#32, 0#8, 0#8⟩

/-- A tile after bring-up step 4 clears it (04 Table 4-1, 01 R32); FTMASK is 0xFFFF (04 Table 4-5). -/
def Tile.reset : Tile :=
  { regs := Regs.reset, flags := FlagState.reset, mtx := MatrixSt.reset, tx := Tx.reset
    ft := Vector.replicate 16 0#32, ftmask := 0xFFFF#16, acq := Vector.replicate 8 0#64, sp := [], h := false
    lcopy := none, vault := VaultSt.reset, blk := BlkSt.reset, seq := SeqSt.reset, pend := []
    snaps := Vector.replicate 2 Snap.reset, nextSnap := none, digD := 0#128, digW := 0, own := Own.reset, meet := .none
    trigs := Vector.replicate 8 0, marks := Vector.replicate 8 0 }

def FaultLog.reset : FaultLog := ⟨0, [], 0#32, 0, 0, 0, 0, 0, 0⟩
/-- The sections of a tile for which an image holds none. -/
def TileImg.reset : TileImg := ⟨[], [], [], [], Vector.replicate 16 0#32, false, [], 0#64, 0, 0⟩
def LaunchRec.reset : LaunchRec := ⟨0, false, 0, 0#32, 0#64, 0, 0#64, 0#64, 0, 0, 0#64, 0, 0, 0#256⟩
def Image.reset : Image := ⟨false, 0#256, [], [], []⟩
def Launch.reset : Launch :=
  { mode := .idle, lrec := LaunchRec.reset, fn := 0, image := Image.reset, variant := 0, relayNo := 0, frc := 0, phase := 0
    phaseStart := 0, tiles := [], unsettled := [], replays := [], pending := none, closingDone := none, sinceWall := 0
    rdvId := 0, conds := [], hold := none, status := 0, saves := [], lastIssued := 0, restored := false, lineage := 0#128
    reported := [], startEpoch := none, logged := false, lastRelay := none, spans := [], relayStep := 0, relayWall := 0, chosen := 0, relayMaps := []
    relayClass := 0, relaySet := 0#8, restoring := false, sentTag := 0#32, entered := [], roster := [], commits := []
    barred := none, struck := none, meetFaults := [], tailWall := 0, hatCtr := 0, hatMoved := false, told := false
    ranVariant := 0 }
def Hatbox.reset : Hatbox := ⟨0#2, false, 0#64, 0#64, 0, 0, false, false, 0#64, 0#64⟩
def Timeline.reset : Timeline := ⟨0, 0, [], 0⟩

/-- A coach after bring-up with no rectangle; the last queue served is initially 32,767 (12 R268). -/
def Coach.reset : Coach :=
  { crect := 0#64, cplan := 0#64, root := 0#64, ranges := [], hat := Hatbox.reset, log := FaultLog.reset
    rr := Vector.replicate 4 32767, tls := Vector.replicate 8 Timeline.reset, ops := [], unshown := [], pushes := [], faults := []
    hot := false, launch := Launch.reset, past := Launch.reset }

/-- A queue that the configuration image does not name: owner physical function 0, coach 0 (notes/assumptions/3.md). -/
def Queue.reset : Queue := ⟨0, 0#32, 0, 0x80, 0, false, 0, 0#32, 0#32, 0#64, []⟩
def Port.reset : Port :=
  { long := false, rate := 0, peer := none, gen := 0#8, sent := 0#16, got := 0#16, replay := [], holding := [], lost := []
    lastResend := none, lateInRelay := 0, copies := [], unsynced := false, training := none, half := none, lastSent := none, hpend := false, fecc := 0, crcf := 0, r1 := 0, r2 := 0, r3 := 0, late := 0
    retrains := 0 }
def Session.reset : Session := ⟨0#48, [], 0#256, [], 1, 0, 0⟩

/-- The configuration image of the model (notes/assumptions/3.md): every tile enabled (01 R34), short links at full rate,
no trained peer, coach 0 the whole package, queues of physical function 0 on coach 0. -/
def CfgImage.reset : CfgImage :=
  { good := true, firmwareGood := true, disabled := [], long := 0#16, rates := [2, 2, 2, 2], peers := []
    rects := [(0, 0x9700F000#64)], queues := [], vtt := [], retired := [], failed := [], accepted := [], version := 0 }
def Flash.reset : Flash := ⟨CfgImage.reset, true, false, [], [], 0, [], [], [], 0#512⟩
def Pkg.reset : Pkg :=
  { boot := 0, index := 0, queues := [], apsel := [], ports := Vector.replicate 16 Port.reset, epoch := 0, treePath := 0, sessions := []
    fcst := Vector.replicate 4 0#64, temps := Vector.replicate 4 (0, 0), flash := Flash.reset, host := [], hostIn := [], hostBad := [], hostOld := [], flips := [], bundle := [], debug := false, fnOff := [], msix := [], out := []
    nextId := 0 }
def Cursor.reset : Cursor := ⟨0, 0, ⟨0, 0, 0⟩, none, [], 0⟩

/-- The machine right after reset: the supplies are stable and the bring-up sequence is what runs next (01 R32). -/
def State.reset : State :=
  { wall := 0, todo := [.ev .bringUp], agenda := [], draws := 0, cur := Cursor.reset, tiles := []
    coaches := Vector.replicate 16 Coach.reset, pkg := Pkg.reset }

end Sys2Proof.Machine
end

