-- ==== Sys2Proof/Machine/Operands.lean ====
section
/-! DEFINITION. Operand forms: lanes of a vector, predicate masks, scratchpad effective addresses, packed vault
addresses, scalar extensions. -/
namespace Sys2Proof.Machine

/-! ## Lanes (00 R6, 07 R164) -/

/-- Lane i of width w. -/
def lane (x : Vec) (w i : Nat) : Nat := x.toNat / 2 ^ (w * i) % 2 ^ w
/-- The number whose first n fields of width w are f 0, f 1, ... -/
def packN (w : Nat) (f : Nat → Nat) : Nat → Nat
  | 0 => 0
  | n + 1 => packN w f n + f n % 2 ^ w * 2 ^ (w * n)
/-- The vector whose first n lanes of width w are f 0, f 1, ..., the rest 0. -/
def ofLanes (w n : Nat) (f : Nat → Nat) : Vec := BitVec.ofNat 2048 (packN w f n)
/-- Number of lanes of width w. -/
def lanes (w : Nat) : Nat := 2048 / w
/-- Byte j of a vector. -/
def byteAt (x : Vec) (j : Nat) : Byte := x.extractLsb' (8 * j) 8
/-- Lane i of a list of lane values. -/
def nth (xs : List Nat) (i : Nat) : Nat := xs.getD i 0
/-- All lanes of a vector. -/
def laneList (x : Vec) (w : Nat) : List Nat := (List.range (lanes w)).map (lane x w)

/-! ## Vector predicates (07 R165) -/

/-- Is lane i of width w enabled or partial: has some byte lane its predicate bit? -/
def laneOn (q : Mask) (w i : Nat) : Bool := q.toNat / 2 ^ (w / 8 * i) % 2 ^ (w / 8) ≠ 0
/-- The predicate bits of the byte lanes of a lane mask: width w, lanes f 0 to f (n-1). -/
def maskOf (w n : Nat) (f : Nat → Bool) : Mask :=
  BitVec.ofNat 256 (packN (w / 8) (fun i => if f i then 2 ^ (w / 8) - 1 else 0) n)
/-- All byte lanes. -/
def allOn : Mask := BitVec.allOnes 256
/-- Each predicate bit repeated for the eight bits of its byte lane. -/
def spread (q : Mask) : Vec :=
  BitVec.ofNat 2048 (packN 8 (fun j => if q.getLsbD j then 0xFF else 0) 256)
/-- Bytes of x where the mask has 1, of old elsewhere (07 R165). -/
def blend (q : Mask) (old x : Vec) : Vec :=
  if q = allOn then x else let m := spread q; (x &&& m) ||| (old &&& ~~~m)

/-! ## Scalars -/

/-- An integer as a 64-bit scalar. -/
def ofI (x : Int) : Word := BitVec.ofInt 64 x
/-- Field [hi:lo] of a word as a number. -/
def bits (x : Word) (hi lo : Nat) : Nat := x.toNat / 2 ^ lo % 2 ^ (hi + 1 - lo)

/-! ## Scratchpad addresses (04 R97) -/

/-- Physical line of a scratchpad address below 2^21 under the half-swap bit. -/
def physLine (h : Bool) (a : Nat) : Nat :=
  let half := (a / 2 ^ 20 % 2 == 1) != h
  (if half then 4096 else 0) + a / 256 % 4096

/-- Scalar base plus 256 times a signed line offset, modulo 2^64 (05 R131, 08 R192). -/
def lmSum (base : Word) (off : BitVec 12) : Word := base + BitVec.ofInt 64 (256 * off.toInt)

/-- A failed range or alignment check (18 Table 18-3): its code and the effective address reported. -/
structure AddrFail where
  code : Nat
  addr : Word
  deriving DecidableEq, Repr

/-- Range and alignment of an access of `len` bytes at the address `a`; one that wrapped below zero is far above the end. An address at or above the end is out of range, a misaligned one below it is misaligned whatever its extent (18 R341,
Table 18-8; notes/assumptions/8.md). -/
def checkAddr (a : Int) (len align : Nat) : Option AddrFail :=
  if a < 0 ∨ a + len > Config.spEnd ∧ (a % align = 0 ∨ a ≥ Config.spEnd) then some ⟨0x01, ofI a⟩
  else if a % align ≠ 0 then some ⟨0x02, ofI a⟩
  else none

/-! ## Packed vault addresses (10 R234) -/

/-- A logical bank, row and column. -/
structure VAddr where
  bank : Nat
  row : Nat
  col : Nat
  deriving DecidableEq, Repr

/-- Unpacks bits [21:0]: bank [21:17], row [16:4], column [3:0]. -/
def unpackV (x : Nat) : VAddr := ⟨x / 2 ^ 17 % 32, x / 2 ^ 4 % 8192, x % 16⟩
def packV (v : VAddr) : Nat := v.bank * 2 ^ 17 + v.row * 2 ^ 4 + v.col

/-! ## Slot codes and opcodes of records (17 Table 17-3, 05 R125) -/

def scS : Nat := 1
def scVA : Nat := 2
def scVB : Nat := 3
def scM : Nat := 4
def scC : Nat := 5
def scL : Nat := 6
def scX : Nat := 7
def scDR : Nat := 8
def scDC : Nat := 9
def scSeq : Nat := 10
def scRouter : Nat := 11
def scPort : Nat := 12
/-- Slot code of a vector slot. -/
def scV : VSlot → Nat
  | .va => scVA | .vb => scVB

end Sys2Proof.Machine
end

