-- ==== Sys2Proof/Machine/Flags.lean ====
section
/-! DEFINITION. Flag sets and the first-event record (03 R87-R89, 04 R107, 06 R161). A flag set's number is its slot
code: 1 S, 2 VA, 3 VB, 4 M. -/
namespace Sys2Proof.Machine

/-- Lowest set bit of a flag event below `k` bits (03 R89: lowest flag bit first). -/
def lowBit (f : Fl) : Nat → Nat
  | 0 => 0
  | k + 1 => if f.getLsbD (5 - k) then 5 - k else lowBit f k

/-- A flag event becomes visible: the sticky bits are set, and the record is taken if it is clear (03 R88, R89). -/
def FlagState.raise (s : FlagState) (set : Nat) (f : Fl) (addr : Nat) : FlagState :=
  let s := if f = 0#6 then s else
    match s.fer with
    | some _ => s
    | none => { s with fer := some ⟨BitVec.ofNat 17 addr, BitVec.ofNat 3 set, BitVec.ofNat 3 (lowBit f 6)⟩ }
  match set with
  | 1 => { s with fls := s.fls ||| f }
  | 2 => { s with flva := s.flva ||| f }
  | 3 => { s with flvb := s.flvb ||| f }
  | _ => { s with flm := s.flm ||| f }

/-- The flag set of a slot code. -/
def FlagState.get (s : FlagState) (set : Nat) : Fl :=
  match set with
  | 1 => s.fls | 2 => s.flva | 3 => s.flvb | _ => s.flm

/-- `fclr` of the sets of fs4, [3] S to [0] M; the record only when it names a cleared set (06 R161). -/
def FlagState.clear (s : FlagState) (fs : BitVec 4) : FlagState :=
  let hit (set : Nat) : Bool := fs.getLsbD (4 - set)
  { fls := if hit 1 then 0#6 else s.fls
    flva := if hit 2 then 0#6 else s.flva
    flvb := if hit 3 then 0#6 else s.flvb
    flm := if hit 4 then 0#6 else s.flm
    fer := match s.fer with
      | none => none
      | some r => if hit r.slot.toNat then none else some r }

/-- W1C of one flag set by a `wrsys` (04 R107): the record goes too when it names that set and a bit written as 1. -/
def FlagState.w1c (s : FlagState) (set : Nat) (x : Word) : FlagState :=
  let m : Fl := BitVec.truncate 6 x
  let fer := match s.fer with
    | none => none
    | some r => if r.slot.toNat = set ∧ m.getLsbD r.bit.toNat then none else some r
  match set with
  | 1 => { s with fls := s.fls &&& ~~~m, fer := fer }
  | 2 => { s with flva := s.flva &&& ~~~m, fer := fer }
  | 3 => { s with flvb := s.flvb &&& ~~~m, fer := fer }
  | _ => { s with flm := s.flm &&& ~~~m, fer := fer }

/-- A write to FER with bit [63] = 1 clears the record (04 R107). -/
def FlagState.ferW1c (s : FlagState) (x : Word) : FlagState :=
  if x.getLsbD 63 then { s with fer := none } else s

/-- FER as a system register (04 Table 4-5). -/
def FlagState.ferWord (s : FlagState) : Word :=
  match s.fer with
  | none => 0#64
  | some r => BitVec.ofNat 64 (2 ^ 63 + r.addr.toNat * 2 ^ 10 + r.slot.toNat * 2 ^ 3 + r.bit.toNat)

end Sys2Proof.Machine
end

