-- ==== Sys2Proof/Machine/Flits.lean ====
section
/-! DEFINITION. Tandem flits: their 276 bytes and CRC-32, and the control flits of types 0x02 to 0x05 (19 R353, R354). The spec
lays out no payload of a control flit: the fields of theirs, 64-bit words from byte 0, are the model's
(notes/assumptions/27.md). -/
namespace Sys2Proof.Machine

/-- Bytes of a number, lowest first. -/
def bytesOf (x : Nat) : Nat → List Byte
  | 0 => []
  | n + 1 => BitVec.ofNat 8 x :: bytesOf (x / 256) n
/-- Little-endian number of a list of bytes. -/
def natOf : List Byte → Nat
  | [] => 0
  | b :: r => b.toNat + 256 * natOf r

/-! ## CRC-32 (IEEE 802.3), of pushes and flits (19 R353, R354) -/

/-- The register after n more bits, least significant bit first. -/
def crcBits (c : BitVec 32) : Nat → BitVec 32
  | 0 => c
  | n + 1 => crcBits (if c.getLsbD 0 then (c >>> 1) ^^^ 0xEDB88320#32 else c >>> 1) n
def crcByte (c : BitVec 32) (b : Byte) : BitVec 32 := crcBits (c ^^^ b.zeroExtend 32) 8
def crc32 (x : List Byte) : BitVec 32 := ~~~(x.foldl crcByte 0xFFFFFFFF#32)
/-- CRC-32 of a push: its 256 bytes and its descriptor. -/
def pushCrc (data : Vec) (desc : Word) : BitVec 32 := crc32 (bytesOf data.toNat 256 ++ bytesOf desc.toNat 8)
/-- The 272 bytes of a flit before its CRC-32 (19 Table 19-4), and all 276. -/
def flitBody (f : Flit) : List Byte :=
  f.kind :: bytesOf f.gen.toNat 1 ++ bytesOf f.seq.toNat 2 ++ bytesOf f.ack.toNat 2 ++
    bytesOf (f.tile.toNat + if f.nak then 2 ^ 15 else 0) 2 ++ bytesOf f.addr.toNat 4 ++ bytesOf f.inject.toNat 4 ++
    bytesOf f.data.toNat 256
def flitBytes (f : Flit) : List Byte := flitBody f ++ bytesOf f.crc.toNat 4
/-- Does the link's CRC-32 hold? -/
def flitGood (f : Flit) : Bool := f.crc == crc32 (flitBody f)
/-- A flit with its CRC-32. -/
def flitSeal (f : Flit) : Flit := { f with crc := crc32 (flitBody f) }

/-! ## Control flits -/

/-- A vector whose first 64-bit words are those of a list, and the n-th such word. -/
def vecOf (xs : List Nat) : Vec := ofLanes 64 32 (nth xs)
def wordAt (x : Vec) (n : Nat) : Nat := lane x 64 n
/-- A sealed flit of a type with a payload, under a header that names no push. -/
def ctlFlit (kind : Byte) (gen : BitVec 8) (sent got : BitVec 16) (xs : List Nat) : Flit :=
  flitSeal ⟨kind, gen, sent, got, false, 0#9, 0#21, 0#32, vecOf xs, 0#32, 0, 0#9, 0#64, 0#32⟩
/-- The header that a port gives to the next flit, one that is no push: its generation, the next sequence number, its
acknowledgement. -/
def Port.ctl (q : Port) (kind : Byte) (xs : List Nat) : Flit := ctlFlit kind q.gen (q.sent + 1) q.got xs
/-- An epoch SYNC flit (type 0x02) with its count, and a retrain flit (type 0x05) with its rate. -/
def Port.syncFlit (q : Port) (count : Nat) : Flit := q.ctl 0x02#8 [count]
def Port.retrainFlit (q : Port) (half : Bool) : Flit := q.ctl 0x05#8 [half.toNat]
/-- A START SYNC flit (type 0x03): launch tag, epoch boundary, variant. -/
def Port.startFlit (q : Port) (tag : BitVec 32) (epoch variant : Nat) : Flit := q.ctl 0x03#8 [tag.toNat, epoch, variant]

/-- A kind of report as a number and its two arguments, and back. -/
def kindCode : ReportKind → Nat × Nat × Nat
  | .ready => (0, 0, 0)
  | .held => (1, 0, 0)
  | .rdv id => (2, id, 0)
  | .reloadDone n => (3, n, 0)
  | .committed k => (4, k, 0)
  | .refused x => (5, x, 0)
  | .cancelled f strike => (6, f, strike.toNat)
  | .noVariant => (7, 0, 0)
def kindOf (n a b : Nat) : Option ReportKind :=
  match n with
  | 0 => some .ready
  | 1 => some .held
  | 2 => some (.rdv a)
  | 3 => some (.reloadDone a)
  | 4 => some (.committed a)
  | 5 => some (.refused a)
  | 6 => some (.cancelled a (b == 1))
  | 7 => some .noVariant
  | _ => none
/-- A condition report flit (type 0x04). -/
def Port.reportFlit (q : Port) (r : Report) : Flit :=
  q.ctl 0x04#8 [r.pkg, (kindCode r.kind).1, (kindCode r.kind).2.1, (kindCode r.kind).2.2, r.tag.toNat, r.count, r.relay,
    r.variants.toNat, r.ports.toNat, r.frame, r.tile, r.restore.toNat]
/-- The report that a payload holds. -/
def reportOf (x : Vec) : Option Report :=
  (kindOf (wordAt x 1) (wordAt x 2) (wordAt x 3)).map fun k =>
    ⟨wordAt x 0, k, BitVec.ofNat 32 (wordAt x 4), wordAt x 5, wordAt x 6, BitVec.ofNat 8 (wordAt x 7),
      BitVec.ofNat 16 (wordAt x 8), wordAt x 9, wordAt x 10, wordAt x 11 == 1⟩

end Sys2Proof.Machine
end

