-- ==== Sys2Proof/Machine/Ops.lean ====
section
/-! DEFINITION. The named operations over the state: sparse maps, memories, registers, writes not yet visible, records,
taking a fault (17 R328, R329, R339) and the return from it by replay (17 R332-R334). -/
namespace Sys2Proof.Machine

/-! ## Sparse maps by number, in rising order -/

/-- The entry of a key, else the default. -/
def getK {α : Type} (d : α) : List (Nat × α) → Nat → α
  | [], _ => d
  | (k, x) :: r, n => if k = n then x else getK d r n
/-- Writes the entry of a key, keeping rising order. -/
def setK {α : Type} : List (Nat × α) → Nat → α → List (Nat × α)
  | [], n, y => [(n, y)]
  | (k, x) :: r, n, y =>
    if n = k then (k, y) :: r else if n < k then (n, y) :: (k, x) :: r else (k, x) :: setK r n y
/-- Removes a key. -/
def delK {α : Type} : List (Nat × α) → Nat → List (Nat × α)
  | [], _ => []
  | (k, x) :: r, n => if k = n then r else (k, x) :: delK r n

/-- Insertion into a list in the order `le`, and sorting by it. -/
def insertBy {α : Type} (le : α → α → Bool) (x : α) : List α → List α
  | [] => [x]
  | y :: r => if le x y then x :: y :: r else y :: insertBy le x r
def sortBy {α : Type} (le : α → α → Bool) : List α → List α
  | [] => []
  | x :: r => insertBy le x (sortBy le r)

/-! ## Memories in canonical form: rising addresses, no byte 0 -/

/-- All addresses are above `lo`, rising, and no listed byte is 0. -/
def Mem.above (lo : Nat) : Mem → Bool
  | [] => true
  | (k, x) :: r => decide (lo ≤ k) && decide (x ≠ 0#8) && Mem.above (k + 1) r
/-- The canonical form. -/
abbrev Mem.wf (m : Mem) : Bool := Mem.above 0 m
/-- The byte at an address; an unlisted byte reads 0. -/
def Mem.get : Mem → Nat → Byte
  | [], _ => 0#8
  | (k, x) :: r, a => if k = a then x else if a < k then 0#8 else Mem.get r a
/-- Writes a byte, keeping the canonical form: writing 0 removes the entry. -/
def Mem.put : Mem → Nat → Byte → Mem
  | [], a, b => if b = 0#8 then [] else [(a, b)]
  | (k, x) :: r, a, b =>
    if k = a then (if b = 0#8 then r else (k, b) :: r)
    else if a < k then (if b = 0#8 then (k, x) :: r else (a, b) :: (k, x) :: r)
    else (k, x) :: Mem.put r a b
/-- Little-endian number of `n` bytes from an address (00 R5). -/
def Mem.getN (m : Mem) (a : Nat) : Nat → Nat
  | 0 => 0
  | n + 1 => (m.get a).toNat + 256 * Mem.getN m (a + 1) n
/-- Writes `n` bytes of a number, little-endian. -/
def Mem.putN (m : Mem) (a : Nat) : Nat → Nat → Mem
  | 0, _ => m
  | n + 1, x => Mem.putN (m.put a (BitVec.ofNat 8 x)) (a + 1) n (x / 256)
/-- Writes a list of bytes. -/
def Mem.putL (m : Mem) (a : Nat) : List Byte → Mem
  | [] => m
  | b :: r => Mem.putL (m.put a b) (a + 1) r
/-- `n` bytes from an address. -/
def Mem.getL (m : Mem) (a : Nat) : Nat → List Byte
  | 0 => []
  | n + 1 => m.get a :: Mem.getL m (a + 1) n
/-- The 256 bytes from an address as a vector: byte 0 is bits [7:0] (00 R6). -/
def Mem.vec (m : Mem) (a : Nat) : Vec := BitVec.ofNat 2048 (m.getN a 256)
/-- Writes the bytes of a vector whose mask bit is 1, for byte lanes j to j + n - 1. -/
def Mem.putVec (m : Mem) (a : Nat) (mask : Mask) (x : Vec) (j : Nat) : Nat → Mem
  | 0 => m
  | n + 1 => Mem.putVec (if mask.getLsbD j then m.put (a + j) (byteAt x j) else m) a mask x (j + 1) n

/-! ## Fields of registers: what is not one is rsvd and reads 0 (00 R8) -/

/-- CRECT and CPLAN (13 Table 13-6), and the two words of a translation entry (04 Tables 4-3, 4-4). -/
def rectMask : Word := 0x9F1FF00F#64
def vttMaskA : Word := 0x83FFFFFFFFFFFFFF#64
def vttMaskB : Word := 0x3FFF#64

/-- Words of the translation table that a configuration image seeds on a tile (01 R31): the A words, or the B words. -/
def CfgImage.table (k : CfgImage) (t : Nat) (b : Bool) : Vector Word 16 := Vector.ofFn fun i =>
  match k.vtt.find? fun e => e.1 == t && e.2.1 == i.val with
  | some (_, _, x, y) => if b then y &&& vttMaskB else x &&& vttMaskA
  | none => 0#64

/-! ## State plumbing -/

def State.tile (s : State) (t : Nat) : Tile := getK Tile.reset s.tiles t
def State.setTile (s : State) (t : Nat) (x : Tile) : State := { s with tiles := setK s.tiles t x }
def State.modTile (s : State) (t : Nat) (f : Tile → Tile) : State := s.setTile t (f (s.tile t))
def State.coach (s : State) (c : Nat) : Coach := s.coaches.getD c Coach.reset
def State.setCoach (s : State) (c : Nat) (x : Coach) : State := { s with coaches := s.coaches.setIfInBounds c x }
def State.modCoach (s : State) (c : Nat) (f : Coach → Coach) : State := s.setCoach c (f (s.coach c))
def State.modLaunch (s : State) (c : Nat) (f : Launch → Launch) : State :=
  s.modCoach c fun k => { k with launch := f k.launch }
def State.modPkg (s : State) (f : Pkg → Pkg) : State := { s with pkg := f s.pkg }
/-- The tile of the bundle being issued. -/
def State.ct (s : State) : Tile := s.tile s.cur.tile
def State.modCt (s : State) (f : Tile → Tile) : State := s.modTile s.cur.tile f
/-- The launch of the bundle being issued. -/
def State.cl (s : State) : Launch := (s.coach s.cur.coach).launch
/-- The frame cycle of the bundle being issued. -/
def State.frc (s : State) : Nat := s.cl.frc
def State.out (s : State) (o : Output) : State := s.modPkg fun p => { p with out := p.out ++ [o] }
/-- Are the host ports enabled (01 R32 step 6)? -/
def State.up (s : State) : Bool := s.pkg.boot == 6
/-- Tiles a coach owns. -/
def State.tilesOf (s : State) (c : Nat) : List Nat := (List.range 384).filter fun t => (s.tile t).own.owner == some c
/-- Modifies the tiles of a list. -/
def State.modTiles (s : State) (f : Tile → Tile) : List Nat → State
  | [] => s
  | t :: r => State.modTiles (s.modTile t f) f r
/-- A fresh number for a free value. -/
def State.draw (s : State) : Nat × State := (s.draws, { s with draws := s.draws + 1 })

/-! ## Registers as a reader issuing in this cycle sees them (04 R94, R95) -/

def Regs.sAt (r : Regs) (n : Nat) : Word := if n = 0 then 0#64 else r.s.getD n 0#64
def Regs.pAt (r : Regs) (n : Nat) : Bool := if n = 0 then true else if n = 1 then false else r.p.getD n false
def Regs.vAt (r : Regs) (n : Nat) : Vec := r.v.getD n 0#2048
def Regs.qAt (r : Regs) (n : Nat) : Mask := if n = 0 then allOn else r.q.getD n 0#256
def Regs.stAt (r : Regs) (n : Nat) : Steer := r.st.getD n Steer.reset
def Regs.lAt (r : Regs) (n : Nat) : LoopSt := r.l.getD n LoopSt.reset
def Regs.aAt (r : Regs) (n : Nat) : Acc := r.a.getD n Acc.reset

def State.sv (s : State) (n : BitVec 6) : Word := s.ct.regs.sAt n.toNat
def State.pv (s : State) (n : BitVec 5) : Bool := s.ct.regs.pAt n.toNat
def State.vv (s : State) (n : BitVec 6) : Vec := s.ct.regs.vAt n.toNat
def State.qv (s : State) (n : BitVec 4) : Mask := s.ct.regs.qAt n.toNat
def State.av (s : State) (n : BitVec 3) : Acc := s.ct.regs.aAt n.toNat

/-- The guard of a slot (05 R120). -/
def State.guard (s : State) (g : Guard) : Bool := s.pv g.p != g.neg

/-- A slot operation: nothing at all under a false guard (05 R120). -/
def slotOp (g : Guard) (s : State) (f : State → State) : Host.Outcome State Fault Refusal :=
  .next (if s.guard g then f s else s)

/-! ## Writes not yet visible (02 R41, 11 R250) -/

/-- Source of a write or fault of the current bundle under a slot code. -/
def State.srcOf (s : State) (sc : Nat) : Src := ⟨s.cur.src.addr, s.cur.src.issued, sc⟩
/-- Queues a write of the current bundle, visible `lat` cycles after issue. -/
def State.post (s : State) (sc lat : Nat) (w : Write) : State :=
  s.modCt fun t => { t with pend := t.pend ++ [⟨s.frc + lat, s.srcOf sc, w⟩] }
/-- Write of a scalar; s0 discards it (04 R95). -/
def State.postS (s : State) (sc lat : Nat) (d : BitVec 6) (x : Word) : State :=
  if d = 0#6 then s else s.post sc lat (.s d.toNat x)
/-- Write of a predicate; p0 and p1 discard it. -/
def State.postP (s : State) (sc lat : Nat) (d : Nat) (b : Bool) : State :=
  if d < 2 then s else s.post sc lat (.p d b)
/-- Write of a vector predicate under a mask; q0 discards it. -/
def State.postQ (s : State) (sc lat : Nat) (d : BitVec 4) (mask x : Mask) : State :=
  if d = 0#4 then s else s.post sc lat (.q d.toNat mask x)
/-- Write of the bytes of a vector register that the mask selects (07 R165, R166). -/
def State.postV (s : State) (sc lat : Nat) (d : BitVec 6) (mask : Mask) (x : Vec) : State :=
  s.post sc lat (.v d.toNat mask x)
/-- Raising of flags in the set of the slot (03 R88). -/
def State.postF (s : State) (sc lat : Nat) (f : Fl) : State :=
  if f = 0#6 then s else s.post sc lat (.flags sc f)

/-! ## Scratchpad lines -/

/-- The line at a scratchpad address, under H (08 R191). -/
def Tile.line (t : Tile) (a : Nat) : Vec := t.sp.vec (256 * physLine t.h a)
/-- Byte address in the scratchpad's storage of a scratchpad address. -/
def Tile.spByte (t : Tile) (a : Nat) : Nat := 256 * physLine t.h a + a % 256

/-! ## Records (17 R325) -/

/-- A detected fault before it stands in a record. -/
structure Fail where
  cls : Nat
  code : Nat
  source : Nat
  d1 : Word
  d2 : Word
  deriving DecidableEq, Repr

/-- Replay count of a phase (17 R334). -/
def Launch.replaysOf (l : Launch) (k : Nat) : Nat := getK 0 l.replays k
/-- Phase whose span contains a frame cycle: a committed unsettled phase, a settled one, else the running one
(17 R331). -/
def phaseAt (l : Launch) (f : Nat) : Nat :=
  match l.unsettled.find? (fun u => decide (u.start ≤ f) && decide (f ≤ u.commit)) with
  | some u => u.phase
  | none =>
    if f < l.phaseStart then (match l.spans.find? (fun x => decide (x.2 ≤ f)) with | some x => x.1 | none => 0)
    else l.phase
/-- Has the phase of a frame cycle settled? -/
def Launch.settledAt (l : Launch) (f : Nat) : Bool :=
  decide (f < l.phaseStart) && l.unsettled.all fun u => decide (f < u.start)
/-- First frame cycle of an unsettled phase. -/
def Launch.startOf (l : Launch) (k : Nat) : Nat :=
  match l.unsettled.find? (fun u => u.phase == k) with
  | some u => u.start
  | none => l.phaseStart

/-- The record of an event of a launch. -/
def State.recordOf (s : State) (l : Launch) (t slot : Nat) (frame addr : Nat) (x : Fail) : Record :=
  { cls := x.cls, code := x.code, first := false, stopped := false, superseded := false, domain := decide (l.lrec.type = 2)
    slot := slot, tile := t, pkg := l.lrec.index, source := x.source, frame := frame, phase := phaseAt l frame, addr := addr
    d1 := x.d1, d2 := x.d2, wall := s.wall, tag := l.lrec.tag, replays := l.replaysOf (phaseAt l frame)
    variant := l.variant }
/-- The record of an event of a coach's launch. -/
def State.record (s : State) (c t slot : Nat) (frame addr : Nat) (x : Fail) : Record :=
  s.recordOf (s.coach c).launch t slot frame addr x

/-- Tile number of records of controllers (17 R325). -/
def noTile : Nat := 0x1FF

/-- Appends a record to the coach fault log (17 R326): 127 records, newest first. -/
def State.log (s : State) (c : Nat) (r : Record) : State :=
  s.modCoach c fun k =>
    let r := { r with first := !k.launch.logged }
    { k with
      launch := { k.launch with logged := true }
      log := { k.log with widx := k.log.widx + 1, recs := (r :: k.log.recs).take 127 } }

/-- A fault of an enabled slot of the bundle being issued: the bundle will be suppressed (18 R337). The machine goes on
to the other slots, each of which writes its own record. -/
def State.raise (s : State) (slot : Nat) (x : Fail) : State :=
  { s with cur := { s.cur with
      faults := s.cur.faults ++ [s.record s.cur.coach s.cur.tile slot s.frc s.cur.src.addr x] } }

/-- Every check of a slot that fails writes its own record (18 R339); where none fails the operation runs. -/
def State.checked (s : State) (slot : Nat) (xs : List Fail) (f : State → State) : State :=
  match xs with
  | [] => f s
  | _ => xs.foldl (fun s x => s.raise slot x) s

/-- Was a push issued by this tile of this package? -/
def Push.ofTile (p : Push) (t : Nat) : Bool := p.tile == t && p.src.slot == scL

/-- A fault of a tile that suppresses nothing, detected at the present frame cycle. -/
def State.note (s : State) (c t slot addr : Nat) (x : Fail) : State :=
  let r := s.record c t slot (s.coach c).launch.frc addr x
  s.modCoach c fun k => { k with faults := k.faults ++ [r] }

/-- A class 0x1 operand check of a slot (18 R341). -/
def opFail (code : Nat) (d1 d2 : Word) : Fail := ⟨0x1, code, 0x02, d1, d2⟩
/-- A class 0x2 fault detected by the slot checks (18 R342). -/
def unitFail (code : Nat) (d1 d2 : Nat) : Fail := ⟨0x2, code, 0x02, BitVec.ofNat 64 d1, BitVec.ofNat 64 d2⟩

/-! ## Codes on stored state (19 R348, R349) -/

/-- Each write makes the code of its place anew: the errors that p names are gone. -/
def Tile.recode (t : Tile) (p : StoreErr → Bool) : Tile :=
  { t with own := { t.own with errs := t.own.errs.filter fun e => !p e } }
/-- A place that carries codes: its store, its index and one 64-bit word of it, or every word. -/
abbrev Place := Nat × Nat × Option Nat
/-- Does an error stand at a place? A block-table place is the word of 8 bytes that holds its byte. -/
def StoreErr.isAt (e : StoreErr) (x : Place) : Bool :=
  e.store == x.1 && (e.idx == x.2.1 || (x.1 == 3 && e.idx / 8 == x.2.1 / 8)) &&
    match x.2.2 with | some w => e.word == w | none => true
/-- The errors at a place. -/
def Tile.codesAt (t : Tile) (x : Place) : List StoreErr := t.own.errs.filter fun e => e.isAt x
/-- Corrected and uncorrectable events of SRAM, in the lifetime block. -/
def Tile.sram (t : Tile) (fixed lost : Nat) : Tile :=
  { t with own := { t.own with life := { t.own.life with
    sramc := min (t.own.life.sramc + fixed) (2 ^ 32 - 1), sramu := min (t.own.life.sramu + lost) (2 ^ 16 - 1) } } }
/-- The record of an uncorrectable read. -/
def codeFail (e : StoreErr) : Fail := ⟨0x6, e.store, 0x07, BitVec.ofNat 64 e.idx, e.syndrome⟩

/-! ## Control flits (19 R354, R355) -/

def Pkg.port (k : Pkg) (p : Nat) : Port := k.ports.getD p Port.reset
def State.modPort (s : State) (p : Nat) (f : Port → Port) : State :=
  s.modPkg fun k => { k with ports := k.ports.setIfInBounds p (f (k.port p)) }
/-- A flit that is no push goes out at a port under its next sequence number, and stays in the replay buffer, which it does not fill
beyond its 256 flits (notes/assumptions/27.md). -/
def State.sendCtl (s : State) (p : Nat) (x : Flit) : State :=
  (s.out (.flit p x)).modPort p fun q => { q with
    sent := q.sent + 1, lastSent := some s.wall
    replay := if q.replay.length < 256 then q.replay ++ [((q.sent + 1).toNat, x)] else q.replay }
/-- The package to which a port that is not down leads. -/
def Port.peerPkg (q : Port) : Option Nat := if q.rate = 0 then none else q.peer.map (·.1)
/-- The ports by which a package's control flits go into the domain tree: the lowest-numbered that leads to each package that it is
linked to. The spec does not say which links the tree has (notes/assumptions/27.md). -/
def Pkg.treePorts (k : Pkg) : List Nat := (List.range 16).filter fun p =>
  (k.port p).peerPkg.isSome && (List.range p).all fun q => (k.port q).peerPkg != (k.port p).peerPkg
/-- A control flit goes out into the domain tree. -/
def State.sendTree (s : State) (f : Port → Flit) : State := s.pkg.treePorts.foldl (fun s p => s.sendCtl p (f (s.pkg.port p))) s

/-! ## Taking a fault (17 R328, R329; 18 R339) -/

/-- Order of the records of one frame cycle: tile, slot, code (18 R339). -/
def Record.before (a b : Record) : Bool :=
  let k (r : Record) : Nat := (r.tile * 16 + r.slot) * 2 ^ 16 + r.cls * 256 + r.code
  decide (k a ≤ k b)
def sortRecs (rs : List Record) : List Record := sortBy Record.before rs
/-- Does a stop before b: lower class and code, then lower tile, then lower slot (18 R339)? -/
def Record.stopsBefore (a b : Record) : Bool :=
  let k (r : Record) : Nat := (r.cls * 256 + r.code) * 2 ^ 16 + r.tile * 16 + r.slot
  decide (k a < k b)
/-- The record that stops the launch. -/
def stopRec : List Record → Option Record
  | [] => none
  | r :: rs =>
    match stopRec rs with
    | none => some r
    | some x => if x.stopsBefore r then some x else some r

/-- Is the class held for D before it takes effect (17 R329)? -/
def heldClass (cls : Nat) : Bool := decide (cls ≤ 4) || cls == 6 || cls == 7 || cls == 0xB

/-- Marks, in a log, the record that stopped the launch or was superseded. -/
def markRec (old : Record) (f : Record → Record) : List Record → List Record
  | [] => []
  | r :: rs => if { r with first := false } = { old with first := false } then f r :: rs else r :: markRec old f rs

/-- Do the frame and every frame-timed activity hold still, with all banks granted to the engines (02 R57, 17 R328,
R332)? -/
def Mode.still : Mode → Bool
  | .paused | .relaying _ | .closing | .reloading | .waiting | .finishing => true
  | _ => false

/-- Does the frame stand at a cycle that is over? -/
def Mode.frozen : Mode → Bool
  | .held | .paused | .relaying _ | .closing | .reloading | .waiting => true
  | _ => false
/-- The launch stops or ends with a completion status: it finishes its issued work from the next frame cycle. -/
def Launch.finish (l : Launch) (status wall : Nat) : Launch :=
  { l with
    mode := .finishing, frc := if l.mode.frozen then l.frc + 1 else l.frc, hold := none, pending := none
    sinceWall := wall, closingDone := none, status := status, barred := none, struck := none }

/-- Every open bank is closed with its timing met, and no window is open (17 R328 step 4, Table 17-6 CLOSE). -/
def VaultSt.closeAll (v : VaultSt) : VaultSt :=
  { v with
    banks := v.banks.map fun b => { b with st := .closed }
    window := none
    eng := Vector.replicate 32 EngBank.reset }

/-- The launch stops (17 R328): its status and FLSTAT name the class, the stopping record is marked, no phase settles any
more, each push in flight is delivered whole or dropped whole, and the launch waits for its operations to complete. -/
def State.stopLaunch (s : State) (c : Nat) (r : Record) : State :=
  let n := s.draws
  let s := { s with draws := n + (s.coach c).pushes.length }
  let s := s.modTiles (fun t => { t with vault := t.vault.closeAll }) (s.coach c).launch.tiles
  s.modCoach c fun k =>
    let kept := (k.pushes.zipIdx.filter fun p => Config.freePush (n + p.2)).map (·.1)
    { k with
      pushes := kept
      log := { k.log with
        cls := r.cls, code := r.code, tag := k.launch.lrec.tag
        recs := markRec r (fun x => { x with stopped := true }) k.log.recs }
      launch := k.launch.finish (0x80 + r.cls) s.wall }

/-- Step 1 of R328 in a domain: the other packages hear of a stopping fault at its detection, held or not. -/
def State.announce (s : State) (c : Nat) (r : Record) : State :=
  if (s.coach c).launch.lrec.type = 2 then s.out (.stopMessage c r.cls r.code r.frame) else s

/-- Stopping, cancelling or recorded only (17 Table 17-1, Table 17-5, 19 Table 19-2). -/
inductive FaultKind where
  | stopping | cancelling | recorded
  deriving DecidableEq, Repr
def faultKind (cls code : Nat) : FaultKind :=
  if cls = 0x6 ∧ (code = 1 ∨ code = 2 ∨ code = 3) ∨ cls = 0x7 ∧ (code = 1 ∨ code = 2) ∨ cls = 0x5 ∧ code = 1 then .cancelling
  else if cls = 0x6 ∧ (code = 0x09 ∨ code = 0x0A) ∨ cls = 0x7 ∧ code = 0x06 then .recorded
  else .stopping

/-- A fault that is taken at once, held by nothing. -/
def State.stopNow (s : State) (c : Nat) (r : Record) : State := ((s.log c r).announce c r).stopLaunch c r

/-- What issued at or after a frame cycle and has not completed is discarded (17 Table 17-6 HALT). -/
def Tile.discard (t : Tile) (f : Nat) : Tile :=
  { t with
    pend := t.pend.filter fun p => decide (p.src.issued < f)
    lcopy := t.lcopy.filter fun o => decide (o.c < f)
    mtx := { t.mtx with
      mldb := t.mtx.mldb.filter fun o => decide (o.c < f), mmuls := t.mtx.mmuls.filter fun o => decide (o.c < f) } }

/-- HALT (17 Table 17-6): uncompleted operations of the target and later phases and pushes in flight are dropped, those held at the coach's ports too, the ports take the next
generation, a held fault is superseded, and the replay controller enters CLOSE for the target. -/
def State.halt (s : State) (c target : Nat) (ports : List Nat) : State :=
  let s := s.modTiles (fun t => t.discard ((s.coach c).launch.startOf target)) (s.coach c).launch.tiles
  let s := s.modPkg fun p => { p with ports := ports.foldl (fun v n =>
    v.setIfInBounds n { v.getD n Port.reset with gen := (v.getD n Port.reset).gen + 1, holding := [], lost := [] }) p.ports }
  s.modCoach c fun k => { k with
    pushes := []
    log := { k.log with recs := match k.launch.hold with
      | some r => markRec r (fun x => { x with superseded := true, stopped := false }) k.log.recs
      | none => k.log.recs }
    launch := { k.launch with
      mode := .closing, pending := some target, sinceWall := s.wall, hold := none, closingDone := none } }

/-- A cancel whose event frame cycle is t (17 R331), recorded under the tile and source of its event. Where its phase has
settled, or the launch has stopped, nothing else follows. Else it is counted, and its target stands; the fourth replay of a phase
is the coach fault 0x5/0x02; from RUN it enters HALT, a strike's also from a hold that it supersedes (R329); during CLOSE,
RELOAD or WAIT it joins the replay, which goes back to RELOAD. -/
def State.cancelAt (s : State) (c tile source t : Nat) (strike : Bool) (ports : List Nat) : State :=
  let l := (s.coach c).launch
  let k := phaseAt l t
  let target := match l.pending with | some p => min p k | none => k
  let entry : State := s.log c (s.record c tile 0 t 0 ⟨0x5, 0x01, source, BitVec.ofNat 64 k, BitVec.ofNat 64 t⟩)
  let struck := if strike then some (match l.struck with | some u => min u t | none => t) else l.struck
  let go : State := entry.modCoach c fun x => { x with
    log := { x.log with cancels := (x.log.cancels + 1) % 2 ^ 32 }
    launch := { x.launch with pending := some target, struck := struck } }
  let run : State :=
    if l.replaysOf target ≥ Config.maxReplays then
      go.stopNow c (go.record c noTile 0 t 0 ⟨0x5, 0x02, 0x09, BitVec.ofNat 64 target, BitVec.ofNat 64 t⟩)
    else
      match l.mode with
      | .closing | .reloading | .waiting =>
        (go.modTiles (fun t => { t with vault := t.vault.closeAll }) l.tiles).modLaunch c fun l =>
          { l with mode := .reloading, sinceWall := s.wall + 1, closingDone := none }
      | .held =>
        match l.hold with
        | some r => if strike ∧ t ≤ r.frame then go.halt c target ports else go
        | none => go
      | _ => go.halt c target ports
  match l.mode with
  | .idle | .starting => s
  | .finishing => entry
  | _ => if l.settledAt t then entry else run
/-- Lowest of a list of tiles. -/
def lowest : List Nat → Nat
  | [] => 0
  | t :: r => r.foldl min t
/-- A report of a launch to the other packages; what the kind does not name is empty. -/
def Launch.report (l : Launch) (kind : ReportKind) (frame : Nat) : Report :=
  ⟨l.lrec.index, kind, l.sentTag, l.lrec.count, l.relayNo, 0#8, 0#16, frame, lowest l.tiles, l.restoring⟩
/-- A report goes out as a condition report flit. -/
def State.tell (s : State) (r : Report) : State := s.sendTree (·.reportFlit r)
/-- A cancel of this package; the replay controllers of a domain act as one (17, text after Table 17-2), so that each hears of
it first. -/
def State.cancel (s : State) (c tile source t : Nat) (strike : Bool) (ports : List Nat) : State :=
  let l := (s.coach c).launch
  let live : Bool := match l.mode with | .idle | .starting | .finishing => false | _ => !l.settledAt t
  let s := if l.lrec.type = 2 ∧ live then s.tell (l.report (.cancelled t strike) t) else s
  s.cancelAt c tile source t strike ports

/-- THE ONE WAY A FAULT IS TAKEN: every record of the frame cycle is logged in order; the lowest class and code of the
stopping ones stops the launch, at once for classes 0x5 and 0x8 to 0xA and where no frame has begun, after the hold of D for the
others (17 R329, 18 R339); a cancelling one asks for its cancel (19 R349). In a hold only a record of the classes that are not held stops the launch
(20 R363, R368), and where it is finishing none does. -/
def State.takeFaults (s : State) (c : Nat) (ports : List Nat) (rs : List Record) : State :=
  let s := (sortRecs rs).foldl (fun s r => s.log c r) s
  let inHold := (s.coach c).launch.mode == .held
  let s := match stopRec (rs.filter fun r => faultKind r.cls r.code = .stopping ∧ !(inHold && heldClass r.cls)) with
    | none => s
    | some r =>
      match (s.coach c).launch.mode with
      | .finishing | .idle => s
      | m =>
        let s := s.announce c r
        if heldClass r.cls ∧ m ≠ .starting then
          s.modLaunch c fun l => { l with mode := .held, hold := some r, sinceWall := s.wall }
        else s.stopLaunch c r
  (sortRecs (rs.filter fun r => faultKind r.cls r.code = .cancelling)).foldl
    (fun s r => s.cancel c noTile 0x09 r.frame false ports) s

/-- A stopping event of a controller (classes 0x5 and 0x8 to 0xA) with tile 0x1FF, at "now" (20 R362): recorded, and the
first of them stops the launch. -/
def State.stopEvent (s : State) (c slot : Nat) (x : Fail) : State :=
  let l := (s.coach c).launch
  let now := match l.mode with | .paused | .relaying _ => l.frc | _ => l.lastIssued
  s.takeFaults c [] [s.record c noTile slot now 0 x]

/-! ## System registers that are state words (04 Table 4-5) -/

def LoopSt.wordA (l : LoopSt) : Word :=
  BitVec.ofNat 64 ((if l.running then 2 ^ 63 else 0) + l.period.toNat * 2 ^ 32 + l.j % 2 ^ 32)
def LoopSt.wordB (l : LoopSt) : Word :=
  BitVec.ofNat 64 (l.n % 2 ^ 32 * 2 ^ 32 + l.len % 2 ^ 14 * 2 ^ 17 + l.start % 2 ^ 17)
def LoopSt.wordC (l : LoopSt) : Word := BitVec.ofNat 64 l.b0

/-! ## The return from a fault or strike: RESTART (17 R332, R333; 02 R52) -/

/-- RELOAD of one tile for target k, steps 4, 5, 6, 7 and 8: carry set, SB, stream address and H from slot k mod 2; each
bank's recorded state and history, with one closing REFB; flags and first-event record clear; transposer (which keeps its
mode, and fills and drains slot 0 first: the model's choice, notes/assumptions/17.md) and stationary buffers empty; digest reset; prefetch buffer filled; trigger counts marked. What was issued at or after the target's
first frame cycle and has not completed is discarded. -/
def Tile.restore (t : Tile) (k wall : Nat) : Tile :=
  let n := t.snaps.getD (k % 2) Snap.reset
  let s' := (List.range 16).foldl (fun v i => v.setIfInBounds (i + 1) (n.s.getD i 0#64)) t.regs.s
  { (t.recode fun e => (e.store == 1 && decide (1 ≤ e.idx ∧ e.idx ≤ 16 ∨ 7 * 256 ≤ e.idx)) ||
      (e.store == 2 && decide (8192 ≤ e.idx))) with
    nextSnap := none
    regs := { t.regs with s := s', l := n.l }
    flags := FlagState.reset
    mtx := MatrixSt.reset
    tx := { Tx.reset with b16 := t.tx.b16 }
    ft := n.ft, ftmask := n.ftmask, acq := n.acq, h := n.h
    lcopy := none
    vault := { t.vault with
      banks := Vector.ofFn fun i => { n.banks.getD i.val Bank.reset with
        ptr := ((t.vault.banks.getD i.val Bank.reset).ptr + 1) % Config.refGroups }
      window := none
      eng := Vector.replicate 32 EngBank.reset
      lastRefWall := Vector.replicate 32 wall }
    pend := t.pend.filter fun p => decide (p.src.issued < n.frc)
    digD := 0#128, digW := 0
    meet := .none
    trigs := n.trigs
    marks := Vector.ofFn fun i => max (t.marks.getD i.val 0) (t.trigs.getD i.val 0)
    seq := { t.seq with
      pc := n.addr, sb := n.sb, buf := 64, need := 0, minIssue := n.frc, ended := false, redirected := false
      lastCommit := if n.frc = 0 then none else some (n.frc - 1), rl := n.rl, os := n.os } }

end Sys2Proof.Machine
end

