-- ==== Sys2Proof/Machine/Block.lean ====
section
/-! DEFINITION. Block-table instructions (06 R144-R146, 04 R105, R106, 10 R247). -/
namespace Sys2Proof.Machine

/-- Directory entry of a sequence (04 R105). -/
structure DirEntry where
  valid : Bool
  base : Nat
  layers : Nat
  bpl : Nat
  deriving DecidableEq, Repr

def Mem.dirEntry (m : Mem) (seq : Nat) : DirEntry :=
  let w := m.getN (4 * seq) 4
  ⟨w / 2 ^ 31 % 2 == 1, w / 2 ^ 17 % 2 ^ 14, w / 2 ^ 9 % 2 ^ 8, w % 2 ^ 9⟩
/-- WORD[id]: its byte address and value. -/
def wordAddr (id : Nat) : Nat := 0x1000 + 2 * id
def Mem.blkWord (m : Mem) (id : Nat) : Nat := m.getN (wordAddr id) 2
/-- LIST[x]: its byte address and value. -/
def listAddr (x : Nat) : Nat := 0x9000 + 2 * x
def Mem.blkList (m : Mem) (x : Nat) : Nat := m.getN (listAddr x) 2

/-- List index of a valid key (06 R144). -/
def keyIndex (m : Mem) (key : Word) : Option Nat :=
  let d := m.dirEntry (bits key 41 32)
  let layer := bits key 23 16
  let blk := bits key 8 0
  let x := d.base + layer * d.bpl + blk
  if d.valid ∧ layer < d.layers ∧ blk < d.bpl ∧ x < 14336 then some x else none

/-- Result word of a block id (06 R144). -/
def resultWord (id : Nat) : Word :=
  BitVec.ofNat 64 (id % 2 ^ 14 * 2 ^ 32 + id / 2 ^ 13 % 2 * 16 * 2 ^ 17 + id % 2 ^ 13 * 2 ^ 4)

/-- The fault of a broken precondition: which is 1 to 4 (18 Table 18-3 code 0x09). -/
def blkFail (key : Word) (which : Nat) : Fail := opFail 0x09 key (BitVec.ofNat 64 which)
/-- A 1,025th journalled operation of a phase (17 Table 17-6 code 0x08). Its slot S, the key as Detail 1 and 0 as Detail 2 are the
model's choice (notes/assumptions/53.md). -/
def journalFail (key : Word) : Fail := ⟨0x4, 0x08, 0x09, key, 0#64⟩

/-- Table 6-4 preconditions on the slot of a key: its index, where it is full (or empty) as asked. -/
def slotOfKey (m : Mem) (key : Word) (full : Bool) : Except Nat Nat :=
  match keyIndex m key with
  | none => .error 1
  | some x =>
    if full then (if m.blkList x = 0xFFFF then .error 2 else .ok x)
    else (if m.blkList x = 0xFFFF then .ok x else .error 3)

/-- Saves, in the journal of the running phase, the bytes at an address and the BTST fields, and counts the operation. -/
def BlkSt.journalled (b : BlkSt) (phase : Nat) (at_ : List Nat) : BlkSt :=
  { b with
    ops := b.ops + 1
    journal := ⟨phase, at_.map (fun a => (a, b.mem.get a)), b.head, b.free⟩ :: b.journal }

/-- A journalled operation: refused beyond 1,024 in a phase (04 R106), else journalled and applied. -/
def State.blkApply (s : State) (key : Word) (sd : BitVec 6) (at_ : List Nat) (f : BlkSt → BlkSt) (r : Word) : State :=
  if s.ct.blk.ops ≥ Config.maxJournal then s.raise scS (journalFail key)
  else
    (s.modCt fun t => { (t.recode fun e => e.store == 3 && (65536 :: at_).any fun a => a / 8 == e.idx / 8) with
      blk := f (t.blk.journalled s.cl.phase at_) }).postS scS 6 sd r

/-- The two byte addresses of a 2-byte word. -/
def two (a : Nat) : List Nat := [a, a + 1]

def execBlkx (g : Guard) (sd sa : BitVec 6) (s : State) : Host.Outcome State Fault Refusal :=
  slotOp g s fun s =>
    match slotOfKey s.ct.blk.mem (s.sv sa) true with
    | .error n => s.raise scS (blkFail (s.sv sa) n)
    | .ok x => s.postS scS 6 sd (resultWord (s.ct.blk.mem.blkList x))

def execBlkalloc (g : Guard) (sd sa : BitVec 6) (s : State) : Host.Outcome State Fault Refusal :=
  slotOp g s fun s =>
    let b := s.ct.blk
    match slotOfKey b.mem (s.sv sa) false with
    | .error n => s.raise scS (blkFail (s.sv sa) n)
    | .ok x =>
      if b.free = 0 then s.blkApply (s.sv sa) sd [] id 0x8000000000000000#64
      else
        s.blkApply (s.sv sa) sd (two (wordAddr b.head) ++ two (listAddr x))
          (fun b' => { b' with
            mem := (b.mem.putN (wordAddr b.head) 2 1).putN (listAddr x) 2 b.head
            head := b.mem.blkWord b.head % 2 ^ 14
            free := b.free - 1 })
          (resultWord b.head)

/-- `blkref`. Where several preconditions break the record has the key's, then the full slot's, then the id's: the model's choice
(notes/assumptions/53.md). -/
def execBlkref (g : Guard) (sd sa sb : BitVec 6) (s : State) : Host.Outcome State Fault Refusal :=
  slotOp g s fun s =>
    let b := s.ct.blk
    let id := bits (s.sv sb) 45 32
    let w := b.mem.blkWord id
    match slotOfKey b.mem (s.sv sa) false with
    | .error n => s.raise scS (blkFail (s.sv sa) n)
    | .ok x =>
      if w ≥ 2 ^ 15 ∨ w = 32767 then s.raise scS (blkFail (s.sv sa) 4)
      else
        s.blkApply (s.sv sa) sd (two (wordAddr id) ++ two (listAddr x))
          (fun b' => { b' with mem := (b.mem.putN (wordAddr id) 2 (w + 1)).putN (listAddr x) 2 id })
          (resultWord id)

def execBlkfree (g : Guard) (sd sa : BitVec 6) (s : State) : Host.Outcome State Fault Refusal :=
  slotOp g s fun s =>
    let b := s.ct.blk
    match slotOfKey b.mem (s.sv sa) true with
    | .error n => s.raise scS (blkFail (s.sv sa) n)
    | .ok x =>
      let id := b.mem.blkList x % 2 ^ 14
      let n := b.mem.blkWord id % 2 ^ 15 - 1
      let last := n = 0
      let mem := b.mem.putN (listAddr x) 2 0xFFFF
      s.blkApply (s.sv sa) sd (two (wordAddr id) ++ two (listAddr x))
        (fun b' =>
          if last then
            { b' with mem := mem.putN (wordAddr id) 2 (0x8000 + b.head % 2 ^ 14), head := id, free := b.free + 1 }
          else { b' with mem := mem.putN (wordAddr id) 2 n })
        (BitVec.ofNat 64 n)

end Sys2Proof.Machine
end

