-- ==== Sys2Proof/Machine/Scratch.lean ====
section
/-! DEFINITION. L slot: local loads and stores, gather and scatter, line copy (08 R191-R197). -/
namespace Sys2Proof.Machine

/-- Opcodes of the L slot (05 Table 5-6), for Detail 2 of a record. -/
def lDetail (opc lane : Nat) : Word := BitVec.ofNat 64 (lane * 256 + opc)
/-- Effective address and written-back base of the LM format (08 R192). -/
def State.lmEA (s : State) (base : BitVec 5) (off : BitVec 12) (pi : Bool) : Nat :=
  let b := s.ct.regs.sAt base.toNat
  if pi then b.toNat else (lmSum b off).toNat
/-- Post-increment: the base receives S + 256 * off at issue + 1. -/
def State.postInc (s : State) (base : BitVec 5) (off : BitVec 12) (pi : Bool) : State :=
  if pi then s.postS scL 1 (base.zeroExtend 6) (lmSum (s.ct.regs.sAt base.toNat) off) else s

/-- An LM access: the range and alignment checks of `len` bytes, then the effect at the address, then post-increment. -/
def opLM (opc len : Nat) (g : Guard) (base : BitVec 5) (off : BitVec 12) (pi : Bool) (s : State)
    (f : State → Nat → State) : Host.Outcome State Fault Refusal :=
  slotOp g s fun s =>
    let ea := s.lmEA base off pi
    match checkAddr ea len len with
    | some e => s.raise scL (opFail e.code e.addr (lDetail opc 0xFF))
    | none => (f s ea).postInc base off pi

/-- The byte mask of n bytes from byte j of a line. -/
def byteMask (j n : Nat) : Mask := BitVec.ofNat 256 ((2 ^ n - 1) * 2 ^ j)
/-- A store of `n` bytes of x at an address, visible at issue + 1; writer kind 1 of 18 Table 18-4. -/
def State.postLine (s : State) (sc lat kind a : Nat) (mask : Mask) (x : Vec) : State :=
  s.post sc lat (.line (physLine s.ct.h a) mask x kind)

def execLdV (g : Guard) (vd : BitVec 6) (base : BitVec 5) (off : BitVec 12) (pi : Bool) (q : BitVec 3) (s : State) :=
  opLM 0x01 256 g base off pi s fun s a => s.postV scL 4 vd (s.qv (q.zeroExtend 4)) (s.ct.line a)
def execStV (g : Guard) (vs : BitVec 6) (base : BitVec 5) (off : BitVec 12) (pi : Bool) (q : BitVec 3) (s : State) :=
  opLM 0x02 256 g base off pi s fun s a => s.postLine scL 1 1 a (s.qv (q.zeroExtend 4)) (s.vv vs)
def execLdbV (g : Guard) (vd : BitVec 6) (base : BitVec 5) (off : BitVec 12) (pi : Bool) (q : BitVec 3) (s : State) :=
  opLM 0x03 4 g base off pi s fun s a =>
    s.postV scL 4 vd (s.qv (q.zeroExtend 4)) (ofLanes 32 64 fun _ => s.ct.sp.getN (s.ct.spByte a) 4)
def execLdS (g : Guard) (sd : BitVec 6) (base : BitVec 5) (off : BitVec 12) (pi : Bool) (s : State) :=
  opLM 0x04 8 g base off pi s fun s a => s.postS scL 4 sd (BitVec.ofNat 64 (s.ct.sp.getN (s.ct.spByte a) 8))
def execStS (g : Guard) (ss : BitVec 6) (base : BitVec 5) (off : BitVec 12) (pi : Bool) (s : State) :=
  opLM 0x05 8 g base off pi s fun s a =>
    s.postLine scL 1 1 a (byteMask (a % 256) 8) ((s.sv ss).zeroExtend 2048 <<< (8 * (a % 256)))
def execLdQ (g : Guard) (qd : BitVec 4) (base : BitVec 5) (off : BitVec 12) (pi : Bool) (s : State) :=
  opLM 0x08 32 g base off pi s fun s a => s.postQ scL 4 qd allOn (BitVec.ofNat 256 (s.ct.sp.getN (s.ct.spByte a) 32))
def execStQ (g : Guard) (qs : BitVec 4) (base : BitVec 5) (off : BitVec 12) (pi : Bool) (s : State) :=
  opLM 0x09 32 g base off pi s fun s a =>
    s.postLine scL 1 1 a (byteMask (a % 256) 32) ((s.qv qs).zeroExtend 2048 <<< (8 * (a % 256)))

/-! ## Gather and scatter (08 R195) -/

/-- A_i of R195. -/
def gatherAddr (base : Word) (vi : Vec) (wb i : Nat) : Word := base + BitVec.ofNat 64 (lane vi 32 i * wb)
/-- First active lane, from lane i over k lanes, whose address fails, with the failure. -/
def gatherFail (base : Word) (vi : Vec) (q : Mask) (w : Nat) (i : Nat) : Nat → Option (Nat × AddrFail)
  | 0 => none
  | k + 1 =>
    if laneOn q w i then
      match checkAddr (gatherAddr base vi (w / 8) i).toNat (w / 8) (w / 8) with
      | some e => some (i, e)
      | none => gatherFail base vi q w (i + 1) k
    else gatherFail base vi q w (i + 1) k

/-- Checks of every active lane, then the effect. -/
def opLG (opc : Nat) (g : Guard) (vi : BitVec 6) (base : BitVec 5) (q : BitVec 4) (w : Nat) (s : State)
    (f : State → Word → Vec → Mask → State) : Host.Outcome State Fault Refusal :=
  slotOp g s fun s =>
    let b := s.ct.regs.sAt base.toNat
    match gatherFail b (s.vv vi) (s.qv q) w 0 64 with
    | some (i, e) => s.raise scL (opFail e.code e.addr (lDetail opc i))
    | none => f s b (s.vv vi) (s.qv q)

def execLdgV (g : Guard) (vd vi : BitVec 6) (base : BitVec 5) (q : BitVec 4) (ty : Ty) (s : State) :=
  opLG 0x06 g vi base q ty.width s fun s b ix m =>
    let wb := ty.width / 8
    s.postV scL 12 vd m (ofLanes ty.width (lanes ty.width) fun i =>
      if i < 64 ∧ laneOn m ty.width i then s.ct.sp.getN (s.ct.spByte (gatherAddr b ix wb i).toNat) wb else 0)

/-- One line write of a scatter: physical line, mask, bytes. -/
structure LineWr where
  l : Nat
  mask : Mask
  x : Vec
  deriving DecidableEq, Repr

/-- Merges the bytes of one lane into the scatter's line writes; a later lane's bytes stand. -/
def mergeWr (w : LineWr) : List LineWr → List LineWr
  | [] => [w]
  | y :: r => if y.l = w.l then ⟨y.l, y.mask ||| w.mask, blend w.mask y.x w.x⟩ :: r else y :: mergeWr w r
/-- Line writes of lanes i to i + k - 1 of a scatter, in ascending lane order. -/
def scatterWr (h : Bool) (base : Word) (vi vs : Vec) (q : Mask) (wb i : Nat) : Nat → List LineWr → List LineWr
  | 0, acc => acc
  | k + 1, acc =>
    if laneOn q (8 * wb) i then
      let a := (gatherAddr base vi wb i).toNat
      let m := (BitVec.ofNat 256 (q.toNat / 2 ^ (wb * i) % 2 ^ wb)) <<< (a % 256)
      let x := (BitVec.ofNat 2048 (lane vs (8 * wb) i)) <<< (8 * (a % 256))
      scatterWr h base vi vs q wb (i + 1) k (mergeWr ⟨physLine h a, m, x⟩ acc)
    else scatterWr h base vi vs q wb (i + 1) k acc

def execStgV (g : Guard) (vs vi : BitVec 6) (base : BitVec 5) (q : BitVec 4) (ty : Ty) (s : State) :=
  opLG 0x07 g vi base q ty.width s fun s b ix m =>
    (scatterWr s.ct.h b ix (s.vv vs) m (ty.width / 8) 0 64 []).foldl
      (fun s w => s.post scL 1 (.line w.l w.mask w.x 2)) s

/-! ## Line copy (08 R196) -/

/-- Range and alignment of an `lcopy`: source first; code 0x01 if either range breaks the range rule (18 R341). -/
def lcopyFail (src dst : Word) (n : Nat) : Option AddrFail :=
  let beyond (a : Word) : Bool := decide (a.toNat + 256 * n > Config.spEnd)
  let mis (a : Word) : Bool := decide (a.toNat % 256 ≠ 0)
  if beyond src then some ⟨0x01, src⟩ else if beyond dst then some ⟨0x01, dst⟩
  else if mis src then some ⟨0x02, src⟩ else if mis dst then some ⟨0x02, dst⟩ else none

/-- The line-copy unit starts: line 0 is read at issue. -/
def State.startCopy (s : State) (dst src : Word) (n : Nat) : State :=
  s.modCt fun t => { t with
    lcopy := some ⟨src.toNat, dst.toNat, n, t.h, s.frc, s.srcOf scL⟩
    pend := t.pend ++ [⟨s.frc + 1, s.srcOf scL, .line (physLine t.h dst.toNat) allOn (t.line src.toNat) 3⟩] }
/-- The line-copy unit is at work (18 Table 18-4 code 0x06). -/
def Tile.copyBusy (t : Tile) (f : Nat) : Option Fail :=
  match t.lcopy with
  | some c => if f ≤ c.c + c.n - 1 then some (unitFail 0x06 1 (c.c + c.n)) else none
  | none => none
/-- `lcopy`: refused where a range breaks its rule or a copy is at work, else the unit starts. -/
def execLcopy (g : Guard) (sd ss : BitVec 6) (cnt : BitVec 12) (s : State) : Host.Outcome State Fault Refusal :=
  slotOp g s fun s =>
    let n := cnt.toNat + 1
    let range := (lcopyFail (s.sv ss) (s.sv sd) n).map fun e => opFail e.code e.addr (lDetail 0x0C 0xFF)
    s.checked scL (range.toList ++ (s.ct.copyBusy s.frc).toList) fun s => s.startCopy (s.sv sd) (s.sv ss) n

end Sys2Proof.Machine
end

