-- ==== Sys2Proof/Machine/Scalar.lean ====
section
/-! DEFINITION. S slot: scalar arithmetic and logic, compares and predicate logic (06 R139-R143). -/
namespace Sys2Proof.Machine

/-- Latency of a scalar result read by a reader issuing at issue + 1. -/
def latS : Nat := 1

/-- A two-operand form of Table 6-1: sd := f A B at latency `lat`. -/
def opS3 (g : Guard) (sd sa sb : BitVec 6) (lat : Nat) (f : Word → Word → Word) (s : State) :
    Host.Outcome State Fault Refusal :=
  slotOp g s fun s => s.postS scS lat sd (f (s.sv sa) (s.sv sb))
/-- A one-operand form of Tables 6-1 and 6-2. -/
def opS2 (g : Guard) (sd sa : BitVec 6) (f : Word → Word) (s : State) : Host.Outcome State Fault Refusal :=
  slotOp g s fun s => s.postS scS latS sd (f (s.sv sa))

def aluShl (a b : Word) : Word := if b.toNat < 64 then a <<< b.toNat else 0#64
def aluShr (a b : Word) : Word := if b.toNat < 64 then a >>> b.toNat else 0#64
def aluSra (a b : Word) : Word := BitVec.sshiftRight a (min b.toNat 63)
def aluRotl (a b : Word) : Word := a.rotateLeft (b.toNat % 64)
/-- Leading zero bits of the low `k` bits. -/
def clzBits (x : Nat) : Nat → Nat
  | 0 => 0
  | k + 1 => if x.testBit k then 0 else 1 + clzBits x k
/-- Trailing zero bits among `k` bits from bit i. -/
def ctzBits (x i : Nat) : Nat → Nat
  | 0 => 0
  | k + 1 => if x.testBit i then 0 else 1 + ctzBits x (i + 1) k
/-- One bits among the low `k` bits. -/
def popBits (x : Nat) : Nat → Nat
  | 0 => 0
  | k + 1 => (if x.testBit k then 1 else 0) + popBits x k

def execAdd (g : Guard) (sd sa sb : BitVec 6) (s : State) := opS3 g sd sa sb 1 (fun a b => a + b) s
def execSub (g : Guard) (sd sa sb : BitVec 6) (s : State) := opS3 g sd sa sb 1 (fun a b => a - b) s
def execMul (g : Guard) (sd sa sb : BitVec 6) (s : State) := opS3 g sd sa sb 3 (fun a b => a * b) s
def execMulh (g : Guard) (sd sa sb : BitVec 6) (s : State) :=
  opS3 g sd sa sb 3 (fun a b => ((a.signExtend 128 * b.signExtend 128) >>> 64).truncate 64) s
def execMulhn (g : Guard) (sd sa sb : BitVec 6) (s : State) :=
  opS3 g sd sa sb 3 (fun a b => ((a.zeroExtend 128 * b.zeroExtend 128) >>> 64).truncate 64) s

/-- Divide unit (06 R140): result at issue + 20; a zero divisor raises DZ in the S set at issue + 20. -/
def opDiv (g : Guard) (sd sa sb : BitVec 6) (f : Word → Word → Word) (s : State) : Host.Outcome State Fault Refusal :=
  slotOp g s fun s =>
    let s' := s.postS scS 20 sd (f (s.sv sa) (s.sv sb))
    if s.sv sb = 0#64 then s'.postF scS 20 DZ else s'
/-- Quotient rounded toward zero, all ones for a zero divisor. -/
def quotS (a b : Word) : Word := if b = 0#64 then BitVec.allOnes 64 else BitVec.sdiv a b
def quotN (a b : Word) : Word := if b = 0#64 then BitVec.allOnes 64 else a / b
/-- Remainder with the dividend's sign, the dividend for a zero divisor. -/
def remS (a b : Word) : Word := if b = 0#64 then a else BitVec.srem a b
def remN (a b : Word) : Word := if b = 0#64 then a else a % b

def execDivs (g : Guard) (sd sa sb : BitVec 6) (s : State) := opDiv g sd sa sb quotS s
def execDivn (g : Guard) (sd sa sb : BitVec 6) (s : State) := opDiv g sd sa sb quotN s
def execRems (g : Guard) (sd sa sb : BitVec 6) (s : State) := opDiv g sd sa sb remS s
def execRemn (g : Guard) (sd sa sb : BitVec 6) (s : State) := opDiv g sd sa sb remN s

def execAnd (g : Guard) (sd sa sb : BitVec 6) (s : State) := opS3 g sd sa sb 1 (fun a b => a &&& b) s
def execOr (g : Guard) (sd sa sb : BitVec 6) (s : State) := opS3 g sd sa sb 1 (fun a b => a ||| b) s
def execXor (g : Guard) (sd sa sb : BitVec 6) (s : State) := opS3 g sd sa sb 1 (fun a b => a ^^^ b) s
def execAndn (g : Guard) (sd sa sb : BitVec 6) (s : State) := opS3 g sd sa sb 1 (fun a b => a &&& ~~~b) s
def execShl (g : Guard) (sd sa sb : BitVec 6) (s : State) := opS3 g sd sa sb 1 aluShl s
def execShr (g : Guard) (sd sa sb : BitVec 6) (s : State) := opS3 g sd sa sb 1 aluShr s
def execSra (g : Guard) (sd sa sb : BitVec 6) (s : State) := opS3 g sd sa sb 1 aluSra s
def execRotl (g : Guard) (sd sa sb : BitVec 6) (s : State) := opS3 g sd sa sb 1 aluRotl s
def execMin (g : Guard) (sd sa sb : BitVec 6) (s : State) :=
  opS3 g sd sa sb 1 (fun a b => if a.toInt ≤ b.toInt then a else b) s
def execMax (g : Guard) (sd sa sb : BitVec 6) (s : State) :=
  opS3 g sd sa sb 1 (fun a b => if a.toInt ≤ b.toInt then b else a) s
def execMinn (g : Guard) (sd sa sb : BitVec 6) (s : State) :=
  opS3 g sd sa sb 1 (fun a b => if a.toNat ≤ b.toNat then a else b) s
def execMaxn (g : Guard) (sd sa sb : BitVec 6) (s : State) :=
  opS3 g sd sa sb 1 (fun a b => if a.toNat ≤ b.toNat then b else a) s
def execClz (g : Guard) (sd sa : BitVec 6) (s : State) := opS2 g sd sa (fun a => BitVec.ofNat 64 (clzBits a.toNat 64)) s
def execCtz (g : Guard) (sd sa : BitVec 6) (s : State) := opS2 g sd sa (fun a => BitVec.ofNat 64 (ctzBits a.toNat 0 64)) s
def execPopc (g : Guard) (sd sa : BitVec 6) (s : State) := opS2 g sd sa (fun a => BitVec.ofNat 64 (popBits a.toNat 64)) s
/-- Field [n-1:0] of A with n = mod9 [5:0] + 1. -/
def execSext (g : Guard) (sd sa n : BitVec 6) (s : State) :=
  opS2 g sd sa (fun a => BitVec.ofInt 64 (toSigned (n.toNat + 1) (a.toNat % 2 ^ (n.toNat + 1)))) s
def execZext (g : Guard) (sd sa n : BitVec 6) (s : State) :=
  opS2 g sd sa (fun a => BitVec.ofNat 64 (a.toNat % 2 ^ (n.toNat + 1))) s
def execSel (g : Guard) (sd sa sb : BitVec 6) (inv : Bool) (k : BitVec 5) (s : State) :=
  opS3 g sd sa sb 1 (fun a b => if s.pv k != inv then a else b) s
def execMov (g : Guard) (sd sa : BitVec 6) (s : State) := opS2 g sd sa (fun a => a) s

def execMovi (g : Guard) (sd : BitVec 6) (imm : BitVec 21) (s : State) : Host.Outcome State Fault Refusal :=
  slotOp g s fun s => s.postS scS latS sd (imm.signExtend 64)
/-- sd with bits [16j+15:16j] replaced (06 Table 6-2). -/
def ins16 (x : Word) (imm : BitVec 16) (j : Nat) : Word :=
  (x &&& ~~~(0xFFFF#64 <<< (16 * j))) ||| (imm.zeroExtend 64 <<< (16 * j))
def execIns16 (g : Guard) (sd : BitVec 6) (imm : BitVec 16) (j : BitVec 2) (s : State) := opS2 g sd sd (fun a => ins16 a imm j.toNat) s
def execAddi (g : Guard) (sd sa : BitVec 6) (imm : BitVec 15) (s : State) := opS2 g sd sa (fun a => a + imm.signExtend 64) s
def execAndi (g : Guard) (sd sa : BitVec 6) (imm : BitVec 15) (s : State) := opS2 g sd sa (fun a => a &&& imm.signExtend 64) s
def execOri (g : Guard) (sd sa : BitVec 6) (imm : BitVec 15) (s : State) := opS2 g sd sa (fun a => a ||| imm.signExtend 64) s
def execXori (g : Guard) (sd sa : BitVec 6) (imm : BitVec 15) (s : State) := opS2 g sd sa (fun a => a ^^^ imm.signExtend 64) s
def execShli (g : Guard) (sd sa k : BitVec 6) (s : State) := opS2 g sd sa (fun a => aluShl a (k.zeroExtend 64)) s
def execShri (g : Guard) (sd sa k : BitVec 6) (s : State) := opS2 g sd sa (fun a => aluShr a (k.zeroExtend 64)) s
def execSrai (g : Guard) (sd sa k : BitVec 6) (s : State) := opS2 g sd sa (fun a => aluSra a (k.zeroExtend 64)) s

/-! ## Compares (06 R142) and predicate logic (06 R143) -/

/-- Condition of Table 6-3 on two integers. -/
def condHolds (c : Cond) (a b : Int) : Bool :=
  match c with
  | .eq => decide (a = b)
  | .ne => decide (a ≠ b)
  | .lt => decide (a < b)
  | .ge => decide (b ≤ a)
  | .le => decide (a ≤ b)
  | .gt => decide (b < a)

/-- Writes a compare's result at latency 1: p2k := c and p2k+1 := not c, or the condition of a steer register. -/
def State.postCmp (s : State) (d : CmpDest) (c : Bool) : State :=
  match d with
  | .pair k => (s.postP scS 1 (2 * k.toNat) c).postP scS 1 (2 * k.toNat + 1) (!c)
  | .steer n => s.post scS 1 (.stCond n.toNat c)

def execCmp (g : Guard) (d : CmpDest) (c : Cond) (sa sb : BitVec 6) (s : State) : Host.Outcome State Fault Refusal :=
  slotOp g s fun s => s.postCmp d (condHolds c (s.sv sa).toNat (s.sv sb).toNat)
def execCmpi (g : Guard) (d : CmpDest) (c : Cond) (sa : BitVec 6) (imm : BitVec 12) (s : State) : Host.Outcome State Fault Refusal :=
  slotOp g s fun s => s.postCmp d (condHolds c (s.sv sa).toNat imm.toNat)
def execScmp (g : Guard) (d : CmpDest) (c : Cond) (sa sb : BitVec 6) (s : State) : Host.Outcome State Fault Refusal :=
  slotOp g s fun s => s.postCmp d (condHolds c (s.sv sa).toInt (s.sv sb).toInt)
def execScmpi (g : Guard) (d : CmpDest) (c : Cond) (sa : BitVec 6) (imm : BitVec 12) (s : State) : Host.Outcome State Fault Refusal :=
  slotOp g s fun s => s.postCmp d (condHolds c (s.sv sa).toInt imm.toInt)

/-- pd := op(pa xor na, pb xor nb) at latency 1. -/
def opPL (g : Guard) (pd pa pb : BitVec 5) (na nb : Bool) (f : Bool → Bool → Bool) (s : State) :
    Host.Outcome State Fault Refusal :=
  slotOp g s fun s => s.postP scS 1 pd.toNat (f (s.pv pa != na) (s.pv pb != nb))
def execPand (g : Guard) (pd pa pb : BitVec 5) (na nb : Bool) (s : State) := opPL g pd pa pb na nb (fun x y => x && y) s
def execPor (g : Guard) (pd pa pb : BitVec 5) (na nb : Bool) (s : State) := opPL g pd pa pb na nb (fun x y => x || y) s
def execPxor (g : Guard) (pd pa pb : BitVec 5) (na nb : Bool) (s : State) := opPL g pd pa pb na nb (fun x y => x != y) s
def execPandn (g : Guard) (pd pa pb : BitVec 5) (na nb : Bool) (s : State) := opPL g pd pa pb na nb (fun x y => x && !y) s

end Sys2Proof.Machine
end

