-- ==== Sys2Proof/Machine/Vector.lean ====
section
/-! DEFINITION. Vector slots: floating-point arithmetic, comparison, conversion, integer lanes, logic, exchange with
scalars (07 R164-R184). -/
namespace Sys2Proof.Machine

/-- Union of the flags of the enabled and partial lanes among the first n (07 R165). -/
def laneFl (m : Mask) (w : Nat) (r : Nat → Nat × Fl) : Nat → Fl
  | 0 => 0#6
  | n + 1 => laneFl m w r n ||| (if laneOn m w n then (r n).2 else 0#6)

/-- A vector result under a mask: n lanes of width w from lane 0, the others 0, with its flags, at issue + lat. -/
def State.postLanes (s : State) (u : VSlot) (lat : Nat) (vd : BitVec 6) (m : Mask) (w n : Nat) (r : Nat → Nat × Fl) : State :=
  (s.postV (scV u) lat vd m (ofLanes w n fun i => (r i).1)).postF (scV u) lat (laneFl m w r n)

/-- An operation lane by lane of one width under q: the function takes the state and the lane number. -/
def opLanes (g : Guard) (u : VSlot) (vd : BitVec 6) (q : BitVec 4) (w lat : Nat) (r : State → Nat → Nat × Fl) (s : State) :
    Host.Outcome State Fault Refusal :=
  slotOp g s fun s => s.postLanes u lat vd (s.qv q) w (lanes w) (r s)

/-- An operation without flags. -/
def opPlain (g : Guard) (u : VSlot) (vd : BitVec 6) (q : BitVec 4) (w lat : Nat) (r : State → Nat → Nat) (s : State) :
    Host.Outcome State Fault Refusal :=
  slotOp g s fun s => s.postV (scV u) lat vd (s.qv q) (ofLanes w (lanes w) (r s))

/-! ## Floating-point arithmetic (07 R171-R177) -/

/-- Rounds an exact value, joining the flags. -/
def roundWith (t : Ty) (mode : RMode) (x : Val × Fl) : Nat × Fl :=
  let (b, f) := roundTo t mode 0 x.1
  (b, x.2 ||| f)
def rzMode (rz : Bool) : RMode := if rz then .rtz else .rne

/-- Arithmetic group (07 Table 7-4): E of lanes a, b and d, rounded once. -/
def opArith (g : Guard) (u : VSlot) (vd va vb : BitVec 6) (q : BitVec 4) (ty : Ty) (rz : Bool) (lat : Nat)
    (e : Val → Val → Val → Val × Fl) (s : State) : Host.Outcome State Fault Refusal :=
  opLanes g u vd q ty.width lat (fun s i =>
    let v (x : Vec) : Val := valueOf ty (lane x ty.width i)
    roundWith ty (rzMode rz) (e (v (s.vv va)) (v (s.vv vb)) (v (s.vv vd)))) s

def execVadd (g : Guard) (u : VSlot) (vd va vb : BitVec 6) (q : BitVec 4) (ty : Ty) (rz : Bool) (s : State) :=
  opArith g u vd va vb q ty rz 3 (fun a b _ => addV a b) s
def execVsub (g : Guard) (u : VSlot) (vd va vb : BitVec 6) (q : BitVec 4) (ty : Ty) (rz : Bool) (s : State) :=
  opArith g u vd va vb q ty rz 3 (fun a b _ => addV a b.neg) s
def execVmul (g : Guard) (u : VSlot) (vd va vb : BitVec 6) (q : BitVec 4) (ty : Ty) (rz : Bool) (s : State) :=
  opArith g u vd va vb q ty rz 5 (fun a b _ => mulV a b) s
def execVfma (g : Guard) (u : VSlot) (vd va vb : BitVec 6) (q : BitVec 4) (ty : Ty) (rz : Bool) (s : State) :=
  opArith g u vd va vb q ty rz 5 (fun a b d => fmaV d a b) s
def execVfms (g : Guard) (u : VSlot) (vd va vb : BitVec 6) (q : BitVec 4) (ty : Ty) (rz : Bool) (s : State) :=
  opArith g u vd va vb q ty rz 5 (fun a b d => fmaV d a.neg b) s
def execVfnma (g : Guard) (u : VSlot) (vd va vb : BitVec 6) (q : BitVec 4) (ty : Ty) (rz : Bool) (s : State) :=
  opArith g u vd va vb q ty rz 5 (fun a b d => let r := fmaV d a b; (r.1.neg, r.2)) s

def opMinMax (g : Guard) (u : VSlot) (vd va vb : BitVec 6) (q : BitVec 4) (ty : Ty) (isMax num : Bool) (s : State) :
    Host.Outcome State Fault Refusal :=
  opLanes g u vd q ty.width 3 (fun s i =>
    roundWith ty .rne (minMaxV isMax num (valueOf ty (lane (s.vv va) ty.width i)) (valueOf ty (lane (s.vv vb) ty.width i)))) s
def execVmin (g : Guard) (u : VSlot) (vd va vb : BitVec 6) (q : BitVec 4) (ty : Ty) (num : Bool) (s : State) :=
  opMinMax g u vd va vb q ty false num s
def execVmax (g : Guard) (u : VSlot) (vd va vb : BitVec 6) (q : BitVec 4) (ty : Ty) (num : Bool) (s : State) :=
  opMinMax g u vd va vb q ty true num s
/-- Sign-bit operations: payloads and the signalling bit stay (07 R173). -/
def execVabs (g : Guard) (u : VSlot) (vd va : BitVec 6) (q : BitVec 4) (ty : Ty) (s : State) :=
  opPlain g u vd q ty.width 2 (fun s i => lane (s.vv va) ty.width i % 2 ^ (ty.width - 1)) s
def execVneg (g : Guard) (u : VSlot) (vd va : BitVec 6) (q : BitVec 4) (ty : Ty) (s : State) :=
  opPlain g u vd q ty.width 2 (fun s i => (lane (s.vv va) ty.width i + 2 ^ (ty.width - 1)) % 2 ^ ty.width) s

/-- Sum and error of `vtwosum` (07 R174): s with its flags, and e, which raises none. -/
def twoSum (ty : Ty) (a b : Val) : (Nat × Fl) × Nat :=
  let x := addV a b
  let r := roundWith ty .rne x
  let sv := valueOf ty r.1
  let e := if sv.isNaN then Ty.canonNaN ty else if sv.isInf then 0
    else
      let d := (addV x.1 sv.neg).1
      if d.isZero then 0 else (roundNE ty d).1
  (r, e)
def execVtwosum (g : Guard) (u : VSlot) (vd va vb : BitVec 6) (q : BitVec 4) (ty : Ty) (s : State) :
    Host.Outcome State Fault Refusal :=
  slotOp g s fun s =>
    let r (i : Nat) := twoSum ty (valueOf ty (lane (s.vv va) ty.width i)) (valueOf ty (lane (s.vv vb) ty.width i))
    let n := lanes ty.width
    (s.postLanes u 4 vd (s.qv q) ty.width n (fun i => (r i).1)).postV (scV u) 4 (vd + 1) (s.qv q)
      (ofLanes ty.width n fun i => (r i).2)

/-- Writes a comparison to the byte-lane bits that q enables (07 R175). -/
def State.postCmpQ (s : State) (u : VSlot) (lat : Nat) (qd q : BitVec 4) (w : Nat) (r : Nat → Bool × Fl) : State :=
  (s.postQ (scV u) lat qd (s.qv q) (maskOf w (lanes w) fun i => (r i).1)).postF (scV u) lat
    (laneFl (s.qv q) w (fun i => (0, (r i).2)) (lanes w))
def execVcmp (g : Guard) (u : VSlot) (qd : BitVec 4) (c : FCond) (va vb : BitVec 6) (q : BitVec 4) (ty : Ty) (s : State) :
    Host.Outcome State Fault Refusal :=
  slotOp g s fun s => s.postCmpQ u 3 qd q ty.width fun i =>
    fcmpV c (valueOf ty (lane (s.vv va) ty.width i)) (valueOf ty (lane (s.vv vb) ty.width i))
def execVclass (g : Guard) (u : VSlot) (vd va : BitVec 6) (q : BitVec 4) (ty : Ty) (s : State) :=
  opPlain g u vd q ty.width 2 (fun s i => classV ty (lane (s.vv va) ty.width i)) s

/-- One lane of `vscale` (07 R177) under the scale byte e. -/
def scaleLane (ty : Ty) (x e : Nat) (inv : Bool) : Nat × Fl :=
  if e = 0xFF then (Ty.canonNaN ty, IV)
  else roundNE ty ((valueOf ty x).scaleBy (if inv then 127 - (e : Int) else (e : Int) - 127))
def execVscale (g : Guard) (u : VSlot) (vd va vb : BitVec 6) (q : BitVec 4) (ty : Ty) (inv : Bool) (s : State) :=
  opLanes g u vd q ty.width 3 (fun s i => scaleLane ty (lane (s.vv va) ty.width i) (lane (s.vv vb) 8 (i / 32)) inv) s

/-! ## Conversion (07 R178, R179) -/

/-- Lanes of `vcvt`: the smaller lane count of source and destination. -/
def cvtLanes (dt st : Ty) : Nat := 2048 / max dt.width st.width
/-- The converted lanes with their flags. In EF every lane's enable decides the residual chain. -/
def cvtAll (dt st : Ty) (mode : RMode) (x : Vec) (m : Mask) (row : Nat) : List (Nat × Fl) :=
  let xs := (List.range (cvtLanes dt st)).map fun i => (valueOf st (lane x st.width i), laneOn m dt.width i)
  match mode with
  | .ef => efLanes dt 0 (.fin false 0 0) xs
  | .dith => xs.zipIdx.map fun p => roundTo dt .dith (carding row (p.2 % 16)) p.1.1
  | m => xs.map fun p => roundTo dt m 0 p.1
/-- `vcvt`. With DT = ST and SAT an infinite lane gives what R83 and the pseudocode of R178 say, not R178's sentence that such a lane
is returned unchanged: the model's choice (notes/assumptions/51.md). -/
def execVcvt (g : Guard) (u : VSlot) (vd va : BitVec 6) (q : BitVec 4) (dt st : Ty) (mode : RMode) (s : State) :
    Host.Outcome State Fault Refusal :=
  slotOp g s fun s =>
    let m := if mode = .dith then allOn else s.qv q
    let row := (s.sv (q.zeroExtend 6)).toNat % 16
    let rs := cvtAll dt st mode (s.vv va) m row
    s.postLanes u (if mode = .ef then 8 else 4) vd m dt.width (lanes dt.width) fun i => rs.getD i (0, 0#6)

/-! ## Integer and logic (07 R180-R183) -/

/-- A lane read by the type's signedness. -/
def laneInt (ty : Ty) (n : Nat) : Int := if ty.signed then toSigned ty.width n else (n : Int)
/-- Clamps to a type's range. -/
def clampTy (ty : Ty) (x : Int) : Nat := wrap ty.width (max (Ty.intMin ty) (min (Ty.intMax ty) x))

def opInt (g : Guard) (u : VSlot) (vd va vb : BitVec 6) (q : BitVec 4) (w lat : Nat) (f : Nat → Nat → Nat) (s : State) :
    Host.Outcome State Fault Refusal :=
  opPlain g u vd q w lat (fun s i => f (lane (s.vv va) w i) (lane (s.vv vb) w i)) s
def opInt1 (g : Guard) (u : VSlot) (vd va : BitVec 6) (q : BitVec 4) (w : Nat) (f : Nat → Nat) (s : State) :
    Host.Outcome State Fault Refusal :=
  opPlain g u vd q w 2 (fun s i => f (lane (s.vv va) w i)) s

def execViadd (g : Guard) (u : VSlot) (vd va vb : BitVec 6) (q : BitVec 4) (ty : Ty) (s : State) :=
  opInt g u vd va vb q ty.width 2 (fun a b => (a + b) % 2 ^ ty.width) s
def execVisub (g : Guard) (u : VSlot) (vd va vb : BitVec 6) (q : BitVec 4) (ty : Ty) (s : State) :=
  opInt g u vd va vb q ty.width 2 (fun a b => (a + 2 ^ ty.width - b) % 2 ^ ty.width) s
def execVimul (g : Guard) (u : VSlot) (vd va vb : BitVec 6) (q : BitVec 4) (ty : Ty) (s : State) :=
  opInt g u vd va vb q ty.width 5 (fun a b => a * b % 2 ^ ty.width) s
def execVimulh (g : Guard) (u : VSlot) (vd va vb : BitVec 6) (q : BitVec 4) (ty : Ty) (s : State) :=
  opInt g u vd va vb q ty.width 5 (fun a b => wrap (2 * ty.width) (laneInt ty a * laneInt ty b) / 2 ^ ty.width) s
/-- Widening add: lanes of twice the width (07 R181). -/
def execViaddw (g : Guard) (u : VSlot) (vd va vb : BitVec 6) (q : BitVec 4) (ty : Ty) (hi : Bool) (s : State) :=
  opPlain g u vd q (2 * ty.width) 2 (fun s i =>
    let n := laneInt ty (lane (s.vv vb) ty.width (if hi then i + lanes (2 * ty.width) else i))
    wrap (2 * ty.width) ((lane (s.vv va) (2 * ty.width) i : Int) + n)) s
def execVishl (g : Guard) (u : VSlot) (vd va vb : BitVec 6) (q : BitVec 4) (ty : Ty) (s : State) :=
  opInt g u vd va vb q ty.width 2 (fun a n => if n < ty.width then a * 2 ^ n % 2 ^ ty.width else 0) s
def execVishr (g : Guard) (u : VSlot) (vd va vb : BitVec 6) (q : BitVec 4) (ty : Ty) (s : State) :=
  opInt g u vd va vb q ty.width 2 (fun a n => if n < ty.width then a / 2 ^ n else 0) s
def execVisra (g : Guard) (u : VSlot) (vd va vb : BitVec 6) (q : BitVec 4) (ty : Ty) (s : State) :=
  opInt g u vd va vb q ty.width 2 (fun a n => wrap ty.width (toSigned ty.width a / 2 ^ min n (ty.width - 1))) s
/-- Bitwise over all 2048 bits (07 R183). -/
def opLogic (g : Guard) (u : VSlot) (vd va vb : BitVec 6) (q : BitVec 4) (f : Vec → Vec → Vec) (s : State) :
    Host.Outcome State Fault Refusal :=
  slotOp g s fun s => s.postV (scV u) 2 vd (s.qv q) (f (s.vv va) (s.vv vb))
def execVand (g : Guard) (u : VSlot) (vd va vb : BitVec 6) (q : BitVec 4) (s : State) := opLogic g u vd va vb q (fun a b => a &&& b) s
def execVor (g : Guard) (u : VSlot) (vd va vb : BitVec 6) (q : BitVec 4) (s : State) := opLogic g u vd va vb q (fun a b => a ||| b) s
def execVxor (g : Guard) (u : VSlot) (vd va vb : BitVec 6) (q : BitVec 4) (s : State) := opLogic g u vd va vb q (fun a b => a ^^^ b) s
def execVnot (g : Guard) (u : VSlot) (vd va : BitVec 6) (q : BitVec 4) (s : State) := opLogic g u vd va va q (fun a _ => ~~~a) s
def execVimin (g : Guard) (u : VSlot) (vd va vb : BitVec 6) (q : BitVec 4) (ty : Ty) (s : State) :=
  opInt g u vd va vb q ty.width 2 (fun a b => if laneInt ty a ≤ laneInt ty b then a else b) s
def execVimax (g : Guard) (u : VSlot) (vd va vb : BitVec 6) (q : BitVec 4) (ty : Ty) (s : State) :=
  opInt g u vd va vb q ty.width 2 (fun a b => if laneInt ty a ≤ laneInt ty b then b else a) s
def execViabs (g : Guard) (u : VSlot) (vd va : BitVec 6) (q : BitVec 4) (ty : Ty) (sat : Bool) (s : State) :=
  opInt1 g u vd va q ty.width (fun a =>
    let x := (toSigned ty.width a).natAbs
    if sat ∧ x = 2 ^ (ty.width - 1) then x - 1 else x) s
def execVicmp (g : Guard) (u : VSlot) (qd : BitVec 4) (c : Cond) (va vb : BitVec 6) (q : BitVec 4) (ty : Ty) (s : State) :
    Host.Outcome State Fault Refusal :=
  slotOp g s fun s => s.postCmpQ u 2 qd q ty.width fun i =>
    (condHolds c (laneInt ty (lane (s.vv va) ty.width i)) (laneInt ty (lane (s.vv vb) ty.width i)), 0#6)
def execVpopc (g : Guard) (u : VSlot) (vd va : BitVec 6) (q : BitVec 4) (ty : Ty) (s : State) :=
  opInt1 g u vd va q ty.width (fun a => popBits a ty.width) s
def execVclz (g : Guard) (u : VSlot) (vd va : BitVec 6) (q : BitVec 4) (ty : Ty) (s : State) :=
  opInt1 g u vd va q ty.width (fun a => clzBits a ty.width) s
def execViaddsat (g : Guard) (u : VSlot) (vd va vb : BitVec 6) (q : BitVec 4) (ty : Ty) (sub : Bool) (s : State) :=
  opInt g u vd va vb q ty.width 2 (fun a b =>
    clampTy ty (if sub then laneInt ty a - laneInt ty b else laneInt ty a + laneInt ty b)) s
/-- Byte j of va where bit j of qs is 1, of vb otherwise. -/
def execVsel (g : Guard) (u : VSlot) (vd va vb : BitVec 6) (q qs : BitVec 4) (s : State) : Host.Outcome State Fault Refusal :=
  slotOp g s fun s => s.postV (scV u) 2 vd (s.qv q) (blend (s.qv qs) (s.vv vb) (s.vv va))
def execVmov (g : Guard) (u : VSlot) (vd va : BitVec 6) (q : BitVec 4) (s : State) := opLogic g u vd va va q (fun a _ => a) s

/-! ## Immediates and scalar exchange (07 R184) -/

/-- Width of a code c. -/
def widthOf (c : BitVec 2) : Nat := 8 * 2 ^ c.toNat
def execVmovi (g : Guard) (u : VSlot) (vd : BitVec 6) (q : BitVec 4) (imm : BitVec 10) (t : Bool) (s : State) :=
  if t then opPlain g u vd q 8 2 (fun _ _ => imm.toNat % 256) s
  else opPlain g u vd q 32 2 (fun _ _ => wrap 32 imm.toInt) s
def execVbcast (g : Guard) (u : VSlot) (vd sn : BitVec 6) (q : BitVec 4) (c : BitVec 2) (s : State) :=
  opPlain g u vd q (widthOf c) 2 (fun s _ => (s.sv sn).toNat % 2 ^ widthOf c) s
def execVext (g : Guard) (u : VSlot) (sd va : BitVec 6) (c : BitVec 2) (k : BitVec 8) (signed : Bool) (s : State) :
    Host.Outcome State Fault Refusal :=
  slotOp g s fun s =>
    let x := lane (s.vv va) (widthOf c) k.toNat
    s.postS (scV u) 2 sd (if signed then ofI (toSigned (widthOf c) x) else BitVec.ofNat 64 x)
/-- Lane k of vd, where q enables it; the other lanes keep their values, and the write counts as one of vd. -/
def execVins (g : Guard) (u : VSlot) (vd sn : BitVec 6) (q : BitVec 4) (c : BitVec 2) (k : BitVec 8) (s : State) :
    Host.Outcome State Fault Refusal :=
  slotOp g s fun s =>
    let w := widthOf c
    s.postV (scV u) 2 vd (s.qv q &&& maskOf w (lanes w) (fun i => i == k.toNat))
      (ofLanes w (lanes w) fun i => if i = k.toNat then (s.sv sn).toNat else 0)

/-! ## Vector predicates (07 R189) -/

def opVq (g : Guard) (u : VSlot) (qd qa qb : BitVec 4) (f : Mask → Mask → Mask) (s : State) : Host.Outcome State Fault Refusal :=
  slotOp g s fun s => s.postQ (scV u) 2 qd allOn (f (s.qv qa) (s.qv qb))
def execVqand (g : Guard) (u : VSlot) (qd qa qb : BitVec 4) (s : State) := opVq g u qd qa qb (fun a b => a &&& b) s
def execVqor (g : Guard) (u : VSlot) (qd qa qb : BitVec 4) (s : State) := opVq g u qd qa qb (fun a b => a ||| b) s
def execVqxor (g : Guard) (u : VSlot) (qd qa qb : BitVec 4) (s : State) := opVq g u qd qa qb (fun a b => a ^^^ b) s
def execVqnot (g : Guard) (u : VSlot) (qd qa : BitVec 4) (s : State) := opVq g u qd qa qa (fun a _ => ~~~a) s
def execVqcnt (g : Guard) (u : VSlot) (sd : BitVec 6) (qa : BitVec 4) (s : State) : Host.Outcome State Fault Refusal :=
  slotOp g s fun s => s.postS (scV u) 2 sd (BitVec.ofNat 64 (popBits (s.qv qa).toNat 256))

end Sys2Proof.Machine
end

