-- ==== Sys2Proof/Machine/Matrix.lean ====
section
/-! DEFINITION. M slot: chunk values, `mldb`, `mmul`, accumulator instructions, the format table in use (09, 03 R90-R93). -/
namespace Sys2Proof.Machine

/-! ## Format table (03 Tables 3-9, 3-10) -/

/-- A format-table row. -/
structure FtRow where
  afmt : Ty
  bfmt : Ty
  sfmt : Ty
  srnd : RMode
  i32 : Bool
  scA : Bool
  scB : Bool
  deriving DecidableEq, Repr

/-- Product-cell cycles per chunk of an operand pair (03 Table 3-10); none for a pair that is not legal. -/
def pairCycles (a b : Ty) : Option Nat :=
  if a.isF8 && b == .p2s8 then some 1 else if a.isF8 && b.isF8 then some 2
  else if a == .s8 && b == .s8 then some 2
  else if (a == .bf16 && b == .bf16) || (a == .f16 && b == .f16) then some 4 else none

/-- A legal row of Table 3-10; none for an unused or illegal word (03 R91). -/
def ftRow (w : W32) : Option FtRow :=
  let x := w.toNat
  match Ty.ofCode (BitVec.ofNat 4 (x / 2 ^ 28)), Ty.ofCode (BitVec.ofNat 4 (x / 2 ^ 24)),
      Ty.ofCode (BitVec.ofNat 4 (x / 2 ^ 20)), RMode.ofCode (BitVec.ofNat 3 (x / 2 ^ 17)) with
  | some a, some b, some d, some r =>
    let i32 := x / 2 ^ 16 % 2 == 1
    let scA := x / 2 ^ 14 % 2 == 1
    let scB := x / 2 ^ 15 % 2 == 1
    if x % 2 ^ 14 = 0 ∧ (pairCycles a b).isSome ∧ i32 = (a == .s8) ∧ (!scA || a.scalable) ∧ (!scB || b.scalable)
    then some ⟨a, b, d, r, i32, scA, scB⟩ else none
  | _, _, _, _ => none
/-- A row that a loader or `ftload` accepts: unused or legal. -/
def ftOk (w : W32) : Bool := w == 0#32 || (ftRow w).isSome

/-- j of R92: the iteration of the loop that lN runs, else 0. -/
def Tile.ftIndex (t : Tile) (l : BitVec 2) : Nat :=
  let c := t.regs.lAt l.toNat
  if c.running then c.j % 16 else 0
/-- The row a table-mode instruction uses; none where it faults (03 R91): the row is unused, or every row of the last
`ftload` is. -/
def Tile.ftUse (t : Tile) (l : BitVec 2) : Option FtRow :=
  if (List.range 16).all (fun i => !t.ftmask.getLsbD i || (ftRow (t.ft.getD i 0#32)).isNone) then none
  else ftRow (t.ft.getD (t.ftIndex l) 0#32)
/-- Rows that fix the latency: those of the last `ftload` that are used (03 R93). -/
def Tile.ftRows (t : Tile) : List FtRow :=
  (List.range 16).filterMap fun i => if t.ftmask.getLsbD i then ftRow (t.ft.getD i 0#32) else none
/-- Largest of a list. -/
def maxOf : List Nat → Nat
  | [] => 0
  | a :: r => max a (maxOf r)

/-- Occupancy of an `mmul` of n chunks: n * b, or ceil(8n / 7) * b under `.c` (09 R220, R223). -/
def occupancy (classical : Bool) (n b : Nat) : Nat := if classical then (8 * n + 6) / 7 * b else n * b
/-- Cycles of a row's pair. -/
def FtRow.b (r : FtRow) : Nat := (pairCycles r.afmt r.bfmt).getD 1

/-! ## Guard formats and chunk values (03 R77, R78, 09 R208-R218) -/

/-- Fraction bits and least exponent of the guard format of a type (03 Table 3-4); none where pre-sums are exact. -/
def guardFmt : Ty → Option (Nat × Int)
  | .e4m3 => some (6, -20) | .e5m2 => some (5, -35) | .bf16 => some (10, -264) | .f16 => some (13, -43) | _ => none
/-- Guard rounding of an exact pre-sum; it raises nothing. -/
def guardRound (t : Ty) (x : Val) : Val :=
  match guardFmt t, x with
  | some (mb, qmin), .fin n m e =>
    if m = 0 then x
    else
      let q : Int := max ((Nat.log2 m : Int) + e - mb) qmin
      .fin n (roundAt .rne 0 m e q).1 q
  | _, x => x

/-- 256 values of a 16 x 16 quadrant or panel, row-major. -/
abbrev Panel := Array Val
def mkPanel (f : Nat → Nat → Val) : Panel := Array.ofFn (n := 256) fun i => f (i.val / 16) (i.val % 16)
def Panel.at (p : Panel) (i j : Nat) : Val := p.getD (16 * i + j) (.fin false 0 0)
/-- Quadrant of a 32 x 32 block: row half and column half. -/
def quad (t : Ty) (blk : Array Nat) (r c : Nat) : Panel :=
  mkPanel fun i j => valueOf t (blk.getD (32 * (i + 16 * r) + j + 16 * c) 0)
/-- Guard-rounded sum or difference of two panels. -/
def preAdd (t : Ty) (x y : Panel) (sub : Bool) : Panel :=
  mkPanel fun i j => guardRound t (addV (x.at i j) (if sub then (y.at i j).neg else y.at i j)).1

/-- ExtSum of f 0 ... f (n-1) (09 R215). -/
def extSum (f : Nat → Val) : Nat → Val
  | 0 => .fin false 0 0
  | n + 1 => (addV (extSum f n) (f n)).1
/-- A block product of two panels, exact. -/
def blockProd (p q : Panel) : Panel := mkPanel fun i j => extSum (fun k => (mulV (p.at i k) (q.at k j)).1) 16
def addP (x y : Panel) : Panel := mkPanel fun i j => (addV (x.at i j) (y.at i j)).1
def subP (x y : Panel) : Panel := mkPanel fun i j => (addV (x.at i j) (y.at i j).neg).1

/-- Four quadrants as 1,024 values, row-major; an exact zero is +0. -/
def joinQuads (c11 c12 c21 c22 : Panel) : Array Val :=
  Array.ofFn (n := 1024) fun x =>
    let i := x.val / 32
    let j := x.val % 32
    let p := if i < 16 then (if j < 16 then c11 else c12) else (if j < 16 then c21 else c22)
    let v := p.at (i % 16) (j % 16)
    if v.isZero then .fin false 0 0 else v

/-- Recombined chunk values (09 R214, R215). -/
def recombined (ta tb : Ty) (a b : Array Nat) : Array Val :=
  let a11 := quad ta a 0 0
  let a12 := quad ta a 0 1
  let a21 := quad ta a 1 0
  let a22 := quad ta a 1 1
  let b11 := quad tb b 0 0
  let b12 := quad tb b 0 1
  let b21 := quad tb b 1 0
  let b22 := quad tb b 1 1
  let m1 := blockProd (preAdd ta a11 a22 false) (preAdd tb b11 b22 false)
  let m2 := blockProd (preAdd ta a21 a22 false) b11
  let m3 := blockProd a11 (preAdd tb b12 b22 true)
  let m4 := blockProd a22 (preAdd tb b21 b11 true)
  let m5 := blockProd (preAdd ta a11 a12 false) b22
  let m6 := blockProd (preAdd ta a21 a11 true) (preAdd tb b11 b12 false)
  let m7 := blockProd (preAdd ta a12 a22 true) (preAdd tb b21 b22 false)
  joinQuads (addP (subP (addP m1 m4) m5) m7) (addP m3 m5) (addP m2 m4) (addP (addP (subP m1 m2) m3) m6)
/-- Classical chunk values. -/
def classicalV (ta tb : Ty) (a b : Array Nat) : Array Val :=
  Array.ofFn (n := 1024) fun x =>
    let i := x.val / 32
    let j := x.val % 32
    let v := extSum (fun k => (mulV (valueOf ta (a.getD (32 * i + k) 0)) (valueOf tb (b.getD (32 * k + j) 0))).1) 32
    if v.isZero then .fin false 0 0 else v

/-- Marks of a block (09 Table 9-3): a non-finite element, a NaN, a signalling NaN. -/
def marks (t : Ty) (blk : List Nat) : Bool × Bool × Bool :=
  (blk.any fun n => !(valueOf t n).isFin, blk.any fun n => (valueOf t n).isNaN, blk.any fun n => (valueOf t n).isSig)

/-- One element's accumulation of one chunk (09 R216). -/
def accStep (int scaledNaN : Bool) (k : Int) (acc : W32) (v : Val) : W32 × Fl :=
  if int then
    match v with
    | .fin n m e => (acc + BitVec.ofInt 32 (scaled n m e 0), 0#6)
    | _ => (acc, 0#6)
  else if scaledNaN then (BitVec.ofNat 32 (Ty.canonNaN .f32), IV)
  else
    let r := roundWith .f32 .rne (addV (valueOf .f32 acc.toNat) (v.scaleBy k))
    (BitVec.ofNat 32 r.1, r.2)

/-- Union of flags over an array. -/
def arrFl (a : Array (W32 × Fl)) : Fl := a.foldl (fun f x => f ||| x.2) 0#6

/-- One chunk into the accumulator with its flags (09 R216, R218). -/
def accChunk (op : MmulOp) (acc : Acc) (c : Chunk) : Acc × Fl :=
  let vs := if op.classical then classicalV op.aty c.slot.ty c.a.toArray c.slot.blk.toArray
    else recombined op.aty c.slot.ty c.a.toArray c.slot.blk.toArray
  let (anf, anan, asn) := marks op.aty c.a
  let (bnf, bnan, bsn) := marks c.slot.ty c.slot.blk
  let eb := if op.scB then c.slot.scale.toNat else 127
  let nanSc := c.ea == 0xFF || eb == 0xFF
  let r : Array (W32 × Fl) := Array.ofFn (n := 1024) fun i =>
    accStep op.int nanSc ((c.ea : Int) + eb - 254) (acc.getD i.val 0#32) (vs.getD i.val (.fin false 0 0))
  let f := arrFl r
  let f := if !op.classical && (anf || bnf) then f ||| RNF else f
  let f := if (!anan && !bnan && vs.any Val.isNaN) || asn || bsn then f ||| IV else f
  (Vector.ofFn fun i => (r.getD i.val (0#32, 0#6)).1, f)
/-- All chunks in order. -/
def accAll (op : MmulOp) (acc : Acc) (f : Fl) : List Chunk → Acc × Fl
  | [] => (acc, f)
  | c :: r =>
    let x := accChunk op acc c
    accAll op x.1 (f ||| x.2) r

/-! ## Reads of blocks and slots -/

/-- n elements of wb bytes from an address, under the half-swap bit h. -/
def Tile.elems (t : Tile) (h : Bool) (a wb n : Nat) : List Nat :=
  (List.range n).map fun i => t.sp.getN (256 * physLine h (a + i * wb) + (a + i * wb) % 256) wb
/-- Block size BS of a type (09 R210). -/
def blockSize (t : Ty) : Nat := 1024 * (t.width / 8)
/-- Chunk k's block and its scale byte. -/
def Tile.block (t : Tile) (h : Bool) (base : Nat) (ty : Ty) (k : Nat) : List Nat :=
  t.elems h (base + k * blockSize ty) (ty.width / 8) 1024
def Tile.scaleByte (t : Tile) (h : Bool) (base : Nat) (ty : Ty) (n k : Nat) : Nat :=
  nth (t.elems h (base + n * blockSize ty + k) 1 1) 0
def MatrixSt.slotAt (m : MatrixSt) (g : Nat) : Option ChunkSlot := m.bs.getD (g % 16) none

/-- Slot contents that an `mldb` forms for chunk k (09 R212). -/
def Tile.mldbChunk (t : Tile) (op : MldbOp) (k : Nat) : ChunkSlot :=
  ⟨op.ty, if op.scaled then BitVec.ofNat 8 (t.scaleByte op.h op.base op.ty op.n k) else 0x7F#8, t.block op.h op.base op.ty k⟩
/-- Frame cycle at which chunk k of an `mmul` is read (09 R222). -/
def MmulOp.readAt (op : MmulOp) (k : Nat) : Nat :=
  if op.classical then op.c + 8 * k / 7 * op.b else op.c + k * op.b
/-- Frame cycle of an `mmul`'s last chunk read: past its result where its row outlasts the fixed latency (03 R93). -/
def MmulOp.lastRead (op : MmulOp) : Nat := op.readAt (op.n - 1)
/-- Does the slot accept the `mmul`: its type, or the type code to report (18 Table 18-3 code 0x0E)? -/
def MmulOp.slotBad (op : MmulOp) (m : MatrixSt) (k : Nat) : Option (Nat × Nat) :=
  match m.slotAt (op.g0 + k) with
  | none => some ((op.g0 + k) % 16, 0xFF)
  | some s => if op.accept.contains s.ty then none else some ((op.g0 + k) % 16, s.ty.code.toNat)
/-- What chunk k reads. -/
def Tile.mmulChunk (t : Tile) (op : MmulOp) (k : Nat) : Chunk :=
  ⟨t.block op.h op.base op.aty k, if op.scA then t.scaleByte op.h op.base op.aty op.n k else 127,
    (t.mtx.slotAt (op.g0 + k)).getD ⟨op.aty, 0x7F#8, []⟩⟩
def slotFail (x : Nat × Nat) : Fail := opFail 0x0E (BitVec.ofNat 64 x.1) (BitVec.ofNat 64 x.2)

/-! ## mldb and mmul -/

/-- Opcode detail of the M slot. -/
def mDetail (opc : Nat) : Word := lDetail opc 0xFF
/-- Range and alignment of an M-slot extent. -/
def extentFail (opc : Nat) (a : Word) (len : Nat) : Option Fail :=
  (checkAddr a.toNat len 256).map fun e => opFail e.code e.addr (mDetail opc)
def State.withExtent (s : State) (opc : Nat) (a : Word) (len : Nat) (f : State → State) : State :=
  s.checked scM (extentFail opc a len).toList f

/-- The stationary loader is at work (18 Table 18-4 code 0x06). -/
def MatrixSt.loaderBusy (m : MatrixSt) (f : Nat) : Option Fail :=
  match m.mldb with
  | some p => if f < p.c + p.n then some (unitFail 0x06 2 (p.c + p.n)) else none
  | none => none
def execMldb (g : Guard) (ty : Ty) (x : BitVec 1) (f : BitVec 3) (sa : BitVec 6) (n : BitVec 4) (sb : Bool) (s : State) :
    Host.Outcome State Fault Refusal :=
  slotOp g s fun s =>
    let k := n.toNat + 1
    let extent := extentFail 0x01 (s.sv sa) (k * blockSize ty + if sb then 256 else 0)
    s.checked scM (extent.toList ++ (s.ct.mtx.loaderBusy s.frc).toList) fun s =>
      let op : MldbOp := ⟨s.frc, 8 * x.toNat + f.toNat, (s.sv sa).toNat, k, ty, sb, s.ct.h, s.srcOf scM⟩
      s.modCt fun t => { t with
        mtx := { t.mtx with mldb := some op }
        pend := t.pend ++ [⟨op.c + 4, op.src, .chunk (op.g0 % 16) (t.mldbChunk op 0)⟩] }

/-- The `mmul` at work whose product cells are busy in cycle f. -/
def MatrixSt.cellsBusy (m : MatrixSt) (f : Nat) : Option MmulOp := m.mmuls.find? fun o => decide (o.c ≤ f ∧ f < o.c + o.occ)

/-- An `mmul` at issue: extent, slot of chunk 0, product cells, then the start with chunk 0 read. -/
def State.startMmul (s : State) (sa : BitVec 6) (op : MmulOp) : State :=
  let extent := extentFail 0x02 (s.sv sa) (op.n * blockSize op.aty + if op.scA then 256 else 0)
  let slot := (op.slotBad s.ct.mtx 0).map slotFail
  let busy := (s.ct.mtx.cellsBusy s.frc).map fun o => unitFail 0x06 3 (o.c + o.occ)
  s.checked scM (extent.toList ++ slot.toList ++ busy.toList) fun s =>
    s.modCt fun t => { t with
      mtx := { t.mtx with mmuls := t.mtx.mmuls ++ [{ op with chunks := [t.mmulChunk op 0] }] } }

/-- B types that a direct `mmul` admits (09 Table 9-8) and its b. -/
def directClass (aty : Ty) (bsel : Bool) : List Ty × Nat :=
  match aty with
  | .e4m3 | .e5m2 => if bsel then ([.p2s8], 1) else ([.e4m3, .e5m2], 2)
  | .s8 => ([.s8], 2)
  | t => ([t], 4)

def execMmul (g : Guard) (ad : BitVec 3) (x : BitVec 1) (sa : BitVec 6) (n : BitVec 4) (c : Bool) (aty : Ty)
    (bsel scA scB : Bool) (s : State) : Host.Outcome State Fault Refusal :=
  slotOp g s fun s =>
    let k := n.toNat + 1
    let (accept, b) := directClass aty bsel
    let occ := occupancy c k b
    s.startMmul sa ⟨s.frc, ad.toNat, 8 * x.toNat, k, b, c, (s.sv sa).toNat, s.ct.h, aty, accept, aty == .s8, scA, scB,
      occ, 12 + occ, [], none, false, s.srcOf scM⟩
/-- A table-mode instruction that reaches an unused row (18 Table 18-3 code 0x11). -/
def rowFail (t : Tile) (l : BitVec 2) (opc : Nat) : Fail := opFail 0x11 (BitVec.ofNat 64 (t.ftIndex l)) (BitVec.ofNat 64 opc)
def execMmulTableMode (g : Guard) (ad : BitVec 3) (x : BitVec 1) (sa : BitVec 6) (n : BitVec 4) (c : Bool) (l : BitVec 2)
    (s : State) : Host.Outcome State Fault Refusal :=
  slotOp g s fun s =>
    match s.ct.ftUse l with
    | none => s.raise scM (rowFail s.ct l 0x02)
    | some r =>
      let k := n.toNat + 1
      let occ := maxOf (s.ct.ftRows.map fun r => occupancy c k r.b)
      s.startMmul sa ⟨s.frc, ad.toNat, 8 * x.toNat, k, r.b, c, (s.sv sa).toNat, s.ct.h, r.afmt, [r.bfmt], r.i32, r.scA,
        r.scB, occ, 12 + occ, [], none, false, s.srcOf scM⟩

/-! ## Accumulator instructions (09 R225-R228) -/

def State.postA (s : State) (lat : Nat) (ad : BitVec 3) (x : Acc) : State := s.post scM lat (.acc ad.toNat x)
def execMzero (g : Guard) (ad : BitVec 3) (s : State) : Host.Outcome State Fault Refusal :=
  slotOp g s fun s => s.postA 2 ad Acc.reset
def execMld (g : Guard) (ad : BitVec 3) (sa : BitVec 6) (s : State) : Host.Outcome State Fault Refusal :=
  slotOp g s fun s => s.withExtent 0x04 (s.sv sa) 4096 fun s =>
    let ws := (s.ct.elems s.ct.h (s.sv sa).toNat 4 1024).toArray
    s.postA 4 ad (Vector.ofFn fun i => BitVec.ofNat 32 (ws.getD i.val 0))
def execMmov (g : Guard) (ad as : BitVec 3) (s : State) : Host.Outcome State Fault Refusal :=
  slotOp g s fun s => s.postA 2 ad (s.av as)

/-- Value of an accumulator word. -/
def accVal (i32 : Bool) (x : W32) : Val := if i32 then .ofInt x.toInt else valueOf .f32 x.toNat
/-- Row i converted (09 R227): 32 elements with their flags. -/
def mstRow (x : Acc) (i32 : Bool) (ty : Ty) (mode : RMode) (i : Nat) : List (Nat × Fl) :=
  let xs := (List.range 32).map fun j => accVal i32 (x.getD (32 * i + j) 0#32)
  match mode with
  | .ef => efLanes ty 0 (.fin false 0 0) (xs.map fun v => (v, true))
  | m => xs.zipIdx.map fun p => roundTo ty m (if m = .dith then carding (i % 16) (p.2 % 16) else 0) p.1
/-- Queues the lines of a block from address a, line k first. -/
def State.postBlock (s : State) (lat a w : Nat) (es : Array Nat) (k : Nat) : Nat → State
  | 0 => s
  | n + 1 => State.postBlock (s.postLine scM lat 6 (a + 256 * k) allOn (ofLanes w (lanes w) fun i => es.getD (k * lanes w + i) 0))
      lat a w es (k + 1) n
/-- `mst` with its type, mode and latency decided. -/
def State.storeAcc (s : State) (as : BitVec 3) (sa : BitVec 6) (i32 : Bool) (ty : Ty) (mode : RMode) (lat : Nat) : State :=
  s.withExtent 0x05 (s.sv sa) (1024 * (ty.width / 8)) fun s =>
    let rows := (List.range 32).flatMap (mstRow (s.av as) i32 ty mode)
    (s.postBlock lat (s.sv sa).toNat ty.width (rows.map (·.1)).toArray 0 (ty.width / 2)).postF scM lat (flAll rows)
where
  /-- Union of the flags. -/
  flAll : List (Nat × Fl) → Fl
    | [] => 0#6
    | p :: r => p.2 ||| flAll r
/-- Latency of `mst` by its mode. -/
def mstLat (mode : RMode) : Nat := if mode = .ef then 8 else 4
def execMst (g : Guard) (as : BitVec 3) (sa : BitVec 6) (i32 : Bool) (ty : Ty) (mode : RMode) (s : State) :
    Host.Outcome State Fault Refusal :=
  slotOp g s fun s => s.storeAcc as sa i32 ty mode (mstLat mode)
def execMstTableMode (g : Guard) (as : BitVec 3) (sa : BitVec 6) (l : BitVec 2) (s : State) :
    Host.Outcome State Fault Refusal :=
  slotOp g s fun s =>
    match s.ct.ftUse l with
    | none => s.raise scM (rowFail s.ct l 0x05)
    | some r => s.storeAcc as sa r.i32 r.sfmt r.srnd (maxOf (s.ct.ftRows.map fun r => mstLat r.srnd))

/-- An elementwise operation on an accumulator with flags, latency 4. -/
def State.mapAcc (s : State) (ad : BitVec 3) (f : Nat → W32 → W32 × Fl) : State :=
  let x := s.av ad
  let r : Array (W32 × Fl) := Array.ofFn (n := 1024) fun i => f i.val (x.getD i.val 0#32)
  (s.postA 4 ad (Vector.ofFn fun i => (r.getD i.val (0#32, 0#6)).1)).postF scM 4 (arrFl r)
/-- FP32 sum with one rounding, or the wrapping sum under `.i32`. -/
def addWord (i32 : Bool) (x y : W32) : W32 × Fl :=
  if i32 then (x + y, 0#6)
  else
    let r := roundWith .f32 .rne (addV (valueOf .f32 x.toNat) (valueOf .f32 y.toNat))
    (BitVec.ofNat 32 r.1, r.2)
def execMacc (g : Guard) (ad as : BitVec 3) (i32 : Bool) (s : State) : Host.Outcome State Fault Refusal :=
  slotOp g s fun s => s.mapAcc ad fun i x => addWord i32 x ((s.av as).getD i 0#32)
def execMrowadd (g : Guard) (ad : BitVec 3) (sa : BitVec 6) (i32 : Bool) (s : State) : Host.Outcome State Fault Refusal :=
  slotOp g s fun s => s.withExtent 0x08 (s.sv sa) 256 fun s =>
    let b := s.ct.line (s.sv sa).toNat
    s.mapAcc ad fun i x => addWord i32 x (BitVec.ofNat 32 (lane b 32 (i % 32)))
def execMscl (g : Guard) (ad : BitVec 3) (sk : BitVec 6) (s : State) : Host.Outcome State Fault Refusal :=
  slotOp g s fun s =>
    let k := clampExp (s.sv sk).toInt
    s.mapAcc ad fun _ x =>
      let r := roundTo .f32 .rne 0 ((valueOf .f32 x.toNat).scaleBy k)
      (BitVec.ofNat 32 r.1, r.2)
where
  /-- Beyond 1,000 either way every nonzero FP32 value overflows, or underflows to zero, as at 1,000. -/
  clampExp (k : Int) : Int := max (-1000) (min 1000 k)

end Sys2Proof.Machine
end

