-- ==== Sys2Proof/Machine/Sequencer.lean ====
section
/-! DEFINITION. The sequencer: code words, loop ends, the prefetch and target buffers, the issue of a bundle, overrun and
starvation (02 R39, R40, R42, 05 R110-R121, 06 R150, 18 R337, R344). -/
namespace Sys2Proof.Machine

/-- Most code words of a stream (05 R110). -/
def codeMax : Nat := 131072

/-! ## Loops and buffers -/

/-- Address after the body of a loop (06 R149). -/
def LoopSt.stop (l : LoopSt) : Nat := l.start + l.len
/-- Does the body of a running loop hold an address? -/
def LoopSt.holds (l : LoopSt) (a : Nat) : Bool := l.running && decide (l.start ≤ a ∧ a < l.stop)
/-- The counter, among those that satisfy p, whose body starts last: the innermost. -/
def innermost (ls : Vector LoopSt 4) (p : LoopSt → Bool) : Option Nat :=
  (List.range 4).foldl (fun best i =>
    let l := ls.getD i LoopSt.reset
    if p l then
      match best with
      | some j => if (ls.getD j LoopSt.reset).start < l.start then some i else best
      | none => some i
    else best) none
/-- Words usable in cycle f of a target buffer that `fill` started: 4 at the end of each of three cycles (05 R115). -/
def fillWords (f fill : Nat) : Nat := 4 * min 3 (f - fill)

/-- Changes a loop counter. -/
def Tile.modLoop (t : Tile) (i : Nat) (g : LoopSt → LoopSt) : Tile :=
  { (t.recode fun e => e.store == 1 && e.idx == 7 * 256 + i) with
    regs := { t.regs with l := t.regs.l.setIfInBounds i (g (t.regs.lAt i)) } }
def Tile.modSeq (t : Tile) (g : SeqSt → SeqSt) : Tile := { t with seq := g t.seq }
/-- The present place on the path becomes the restart point of a commit of this bundle (02 R45). -/
def SeqSt.mark (q : SeqSt) : SeqSt := { q with markPc := q.pc, markSb := q.sb }
/-- A redirect: the buffer is discarded and a new path starts with some words of it (05 R115). -/
def Tile.goTo (t : Tile) (pc words : Nat) : Tile :=
  t.modSeq fun q => { q with pc := pc, buf := words, need := 0 }

/-- The sequencer stands at the end of the body of a running loop: the innermost one returns or leaves, and where it
leaves the next is handled in the same step (06 R150). -/
def Tile.loopEnds (t : Tile) (f : Nat) : Nat → Tile
  | 0 => t
  | n + 1 =>
    match innermost t.regs.l (fun l => l.running && l.stop == t.seq.pc) with
    | none => t
    | some i =>
      let l := t.regs.lAt i
      if l.j + 1 < l.n then
        ((t.modLoop i fun l => { l with j := l.j + 1 }).goTo l.start 12).modSeq
          fun q => { q with sb := l.b0 + (l.j + 1) * l.period.toNat }.mark
      else
        (((t.modLoop i fun l => { l with running := false }).goTo t.seq.pc (fillWords f l.fillAt)).modSeq
          fun q => { q with sb := l.b0 + l.n * l.period.toNat }.mark).loopEnds f n

/-- Counters that the sequencer reads where it stands: the innermost whose body ends there, and the next where that leaves. -/
def Tile.loopsRead (t : Tile) : Nat → List Nat
  | 0 => []
  | n + 1 =>
    match innermost t.regs.l (fun l => l.running && l.stop == t.seq.pc) with
    | none => []
    | some i =>
      i :: if (t.regs.lAt i).j + 1 < (t.regs.lAt i).n then []
        else (t.modLoop i fun l => { l with running := false }).loopsRead n
/-- Errors of the counters that the sequencer reads as it moves on by some words. -/
def Tile.loopErrs (t : Tile) (words : Nat) : List StoreErr :=
  if t.own.errs.isEmpty then []
  else ((t.modSeq fun q => { q with pc := q.pc + words }).loopsRead 5).flatMap fun i => t.codesAt (1, 7 * 256 + i, none)
/-- Cannot a counter be read there? The sequencer then writes no counter, and stands (19 R349). -/
def Tile.loopsLost (t : Tile) (words : Nat) : Bool := (t.loopErrs words).any (·.fatal)
/-- The codes of the counters that the sequencer reads as it moves on by some words (19 R348, R349). -/
def State.loopCodes (s : State) (words : Nat) : State :=
  if s.ct.own.errs.isEmpty then s
  else
    let es := s.ct.loopErrs words
    let lost := es.filter (·.fatal)
    lost.foldl (fun s e => s.note s.cur.coach s.cur.tile scSeq s.ct.seq.pc (codeFail e))
      (s.modCt fun t => t.sram (es.length - lost.length) lost.length)

/-- An idle or seg word is applied: SB moves on, and the following bundle needs the word (05 R113, R114). -/
def Tile.skip (t : Tile) (f by_ : Nat) : Tile :=
  (t.modSeq fun q => { q with sb := q.sb + by_, pc := q.pc + 1, need := q.need + 1 }).loopEnds f 5

/-! ## Code words -/

def execIdle (n : BitVec 10) (s : State) : Host.Outcome State Fault Refusal :=
  .next (s.modCt fun t => t.skip s.frc (n.toNat + 1))
def execSeg (n : BitVec 10) (s : State) : Host.Outcome State Fault Refusal :=
  .next (s.modCt fun t => t.skip s.frc (64 * (n.toNat + 1)))
def execEndStream (s : State) : Host.Outcome State Fault Refusal :=
  .next (s.modCt fun t => t.modSeq fun q => { q with ended := true, buf := q.buf - (q.need + 1), need := 0 })
def execNop (_sl : Slot) (s : State) : Host.Outcome State Fault Refusal := .next s

/-- The 24 literal words after an escape word, most significant first (05 R112). -/
def literal (ws : List CodeWord) : Option Bundle :=
  if ws.length < 24 then none
  else some (BitVec.ofNat 384 ((ws.take 24).foldl (fun a w => a * 65536 + w.toNat) 0))

/-- The enabled slots of a bundle as work: every slot reads what a reader of this cycle sees; the C slot is last. -/
def slotTasks (b : Bundle) : List Task :=
  ([.S, .L, .VA, .VB, .M, .X, .DR, .DC, .C] : List Slot).filterMap fun sl =>
    if bundleEn b sl then some (.slot sl (bundleFtl b) (bundleSlot b sl)) else none

/-- A bundle issues: its words and those before it are consumed, and its slots run, in one frame cycle (05 R114, R121). -/
def State.startBundle (s : State) (b : Bundle) (words : Nat) : State :=
  let t := s.ct
  let s' := s.modCt fun t => t.modSeq fun q =>
    { q with buf := q.buf - (q.need + words), need := 0, minIssue := s.frc + 1, redirected := false }
  { s' with
    cur := { s.cur with
      src := ⟨t.seq.pc, s.frc, 0⟩, save := some (t, s.coach s.cur.coach), faults := [], words := words }
    todo := slotTasks b ++ .endBundle :: s.todo }

def execIssue (n : BitVec 12) (s : State) : Host.Outcome State Fault Refusal :=
  match s.ct.seq.dict[n.toNat]? with
  | some b => .next (s.startBundle b 1)
  | none => .refused (.undecodable 0x22)
def execEscape (s : State) : Host.Outcome State Fault Refusal :=
  match literal (s.ct.seq.code.drop (s.ct.seq.pc + 1)) with
  | some b => .next (s.startBundle b 25)
  | none => .refused (.undecodable 0x21)

/-- The sequencer moves on past a bundle of some words: to the next item, or where its C slot sent it; a `relay` stands
until the relay work sends it on. Where a counter cannot be read it takes no loop end. -/
def Tile.advance (t : Tile) (f words : Nat) : Tile :=
  let n := if t.seq.redirected then 0 else words
  let on := t.modSeq fun q => { q with pc := q.pc + n }
  (if t.meet = .relay then t else if t.loopsLost n then on else on.loopEnds f 5).modSeq
    fun q => { q with redirected := false }.mark
/-- Does a bundle ask the launch for a commit, a rendezvous or a relay? -/
def Meet.asks : Meet → Bool
  | .commit _ _ | .rdv _ _ | .relay => true
  | _ => false
/-- The faults that a bundle which asks for a meeting has noted stand apart until the meeting is decided: where the bundle is
suppressed after all, none of its slots has read anything (18 R337). -/
def State.setApart (s : State) : State :=
  match s.cur.save with
  | some (_, k) =>
    if s.ct.meet.asks then s.modCoach s.cur.coach fun x => { x with
      faults := x.faults.take k.faults.length
      launch := { x.launch with meetFaults := x.launch.meetFaults ++ x.faults.drop k.faults.length } }
    else s
  | none => s
/-- The operation of the C slot of the bundle at which a sequencer stands, where its guard is true. -/
def Tile.ahead (t : Tile) : Option Instr :=
  let b : Option Bundle := match decodeWord (t.seq.code.getD t.seq.pc 0xFC00#16) with
    | .ok (.issue n) => t.seq.dict[n.toNat]?
    | .ok .escape => literal (t.seq.code.drop (t.seq.pc + 1))
    | _ => none
  b.bind fun b =>
    let w := bundleSlot b .C
    match decodeSlot .C 0#2 w with
    | .ok i => if bundleEn b .C && t.regs.pAt (guardOf w).p.toNat != (guardOf w).neg then some i else none
    | .error _ => none
/-- Is it a `commit`, or an `rdv`? -/
def Tile.atCommit (t : Tile) : Bool := match t.ahead with | some (.commit _ _ _) => true | _ => false
def Tile.atRdv (t : Tile) : Bool := match t.ahead with | some (.rdv _ _ _) => true | _ => false
/-- The bundle is over: where no slot faulted the sequencer moves on and applies the usable words behind the bundle in this
same cycle (05 R113); else the bundle is suppressed whole, as if every guard were false, and its records wait for the end of the
cycle (18 R337). -/
def State.endBundle (s : State) : State :=
  match s.cur.faults, s.cur.save with
  | r :: rs, some (t, k) =>
    (s.setTile s.cur.tile { t with meet := .none }).setCoach s.cur.coach { k with faults := k.faults ++ r :: rs }
  | _, _ =>
    let f := s.frc
    let n := if s.ct.seq.redirected then 0 else s.cur.words
    let s := if s.ct.meet = .relay ∨ s.ct.loopsLost n then s else { s with todo := .tile s.cur.coach s.cur.tile :: s.todo }
    let s := (if s.ct.meet = .relay then s else s.loopCodes n).setApart
    (s.modCt fun t => t.advance f s.cur.words).modLaunch s.cur.coach fun l => { l with lastIssued := f }
/-! ## Which item comes next -/

/-- What stands next on the path: a bundle with its stream address, issue cycle, the words it needs and the words of
its path, or `end`. -/
inductive Peek where
  | bundle (addr cycle need buf : Nat)
  | toEnd
  | blocked
  deriving DecidableEq, Repr

/-- Walks the idle and seg words and the loop ends before the next bundle. -/
def Tile.peek (f : Nat) (t : Tile) : Nat → Peek
  | 0 => .blocked
  | n + 1 =>
    match decodeWord (t.seq.code.getD t.seq.pc 0xFC00#16) with
    | .ok (.idle k) => Tile.peek f (t.skip f (k.toNat + 1)) n
    | .ok (.seg k) => Tile.peek f (t.skip f (64 * (k.toNat + 1))) n
    | .ok (.issue k) =>
      match t.seq.dict[k.toNat]? with
      | some b => .bundle t.seq.pc (t.seq.sb + (bundleStamp b).toNat) (t.seq.need + 1) t.seq.buf
      | none => .blocked
    | .ok .escape =>
      match literal (t.seq.code.drop (t.seq.pc + 1)) with
      | some b => .bundle t.seq.pc (t.seq.sb + (bundleStamp b).toNat) (t.seq.need + 25) t.seq.buf
      | none => .blocked
    | .ok .endStream => .toEnd
    | _ => .blocked

/-- A fault of the sequencer (18 R344). -/
def State.seqFault (s : State) (code addr d1 d2 : Nat) : State :=
  s.note s.cur.coach s.cur.tile scSeq addr ⟨0x2, code, 0x01, BitVec.ofNat 64 d1, BitVec.ofNat 64 d2⟩

/-- Stored-code errors of a code word or dictionary entry about to be consumed (19 R348, R349 code 0x6/0x05). -/
def Tile.codeErrs (t : Tile) (i : Instr) : List StoreErr :=
  let words := match i with | .escape => 25 | _ => 1
  t.own.errs.filter fun e => e.store == 5 &&
    (decide (t.seq.pc ≤ e.idx ∧ e.idx < t.seq.pc + words) ||
      match i with | .issue n => e.idx == 2 ^ 31 + n.toNat | _ => false)

/-- The word at the head of the stream is consumed: where it, its entry or a counter that it reads cannot be read nothing
follows (19 R349); else it has its effect, and, with `more`, the tile goes on in this same cycle. -/
def State.consume (ex : Instr → State → Host.Outcome State Fault Refusal) (c t : Nat) (i : Instr) (more : Bool) (s : State) :
    Host.Outcome State Fault Refusal :=
  let es := s.ct.codeErrs i
  let skips : Bool := match i with | .idle _ | .seg _ => true | _ => false
  match es.find? (·.fatal) with
  | some e => .next ((s.modCt fun t => t.sram 0 1).note c t
      scSeq s.ct.seq.pc ⟨0x6, 0x05, 0x07, BitVec.ofNat 64 e.idx, e.syndrome⟩)
  | none =>
    let s := if es.isEmpty then s else s.modCt fun t => t.sram es.length 0
    if skips ∧ s.ct.loopsLost 1 then .next (s.loopCodes 1)
    else
      let s := if skips then s.loopCodes 1 else s
      ex i (if more then { s with todo := .tile c t :: s.todo } else s)
/-- One tile in one frame cycle: the next word of its stream, where it is due and usable. A bundle at or below the last
one overruns; a bundle whose words are not usable at its issue cycle starves (05 R113-R116, 18 R344). Behind a bundle of
this same cycle only the words before the next bundle are applied. -/
def State.runTile (ex : Instr → State → Host.Outcome State Fault Refusal) (c t : Nat) (s : State) :
    Host.Outcome State Fault Refusal :=
  let s := { s with cur := { s.cur with coach := c, tile := t } }
  let x := s.ct
  let f := s.frc
  if x.seq.ended then .next s
  else
    match decodeWord (x.seq.code.getD x.seq.pc 0xFC00#16) with
    | .error e => .refused (.undecodable e.code)
    | .ok i =>
      let usable := decide (x.seq.need + 1 ≤ x.seq.buf)
      let go (more : Bool) (s : State) : Host.Outcome State Fault Refusal := s.consume ex c t i more
      match x.peek f codeMax with
      | .bundle addr cycle need buf =>
        if f < x.seq.minIssue then (if addr ≠ x.seq.pc ∧ usable then go true s else .next s)
        else if cycle < x.seq.minIssue then .next (s.seqFault 0x01 addr cycle (x.seq.minIssue - 1))
        else if cycle = f ∧ need > buf then .next (s.seqFault 0x02 addr need buf)
        else if cycle = f ∧ !usable then .next (s.seqFault 0x02 addr (x.seq.need + 1) x.seq.buf)
        else if addr = x.seq.pc then (if cycle = f then go false s else .next s)
        else if usable then go true s else .next s
      | .toEnd =>
        if usable then
          match i with
          | .endStream => go false s
          | _ => go true (s.modCt fun t => t.modSeq fun q => { q with buf := q.buf - q.need, need := 0 })
        else .next s
      | .blocked => if usable then go (match i with | .idle _ | .seg _ => true | _ => false) s else .next s

/-- End of a frame cycle: the fetcher appends the next words of the path (05 R114). -/
def Tile.fetch (t : Tile) : Tile :=
  t.modSeq fun q => if q.ended then q else
    { q with buf := q.buf + min (min 4 (64 - q.buf)) (codeMax - (q.pc - q.need) - q.buf) }

end Sys2Proof.Machine
end

