-- ==== Sys2Proof/Machine/Host.lean ====
section
/-! DEFINITION. Host memory: address translation of a coach, posted writes, mirrors, digest records, completion records,
interrupts, management events (11 R257, R262, 12 R271-R273, 20 R370). -/
namespace Sys2Proof.Machine

/-! ## Translation (12 R273) -/

/-- Detail 2 of 0x8/0x05: reason [1:0] and level [4:2] (20 Table 20-1). -/
def trDetail (why level : Nat) : Nat := level * 4 + why
/-- Field [hi:lo] of a number. -/
def field (x hi lo : Nat) : Nat := x / 2 ^ lo % 2 ^ (hi + 1 - lo)
/-- A range register triple: RBASE, RLIM, ROFF. -/
abbrev RangeRegs := Nat × Word × Word × Word
/-- Address by a range, if it matches. -/
def rangeHit (a : Nat) (r : RangeRegs) : Option Nat :=
  let base := r.2.1
  if base.getLsbD 0 ∧ bits base 63 12 * 4096 ≤ a ∧ a ≤ bits r.2.2.1 63 12 * 4096 + 0xFFF then
    some ((a + bits r.2.2.2 63 12 * 4096) % 2 ^ 64)
  else none
/-- The page walk from a level down, t the table's address. -/
def walk (h : Mem) (a : Nat) (write : Bool) (t : Nat) : Nat → Except Nat Nat
  | 0 => .ok (t + a % 4096)
  | n + 1 =>
    let lvl := n + 1
    let x := field a (12 + 9 * lvl - 1) (12 + 9 * (lvl - 1))
    let pte := h.getN (t + 8 * x) 8
    if pte % 2 = 0 then .error (trDetail 1 lvl)
    else if write ∧ pte / 2 % 2 = 0 then .error (trDetail 2 lvl)
    else if (lvl = 3 ∨ lvl = 2) ∧ pte / 2 ^ 7 % 2 = 1 then
      let w := 12 + 9 * (lvl - 1)
      .ok (field pte 51 w * 2 ^ w + a % 2 ^ w)
    else walk h a write (field pte 51 12 * 4096) n
/-- Physical host address of an address of a coach, or Detail 2 of the fault. -/
def Coach.translate (k : Coach) (h : Mem) (a : Nat) (write : Bool) : Except Nat Nat :=
  match k.ranges.findSome? (rangeHit a) with
  | some p => .ok p
  | none =>
    if !k.root.getLsbD 0 ∨ a ≥ 2 ^ 48 then .error (trDetail 0 0)
    else walk h a write (bits k.root 51 12 * 4096) 4

/-- Bytes up to the next multiple of 256, at most n. -/
def pieceLen (a n : Nat) : Nat := min n (256 - a % 256)
/-- Completion status of a failing read of a physical address. -/
def hostErr (bad : List (Nat × Nat)) (p : Nat) : Option Nat := (bad.find? fun x => x.1 == p / 256).map (·.2)
/-- Reads n bytes piece by piece; the address and Detail 2 of the first fault, translation or host port. -/
def Coach.hostRead (k : Coach) (h : Mem) (bad : List (Nat × Nat)) (a n : Nat) : Nat → Except (Nat × Nat) (List Byte)
  | 0 => .ok []
  | fuel + 1 =>
    if n = 0 then .ok []
    else
      let m := pieceLen a n
      match k.translate h a false with
      | .error e => .error (a, e)
      | .ok p =>
        match hostErr bad p with
        | some e => .error (a, e)
        | none => (Coach.hostRead k h bad (a + m) (n - m) fuel).map fun r => h.getL p m ++ r
/-- First fault of translating, for writing, every piece of n bytes. -/
def Coach.hostProbe (k : Coach) (h : Mem) (a n : Nat) : Nat → Option (Nat × Nat)
  | 0 => none
  | fuel + 1 =>
    if n = 0 then none
    else
      match k.translate h a true with
      | .error e => some (a, e)
      | .ok _ => Coach.hostProbe k h (a + pieceLen a n) (n - pieceLen a n) fuel
/-- Writes bytes piece by piece until the first fault. -/
def Coach.hostWrite (k : Coach) (h : Mem) (a : Nat) (x : List Byte) : Nat → Mem × Option (Nat × Nat)
  | 0 => (h, none)
  | fuel + 1 =>
    if x.isEmpty then (h, none)
    else
      let m := pieceLen a x.length
      match k.translate h a true with
      | .error e => (h, some (a, e))
      | .ok p => Coach.hostWrite k (h.putL p (x.take m)) (a + m) (x.drop m) fuel

def State.hread (s : State) (c a n : Nat) : Except (Nat × Nat) (List Byte) := (s.coach c).hostRead s.pkg.host s.pkg.hostBad a n (n / 256 + 2)
/-- The fault of a translation (20 Table 20-1 code 0x8/0x05). -/
def trFail (a d2 : Nat) : Fail := ⟨0x8, 0x05, 0x0A, BitVec.ofNat 64 a, BitVec.ofNat 64 d2⟩
/-- A posted write of a mirror, digest record or completion record: where its translation faults it is dropped, and
0x8/0x05 is recorded and stops a running launch (12 R271). -/
def State.hpost (s : State) (c a : Nat) (x : List Byte) : State :=
  match (s.coach c).hostWrite s.pkg.host a x (x.length / 256 + 2) with
  | (h, none) => s.modPkg fun p => { p with host := h }
  | (h, some (b, e)) => (s.modPkg fun p => { p with host := h }).stopEvent c 0 (trFail b e)

/-! ## Mirrors (11 R257) -/

/-- Writes the mirror of counter i if its value is not the one last shown. Mirrors are written in the cycle in which the live value
changes, once for all that completes in it: 11 R257 names no moment, and lets a mirror skip values (notes/assumptions/53.md). -/
def State.mirror (s : State) (c i : Nat) : State :=
  let t := (s.coach c).tls.getD i Timeline.reset
  if t.shown = t.live then s
  else
    (s.modCoach c fun k => { k with tls := k.tls.setIfInBounds i { t with shown := t.live } }).hpost c
      ((s.coach c).launch.lrec.mirror.toNat + 8 * i) (bytesOf t.live 8)
def State.syncMirrors (s : State) (c : Nat) : State := (List.range 8).foldl (fun s i => s.mirror c i) s
/-- Writes every mirror with its live value. -/
def State.writeMirrors (s : State) (c : Nat) : State :=
  (List.range 8).foldl (fun s i =>
    let t := (s.coach c).tls.getD i Timeline.reset
    (s.modCoach c fun k => { k with tls := k.tls.setIfInBounds i { t with shown := t.live } }).hpost c
      ((s.coach c).launch.lrec.mirror.toNat + 8 * i) (bytesOf t.live 8)) s

/-! ## Digest records (11 R262) and completion (12 R271) -/

/-- The 32 bytes of a digest record (11 Table 11-4). -/
def digestRecord (phase tile pkg replays : Nat) (d : BitVec 128) (w : Nat) : List Byte :=
  bytesOf phase 4 ++ bytesOf tile 2 ++ bytesOf pkg 1 ++ bytesOf replays 1 ++ bytesOf d.toNat 16 ++ bytesOf w 8
/-- The records of a settled phase, one for each tile in rank order. -/
def State.writeDigests (s : State) (c : Nat) (u : Unsettled) : State :=
  let l := (s.coach c).launch
  let n := l.tiles.length
  (u.digests.zipIdx).foldl (fun s p =>
    s.hpost c (l.lrec.ring.toNat + 32 * (u.phase % l.lrec.np * n + p.2))
      (digestRecord u.phase p.1.1 l.lrec.index (l.replaysOf u.phase) p.1.2.1 p.1.2.2)) s

/-- FLSTAT of a dropped completion record; a launch that has stopped keeps the class and code that stopped it. -/
def FaultLog.dropped (g : FaultLog) : FaultLog := if g.cls = 0 then { g with cls := 0x8, code := 0x05 } else g
/-- The completion record and the interrupt; one that is dropped is reported by its fault record and FLSTAT (12 R271). -/
def State.complete (s : State) (c status : Nat) : State :=
  let l := (s.coach c).launch
  let before := (s.coach c).log.widx
  let s := s.hpost c l.lrec.completion.toNat
    (bytesOf status 1 ++ bytesOf l.variant 1 ++ bytesOf 0 2 ++ bytesOf l.lrec.tag.toNat 4 ++ bytesOf l.lastIssued 8)
  let s := if (s.coach c).log.widx = before then s else s.modCoach c fun k => { k with log := k.log.dropped }
  if l.lrec.irq then s.out (.msix l.fn l.lrec.msix) else s

/-! ## Management events (20 R370) -/

/-- Appends an event to the log of 4,096; severity 2 or more also goes out as a PLDM platform event. -/
def State.event (s : State) (code sev source : Nat) (d1 d2 : Word) : State :=
  let e : MgmtEvent := ⟨code, sev, source, s.wall, d1, d2⟩
  let n := s.pkg.flash.eventCount
  let s := s.modPkg fun p => { p with flash := { p.flash with
    events := (e :: p.flash.events).take 4096, eventCount := p.flash.eventCount + 1 } }
  if sev ≥ 2 then s.out (.platformEvent n e) else s
/-- Writes a new configuration image with its event (01 R31, 20 R370). -/
def State.newConfig (s : State) (f : CfgImage → CfgImage) : State :=
  let s := s.modPkg fun p => { p with flash := { p.flash with cfg := { f p.flash.cfg with version := p.flash.cfg.version + 1 } } }
  s.event 0x000A 0 0x0C ((Config.cfgDigest s.pkg.flash.cfg.version).truncate 64) 0#64


end Sys2Proof.Machine
end

