-- ==== Sys2Proof/Machine/Mesh.lean ====
section
/-! DEFINITION. Pushes: descriptor checks, path and resources, arrival (08 R198-R205, 01 R13-R18, R24, 19 R353). -/
namespace Sys2Proof.Machine

/-! ## Geometry (01 R13-R18, R23) -/

def rowOf (t : Nat) : Nat := t / 24
def colOf (t : Nat) : Nat := t % 24
/-- Stack of a tile (01 R14). -/
def stackOf (t : Nat) : Nat := 2 * (rowOf t / 8) + colOf t / 12
/-- Port tiles of Table 1-3. -/
def portTile (p : Nat) : Nat := nth [3, 8, 48, 120, 15, 20, 71, 143, 363, 368, 240, 312, 375, 380, 263, 335] p

/-- Fields of CRECT: valid, first row, last row, first column, last column (13 R291). -/
structure Rect where
  valid : Bool
  r0 : Nat
  r1 : Nat
  c0 : Nat
  c1 : Nat
  deriving DecidableEq, Repr

/-- CRECT and CPLAN (13 Table 13-6): V [31], last column [28:24], first column [20:16], last row [15:12], first row
[3:0]. -/
def rectOf (x : Word) : Rect := ⟨x.getLsbD 31, bits x 3 0, bits x 15 12, bits x 20 16, bits x 28 24⟩
def Rect.has (r : Rect) (t : Nat) : Bool :=
  r.valid && decide (r.r0 ≤ rowOf t ∧ rowOf t ≤ r.r1 ∧ r.c0 ≤ colOf t ∧ colOf t ≤ r.c1)
/-- Is a port held by a coach: does its port tile lie in the rectangle (01 R23)? -/
def State.coachHasPort (s : State) (c p : Nat) : Bool := (rectOf (s.coach c).crect).has (portTile p)

/-! ## Paths (08 R200, R201) -/

/-- One hop: the router whose link is taken, the link's resource kind (0 N, 1 S, 2 E, 3 W), a stack boundary crossed. -/
structure Hop where
  router : Nat
  kind : Nat
  cross : Bool
  deriving DecidableEq, Repr

/-- Hops along a row from column x, `n` of them, east or west. -/
def hopsX (y : Nat) (east : Bool) (x : Nat) : Nat → List Hop
  | 0 => []
  | n + 1 =>
    if east then ⟨y * 24 + x, 2, x == 11⟩ :: hopsX y east (x + 1) n
    else ⟨y * 24 + x, 3, x == 12⟩ :: hopsX y east (x - 1) n
/-- Hops along a column from row y, `n` of them, south or north. -/
def hopsY (x : Nat) (south : Bool) (y : Nat) : Nat → List Hop
  | 0 => []
  | n + 1 =>
    if south then ⟨y * 24 + x, 1, y == 7⟩ :: hopsY x south (y + 1) n
    else ⟨y * 24 + x, 0, y == 8⟩ :: hopsY x south (y - 1) n
/-- The XY path. -/
def pathXY (a b : Nat) : List Hop :=
  hopsX (rowOf a) (decide (colOf a < colOf b)) (colOf a) (max (colOf a) (colOf b) - min (colOf a) (colOf b)) ++
  hopsY (colOf b) (decide (rowOf a < rowOf b)) (rowOf a) (max (rowOf a) (rowOf b) - min (rowOf a) (rowOf b))
/-- Links of a path with the cycles after its start: hop j at start + j + 24 b_j. -/
def linkTakes (start j b : Nat) : List Hop → List (Nat × Res)
  | [] => []
  | h :: r =>
    let b' := if h.cross then b + 1 else b
    (start + j + 24 * b', ⟨h.router, h.kind⟩) :: linkTakes start (j + 1) b' r
def crossings (p : List Hop) : Nat := (p.filter (·.cross)).length

/-- Resources of a push within the package (08 Table 8-3). -/
def localTakes (c src dst : Nat) : List (Nat × Res) :=
  let p := pathXY src dst
  (c + 1, ⟨src, 4⟩) :: linkTakes (c + 1) 1 0 p ++ [(c + 2 + p.length + 24 * crossings p, ⟨dst, 5⟩)]
/-- Arrival of a push within the package. -/
def localArrival (c src dst : Nat) : Nat :=
  let p := pathXY src dst
  c + 3 + p.length + 24 * crossings p
/-- First leg of a push to another package: resources, with the egress at E, and the cycle I (08 R202). -/
def firstLeg (c src ptile pad : Nat) : List (Nat × Res) × Nat :=
  let p := pathXY src ptile
  let k := p.length + 24 * crossings p
  ((c + 1, ⟨src, 4⟩) :: linkTakes (c + 1) 1 0 p ++ [(c + 2 + k, ⟨ptile, 6⟩)], c + 1 + k + pad)
/-- Second leg, injected at I: ingress, links, ejection, and the arrival. -/
def secondLeg (i ptile dst : Nat) : List (Nat × Res) × Nat :=
  let p := pathXY ptile dst
  let k := p.length + 24 * crossings p
  ((i, ⟨ptile, 7⟩) :: linkTakes i 1 0 p ++ [(i + 1 + k, ⟨dst, 5⟩)], i + 2 + k)

/-! ## Descriptor (08 Table 8-2, R199) -/

structure Desc where
  pkg : Nat
  tile : Nat
  port : Nat
  addr : Nat
  rsvd : Bool
  deriving DecidableEq, Repr

def descOf (x : Word) : Desc :=
  { pkg := bits x 61 56, tile := bits x 48 40, port := bits x 35 32, addr := bits x 20 0
    rsvd := bits x 63 62 ≠ 0 || bits x 55 49 ≠ 0 || bits x 39 36 ≠ 0 || bits x 31 21 ≠ 0 }

/-- Pad of a tandem link (08 R202). -/
def Port.pad (p : Port) : Nat := if p.long then Config.padLong else Config.padShort

/-- The refusals of R199 and R24, in the order of their codes (18 Table 18-3 codes 0x0C, 0x0D). -/
def State.pushFail (s : State) (x : Word) : Option Fail :=
  let d := descOf x
  let l := s.cl
  let own := l.lrec.index
  let isDom := l.lrec.type = 2
  let no (k : Nat) : Option Fail := some (opFail 0x0C x (BitVec.ofNat 64 k))
  if d.rsvd ∨ (d.pkg = own ∧ d.port ≠ 0) then no 1
  else if d.addr ≥ 2 ^ 20 ∨ d.addr % 256 ≠ 0 then no 2
  else if isDom ∧ d.pkg ≥ l.lrec.count then no 3
  else if ¬ isDom ∧ d.pkg ≠ own then no 4
  else if d.pkg ≠ own ∧ (!s.coachHasPort s.cur.coach d.port ||
      (match (s.pkg.ports.getD d.port Port.reset).peer with
        | some (pk, _) => pk != d.pkg | none => true)) then no 5
  else if d.tile ≥ 384 ∨ (d.pkg = own ∧ (s.tile d.tile).own.owner ≠ some s.cur.coach) then
    some ⟨0x1, 0x0D, 0x05, x, 1#64⟩
  else none

/-- Sends a push of a line of data (08 R198): its resources are booked from the issue cycle. -/
def State.sendPush (s : State) (x : Word) (data : Vec) : State :=
  let d := descOf x
  let c := s.frc
  let src := s.cur.tile
  let p : Push :=
    if d.pkg = s.cl.lrec.index then
      ⟨s.pkg.nextId, src, x, d.tile, d.addr, data, pushCrc data x, localArrival c src d.tile, localTakes c src d.tile, none, s.srcOf scL⟩
    else
      let port := s.pkg.ports.getD d.port Port.reset
      let (tk, i) := firstLeg c src (portTile d.port) port.pad
      let far := portTile (match port.peer with | some (_, q) => q | none => 0)
      ⟨s.pkg.nextId, src, x, d.tile, d.addr, data, pushCrc data x, (secondLeg i far d.tile).2, tk, some (d.port, i), s.srcOf scL⟩
  (s.modPkg fun k => { k with nextId := k.nextId + 1 }).modCoach s.cur.coach fun k => { k with pushes := k.pushes ++ [p] }

def execPushV (g : Guard) (vs dsc : BitVec 6) (s : State) : Host.Outcome State Fault Refusal :=
  slotOp g s fun s =>
    match s.pushFail (s.sv dsc) with
    | some x => s.raise scL x
    | none => s.sendPush (s.sv dsc) (s.vv vs)

def execPushl (g : Guard) (sl dsc : BitVec 6) (s : State) : Host.Outcome State Fault Refusal :=
  slotOp g s fun s =>
    let line := (checkAddr (s.sv sl).toNat 256 256).map fun e => opFail e.code e.addr (lDetail 0x0B 0xFF)
    s.checked scL (line.toList ++ (s.pushFail (s.sv dsc)).toList) fun s =>
      s.sendPush (s.sv dsc) (s.ct.line (s.sv sl).toNat)

/-! ## Resources taken in a cycle (08 R205, 18 R338) and the tandem egress (08 R202, 19 R355, R356) -/

/-- Does the push take this resource in cycle f? -/
def Push.takesAt (p : Push) (f : Nat) (r : Res) : Bool := p.takes.any fun x => x.1 == f && x.2 == r
/-- The resource a push takes in cycle f. -/
def Push.resAt (p : Push) (f : Nat) : Option Res := (p.takes.find? (fun x => x.1 == f)).map (·.2)
/-- Does another push of the list take the same resource in cycle f? -/
def collides (ps : List Push) (f : Nat) (p : Push) : Bool :=
  match p.resAt f with
  | none => false
  | some r => ps.any fun q => q.id != p.id && q.takesAt f r
/-- The resources that two or more pushes take in cycle f, each once. -/
def hitRes (ps : List Push) (f : Nat) : List Res :=
  (ps.filterMap fun p => if collides ps f p then p.resAt f else none).eraseDups
/-- Order of the issuing bundles: earlier issue, then lower tile. -/
def Push.older (p q : Push) : Bool := decide (p.src.issued * 1024 + p.tile ≤ q.src.issued * 1024 + q.tile)
/-- Stream address and record of a collision on a resource (18 Table 18-4 code 0x05). -/
def hitFail (ps : List Push) (f : Nat) (r : Res) : Nat × Fail :=
  let qs := sortBy Push.older (ps.filter (fun p => p.takesAt f r))
  let t (i : Nat) : Nat := match qs[i]? with | some p => p.tile | none => 0
  (match qs[0]? with | some p => p.src.addr | none => 0,
    ⟨0x2, 0x05, 0x05, BitVec.ofNat 64 (r.kind * 2 ^ 16 + r.tile), BitVec.ofNat 64 (t 1 * 2 ^ 32 + t 0)⟩)

/-- The 256 bytes of a push as the mesh has carried them. -/
def State.pushData (s : State) (p : Push) : Vec := p.data ^^^ getK 0#2048 s.pkg.flips p.id
/-- The push reaches its tandem egress at E: the flit goes out under the next sequence number and stays in the replay
buffer, or, where that holds 256, is discarded: 0x7/0x02 at its I after a resend within D, else 0x7/0x03 (19 R356). -/
def State.egress (s : State) (c : Nat) (p : Push) : State :=
  match p.leaves with
  | none => s
  | some (n, i) =>
    let port := s.pkg.ports.getD n Port.reset
    let set (q : Port) (s : State) : State := s.modPkg fun k => { k with ports := k.ports.setIfInBounds n q }
    if port.replay.length ≥ 256 then
      let recent := match port.lastResend with | some w => decide (s.wall ≤ w + Config.settle) | none => false
      if recent then set { port with lost := port.lost ++ [(i, (port.sent + 1).toNat)] } s
      else s.note c (portTile n) scRouter 0 ⟨0x7, 0x03, 0x05, BitVec.ofNat 64 n, BitVec.ofNat 64 port.replay.length⟩
    else
      let f : Flit := flitSeal ⟨0x01#8, port.gen, port.sent + 1, port.got, false, BitVec.ofNat 9 p.dst, BitVec.ofNat 21 p.addr,
        BitVec.ofNat 32 i, s.pushData p, 0#32, 0, BitVec.ofNat 9 p.tile, p.desc, p.crc⟩
      (set { port with
        sent := port.sent + 1, replay := port.replay ++ [((port.sent + 1).toNat, f)], lastSent := some s.wall } s).out (.flit n f)

/-- The mesh in one frame cycle: colliding pushes are dropped whole with one record for each resource; a push at its
egress leaves; a push to another package is kept, for the checks of its issuing tile, until its arrival. -/
def State.meshCycle (s : State) (c : Nat) : State :=
  let ps := (s.coach c).pushes
  let f := (s.coach c).launch.frc
  let s := (hitRes ps f).foldl (fun s r => s.note c r.tile scRouter (hitFail ps f r).1 (hitFail ps f r).2) s
  let live := ps.filter fun p => !collides ps f p && (p.leaves.isNone || decide (p.arrival > f))
  let s := s.modCoach c fun k => { k with pushes := live }
  live.foldl (fun s p => match p.resAt f with
    | some r => if r.kind = 6 then s.egress c p else s
    | none => s) s

/-! ## Arrival (08 R191, R198, R201; 19 R353) -/

/-- The coach that holds a push. -/
def State.pushCoach (s : State) (id : Nat) : Option (Nat × Push) :=
  (List.range 16).findSome? fun c => ((s.coach c).pushes.find? (fun p => p.id == id)).map fun p => (c, p)

/-- A push arrives: its line, at the destination's H, joins the writes visible in this cycle (writer kind 4, of an L slot), or, where
its CRC does not hold, nothing is written and 0x7/0x01 asks for a cancel. -/
def execPushArrival (id : Nat) (s : State) : Host.Outcome State Fault Refusal :=
  match s.pushCoach id with
  | none => .next s
  | some (c, p) =>
    let f := (s.coach c).launch.frc
    let s := s.modCoach c fun k => { k with pushes := k.pushes.filter (fun q => q.id != id) }
    let l := physLine (s.tile p.dst).h p.addr
    if pushCrc (s.pushData p) p.desc = p.crc then
      .next (s.modTile p.dst fun t => { t with pend := t.pend ++ [⟨f, { p.src with slot := scL }, .line l allOn (s.pushData p) 4⟩] })
    else .next (s.note c p.dst scRouter 0 ⟨0x7, 0x01, 0x05, BitVec.ofNat 64 l, BitVec.ofNat 64 p.tile⟩)

end Sys2Proof.Machine
end

