-- ==== Sys2Proof/Machine/Vault.lean ====
section
/-! DEFINITION. Vault: bank map and translation, the timing checker, DR and DC slots, the phase digest
(04 R103, R104, 10 R229-R246, 11 R260, R261, 13 R288, 18 R345, R346). -/
namespace Sys2Proof.Machine

/-! ## Bank map and translation -/

/-- Physical banks that are not retired, ascending (13 R288). -/
def liveBanks (retired : BitVec 32) : List Nat := (List.range 32).filter fun b => !retired.getLsbD b
/-- Physical bank of logical bank b under a retired mask. -/
def mapBank (retired : BitVec 32) (b : Nat) : Nat := nth (liveBanks retired) b
/-- Physical bank of a logical bank. -/
def VaultSt.pbank (v : VaultSt) (b : Nat) : Nat := mapBank v.retired b
/-- Layer of a logical bank, by its physical bank (01 R16). -/
def VaultSt.layer (v : VaultSt) (b : Nat) : Nat := v.pbank b / 8

/-- Does translation entry e apply to bank b, row r (04 Tables 4-3, 4-4)? -/
def vttHit (a : Word) (b r : Nat) : Bool :=
  a.getLsbD 63 && a.getLsbD b && decide (bits a 57 45 ≤ r ∧ r ≤ bits a 44 32)
/-- Translation by entries e to e + k - 1; the lowest-numbered match wins; no match is the identity (04 R104). -/
def translateGo (va vb : Vector Word 16) (b r e : Nat) : Nat → Nat
  | 0 => r
  | k + 1 =>
    if vttHit (va.getD e 0#64) b r then ((r : Int) + toSigned 14 (bits (vb.getD e 0#64) 13 0)).toNat
    else translateGo va vb b r (e + 1) k
/-- Physical row of physical bank b, row r. -/
def VaultSt.prow (v : VaultSt) (b r : Nat) : Nat := translateGo v.vttA v.vttB b r 0 16
/-- Byte address in the vault's storage of a physical bank and row and a column. -/
def cellAddr (pb pr col : Nat) : Nat := ((pb * Config.physRows + pr) * 16 + col) * 256
/-- Byte address of a column of the line of index g under a map of n banks (13 R290). -/
def VaultSt.lineAddr (v : VaultSt) (n : Nat) (retired : BitVec 32) (g col : Nat) : Nat :=
  let pb := mapBank retired (g % n)
  cellAddr pb (v.prow pb (g / n)) col
/-- Byte address of a logical column; during a migration the lines below the watermark stand where the old map has them
(13 R290). -/
def VaultSt.addr (v : VaultSt) (a : VAddr) : Nat :=
  let pb := v.pbank a.bank
  let new := cellAddr pb (v.prow pb a.row) a.col
  match v.watermark with
  | none => new
  | some (w, no, ro) => if a.row * v.n + a.bank < w then v.lineAddr no ro (a.row * v.n + a.bank) a.col else new
def VaultSt.column (v : VaultSt) (a : VAddr) : Vec := v.cells.vec (v.addr a)
def VaultSt.setColumn (v : VaultSt) (a : VAddr) (x : Vec) : VaultSt :=
  { v with cells := v.cells.putVec (v.addr a) allOn x 0 256 }
def VaultSt.bank (v : VaultSt) (b : Nat) : Bank := v.banks.getD b Bank.reset
def VaultSt.modBank (v : VaultSt) (b : Nat) (f : Bank → Bank) : VaultSt :=
  { v with banks := v.banks.setIfInBounds b (f (v.bank b)) }

/-! ## Stop window (10 R244) -/

/-- Is a window open in frame cycle f? -/
def Window.openAt (w : Window) (f : Nat) : Bool := decide (w.c < f ∧ f ≤ w.c + w.len)
/-- Is bank b granted by a window in cycle f? -/
def VaultSt.granted (v : VaultSt) (b f : Nat) : Bool :=
  match v.window with
  | some w => w.openAt f && w.mask.getLsbD b
  | none => false
/-- Does a mask name a bank of the layer of bank b? -/
def VaultSt.layerNamed (v : VaultSt) (mask : BitVec 32) (b : Nat) : Bool :=
  (List.range v.n).any fun k => mask.getLsbD k && v.layer k == v.layer b
/-- Is bank b in a window layer of a window open in cycle f (10 R245)? -/
def VaultSt.inWindowLayer (v : VaultSt) (b f : Nat) : Bool :=
  match v.window with
  | some w => w.openAt f && v.layerNamed w.mask b
  | none => false

/-- Readback code of Table 4-2. -/
def VaultSt.code (v : VaultSt) (b f : Nat) : Nat :=
  if v.granted b f then 3
  else match (v.bank b).st with
    | .closed => 0 | .opened _ => 1 | .refreshing => 2
def Bank.openRow (b : Bank) : Nat := match b.st with | .opened r => r | _ => 0
/-- BANKb (04 Table 4-5). -/
def VaultSt.bankWord (v : VaultSt) (b f : Nat) : Word :=
  BitVec.ofNat 64 ((v.bank b).ptr * 2 ^ 20 + v.code b f * 2 ^ 16 + (v.bank b).openRow)

/-! ## Timing checker (10 R230, R231) -/

/-- A failed check: its code, the earliest admissible cycle for a timing parameter, the bank. -/
structure Bad where
  code : Nat
  ready : Option Nat
  bank : Nat
  deriving DecidableEq, Repr

/-- From an earlier command to this one, `d` cycles (10 Table 10-2). -/
def after (code bank f d : Nat) (t : Option Nat) : List Bad :=
  match t with
  | some x => if f < x + d then [⟨code, some (x + d), bank⟩] else []
  | none => []
/-- The later of two cycles. -/
def laterOf (a b : Option Nat) : Option Nat :=
  match a, b with
  | some x, some y => some (max x y)
  | some x, none => some x
  | none, y => y
/-- Latest of a list of cycles. -/
def latestOf : List (Option Nat) → Option Nat
  | [] => none
  | a :: r => laterOf a (latestOf r)
/-- Last activate or `refb` of a bank. -/
def Bank.lastAct (b : Bank) : Option Nat := laterOf b.act b.refb
/-- Logical banks of the layer of bank b. -/
def VaultSt.layerBanks (v : VaultSt) (b : Nat) : List Nat := (List.range v.n).filter fun k => v.layer k == v.layer b

/-- tRRD and tFAW for an ACT or `refb` of bank b in cycle f. -/
def VaultSt.actSpacing (v : VaultSt) (b f : Nat) : List Bad :=
  let others := (v.layerBanks b).filter (fun k => k != b)
  let recent := (v.layerBanks b).filterMap fun k => match (v.bank k).lastAct with
    | some x => if f < x + Config.tFAW then some x else none
    | none => none
  after 0x05 b f Config.tRRD (latestOf (others.map fun k => (v.bank k).lastAct)) ++
  (if recent.length ≥ 4 then [⟨0x06, some ((recent.foldl min f) + Config.tFAW), b⟩] else [])

/-- Granted bank, or any bank of a window layer during a window (18 Table 18-5 code 0x14). -/
def VaultSt.badWindow (v : VaultSt) (b f : Nat) : List Bad :=
  if v.inWindowLayer b f then [⟨0x14, none, b⟩] else []

/-- Failed checks of an ACT (`isRef` false) or a `refb` (`isRef` true). -/
def VaultSt.badAct (v : VaultSt) (isRef : Bool) (b f : Nat) : List Bad :=
  let k := v.bank b
  after 0x02 b f Config.tRP k.pre ++
  (if isRef then [] else after 0x04 b f Config.tRC k.act) ++
  v.actSpacing b f ++
  after 0x0C b f Config.tRFC k.refb ++
  (match k.st with | .opened _ => [⟨0x12, none, b⟩] | .refreshing => [⟨0x13, none, b⟩] | .closed => []) ++
  v.badWindow b f

/-- Failed timing checks of closing an open bank. -/
def VaultSt.badClose (v : VaultSt) (b f : Nat) : List Bad :=
  let k := v.bank b
  after 0x03 b f Config.tRAS k.act ++ after 0x09 b f Config.tWR k.wr ++ after 0x0A b f Config.tRTP k.rd
/-- Failed checks of a `pre`. -/
def VaultSt.badPre (v : VaultSt) (b f : Nat) : List Bad :=
  (match (v.bank b).st with
    | .opened _ => v.badClose b f
    | .refreshing => [⟨0x13, none, b⟩]
    | .closed => []) ++ v.badWindow b f
/-- Banks that `prea` closes: open, outside a window's layers. -/
def VaultSt.preaBanks (v : VaultSt) (f : Nat) : List Nat :=
  (List.range v.n).filter fun b => match (v.bank b).st with | .opened _ => !v.inWindowLayer b f | _ => false
/-- Failed checks of a `prea`: those of the failing bank with the lowest number. -/
def VaultSt.badPrea (v : VaultSt) (f : Nat) : List Bad :=
  match (v.preaBanks f).find? (fun b => !(v.badClose b f).isEmpty) with
  | some b => v.badClose b f
  | none => []
/-- Is a bank Closed with tRP and tRFCpb elapsed? -/
def VaultSt.quiet (v : VaultSt) (b f : Nat) : Bool :=
  (match (v.bank b).st with | .closed => true | _ => false) &&
  (after 0 b f Config.tRP (v.bank b).pre).isEmpty && (after 0 b f Config.tRFC (v.bank b).refb).isEmpty
/-- Failed checks of a `stop` (10 R244). -/
def VaultSt.badStop (v : VaultSt) (mask : BitVec 32) (f : Nat) : List Bad :=
  let named := (List.range v.n).filter fun b => mask.getLsbD b
  let layers := (List.range v.n).filter fun b => v.layerNamed mask b
  (named.flatMap fun b =>
    after 0x02 b f Config.tRP (v.bank b).pre ++ after 0x0C b f Config.tRFC (v.bank b).refb ++
    (match (v.bank b).st with | .opened _ => [⟨0x12, none, b⟩] | .refreshing => [⟨0x13, none, b⟩] | .closed => []) ++
    v.badWindow b f) ++
  (layers.filterMap fun b => if v.quiet b f then none else some ⟨0x15, none, b⟩) ++
  (match v.window with | some w => if f ≤ w.c + w.len then [⟨0x15, none, nth named 0⟩] else [] | none => [])
/-- Failed checks of a column command to bank b, logical row r; `inSet` tells whether the output range set admits it. -/
def VaultSt.badCol (v : VaultSt) (write inSet : Bool) (b r f : Nat) : List Bad :=
  let k := v.bank b
  after 0x01 b f Config.tRCD k.act ++
  after 0x08 b f Config.tCCDL (laterOf k.rd k.wr) ++
  (if write then [] else
    after 0x0B b f Config.tWTR (latestOf ((v.layerBanks b).map fun j => (v.bank j).wr))) ++
  (match k.st with
    | .closed => if v.granted b f then [] else [⟨0x10, none, b⟩]
    | .opened x => if x = r then [] else [⟨0x11, none, b⟩]
    | .refreshing => [⟨0x13, none, b⟩]) ++
  v.badWindow b f ++
  (if write && !inSet then [⟨0x17, none, b⟩] else [])

/-- The check reported: lowest code, then lowest bank (18 R345). -/
def lowestBad : List Bad → Option Bad
  | [] => none
  | x :: r =>
    match lowestBad r with
    | none => some x
    | some y => if y.code * 64 + y.bank < x.code * 64 + x.bank then some y else some x

/-- The record of a refusal (18 R346). -/
def refuse (v : VaultSt) (f os opc : Nat) (isDR : Bool) (a : VAddr) (x : Bad) : Fail :=
  let d2 : Nat := match x.ready with
    | some t => t
    | none => if x.code = 0x17 then os else v.code x.bank f * 2 ^ 16 + (v.bank x.bank).openRow
  ⟨0x3, x.code, 0x04, BitVec.ofNat 64 (opc * 2 ^ 56 + (if isDR then 2 ^ 52 else 0) + packV a), BitVec.ofNat 64 d2⟩

/-- A logical bank outside the map (18 Table 18-3 code 0x0B). -/
def badBank (d1 : Word) (n : Nat) : Fail := opFail 0x0B d1 (BitVec.ofNat 64 n)

/-- A row command: refused with the lowest failed check, else its effect on the vault. -/
def State.rowCmd (s : State) (opc : Nat) (a : VAddr) (bad : List Bad) (f : VaultSt → VaultSt) : State :=
  match lowestBad bad with
  | some x => s.raise scDR (refuse s.ct.vault s.frc s.ct.seq.os opc true a x)
  | none => s.modCt fun t => { t with vault := { f t.vault with drWall := some s.wall } }
/-- A row command that names a bank. -/
def State.bankCmd (s : State) (opc : Nat) (a : VAddr) (bad : List Bad) (f : VaultSt → VaultSt) : State :=
  if a.bank ≥ s.ct.vault.n then s.raise scDR (badBank (BitVec.ofNat 64 a.bank) s.ct.vault.n) else s.rowCmd opc a bad f

/-- ACT of a logical row. -/
def VaultSt.activate (v : VaultSt) (b r f : Nat) : VaultSt :=
  v.modBank b fun k => { k with st := .opened r, act := some f }
def VaultSt.precharge (v : VaultSt) (b f : Nat) : VaultSt :=
  v.modBank b fun k => match k.st with
    | .opened _ => { k with st := .closed, pre := some f }
    | _ => k
/-- The next refresh group (10 R236). -/
def nextGroup (p : Nat) : Nat := (p + 1) % Config.refGroups
def VaultSt.refresh (v : VaultSt) (b f wall : Nat) : VaultSt :=
  { v.modBank b (fun k => { k with st := .refreshing, refb := some f, ptr := nextGroup k.ptr, due := f }) with
    lastRefWall := v.lastRefWall.setIfInBounds b wall }

def execAct (g : Guard) (bank : BitVec 5) (row : BitVec 13) (s : State) : Host.Outcome State Fault Refusal :=
  slotOp g s fun s =>
    s.bankCmd 0x01 ⟨bank.toNat, row.toNat, 0⟩ (s.ct.vault.badAct false bank.toNat s.frc)
      fun v => v.activate bank.toNat row.toNat s.frc
def execActi (g : Guard) (k : BitVec 5) (sn : BitVec 6) (s : State) : Host.Outcome State Fault Refusal :=
  slotOp g s fun s =>
    let b := bits (s.sv sn) 21 17 + k.toNat
    let r := bits (s.sv sn) 16 4
    s.bankCmd 0x02 ⟨b, r, 0⟩ (s.ct.vault.badAct false b s.frc) fun v => v.activate b r s.frc
def execPre (g : Guard) (bank : BitVec 5) (s : State) : Host.Outcome State Fault Refusal :=
  slotOp g s fun s =>
    s.bankCmd 0x03 ⟨bank.toNat, 0, 0⟩ (s.ct.vault.badPre bank.toNat s.frc)
      fun v => v.precharge bank.toNat s.frc
def execPrea (g : Guard) (s : State) : Host.Outcome State Fault Refusal :=
  slotOp g s fun s =>
    let bad := s.ct.vault.badPrea s.frc
    let b := match lowestBad bad with | some x => x.bank | none => 0
    s.rowCmd 0x04 ⟨b, 0, 0⟩ bad
      fun v => (v.preaBanks s.frc).foldl (fun v b => v.precharge b s.frc) v
def execRefb (g : Guard) (bank : BitVec 5) (s : State) : Host.Outcome State Fault Refusal :=
  slotOp g s fun s =>
    s.bankCmd 0x05 ⟨bank.toNat, 0, 0⟩ (s.ct.vault.badAct true bank.toNat s.frc)
      fun v => v.refresh bank.toNat s.frc s.wall
/-- Lowest bank a mask names, among k banks from b. -/
def lowestNamed (mask : BitVec 32) (b : Nat) : Nat → Nat
  | 0 => 0
  | k + 1 => if mask.getLsbD b then b else lowestNamed mask (b + 1) k
def execStop (g : Guard) (sm : BitVec 6) (len : BitVec 16) (s : State) : Host.Outcome State Fault Refusal :=
  slotOp g s fun s =>
    let m := s.sv sm
    let mask : BitVec 32 := m.truncate 32
    if mask = 0#32 ∨ bits m 63 32 ≠ 0 then s.raise scDR (opFail 0x0F m 0#64)
    else
      s.rowCmd 0x06 ⟨lowestNamed mask 0 32, 0, 0⟩ (s.ct.vault.badStop mask s.frc) fun v =>
        { v with window := some ⟨mask, s.frc, len.toNat, s.wall⟩, eng := Vector.replicate 32 EngBank.reset }

/-! ## Phase digest (11 R260) -/

/-- GfMul(a, b), over k more bits of b from bit i. -/
def gfMulGo (b : BitVec 128) (a z : BitVec 128) (i : Nat) : Nat → BitVec 128
  | 0 => z
  | k + 1 =>
    let z := if b.getLsbD i then z ^^^ a else z
    gfMulGo b (if a.getLsbD 127 then (a <<< 1) ^^^ 0x87#128 else a <<< 1) z (i + 1) k
def gfMul (a b : BitVec 128) : BitVec 128 := gfMulGo b a 0#128 0 128
/-- Folds the 16 blocks of a column from block k. -/
def foldBlocks (x : Vec) (d : BitVec 128) (k : Nat) : Nat → BitVec 128
  | 0 => d
  | n + 1 => foldBlocks x (gfMul (d ^^^ x.extractLsb' (128 * k) 128) Config.digestKey) (k + 1) n
/-- Folds one admitted column write. -/
def foldColumn (d : BitVec 128) (a : VAddr) (x : Vec) : BitVec 128 :=
  foldBlocks x (gfMul (d ^^^ BitVec.ofNat 128 (2 ^ 127 + packV a)) Config.digestKey) 0 16
/-- The digest at the commit that ends the phase. -/
def closeDigest (d : BitVec 128) (w : Nat) : BitVec 128 := gfMul (d ^^^ BitVec.ofNat 128 w) Config.digestKey

/-! ## DC slot (10 R238-R243) -/

/-- Entry of an output range set: valid, mask, first and last row (10 Table 10-6). -/
def rangeHas (e : Word) (b r : Nat) : Bool :=
  e.getLsbD 31 && e.getLsbD (32 + b) && decide (bits e 28 16 ≤ r ∧ r ≤ bits e 12 0)
/-- Does the set in force admit a write (10 R243)? -/
def Tile.inOutSet (t : Tile) (b r : Nat) : Bool := (getK [] t.seq.outs t.seq.os).any fun e => rangeHas e b r

/-- `.i` write-back of sV: the column field becomes (col + 1) mod 16 (10 R240). -/
def nextCol (v : Word) : Word := (v &&& ~~~0xF#64) ||| BitVec.ofNat 64 ((v.toNat % 16 + 1) % 16)

/-- Stored-code error of a store and index, if any (19 R348). Store numbers are the class 0x6 codes. -/
def Tile.errAt (t : Tile) (store idx : Nat) : Option StoreErr := t.own.errs.find? fun e => e.store == store && e.idx == idx

/-- A column command: bank in the map, then the checker, then the effect; the history takes the command. -/
def State.colCmd (s : State) (opc : Nat) (write : Bool) (sv : BitVec 6) (f : State → VAddr → State) : State :=
  let x := s.sv sv
  let a := unpackV x.toNat
  let v := s.ct.vault
  if a.bank ≥ v.n then s.raise scDC (badBank (BitVec.ofNat 64 (packV a)) v.n)
  else
    match lowestBad (v.badCol write (s.ct.inOutSet a.bank a.row) a.bank a.row s.frc) with
    | some b => s.raise scDC (refuse v s.frc s.ct.seq.os opc false a b)
    | none =>
      let s := s.modCt fun t => { t with vault := { t.vault.modBank a.bank (fun k =>
        if write then { k with wr := some s.frc } else { k with rd := some s.frc }) with dcWall := some s.wall } }
      f s a
/-- Write-backs of the `.i` forms. -/
def State.dcBack (s : State) (ai : Bool) (sv : BitVec 6) : State :=
  if ai then s.postS scDC 1 sv (nextCol (s.sv sv)) else s
def State.lineBack (s : State) (ai : Bool) (sl : BitVec 6) : State :=
  if ai then s.postS scDC 1 sl (s.sv sl + 256#64) else s
/-- The line address of `rds` and `wrs`: checked before the checker sees a command (10 R239). -/
def State.withLine (s : State) (opc : Nat) (sl : BitVec 6) (f : State → Nat → State) : State :=
  match checkAddr (s.sv sl).toNat 256 256 with
  | some e => s.raise scDC (opFail e.code e.addr (lDetail opc 0xFF))
  | none => f s (s.sv sl).toNat

/-- Adds one to a counter that stops at its largest value (19 R361). -/
def bump (n w : Nat) : Nat := min (n + 1) (2 ^ w - 1)
/-- A corrected vault column of some bytes in error, in the lifetime block (19 Table 19-7). -/
def Life.vaultFixed (l : Life) (bytes : Nat) : Life :=
  let l := { l with vaultc := bump l.vaultc 32 }
  if bytes ≤ 1 then { l with h1 := bump l.h1 16 } else if bytes ≤ 3 then { l with h2 := bump l.h2 16 }
  else if bytes ≤ 6 then { l with h4 := bump l.h4 16 } else { l with h7 := bump l.h7 16 }
/-- A corrected read of a row: counted, and the row is to be spared from 4 bytes in one codeword or the third corrected read
on (19 Table 19-3). -/
def Own.corrected (o : Own) (pb row prow : Nat) (e : StoreErr) : Own :=
  let k := pb * Config.physRows + prow
  let n := getK 0 o.life.fixes k + 1
  { o with
    life := { o.life.vaultFixed (e.bytes + e.bytes1) with fixes := setK o.life.fixes k n }
    weak := if (e.bytes ≥ 4 ∨ e.bytes1 ≥ 4 ∨ n ≥ 3) ∧ !o.weak.contains (pb, row) then o.weak ++ [(pb, row)] else o.weak }
/-! ## Vertical groups and layers (01 R16, 19 R351, R352) -/

/-- Banks of a vertical group. -/
def groupMask (g : Nat) : BitVec 32 := 0x01010101#32 <<< g
/-- Does an uncorrectable column of bank pb show its vertical group as failed: the group's own lane parity fails, or every
bank it serves has now returned one? -/
def Own.groupFails (o : Own) (pb : Nat) : Bool :=
  !o.groups.getLsbD (pb % 8) &&
    (o.lanes.getLsbD (pb % 8) || ((o.lost ||| (1#32 <<< pb)) &&& groupMask (pb % 8)) == groupMask (pb % 8))
/-- An uncorrectable column: its bank is to be retired, and all four of its vertical group where that has failed. -/
def Own.uncorrected (o : Own) (pb : Nat) : Own :=
  let g := o.groupFails pb
  { o with
    life := { o.life with vaultu := bump o.life.vaultu 16 }
    bad := o.bad ||| (if g then groupMask (pb % 8) else 1#32 <<< pb)
    lost := o.lost ||| (1#32 <<< pb)
    groups := if g then o.groups ||| (1#8 <<< (pb % 8)) else o.groups }
/-- Number of retired banks. -/
def retiredCount (m : BitVec 32) : Nat := ((List.range 32).filter fun b => m.getLsbD b).length
/-- Tiles of a stack. -/
def stackTiles (k : Nat) : List Nat := (List.range 384).filter fun t => stackOf t == k
/-- Failed groups of a stack in this relay interval. -/
def State.groupsLost (s : State) (k : Nat) : Nat :=
  (stackTiles k).foldl (fun n t => n + ((List.range 8).filter fun g => (s.tile t).own.groups.getLsbD g).length) 0
/-- The banks that a configuration image holds as retired on a tile, and whether it is marked failed. -/
def CfgImage.health (k : CfgImage) (t : Nat) (retired : BitVec 32) (failed : Bool) : CfgImage :=
  { k with
    retired := setK k.retired t retired
    failed := if failed ∧ !k.failed.contains t then k.failed ++ [t] else k.failed }
/-- A vault layer has failed: its banks leave every bank map of the stack, so that no command to them is admitted, its tiles
are marked failed, at once, and a new configuration image says so. -/
def State.failLayer (s : State) (stack layer : Nat) : State :=
  let ts := stackTiles stack
  let mask : BitVec 32 := 0xFF#32 <<< (8 * layer)
  let s := ts.foldl (fun s t =>
    (s.modTile t fun x => { x with
      vault := { x.vault with retired := x.vault.retired ||| mask, n := min x.vault.n (32 - retiredCount (x.vault.retired ||| mask)) }
      own := { x.own with failed := true, owner := none } }).event 0x0003 2 0x0D (BitVec.ofNat 64 t) 0xFF#64) s
  s.newConfig fun k => ts.foldl (fun k t => k.health t (s.tile t).vault.retired true) k
/-- A vertical group has failed, found at bank pb of tile t: its event, and the failure of the layer where that is the fourth
group of the stack; whether it is. -/
def State.groupLost (s : State) (t pb : Nat) : State × Bool :=
  let s := s.event 0x0004 2 0x07 (BitVec.ofNat 64 t) (BitVec.ofNat 64 (pb % 8))
  if 4 ≤ s.groupsLost (stackOf t) ∧ !(s.tile t).own.failed then
    ((s.failLayer (stackOf t) (pb / 8)).event 0x0004 2 0x07 (BitVec.ofNat 64 t) (BitVec.ofNat 64 (pb / 8)), true)
  else (s, false)
/-- A timetable read has met an uncorrectable column: 0x6/0x04, or 0x6/0x07 where its vertical group has now failed. What a
failed group does to the package follows at the end of the cycle, where the bundle stands (18 R337). -/
def State.columnLost (s : State) (a : VAddr) (pb prow : Nat) : State :=
  let x : Fail :=
    if s.ct.own.groupFails pb then ⟨0x6, 0x07, 0x07, BitVec.ofNat 64 (pb % 8), BitVec.ofNat 64 pb⟩
    else ⟨0x6, 0x04, 0x07, BitVec.ofNat 64 (packV a), BitVec.ofNat 64 (pb * 2 ^ 16 + prow)⟩
  (s.modCt fun t => { t with own := t.own.uncorrected pb }).note s.cur.coach s.cur.tile scDC s.cur.src.addr x
/-- The error of a column that a group whose lane parity fails has delivered: one beyond what its code corrects. -/
def laneErr (a : VAddr) : StoreErr := ⟨4, packV a, 0, 7, 7, 0#64⟩
/-- The stored-code error that a read of a column meets; where the lane parity of its group fails, an uncorrectable one. -/
def Tile.columnErr (t : Tile) (a : VAddr) : Option StoreErr :=
  if t.own.lanes.getLsbD (t.vault.pbank a.bank % 8) then some (laneErr a) else t.errAt 4 (packV a)

/-- A run of column reads: the tile, whether every code held, and the banks whose reads have shown their vertical group as failed
(19 R352). -/
structure Reading where
  tile : Tile
  good : Bool
  lost : List Nat
  deriving DecidableEq, Repr
/-- A read of physical bank pb, logical row `row`, meets an error: counted, and what follows for its row, bank and group. -/
def Reading.meet (x : Reading) (pb row prow : Nat) (e : StoreErr) : Reading :=
  let o := x.tile.own
  if e.fatal then ⟨{ x.tile with own := o.uncorrected pb }, false, if o.groupFails pb then x.lost ++ [pb] else x.lost⟩
  else { x with tile := { x.tile with own := o.corrected pb row prow e } }
/-- One more column read, with its lifetime counters: the column, or none where its code fails (19 R348). -/
def Reading.read (x : Reading) (a : VAddr) : Reading × Option Vec :=
  let v := x.tile.vault
  let pb := v.pbank a.bank
  match x.tile.columnErr a with
  | none => (x, some (v.column a))
  | some e => (x.meet pb a.row (v.prow pb a.row) e, if e.fatal then none else some (v.column a))

/-- A timetable read of a column: a correctable error is corrected; where the code fails nothing is written, and
0x6/0x04 is recorded (19 R348, R349). -/
def State.readColumn (s : State) (a : VAddr) (f : State → Vec → State) : State :=
  let v := s.ct.vault
  match s.ct.columnErr a with
  | some e =>
    let pb := v.pbank a.bank
    if e.fatal then s.columnLost a pb (v.prow pb a.row)
    else f (s.modCt fun t => { t with own := t.own.corrected pb a.row (v.prow pb a.row) e }) (v.column a)
  | none => f s (v.column a)

/-- A column write by the timetable: in the vault from its issue cycle, and folded into the digest (10 R239, 11 R261). -/
def State.writeColumn (s : State) (a : VAddr) (x : Vec) : State :=
  s.modCt fun t => { t with
    vault := t.vault.setColumn a x
    digD := foldColumn t.digD a x
    digW := t.digW + 1
    own := { t.own with errs := t.own.errs.filter fun e => !(e.store == 4 && e.idx == packV a) } }

def execRd (g : Guard) (vd sv : BitVec 6) (ai : Bool) (s : State) : Host.Outcome State Fault Refusal :=
  slotOp g s fun s => s.colCmd 0x01 false sv fun s a =>
    (s.readColumn a fun s x => s.postV scDC 14 vd allOn x).dcBack ai sv
def execRds (g : Guard) (sl sv : BitVec 6) (ai : Bool) (s : State) : Host.Outcome State Fault Refusal :=
  slotOp g s fun s => s.withLine 0x02 sl fun s l => s.colCmd 0x02 false sv fun s a =>
    ((s.readColumn a fun s x => s.postLine scDC 14 5 l allOn x).dcBack ai sv).lineBack ai sl
def execWr (g : Guard) (vs sv : BitVec 6) (ai : Bool) (s : State) : Host.Outcome State Fault Refusal :=
  slotOp g s fun s => s.colCmd 0x03 true sv fun s a => (s.writeColumn a (s.vv vs)).dcBack ai sv
def execWrs (g : Guard) (sl sv : BitVec 6) (ai : Bool) (s : State) : Host.Outcome State Fault Refusal :=
  slotOp g s fun s => s.withLine 0x04 sl fun s l => s.colCmd 0x04 true sv fun s a =>
    ((s.writeColumn a (s.ct.line l)).dcBack ai sv).lineBack ai sl

/-! ## Events of the banks -/

/-- tRFCpb has elapsed: the bank is Closed (10 Table 10-1). -/
def execBankRefreshDone (tile bank : Nat) (s : State) : Host.Outcome State Fault Refusal :=
  if tile < 384 ∧ bank < 32 then
    .next (s.modTile tile fun t => { t with vault := t.vault.modBank bank fun k =>
      match k.st with | .refreshing => { k with st := .closed } | _ => k })
  else .fault .noSuchUnit
/-- The window's cycles are over: its banks are Closed with the history they had when it opened (10 R246). -/
def execStopWindowEnd (tile : Nat) (s : State) : Host.Outcome State Fault Refusal :=
  if tile < 384 then
    .next (s.modTile tile fun t => { t with vault := { t.vault with window := none, eng := Vector.replicate 32 EngBank.reset } })
  else .fault .noSuchUnit
/-- Refresh deadline missed: 0x3/0x16 at t_last + I (18 R346, R347). -/
def execRefreshDeadlineMiss (tile bank : Nat) (s : State) : Host.Outcome State Fault Refusal :=
  if tile < 384 ∧ bank < 32 then
    match (s.tile tile).own.owner with
    | none => .next s
    | some c =>
      let v := (s.tile tile).vault
      .next (s.note c tile scDR 0 ⟨0x3, 0x16, 0x04,
        BitVec.ofNat 64 (0x05 * 2 ^ 56 + 2 ^ 52 + packV ⟨bank, 0, 0⟩), BitVec.ofNat 64 (v.bank bank).due⟩)
  else .fault .noSuchUnit

end Sys2Proof.Machine
end

