-- ==== Sys2Proof/Machine/Control.lean ====
section
/-! DEFINITION. C slot: steering, loops, phase and pause instructions, timelines and triggers, format table, flags,
system registers, trap (06 R147-R163). -/
namespace Sys2Proof.Machine

/-! ## Steering (06 R147, R152) -/

/-- Is an address the first word of an item of a stream (05 R110)? -/
def itemAt : List CodeWord → Nat → Nat → Bool
  | [], _, _ => false
  | w :: r, 0, a => if a = 0 then true else itemAt r (if w = 0xF400#16 then 24 else 0) (a - 1)
  | _ :: r, k + 1, a => if a = 0 then false else itemAt r k (a - 1)

/-- `prep`: the target is visible at issue + 1 and its buffer starts to fill. -/
def State.prepTo (s : State) (st : BitVec 4) (target : BitVec 17) : State :=
  s.post scC 1 (.stTgt st.toNat target s.frc)
def execPrep (g : Guard) (st : BitVec 4) (target : BitVec 17) (s : State) : Host.Outcome State Fault Refusal :=
  slotOp g s fun s => s.prepTo st target
def execPrepr (g : Guard) (st : BitVec 4) (sa : BitVec 6) (s : State) : Host.Outcome State Fault Refusal :=
  slotOp g s fun s =>
    let a := s.sv sa
    if a.toNat < codeMax ∧ itemAt s.ct.seq.code 0 a.toNat then s.prepTo st (a.truncate 17)
    else s.raise scC (opFail 0x03 a (BitVec.ofNat 64 st.toNat))

/-- The innermost running loop whose body holds the present bundle. -/
def Tile.inLoop (t : Tile) : Option Nat := innermost t.regs.l fun l => l.holds t.seq.pc

/-- The next bundle is taken from the item at an address. -/
def State.redirect (s : State) (target words : Nat) : State :=
  s.modCt fun t => (t.goTo target words).modSeq fun q => { q with redirected := true }
/-- A redirect through a steer register; from inside a running loop's body its target lies in that body (06 R152). -/
def State.steer (s : State) (st : BitVec 4) : State :=
  let r := s.ct.regs.stAt st.toNat
  let go := s.redirect r.target.toNat (match r.fillAt with | some c => fillWords s.frc c | none => 0)
  match s.ct.inLoop with
  | some i =>
    if (s.ct.regs.lAt i).holds r.target.toNat then go
    else s.raise scC (opFail 0x06 (BitVec.ofNat 64 r.target.toNat) (BitVec.ofNat 64 i))
  | none => go
def execBr (g : Guard) (st : BitVec 4) (s : State) : Host.Outcome State Fault Refusal :=
  slotOp g s fun s => if (s.ct.regs.stAt st.toNat).cond then s.steer st else s
def execBrn (g : Guard) (st : BitVec 4) (s : State) : Host.Outcome State Fault Refusal :=
  slotOp g s fun s => if (s.ct.regs.stAt st.toNat).cond then s else s.steer st
def execJmp (g : Guard) (st : BitVec 4) (s : State) : Host.Outcome State Fault Refusal :=
  slotOp g s fun s => s.steer st

/-! ## Loops (06 R148-R151) -/

/-- Loop counter misuse: which is 1 to 5 (18 Table 18-3 code 0x04). -/
def loopFail (d1 which : Nat) : Fail := opFail 0x04 (BitVec.ofNat 64 d1) (BitVec.ofNat 64 which)
def execLper (g : Guard) (l : BitVec 2) (per : BitVec 16) (s : State) : Host.Outcome State Fault Refusal :=
  slotOp g s fun s =>
    if (s.ct.regs.lAt l.toNat).running then s.raise scC (loopFail per.toNat 1)
    else s.post scC 1 (.lper l.toNat per)
/-- Does a body that ends at `stop` pass the end of a running loop whose body holds the `loop`? -/
def Tile.bodyPasses (t : Tile) (stop : Nat) : Bool :=
  match t.inLoop with
  | some i => decide ((t.regs.lAt i).stop < stop)
  | none => false
/-- `loop`. With a count of 0 the counter keeps every field. Where the body does not end at an item's first word, which no check of
05 R126 or 06 R150 names, no end of an item meets it: the loop runs past, and a `lbrk` or a count of 0 goes on at the word there,
which may be no instruction. Of several misuses at once the record has the first in the order running, period 0, count, body end.
All are the model's choice (notes/assumptions/48.md, notes/assumptions/51.md, notes/assumptions/53.md). -/
def execLoop (g : Guard) (l : BitVec 2) (count : LoopCount) (len : BitVec 14) (s : State) :
    Host.Outcome State Fault Refusal :=
  slotOp g s fun s =>
    let c := s.ct.regs.lAt l.toNat
    let n := match count with | .imm k => k.toNat + 1 | .reg r => (s.sv r).toNat
    let start := s.ct.seq.pc + s.cur.words
    if c.running then s.raise scC (loopFail n 2)
    else if c.period = 0#16 then s.raise scC (loopFail 0 3)
    else if n ≥ 2 ^ 32 then s.raise scC (loopFail n 4)
    else if s.ct.bodyPasses (start + len.toNat) then s.raise scC (loopFail n 5)
    else if n = 0 then s.redirect (start + len.toNat) 0
    else s.modCt fun t => t.modLoop l.toNat fun c =>
      { c with running := true, j := 0, n := n, b0 := t.seq.sb, start := start, len := len.toNat, fillAt := s.frc }
def execLbrk (g : Guard) (l : BitVec 2) (s : State) : Host.Outcome State Fault Refusal :=
  slotOp g s fun s =>
    if s.ct.inLoop = some l.toNat then
      let c := s.ct.regs.lAt l.toNat
      (s.redirect c.stop (fillWords s.frc c.fillAt)).modCt fun t =>
        (t.modLoop l.toNat fun c => { c with running := false }).modSeq fun q =>
          { q with sb := c.b0 + c.n * c.period.toNat }
    else
      let inner := match innermost s.ct.regs.l (·.running) with | some i => i | none => 0xFF
      s.raise scC (opFail 0x05 (BitVec.ofNat 64 l.toNat) (BitVec.ofNat 64 inner))

/-! ## Commit, relay, rendezvous (06 R153-R155, 02 R45, R56) -/

/-- Latest of some cycles that are above f. -/
def latestAbove (f : Nat) (xs : List Nat) : Option Nat :=
  match xs.filter (fun x => f < x) with
  | [] => none
  | x :: r => some (r.foldl max x)
/-- Is a pending write the data of an `rd` or `rds`? -/
def Pend.isRead (p : Pend) : Bool :=
  p.src.slot == scDC && match p.w with | .v _ _ _ => true | .line _ _ _ _ => true | _ => false
/-- Cycle a line copy completes that runs past f + 1 (08 R196). -/
def Tile.copyPast (t : Tile) (f : Nat) : Option Nat :=
  match t.lcopy with | some c => if c.c + c.n > f + 1 then some (c.c + c.n) else none | none => none
/-- Banks outside an open window that are not Closed with tRP elapsed, lowest first (02 R56). -/
def VaultSt.notClosed (v : VaultSt) (f : Nat) : List Nat :=
  (List.range v.n).filter fun b => !v.granted b f &&
    !((match (v.bank b).st with | .closed => true | _ => false) && (after 0 b f Config.tRP (v.bank b).pre).isEmpty)
/-- The conditions of R56 at a `rdv` or `relay`: the lowest code that fails (18 codes 0x2/0x09, 0x3/0x18). -/
def State.pauseFail (s : State) (opc : Nat) : Option Fail :=
  let t := s.ct
  let f := s.frc
  let pushes := ((s.coach s.cur.coach).pushes.filter fun p => p.ofTile s.cur.tile).map (·.arrival)
  match latestAbove f ((t.pend.filter Pend.isRead).map (·.at_)), latestAbove f pushes, t.copyPast f, t.vault.notClosed f with
  | some x, _, _, _ => some (unitFail 0x09 1 x)
  | _, some x, _, _ => some (unitFail 0x09 2 x)
  | _, _, some x, _ => some (unitFail 0x09 3 x)
  | _, _, _, b :: _ =>
    let a : VAddr := ⟨b, 0, 0⟩
    some ⟨0x3, 0x18, 0x04, BitVec.ofNat 64 (opc * 2 ^ 56 + 2 ^ 53 + packV a),
      BitVec.ofNat 64 (t.vault.code b f * 2 ^ 16 + (t.vault.bank b).openRow)⟩
  | _, _, _, [] => none

/-- The bundle asks something of the whole launch; the tile as it stood before the bundle is kept, since a breach among
the tiles suppresses the bundles (17 R332, 20 R366). -/
def State.meetAs (s : State) (m : Meet) : State :=
  let t := s.cur.tile
  let before := match s.cur.save with | some (x, _) => x | none => s.ct
  (s.modCt fun x => { x with meet := m }).modLaunch s.cur.coach fun l => { l with saves := l.saves ++ [(t, before)] }

def execCommit (g : Guard) (rl : BitVec 8) (os : BitVec 4) (s : State) : Host.Outcome State Fault Refusal :=
  slotOp g s fun s =>
    match s.ct.copyPast s.frc with
    | some x => s.raise scC (unitFail 0x09 3 x)
    | none => s.meetAs (.commit rl.toNat os.toNat)
/-- NR of the image (13 Table 13-1). -/
def Launch.nr (l : Launch) : Nat := match l.image.variants with | v :: _ => v.nr | [] => 0
/-- `relay`. Where the tile has issued no `commit` yet Detail 1 of code 0x07 is 0: the model's choice
(notes/assumptions/53.md). -/
def execRelay (g : Guard) (s : State) : Host.Outcome State Fault Refusal :=
  slotOp g s fun s =>
    let last := s.ct.seq.lastCommit
    if last ≠ some (s.frc - 1) ∨ s.frc = 0 then s.raise scC (opFail 0x07 (BitVec.ofNat 64 (last.getD 0)) 0#64)
    else if s.cl.relayNo ≥ s.cl.nr then
      s.raise scC (opFail 0x10 (BitVec.ofNat 64 s.cl.relayNo) (BitVec.ofNat 64 s.cl.nr))
    else
      match s.pauseFail 0x0A with
      | some x => s.raise scC x
      | none => s.meetAs .relay
def execRdv (g : Guard) (id : BitVec 8) (cond : RdvCond) (s : State) : Host.Outcome State Fault Refusal :=
  slotOp g s fun s =>
    match s.pauseFail 0x0B with
    | some x => s.raise scC x
    | none => s.meetAs (.rdv id.toNat (match cond with
        | .always => none
        | .level tl r => some (tl.toNat, s.sv r)))

/-! ## Timelines (04 R101, 06 R156-R159) -/

/-- Operation n of a timeline has completed: the live value rises past every completed number in a row (04 R101). -/
def Timeline.settle (t : Timeline) : Nat → Timeline
  | 0 => t
  | k + 1 =>
    if t.done.contains (t.live + 1) then
      Timeline.settle { t with live := t.live + 1, done := t.done.filter fun n => n != t.live + 1 } k
    else t
def Timeline.complete (t : Timeline) (n : Nat) : Timeline :=
  Timeline.settle { t with done := n :: t.done } (t.done.length + 1)

def Coach.tl (k : Coach) (i : Nat) : Timeline := k.tls.getD i Timeline.reset
def Coach.modTl (k : Coach) (i : Nat) (f : Timeline → Timeline) : Coach := { k with tls := k.tls.setIfInBounds i (f (k.tl i)) }
/-- A trigger limit breach (20 Table 20-1 code 0x8/0x04). -/
def limitFail (opc : Nat) : Fail := ⟨0x8, 0x04, 0x02, BitVec.ofNat 64 opc, 32#64⟩

/-- A trigger: a replayed issue of an accepted one is suppressed (06 R159, 17 R333 step 8); beyond 32 accepted,
uncompleted operations of the tile it faults; else it takes the next number, given to f. -/
def State.trigger (s : State) (opc : Nat) (tl : BitVec 3) (f : State → Nat → State) : State :=
  let i := tl.toNat
  let n := s.ct.trigs.getD i 0 + 1
  let count (s : State) : State := s.modCt fun t => { t with trigs := t.trigs.setIfInBounds i n }
  if n ≤ s.ct.marks.getD i 0 then count s
  else if ((s.coach s.cur.coach).ops.filter fun o => o.tile == s.cur.tile).length ≥ Config.maxOps then
    s.raise scC (limitFail opc)
  else
    let num := ((s.coach s.cur.coach).tl i).issued + 1
    f ((count s).modCoach s.cur.coach fun k => k.modTl i fun t => { t with issued := num }) num

def execTlsig (g : Guard) (tl : BitVec 3) (s : State) : Host.Outcome State Fault Refusal :=
  slotOp g s fun s => s.trigger 0x0C tl fun s n => s.modCoach s.cur.coach fun k => k.modTl tl.toNat fun t => t.complete n
def execTlrd (g : Guard) (sd : BitVec 6) (tl : BitVec 3) (s : State) : Host.Outcome State Fault Refusal :=
  slotOp g s fun s => s.postS scC 1 sd (s.ct.acq.getD tl.toNat 0#64)

/-- Accepts an asynchronous operation under the tile's owner tag (20 R364). -/
def State.accept (s : State) (tl num : Nat) (kind : OpKind) (host : Word) (va len : Nat) (desc : Vec) : State :=
  let o : AsyncOp := ⟨tl, num, s.cur.tile, kind, host, va, len, desc, s.ct.own.owner, [], [], s.wall, none⟩
  s.modCoach s.cur.coach fun k => { k with ops := k.ops ++ [o] }

/-- Operand limits of `acopy` (06 R157; 18 Table 18-3 codes 0x08, 0x0B). Of several bad operands the one reported is, in
order, the host address, the vault address, the length, the row, the bank: the model's choice (notes/assumptions/48.md). -/
def acopyFail (h v n : Word) (banks : Nat) : Option Fail :=
  let a := unpackV v.toNat
  if h.toNat % 256 ≠ 0 then some (opFail 0x08 h 1#64)
  else if v.toNat ≥ 2 ^ 22 then some (opFail 0x08 v 2#64)
  else if n.toNat = 0 ∨ n.toNat > 131072 then some (opFail 0x08 n 3#64)
  else if a.row * 16 + a.col + n.toNat > 131072 then some (opFail 0x08 n 4#64)
  else if a.bank ≥ banks then some (opFail 0x0B v (BitVec.ofNat 64 banks))
  else none
def opAcopy (g : Guard) (kind : OpKind) (tl : BitVec 3) (sh sv sn : BitVec 6) (s : State) : Host.Outcome State Fault Refusal :=
  slotOp g s fun s =>
    match acopyFail (s.sv sh) (s.sv sv) (s.sv sn) s.ct.vault.n with
    | some x => s.raise scC x
    | none => s.trigger 0x0E tl fun s num => s.accept tl.toNat num kind (s.sv sh) (s.sv sv).toNat (s.sv sn).toNat 0#2048
def execAcopyIn (g : Guard) (tl : BitVec 3) (sh sv sn : BitVec 6) (s : State) : Host.Outcome State Fault Refusal :=
  opAcopy g .copyIn tl sh sv sn s
def execAcopyOut (g : Guard) (tl : BitVec 3) (sh sv sn : BitVec 6) (s : State) : Host.Outcome State Fault Refusal :=
  opAcopy g .copyOut tl sh sv sn s

/-- A far operation: the descriptor line is read at issue (06 R158). -/
def opFar (opc : Nat) (kind : OpKind) (g : Guard) (tl : BitVec 3) (sd : BitVec 6) (s : State) :
    Host.Outcome State Fault Refusal :=
  slotOp g s fun s =>
    match checkAddr (s.sv sd).toNat 256 256 with
    | some e => s.raise scC (opFail e.code e.addr (lDetail opc 0xFF))
    | none =>
      let d := s.ct.line (s.sv sd).toNat
      s.trigger opc tl fun s num => s.accept tl.toNat num kind 0#64 (d.extractLsb' 64 64).toNat (d.extractLsb' 128 32).toNat d
def execFarxSend (g : Guard) (tl : BitVec 3) (sd : BitVec 6) (s : State) : Host.Outcome State Fault Refusal :=
  opFar 0x0F .send g tl sd s
def execFarxRecv (g : Guard) (tl : BitVec 3) (sd : BitVec 6) (s : State) : Host.Outcome State Fault Refusal :=
  opFar 0x0F .recv g tl sd s
def execFarmSum (g : Guard) (tl : BitVec 3) (sd : BitVec 6) (s : State) : Host.Outcome State Fault Refusal :=
  opFar 0x10 .sum g tl sd s
def execFarmGather (g : Guard) (tl : BitVec 3) (sd : BitVec 6) (s : State) : Host.Outcome State Fault Refusal :=
  opFar 0x10 .gather g tl sd s
def execFarmBcast (g : Guard) (tl : BitVec 3) (sd : BitVec 6) (s : State) : Host.Outcome State Fault Refusal :=
  opFar 0x10 .bcast g tl sd s

/-! ## Format table, flags, trap (06 R160, R161, R163) -/

/-- The rows of a line that a mask names, in order; none where one is neither legal nor unused. -/
def ftFirstBad (x : Vec) (mask : BitVec 16) : Option Nat :=
  (List.range 16).find? fun m => mask.getLsbD m && !ftOk (BitVec.ofNat 32 (lane x 32 m))
def execFtload (g : Guard) (sa : BitVec 6) (mask : BitVec 16) (s : State) : Host.Outcome State Fault Refusal :=
  slotOp g s fun s =>
    match checkAddr (s.sv sa).toNat 256 256 with
    | some e => s.raise scC (opFail e.code e.addr (lDetail 0x11 0xFF))
    | none =>
      let x := s.ct.line (s.sv sa).toNat
      match ftFirstBad x mask with
      | some m => s.raise scC (opFail 0x0A (BitVec.ofNat 64 (lane x 32 m)) (BitVec.ofNat 64 m))
      | none => s.post scC 1 (.ft mask (Vector.ofFn fun i => BitVec.ofNat 32 (lane x 32 i.val)))
def execFclr (g : Guard) (fs : BitVec 4) (s : State) : Host.Outcome State Fault Refusal :=
  slotOp g s fun s => s.post scC 1 (.fclr fs)
/-- `trap`: class 0xB code 0x01 with k; every slot of its bundle takes effect (17 R329). The detection source 0x02 and the zero
of Detail 2 are the model's choice (notes/assumptions/48.md). -/
def execTrap (g : Guard) (k : BitVec 16) (s : State) : Host.Outcome State Fault Refusal :=
  slotOp g s fun s => s.note s.cur.coach s.cur.tile scC s.cur.src.addr ⟨0xB, 0x01, 0x02, k.zeroExtend 64, 0#64⟩

/-! ## System registers (04 Tables 4-5, 4-6; 06 R162) -/

def w64 (n : Nat) : Word := BitVec.ofNat 64 n
/-- A loop counter's four words. -/
def loopWord (l : LoopSt) : Nat → Word
  | 0 => l.wordA | 1 => l.wordB | 2 => l.wordC | _ => 0#64
/-- A word of a carry snapshot slot (04 Table 4-6). -/
def Snap.word (n : Snap) (o : Nat) : Word :=
  if o = 0 then w64 ((if n.valid then 2 ^ 63 else 0) + (if n.settled then 2 ^ 62 else 0) + n.phase % 2 ^ 32)
  else if o = 1 then w64 n.frc
  else if o = 2 then w64 n.sb
  else if o = 3 then w64 ((if n.h then 2 ^ 17 else 0) + n.addr % 2 ^ 17)
  else if o = 4 then n.ftmask.zeroExtend 64
  else if 0x10 ≤ o ∧ o < 0x20 then n.s.getD (o - 0x10) 0#64
  else if 0x20 ≤ o ∧ o < 0x30 then (n.ft.getD (o - 0x20) 0#32).zeroExtend 64
  else if 0x30 ≤ o ∧ o < 0x38 then n.acq.getD (o - 0x30) 0#64
  else if 0x40 ≤ o ∧ o < 0x50 then loopWord (n.l.getD ((o - 0x40) / 4) LoopSt.reset) (o % 4)
  else 0#64
/-- System register `i` of a tile t of a coach c running a launch, read in a frame cycle. -/
def sysRead (x : Tile) (l : Launch) (c t i : Nat) : Word :=
  if i = 0 then w64 l.frc
  else if i = 1 then w64 x.seq.sb
  else if i = 2 then
    w64 ((if l.lrec.type = 2 then 2 ^ 31 else 0) + l.variant % 8 * 2 ^ 28 + c * 2 ^ 24 + l.lrec.index % 64 * 2 ^ 16 + t)
  else if i = 3 then w64 ((if x.h then 2 ^ 40 else 0) + l.replaysOf l.phase % 4 * 2 ^ 32 + l.phase % 2 ^ 32)
  else if i = 8 then x.flags.fls.zeroExtend 64
  else if i = 9 then x.flags.flva.zeroExtend 64
  else if i = 10 then x.flags.flvb.zeroExtend 64
  else if i = 11 then x.flags.flm.zeroExtend 64
  else if i = 12 then x.flags.ferWord
  else if 0x10 ≤ i ∧ i < 0x20 then loopWord (x.regs.lAt ((i - 0x10) / 4)) (i % 4)
  else if 0x20 ≤ i ∧ i < 0x2C then
    let r := x.regs.stAt (i - 0x20)
    w64 ((if r.cond then 2 ^ 17 else 0) + r.target.toNat)
  else if 0x30 ≤ i ∧ i < 0x40 then (x.ft.getD (i - 0x30) 0#32).zeroExtend 64
  else if i = 0x40 then x.ftmask.zeroExtend 64
  else if 0x48 ≤ i ∧ i < 0x50 then x.acq.getD (i - 0x48) 0#64
  else if 0x50 ≤ i ∧ i < 0x70 then
    (if i % 2 = 0 then x.vault.vttA.getD ((i - 0x50) / 2) 0#64 else x.vault.vttB.getD ((i - 0x50) / 2) 0#64)
  else if 0x70 ≤ i ∧ i < 0x90 then x.vault.bankWord (i - 0x70) l.frc
  else if i = 0x90 then w64 (x.blk.head % 2 ^ 14 * 2 ^ 32 + x.blk.free % 2 ^ 15 * 2 ^ 16 + x.blk.ops % 2 ^ 11)
  else if i = 0x91 then w64 (x.vault.rfclass % 8)
  else if 0x100 ≤ i ∧ i < 0x180 then (x.snaps.getD 0 Snap.reset).word (i - 0x100)
  else if 0x180 ≤ i ∧ i < 0x200 then (x.snaps.getD 1 Snap.reset).word (i - 0x180)
  else 0#64

/-- `rdsys` reads the tile as it stood when its bundle issued. -/
def execRdsys (g : Guard) (sd : BitVec 6) (idx : BitVec 10) (s : State) : Host.Outcome State Fault Refusal :=
  slotOp g s fun s =>
    let x := match s.cur.save with | some (x, _) => x | none => s.ct
    s.postS scC 1 sd (sysRead x s.cl s.cur.coach s.cur.tile idx.toNat)
/-- `wrsys`: only the flag sets and FER take a write (04 R107). -/
def execWrsys (g : Guard) (sa : BitVec 6) (idx : BitVec 10) (s : State) : Host.Outcome State Fault Refusal :=
  slotOp g s fun s =>
    if 8 ≤ idx.toNat ∧ idx.toNat ≤ 12 then s.post scC 1 (.sys idx.toNat (s.sv sa)) else s

end Sys2Proof.Machine
end

