-- ==== Sys2Proof/Machine/CrossLane.lean ====
section
/-! DEFINITION. Cross-lane movement, scans and reductions (VA), special functions (VB) (07 R185-R188, R190). -/
namespace Sys2Proof.Machine

/-- A move of lanes in VA at latency 2, or 4 for `vperm`. -/
def opMove (g : Guard) (vd : BitVec 6) (q : BitVec 4) (ty : Ty) (lat : Nat) (r : State → Nat → Nat) (s : State) :
    Host.Outcome State Fault Refusal := opPlain g .va vd q ty.width lat r s

def execVlsh (g : Guard) (vd va sn : BitVec 6) (q : BitVec 4) (ty : Ty) (rot : Bool) (s : State) :=
  opMove g vd q ty 2 (fun s i =>
    let n : Int := lanes ty.width
    let k := (i : Int) + (s.sv sn).toInt
    if rot then lane (s.vv va) ty.width (k % n).toNat
    else if 0 ≤ k ∧ k < n then lane (s.vv va) ty.width k.toNat else 0) s
def execVperm (g : Guard) (vd va vb : BitVec 6) (q : BitVec 4) (ty : Ty) (z : Bool) (s : State) :=
  opMove g vd q ty 4 (fun s i =>
    let n := lanes ty.width
    let x := lane (s.vv vb) ty.width i
    if z ∧ n ≤ x then 0 else lane (s.vv va) ty.width (x % n)) s
def execVrev (g : Guard) (vd va : BitVec 6) (q : BitVec 4) (ty : Ty) (s : State) :=
  opMove g vd q ty 2 (fun s i => lane (s.vv va) ty.width (lanes ty.width - 1 - i)) s
def execVzip (g : Guard) (vd va vb : BitVec 6) (q : BitVec 4) (ty : Ty) (hi : Bool) (s : State) :=
  opMove g vd q ty 2 (fun s i =>
    let h := if hi then lanes ty.width / 2 else 0
    lane (if i % 2 = 0 then s.vv va else s.vv vb) ty.width (h + i / 2)) s
def execVunzip (g : Guard) (vd va vb : BitVec 6) (q : BitVec 4) (ty : Ty) (odd : Bool) (s : State) :=
  opMove g vd q ty 2 (fun s i =>
    let n := lanes ty.width
    let k := 2 * i + (if odd then 1 else 0)
    if k < n then lane (s.vv va) ty.width k else lane (s.vv vb) ty.width (k - n)) s

/-! ## Scans and reductions (07 R186-R188) -/

/-- Identity of an operation (07 R186). -/
def combId (op : COp) (ty : Ty) : Nat :=
  match op with
  | .add => if ty.isF then signBit ty true else 0
  | .max => if ty.isF then signBit ty true + Ty.infCode ty else wrap ty.width (Ty.intMin ty)
  | .min => if ty.isF then Ty.infCode ty else wrap ty.width (Ty.intMax ty)
  | .amax => 0
/-- Combine x y with its flags (07 R186). -/
def combine (op : COp) (ty : Ty) (x y : Nat) : Nat × Fl :=
  if ty.isF then
    let a := valueOf ty x
    let b := valueOf ty y
    roundWith ty .rne (match op with
      | .add => addV a b
      | .max => minMaxV true false a b
      | .min => minMaxV false false a b
      | .amax => minMaxV true false a.abs b.abs)
  else
    (match op with
      | .add => (x + y) % 2 ^ ty.width
      | .min => if laneInt ty x ≤ laneInt ty y then x else y
      | _ => if laneInt ty x ≤ laneInt ty y then y else x, 0#6)
/-- Inputs: a disabled lane contributes the identity. -/
def combInputs (op : COp) (ty : Ty) (x : Vec) (m : Mask) : List Nat :=
  (List.range (lanes ty.width)).map fun i => if laneOn m ty.width i then lane x ty.width i else combId op ty
/-- Union of the flags of a list. -/
def flUnion : List (Nat × Fl) → Fl
  | [] => 0#6
  | p :: r => p.2 ||| flUnion r
/-- One step of the scan at distance d (07 R187). -/
def scanStep (op : COp) (ty : Ty) (d : Nat) (y : List Nat) : List (Nat × Fl) :=
  y.zipIdx.map fun p => if p.2 < d then (p.1, 0#6) else combine op ty (nth y (p.2 - d)) p.1
/-- `k` steps of the scan from distance d. -/
def scanGo (op : COp) (ty : Ty) (d : Nat) (y : List Nat) (f : Fl) : Nat → List Nat × Fl
  | 0 => (y, f)
  | k + 1 =>
    let z := scanStep op ty d y
    scanGo op ty (2 * d) (z.map (·.1)) (f ||| flUnion z) k
/-- One step of the reduction to d lanes, and `k` of them (07 R188). -/
def redStep (op : COp) (ty : Ty) (d : Nat) (x : List Nat) : List (Nat × Fl) :=
  (List.range d).map fun i => combine op ty (nth x i) (nth x (i + d))
def redGo (op : COp) (ty : Ty) (d : Nat) (x : List Nat) (f : Fl) : Nat → List Nat × Fl
  | 0 => (x, f)
  | k + 1 =>
    let z := redStep op ty d x
    redGo op ty (d / 2) (z.map (·.1)) (f ||| flUnion z) k

def execVscan (g : Guard) (vd va : BitVec 6) (q : BitVec 4) (ty : Ty) (op : COp) (excl : Bool) (s : State) :
    Host.Outcome State Fault Refusal :=
  slotOp g s fun s =>
    let n := lanes ty.width
    let r := scanGo op ty 1 (combInputs op ty (s.vv va) (s.qv q)) 0#6 (Nat.log2 n)
    let out (i : Nat) : Nat := if excl then (if i = 0 then combId op ty else nth r.1 (i - 1)) else nth r.1 i
    (s.postV scVA 8 vd (s.qv q) (ofLanes ty.width n out)).postF scVA 8 r.2
/-- Lane 0 receives the reduction; every other bit of vd becomes 0, whatever q holds. -/
def execVred (g : Guard) (vd va : BitVec 6) (q : BitVec 4) (ty : Ty) (op : COp) (s : State) :
    Host.Outcome State Fault Refusal :=
  slotOp g s fun s =>
    let n := lanes ty.width
    let r := redGo op ty (n / 2) (combInputs op ty (s.vv va) (s.qv q)) 0#6 (Nat.log2 n)
    (s.postV scVA 8 vd allOn (ofLanes ty.width 1 fun _ => nth r.1 0)).postF scVA 8 r.2

/-! ## Special functions (07 R190) -/

/-- A special function on f32 lanes in VB. -/
def opSpecial (g : Guard) (vd va : BitVec 6) (q : BitVec 4) (lat : Nat) (f : Val → Val × Fl) (s : State) :
    Host.Outcome State Fault Refusal :=
  opLanes g .vb vd q 32 lat (fun s i => roundWith .f32 .rne (f (valueOf .f32 (lane (s.vv va) 32 i)))) s
def execVrcp (g : Guard) (vd va : BitVec 6) (q : BitVec 4) (s : State) := opSpecial g vd va q 16 rcpV s
def execVrsq (g : Guard) (vd va : BitVec 6) (q : BitVec 4) (s : State) := opSpecial g vd va q 16 rsqV s
def execVsqrt (g : Guard) (vd va : BitVec 6) (q : BitVec 4) (s : State) := opSpecial g vd va q 20 sqrtV s
def execVdiv (g : Guard) (vd va vb : BitVec 6) (q : BitVec 4) (s : State) :=
  opLanes g .vb vd q 32 20 (fun s i =>
    roundWith .f32 .rne (divV (valueOf .f32 (lane (s.vv va) 32 i)) (valueOf .f32 (lane (s.vv vb) 32 i)))) s
def execVexp2 (g : Guard) (vd va : BitVec 6) (q : BitVec 4) (s : State) := opSpecial g vd va q 16 exp2V s
def execVlog2 (g : Guard) (vd va : BitVec 6) (q : BitVec 4) (s : State) := opSpecial g vd va q 16 log2V s

end Sys2Proof.Machine
end

