-- ==== Sys2Proof/Machine/Crypto.lean ====
section
/-! DEFINITION. SHA3-256 and SHA3-512 over byte strings (named by 12 R266, 14 R297, R298; the function is FIPS 202,
notes/assumptions/9.md), and the draws and opaque functions of the security controller. -/
namespace Sys2Proof.Machine

/-- The 1,600-bit state: 25 lanes of 64 bits, lane (x, y) at place x + 5 y. -/
abbrev Lanes := List Nat

/-- Rotation of a lane to the left by n below 64. -/
def rotLane (x n : Nat) : Nat := x * 2 ^ n % 2 ^ 64 + x / 2 ^ (64 - n)
/-- One clock of the register x^8 + x^6 + x^5 + x^4 + 1 that feeds the round constants. -/
def feedBit (r : Nat) : Nat := if r < 128 then 2 * r else (2 * r) ^^^ 0x171
/-- The constant of the round that the register stands at, from bit place j on (the bits 2^j - 1 of the constant are the
register's lowest bits of seven clocks), with the register after it. -/
def roundWord (j r acc : Nat) : Nat → Nat × Nat
  | 0 => (acc, r)
  | k + 1 => roundWord (j + 1) (feedBit r) (if r % 2 = 1 then acc + 2 ^ (2 ^ j - 1) else acc) k
/-- Where the walk (x, y) -> (y, 2 x + 3 y) moves each lane, and by how much: step t carries the lane read before it to the
next place of the walk, rotated by (t + 1)(t + 2) / 2. `held` is that lane; lane (0, 0) stays. -/
def walkLanes (src out : Lanes) (place held t : Nat) : Nat → Lanes
  | 0 => out
  | k + 1 =>
    let x := place % 5
    let y := place / 5
    let next := y + 5 * ((2 * x + 3 * y) % 5)
    walkLanes src (out.set next (rotLane held ((t + 1) * (t + 2) / 2 % 64))) next (nth src next) (t + 1) k
/-- Parity of the five lanes of column x. -/
def columnXor (a : Lanes) (x : Nat) : Nat := (List.range 5).foldl (fun p y => p ^^^ nth a (x % 5 + 5 * y)) 0
/-- Each row of five lanes through the nonlinear step. -/
def rowStep : Lanes → Lanes
  | l0 :: l1 :: l2 :: l3 :: l4 :: r =>
    let f (p q u : Nat) : Nat := p ^^^ (u - (q &&& u))
    f l0 l1 l2 :: f l1 l2 l3 :: f l2 l3 l4 :: f l3 l4 l0 :: f l4 l0 l1 :: rowStep r
  | _ => []
/-- The permutation over n more rounds, the constant register standing at r. -/
def keccakGo (a : Lanes) (r : Nat) : Nat → Lanes
  | 0 => a
  | n + 1 =>
    let par := (List.range 5).map (columnXor a)
    let mixed := a.zipIdx.map fun p => p.1 ^^^ nth par ((p.2 + 4) % 5) ^^^ rotLane (nth par ((p.2 + 1) % 5)) 1
    let c := roundWord 0 r 0 7
    match rowStep (walkLanes mixed mixed 1 (nth mixed 1) 0 24) with
    | l :: rest => keccakGo ((l ^^^ c.1) :: rest) c.2 n
    | [] => []
def keccak (a : Lanes) : Lanes := keccakGo a 1 24

/-- Absorbs one block of `rate` bytes. -/
def absorb (a : Lanes) (blk : List Byte) : Lanes :=
  keccak ((List.range 25).map fun i => nth a i ^^^ natOf ((blk.drop (8 * i)).take 8))
/-- Absorbs whole blocks; `n` bounds their number. -/
def absorbAll (rate : Nat) (a : Lanes) (x : List Byte) : Nat → Lanes
  | 0 => a
  | n + 1 => if x.isEmpty then a else absorbAll rate (absorb a (x.take rate)) (x.drop rate) n
/-- SHA-3 padding to a multiple of the rate. -/
def padSha3 (rate : Nat) (x : List Byte) : List Byte :=
  let k := rate - x.length % rate
  if k = 1 then x ++ [0x86#8] else x ++ 0x06#8 :: List.replicate (k - 2) 0#8 ++ [0x80#8]
/-- SHA3 with a digest of `n` bytes, as a little-endian number. -/
def sha3 (n : Nat) (x : List Byte) : Nat :=
  let rate := 200 - 2 * n
  let p := padSha3 rate x
  let a := absorbAll rate (List.replicate 25 0) p (p.length / rate)
  natOf ((List.range 25).flatMap fun i => bytesOf (nth a i) 8) % 2 ^ (8 * n)
def sha3_256 (x : List Byte) : BitVec 256 := BitVec.ofNat 256 (sha3 32 x)
def sha3_512 (x : List Byte) : BitVec 512 := BitVec.ofNat 512 (sha3 64 x)

/-! ## The security controller (01 R30, 14 R296-R301; notes/assumptions/4.md) -/

/-- Public keys of this part: 2,592 and 1,568 bytes. -/
def identityKey : List Byte := bytesOf Config.identityBits.toNat 2592
def encapKey : List Byte := bytesOf Config.encapBits.toNat 1568
/-- AES-256-GCM text: as long as what it is made from; the same once more gives that back. -/
def gcmText (key : BitVec 256) (nonce : BitVec 96) (x : List Byte) : List Byte :=
  x.zipIdx.map fun p => p.1 ^^^ Config.gcmStream key nonce p.2
def gcmTag (key : BitVec 256) (nonce : BitVec 96) (aad text : List Byte) : List Byte :=
  bytesOf (Config.gcmTag key nonce aad text).toNat 16
/-- Encapsulation to the key of a digest: its 1,568 bytes and the secret, which its holder's decapsulation gives back. -/
def kemCipher (ek : BitVec 512) (draw : BitVec 256) : List Byte := bytesOf (Config.kemCipher ek draw).toNat 1568
def kemSecret (ek : BitVec 512) (draw : BitVec 256) : BitVec 256 := Config.kemOpen ek (Config.kemCipher ek draw)
def kemDecaps (x : List Byte) : BitVec 256 := Config.kemOpen (sha3_512 encapKey) (BitVec.ofNat 12544 (natOf x))
/-- Signature of a digest by the identity key; a signature verifies that is the holder's, or one of the others that do. -/
def dsaSign (d : BitVec 512) : List Byte := bytesOf (Config.dsaSig identityKey d).toNat 4627
def dsaVerify (pk : List Byte) (d : BitVec 512) (sig : List Byte) : Bool :=
  sig == bytesOf (Config.dsaSig pk d).toNat 4627 || Config.dsaOther pk d sig
/-- What the controller signs at bring-up: its keys and firmware measurement, as a peer bundle holds them (14 R296, R301). -/
def ownBundle (measure : BitVec 512) (cert : List Byte) : List Byte :=
  let b := identityKey ++ encapKey ++ bytesOf measure.toNat 64
  b ++ dsaSign (sha3_512 b) ++ List.replicate 109 0#8 ++ bytesOf cert.length 4 ++ cert

end Sys2Proof.Machine
end

