-- ==== Sys2Proof/Machine/Transposer.lean ====
section
/-! DEFINITION. X slot: the transposer (08 R206, R207). -/
namespace Sys2Proof.Machine

/-- Rows and columns of a block: 64 in mode b32, 128 in mode b16. -/
def Tx.size (x : Tx) : Nat := if x.b16 then 128 else 64
def Tx.elem (x : Tx) : Nat := if x.b16 then 16 else 32
def Tx.slotAt (x : Tx) (second : Bool) : TxSlot := if second then x.s1 else x.s0
def Tx.setSlot (x : Tx) (second : Bool) (y : TxSlot) : Tx := if second then { x with s1 := y } else { x with s0 := y }
/-- A pointer moves to the other slot in b32; b16 has one slot. -/
def Tx.other (x : Tx) (p : Bool) : Bool := if x.b16 then p else !p

/-- A transposer slot is written anew, in the rows that p names: so are their codes (19 R348). -/
def Tile.txCode (t : Tile) (p : Nat → Nat → Bool) : Tile :=
  t.recode fun e => e.store == 2 && decide (8208 ≤ e.idx) && p (e.idx - 8208) (e.word / 32)
/-- Both slots are made empty, in a mode. -/
def Tile.txClear (t : Tile) (b16 : Bool) : Tile := { t.txCode fun _ _ => true with tx := { Tx.reset with b16 := b16 } }

/-- Transposer misuse: which is 1 to 3 (18 Table 18-4 code 0x08). -/
def txFail (which ready : Nat) : Fail := unitFail 0x08 which ready

def execXin (g : Guard) (vs : BitVec 6) (s : State) : Host.Outcome State Fault Refusal :=
  slotOp g s fun s =>
    let x := s.ct.tx
    let y := x.slotAt x.fill
    if y.rows.length ≥ x.size then s.raise scX (txFail 1 y.ready)
    else
      let full := y.rows.length + 1 = x.size
      let y' : TxSlot := ⟨y.rows ++ [s.vv vs], if full then s.frc + 8 else 0, 0⟩
      let x' := x.setSlot x.fill y'
      s.modCt fun t => { (t.txCode fun k r => k == x.fill.toNat && r == y.rows.length) with
        tx := if full then { x' with fill := x.other x.fill } else x' }

def execXout (g : Guard) (vd : BitVec 6) (s : State) : Host.Outcome State Fault Refusal :=
  slotOp g s fun s =>
    let x := s.ct.tx
    let y := x.slotAt x.drain
    if y.rows.length < x.size then s.raise scX (txFail 2 0)
    else if s.frc < y.ready then s.raise scX (txFail 3 y.ready)
    else
      let last := y.taken + 1 = x.size
      let y' : TxSlot := if last then TxSlot.reset else { y with taken := y.taken + 1 }
      let x' := x.setSlot x.drain y'
      (s.modCt fun t => { t with tx := if last then { x' with drain := x.other x.drain } else x' }).postV scX 2 vd allOn
        (ofLanes x.elem x.size fun i => lane (y.rows.getD i 0#2048) x.elem y.taken)

def execXclr (g : Guard) (s : State) : Host.Outcome State Fault Refusal :=
  slotOp g s fun s => s.modCt fun t => t.txClear t.tx.b16

def execXmode (g : Guard) (b16 : Bool) (s : State) : Host.Outcome State Fault Refusal :=
  slotOp g s fun s => s.modCt fun t => t.txClear b16

end Sys2Proof.Machine
end

