-- ==== Sys2Proof/Machine/Codes.lean ====
section
/-! DEFINITION. Codes on stored state: what each slot operation and each unit at work reads, and what a correctable or
uncorrectable error does (19 R348, R349). -/
namespace Sys2Proof.Machine

/-- Index of a register's code: file of 18 Table 18-4 code 0x03, then number. -/
def regIdx {k : Nat} (file : Nat) (n : BitVec k) : Nat := file * 256 + n.toNat

/-- Registers that an operation reads at issue, besides its guard. -/
def regReads : Instr → List Nat
  | .prepr _ _ sa | .ftload _ sa _ | .wrsys _ sa _ => [regIdx 0 sa]
  | .br _ st | .brn _ st => [regIdx 2 st, regIdx 3 st]
  | .jmp _ st => [regIdx 3 st]
  | .loop _ l (.reg sc) _ => [regIdx 0 sc, regIdx 7 l]
  | .loop _ l (.imm _) _ | .lper _ l _ | .lbrk _ l => [regIdx 7 l]
  | .rdsys _ _ i =>
    if 0x10 ≤ i.toNat ∧ i.toNat < 0x20 then [7 * 256 + (i.toNat - 0x10) / 4]
    else if 0x20 ≤ i.toNat ∧ i.toNat < 0x2C then [2 * 256 + (i.toNat - 0x20), 3 * 256 + (i.toNat - 0x20)]
    else []
  | .rdv _ _ (.level _ sv) => [regIdx 0 sv]
  | .acopyIn _ _ a b c | .acopyOut _ _ a b c => [regIdx 0 a, regIdx 0 b, regIdx 0 c]
  | .farxSend _ _ sd | .farxRecv _ _ sd | .farmSum _ _ sd | .farmGather _ _ sd | .farmBcast _ _ sd => [regIdx 0 sd]
  | .add _ _ a b | .sub _ _ a b | .mul _ _ a b | .mulh _ _ a b | .mulhn _ _ a b | .divs _ _ a b | .divn _ _ a b
  | .rems _ _ a b | .remn _ _ a b | .and _ _ a b | .or _ _ a b | .xor _ _ a b | .andn _ _ a b | .shl _ _ a b | .shr _ _ a b
  | .sra _ _ a b | .rotl _ _ a b | .min _ _ a b | .max _ _ a b | .minn _ _ a b | .maxn _ _ a b | .blkref _ _ a b
  | .cmp _ _ _ a b | .scmp _ _ _ a b => [regIdx 0 a, regIdx 0 b]
  | .sel _ _ a b _ k => [regIdx 0 a, regIdx 0 b, regIdx 1 k]
  | .clz _ _ a | .ctz _ _ a | .popc _ _ a | .mov _ _ a | .blkx _ _ a | .blkalloc _ _ a | .blkfree _ _ a
  | .sext _ _ a _ | .zext _ _ a _ | .shli _ _ a _ | .shri _ _ a _ | .srai _ _ a _
  | .addi _ _ a _ | .andi _ _ a _ | .ori _ _ a _ | .xori _ _ a _ | .cmpi _ _ _ a _ | .scmpi _ _ _ a _ => [regIdx 0 a]
  | .ins16 _ sd _ _ => [regIdx 0 sd]
  | .pand _ _ a b _ _ | .por _ _ a b _ _ | .pxor _ _ a b _ _ | .pandn _ _ a b _ _ => [regIdx 1 a, regIdx 1 b]
  | .ldV _ _ base _ _ q | .ldbV _ _ base _ _ q => [regIdx 0 base, regIdx 5 q]
  | .stV _ vs base _ _ q => [regIdx 4 vs, regIdx 0 base, regIdx 5 q]
  | .ldS _ _ base _ _ | .ldQ _ _ base _ _ => [regIdx 0 base]
  | .stS _ ss base _ _ => [regIdx 0 ss, regIdx 0 base]
  | .stQ _ qs base _ _ => [regIdx 5 qs, regIdx 0 base]
  | .ldgV _ _ vi base q _ => [regIdx 4 vi, regIdx 0 base, regIdx 5 q]
  | .stgV _ vs vi base q _ => [regIdx 4 vs, regIdx 4 vi, regIdx 0 base, regIdx 5 q]
  | .pushV _ vs dsc => [regIdx 4 vs, regIdx 0 dsc]
  | .pushl _ sl dsc => [regIdx 0 sl, regIdx 0 dsc]
  | .lcopy _ sd ss _ => [regIdx 0 sd, regIdx 0 ss]
  | .mldb _ _ _ _ sa _ _ | .mmul _ _ _ sa _ _ _ _ _ _ | .mmulTableMode _ _ _ sa _ _ _ | .mld _ _ sa => [regIdx 0 sa]
  | .mst _ as sa _ _ _ | .mstTableMode _ as sa _ => [regIdx 6 as, regIdx 0 sa]
  | .mmov _ _ as => [regIdx 6 as]
  | .macc _ ad as _ => [regIdx 6 ad, regIdx 6 as]
  | .mrowadd _ ad sa _ | .mscl _ ad sa => [regIdx 6 ad, regIdx 0 sa]
  | .xin _ vs => [regIdx 4 vs]
  | .acti _ _ sn => [regIdx 0 sn]
  | .stop _ sm _ => [regIdx 0 sm]
  | .rd _ _ sv _ => [regIdx 0 sv]
  | .rds _ sl sv _ | .wrs _ sl sv _ => [regIdx 0 sl, regIdx 0 sv]
  | .wr _ vs sv _ => [regIdx 4 vs, regIdx 0 sv]
  | .vadd _ _ _ a b q _ _ | .vsub _ _ _ a b q _ _ | .vmul _ _ _ a b q _ _ | .vmin _ _ _ a b q _ _ | .vmax _ _ _ a b q _ _
  | .vscale _ _ _ a b q _ _ | .viaddw _ _ _ a b q _ _ | .viaddsat _ _ _ a b q _ _ | .vtwosum _ _ _ a b q _
  | .vcmp _ _ _ _ a b q _ | .vicmp _ _ _ _ a b q _ | .viadd _ _ _ a b q _ | .visub _ _ _ a b q _ | .vimul _ _ _ a b q _
  | .vimulh _ _ _ a b q _ | .vishl _ _ _ a b q _ | .vishr _ _ _ a b q _ | .visra _ _ _ a b q _ | .vimin _ _ _ a b q _
  | .vimax _ _ _ a b q _ | .vand _ _ _ a b q | .vor _ _ _ a b q | .vxor _ _ _ a b q | .vperm _ _ a b q _ _
  | .vzip _ _ a b q _ _ | .vunzip _ _ a b q _ _ | .vdiv _ _ a b q => [regIdx 4 a, regIdx 4 b, regIdx 5 q]
  | .vfma _ _ d a b q _ _ | .vfms _ _ d a b q _ _ | .vfnma _ _ d a b q _ _ => [regIdx 4 d, regIdx 4 a, regIdx 4 b, regIdx 5 q]
  | .vsel _ _ _ a b q qs => [regIdx 4 a, regIdx 4 b, regIdx 5 q, regIdx 5 qs]
  | .vabs _ _ _ a q _ | .vneg _ _ _ a q _ | .vclass _ _ _ a q _ | .vpopc _ _ _ a q _ | .vclz _ _ _ a q _
  | .viabs _ _ _ a q _ _ | .vcvt _ _ _ a q _ _ _ | .vnot _ _ _ a q | .vmov _ _ _ a q | .vrev _ _ a q _
  | .vscan _ _ a q _ _ _ | .vred _ _ a q _ _ | .vrcp _ _ a q | .vrsq _ _ a q | .vsqrt _ _ a q | .vexp2 _ _ a q
  | .vlog2 _ _ a q => [regIdx 4 a, regIdx 5 q]
  | .vlsh _ _ a sn q _ _ => [regIdx 4 a, regIdx 0 sn, regIdx 5 q]
  | .vmovi _ _ _ q _ _ => [regIdx 5 q]
  | .vbcast _ _ _ sn q _ | .vins _ _ _ sn q _ _ => [regIdx 0 sn, regIdx 5 q]
  | .vext _ _ _ a _ _ _ => [regIdx 4 a]
  | .vqand _ _ _ a b | .vqor _ _ _ a b | .vqxor _ _ _ a b => [regIdx 5 a, regIdx 5 b]
  | .vqnot _ _ _ a | .vqcnt _ _ _ a => [regIdx 5 a]
  | _ => []

/-- Places of n bytes from an address that is within the scratchpad: whole lines, or the 64-bit words. -/
def spPlaces (h : Bool) (a : Int) (n : Nat) : List Place :=
  if a < 0 ∨ (Config.spEnd : Int) < a + n then []
  else if n % 256 = 0 then (List.range (n / 256)).map fun i => (2, physLine h (a.toNat + 256 * i), none)
  else (List.range ((n + 7) / 8)).map fun i =>
    let b := a.toNat + 8 * i
    (2, physLine h b, some (b % 256 / 8))
/-- Places of chunk k of a block operation, with its scale's word. -/
def chunkPlaces (h : Bool) (base : Nat) (ty : Ty) (n k : Nat) (scaled : Bool) : List Place :=
  spPlaces h (base + k * blockSize ty) (blockSize ty) ++
    if scaled then spPlaces h (base + n * blockSize ty + k) 1 else []
/-- Places of the column of the transposer's drain slot that is taken next. -/
def Tx.places (x : Tx) : List Place :=
  (List.range x.size).map fun i => (2, 8208 + x.drain.toNat, some (32 * i + (x.slotAt x.drain).taken * x.elem / 64))
/-- Places of the scratchpad, and of the slots beyond it, that an operation reads at issue. -/
def State.lineReads (s : State) (i : Instr) : List Place :=
  let h := s.ct.h
  let lm (base : BitVec 5) (off : BitVec 12) (pi : Bool) (n : Nat) : List Place := spPlaces h (s.lmEA base off pi) n
  let at_ (r : BitVec 6) (n : Nat) : List Place := spPlaces h (s.sv r).toNat n
  let mm (x : BitVec 1) (sa : BitVec 6) (n : BitVec 4) (ty : Ty) (sc : Bool) : List Place :=
    chunkPlaces h (s.sv sa).toNat ty (n.toNat + 1) 0 sc ++ [(2, 8192 + 8 * x.toNat, none)]
  match i with
  | .ldV _ _ base off pi _ => lm base off pi 256
  | .ldbV _ _ base off pi _ => lm base off pi 4
  | .ldS _ _ base off pi => lm base off pi 8
  | .ldQ _ _ base off pi => lm base off pi 32
  | .ldgV _ _ vi base q ty =>
    let b := s.ct.regs.sAt base.toNat
    ((List.range (lanes ty.width)).flatMap fun k =>
      if k < 64 ∧ laneOn (s.qv q) ty.width k then spPlaces h (gatherAddr b (s.vv vi) (ty.width / 8) k).toNat 1 else []).eraseDups
  | .pushl _ sl _ => at_ sl 256
  | .lcopy _ _ ss _ => at_ ss 256
  | .ftload _ sa _ => at_ sa 256
  | .farxSend _ _ sd | .farxRecv _ _ sd | .farmSum _ _ sd | .farmGather _ _ sd | .farmBcast _ _ sd => at_ sd 256
  | .mldb _ ty _ _ sa n sb => chunkPlaces h (s.sv sa).toNat ty (n.toNat + 1) 0 sb
  | .mmul _ _ x sa n _ aty _ scA _ => mm x sa n aty scA
  | .mmulTableMode _ _ x sa n _ l => match s.ct.ftUse l with | some r => mm x sa n r.afmt r.scA | none => []
  | .mld _ _ sa => at_ sa 4096
  | .mrowadd _ _ sa _ => at_ sa 256
  | .xout _ _ => s.ct.tx.places
  | .wrs _ sl _ _ => at_ sl 256
  | _ => []
/-- Bytes of block-table memory, and 65,536 for BTST, that an operation reads (06 R144-R146). -/
def State.blkReads (s : State) (i : Instr) : List Nat :=
  let m := s.ct.blk.mem
  let key (sa : BitVec 6) : List Nat :=
    4 * bits (s.sv sa) 41 32 ::
      match keyIndex m (s.sv sa) with
      | some x => [listAddr x] ++ if m.blkList x = 0xFFFF then [] else [wordAddr (m.blkList x % 2 ^ 14)]
      | none => []
  match i with
  | .blkx _ _ sa => key sa
  | .blkalloc _ _ sa => key sa ++ [wordAddr s.ct.blk.head, 65536]
  | .blkfree _ _ sa => key sa ++ [65536]
  | .blkref _ _ sa sb => key sa ++ [wordAddr (bits (s.sv sb) 45 32)]
  | .rdsys _ _ i => if i.toNat = 0x90 then [65536] else []
  | _ => []
/-- Snapshot slots that an operation reads (04 Table 4-5: SNAP0, SNAP1). -/
def snapReads : Instr → List Nat
  | .rdsys _ _ i => if 0x100 ≤ i.toNat ∧ i.toNat < 0x200 then [(i.toNat - 0x100) / 0x80] else []
  | _ => []
/-- The registers of the carry set that a `commit` reads: s1 to s16 and the loop counters (02 R45). -/
def carryReads : Instr → List Nat
  | .commit _ _ _ => (List.range 16).map (· + 1) ++ (List.range 4).map (7 * 256 + ·)
  | _ => []
/-- What a slot operation reads. -/
def State.reads (s : State) (g : Guard) (i : Instr) : List Place :=
  (1, regIdx 1 g.p, none) ::
    if s.guard g then
      (regReads i ++ carryReads i).map (fun n => (1, n, none)) ++ s.lineReads i ++ (s.blkReads i).map (fun n => (3, n, none)) ++
        (snapReads i).map fun n => (6, n, none)
    else []
/-- Slot code of a slot (17 Table 17-3). -/
def slotCode : Slot → Nat
  | .S => scS | .VA => scVA | .VB => scVB | .M => scM | .C => scC | .L => scL | .X => scX | .DR => scDR | .DC => scDC

/-- One enabled slot: an operation that reads an uncorrectable place writes nothing and asks for a cancel; else correctable
places are counted, and the operation runs. A `commit` that cannot read its guard or a word of the carry set is not missing
(notes/assumptions/21.md). -/
def State.runSlot (ex : Instr → State → Host.Outcome State Fault Refusal) (sl : Slot) (ftl : BitVec 2) (w : SlotWord) (s : State) :
    Host.Outcome State Fault Refusal :=
  match decodeSlot sl ftl w with
  | .error e => .refused (.undecodable e.code)
  | .ok i =>
    if s.ct.own.errs.isEmpty then ex i s
    else
      let es := ((s.reads (guardOf w) i).flatMap s.ct.codesAt).eraseDups
      match es.find? (·.fatal) with
      | some e =>
        let m : Meet := match i with | .commit _ _ _ => .suppressed | _ => s.ct.meet
        .next ((s.modCt fun t => { (t.sram 0 1) with meet := m }).note s.cur.coach s.cur.tile (slotCode sl) s.cur.src.addr (codeFail e))
      | none => ex i (s.modCt fun t => t.sram es.length 0)

/-! ## The units at work (08 R196, 09 R212, R222) -/

/-- What the units read in frame cycle f, by the slot code of their instruction. -/
def Tile.unitReads (t : Tile) (f : Nat) : List (Nat × Place) :=
  (match t.lcopy with
    | some o => if o.c < f ∧ f < o.c + o.n then (spPlaces o.h (o.src + 256 * (f - o.c)) 256).map fun l => (scL, l) else []
    | none => []) ++
  (match t.mtx.mldb with
    | some o =>
      if o.c < f ∧ f < o.c + o.n then (chunkPlaces o.h o.base o.ty o.n (f - o.c) o.scaled).map fun l => (scM, l) else []
    | none => []) ++
  t.mtx.mmuls.flatMap fun o =>
    let k := o.chunks.length
    if o.dead then [] else
    (if 1 ≤ k ∧ k < o.n ∧ o.readAt k = f then
      (chunkPlaces o.h o.base o.aty o.n k o.scA ++ [(2, 8192 + (o.g0 + k) % 16, none)]).map fun l => (scM, l) else []) ++
    if f = o.c + 12 then [(scM, 1, 6 * 256 + o.ad, none)] else []
/-- Errors that the units meet. -/
def Tile.unitErrs (t : Tile) (f : Nat) : List (Nat × StoreErr) :=
  if t.own.errs.isEmpty then [] else
  (t.unitReads f).flatMap fun x => (t.codesAt x.2).map fun e => (x.1, e)
/-- Do the units of a slot meet an uncorrectable error? They then deliver nothing of that cycle. -/
def Tile.unitLost (t : Tile) (f sc : Nat) : Bool := (t.unitErrs f).any fun x => x.1 == sc && x.2.fatal

end Sys2Proof.Machine
end

