-- ==== Sys2Proof/Machine/Cycle.lean ====
section
/-! DEFINITION. One frame cycle around the bundles: results that become visible and collisions (02 R41, 11 R250, 18 R338),
the units at work (08 R196, 09 R212, R222), refresh deadlines (18 R347), and what the tiles ask of the launch together:
commit, rendezvous, relay (02 R44-R46, R55, R60, 17 R332, 20 R366). -/
namespace Sys2Proof.Machine

/-! ## Results become visible -/

/-- The unit a write goes to: file and number of 18 Table 18-4 code 0x03; 10 stands for a physical line; none for writes
that cannot collide. -/
def Write.unit : Write → Option (Nat × Nat)
  | .s r _ => some (0, r)
  | .p r _ => some (1, r)
  | .stCond r _ => some (2, r)
  | .stTgt r _ _ => some (3, r)
  | .v r _ _ => some (4, r)
  | .q r _ _ => some (5, r)
  | .acc r _ => some (6, r)
  | .line l _ _ _ => some (10, l)
  | _ => none
/-- Writer kind of a line write. -/
def Write.kind : Write → Nat
  | .line _ _ _ k => k
  | _ => 0
/-- Order of the writers in a collision's record: earlier issue, then lower slot code (18 R338). -/
def Pend.older (a b : Pend) : Bool := decide (a.src.issued * 16 + a.src.slot ≤ b.src.issued * 16 + b.src.slot)
/-- Units that two or more of the writes reach, each once. -/
def hitUnits (ps : List Pend) : List (Nat × Nat) :=
  ((ps.filterMap fun p => p.w.unit).filter fun u => decide ((ps.filter fun q => q.w.unit == some u).length ≥ 2)).eraseDups
/-- The record of a collision (18 Table 18-4 codes 0x03, 0x04). -/
def unitHit (ps : List Pend) (u : Nat × Nat) : Fail :=
  let ws := sortBy Pend.older (ps.filter fun p => p.w.unit == some u)
  let a (i : Nat) : Nat := match ws[i]? with | some p => p.src.addr | none => 0
  let k (i : Nat) : Nat := match ws[i]? with | some p => p.w.kind | none => 0
  if u.1 = 10 then ⟨0x2, 0x04, 0x03, w64 u.2, w64 (ws.length * 2 ^ 56 + k 1 * 2 ^ 8 + k 0)⟩
  else ⟨0x2, 0x03, 0x03, w64 (u.1 * 2 ^ 8 + u.2), w64 (ws.length * 2 ^ 56 + a 1 * 2 ^ 32 + a 0)⟩

/-- The `mmul` into whose window a write to its accumulator falls in cycle f (09 R223): c + 13 to c + latency - 1. -/
def MatrixSt.windowOf (m : MatrixSt) (f : Nat) (w : Write) : Option MmulOp :=
  match w with
  | .acc r _ => m.mmuls.find? fun o => o.ad == r && !o.dead && decide (o.c + 13 ≤ f ∧ f < o.c + o.lat)
  | _ => none

/-- Applies a register or memory write. -/
def Tile.apply (t : Tile) (p : Pend) : Tile :=
  let r := t.regs
  match p.w with
  | .s n x => { t with regs := { r with s := r.s.setIfInBounds n x } }
  | .p n b => { t with regs := { r with p := r.p.setIfInBounds n b } }
  | .stCond n b => { t with regs := { r with st := r.st.setIfInBounds n { r.stAt n with cond := b } } }
  | .stTgt n a c => { t with regs := { r with st := r.st.setIfInBounds n { r.stAt n with target := a, fillAt := some c } } }
  | .v n m x => { t with regs := { r with v := r.v.setIfInBounds n (blend m (r.vAt n) x) } }
  | .q n m x => { t with regs := { r with q := r.q.setIfInBounds n ((x &&& m) ||| (r.qAt n &&& ~~~m)) } }
  | .acc n x => { t with regs := { r with a := r.a.setIfInBounds n x } }
  | .line l m x _ => { t with sp := t.sp.putVec (256 * l) m x 0 256 }
  | .chunk g x => { t with mtx := { t.mtx with bs := t.mtx.bs.setIfInBounds g (some x) } }
  | .lper n per => t.modLoop n fun l => { l with period := per }
  | .ft m rows => { t with
      ft := Vector.ofFn fun i => if m.getLsbD i.val then rows.getD i.val 0#32 else t.ft.getD i.val 0#32, ftmask := m }
  | .fclr fs => { t with flags := t.flags.clear fs }
  | .sys i x => { t with flags := if i = 12 then t.flags.ferW1c x else t.flags.w1c (i - 7) x }
  | .flags _ _ => t
/-- Are the 8 bytes of word w of a line, or the 64 bits of word w of a predicate, all under a mask? -/
def wordOn (m : Mask) (w : Nat) : Bool := m.extractLsb' (8 * w) 8 == 0xFF#8
def qwordOn (m : Mask) (w : Nat) : Bool := m.extractLsb' (64 * w) 64 == BitVec.allOnes 64
/-- Does a write make the code of an error's word anew? A word that it covers in part keeps its error, whose other bytes stand
(notes/assumptions/48.md). -/
def Write.covers (w : Write) (e : StoreErr) : Bool :=
  match w with
  | .s n _ => e.store == 1 && e.idx == n
  | .p n _ => e.store == 1 && e.idx == 256 + n
  | .stCond n _ => e.store == 1 && e.idx == 2 * 256 + n
  | .stTgt n _ _ => e.store == 1 && e.idx == 3 * 256 + n
  | .v n m _ => e.store == 1 && e.idx == 4 * 256 + n && wordOn m e.word
  | .q n m _ => e.store == 1 && e.idx == 5 * 256 + n && qwordOn m e.word
  | .acc n _ => e.store == 1 && e.idx == 6 * 256 + n
  | .line l m _ _ => e.store == 2 && e.idx == l && wordOn m e.word
  | .chunk g _ => e.store == 2 && e.idx == 8192 + g
  | _ => false
/-- Applies a write, with the codes of its words. -/
def Tile.write (t : Tile) (p : Pend) : Tile :=
  if t.own.errs.isEmpty then t.apply p else (t.apply p).recode p.w.covers
/-- Raises the flags of a pending write. -/
def Tile.applyFlags (t : Tile) (p : Pend) : Tile :=
  match p.w with
  | .flags set f => { t with flags := t.flags.raise set f p.src.addr }
  | _ => t
/-- Rank of a flag event among those of one cycle: slot code, then its lowest flag bit (03 R89). -/
def Pend.flagRank (p : Pend) : Nat :=
  8 * p.src.slot + match p.w with | .flags _ f => lowBit f 6 | _ => 0
/-- Order in which flag events of one cycle are seen; of two with one bit the earlier issued comes first
(notes/assumptions/44.md). -/
def Pend.flagOrder (a b : Pend) : Bool := decide (a.flagRank ≤ b.flagRank)

/-- The result of an `mmul` whose chunks have all been read, with its flags. -/
def MmulOp.result (o : MmulOp) : List Pend :=
  let r := accAll o (o.acc0.getD Acc.reset) 0#6 o.chunks
  ⟨o.c + o.lat, o.src, .acc o.ad r.1⟩ :: if r.2 = 0#6 then [] else [⟨o.c + o.lat, o.src, .flags scM r.2⟩]
/-- What an `mmul` delivers as its latency ends: until its last chunk is read free values stand for the result, which depends on what is
read later (03 R93; notes/assumptions/19.md). -/
def MmulOp.results (o : MmulOp) (n : Nat) : List Pend :=
  if o.dead then []
  else if o.chunks.length < o.n then
    [⟨o.c + o.lat, o.src, .acc o.ad (Vector.ofFn fun i => Config.freeAcc (n * 1024 + i.val))⟩,
      ⟨o.c + o.lat, o.src, .flags scM (Config.freeFlags n)⟩]
  else o.result
/-- Does a chunk of an `mmul` that is read in cycle f fail there: its slot, or a code (09 R222, 19 R349)? -/
def Tile.opFails (t : Tile) (f : Nat) (o : MmulOp) : Bool :=
  let k := o.chunks.length
  !o.dead && ((t.unitLost f scM && (o.readAt k == f || f == o.c + 12)) ||
    (decide (1 ≤ k ∧ k < o.n) && o.readAt k == f && (o.slotBad t.mtx k).isSome))
/-- Does a write change an accumulator, or flags? -/
def Write.undoable : Write → Bool
  | .acc _ _ | .flags _ _ | .fclr _ | .sys _ _ => true
  | _ => false
/-- Has the result of an `mmul` fallen due by cycle f with chunks still to read? -/
def MmulOp.early (o : MmulOp) (f : Nat) : Bool := !o.dead && decide (o.c + o.lat ≤ f ∧ o.chunks.length < o.n)
/-- The writes of cycle f to accumulators and flags, kept from the first result on that falls due before its last chunk is read. -/
def Tile.keepUndo (t : Tile) (f : Nat) (ps : List Pend) : Option (Vector Acc 8 × FlagState × List (List Pend)) :=
  let mine := ps.filter fun p => p.w.undoable
  match t.mtx.undo with
  | some (a, fl, gs) => some (a, fl, gs ++ [mine])
  | none => if t.mtx.mmuls.any fun o => o.early f then some (t.regs.a, t.flags, [mine]) else none
/-- The writes of one cycle to accumulators and flags, again. -/
def Tile.replayWrites (t : Tile) (ps : List Pend) : Tile := (sortBy Pend.flagOrder ps).foldl Tile.applyFlags (ps.foldl Tile.apply t)
/-- The free values that stood for the result of an `mmul` give way to its result, or to none where it has failed at a later chunk (09
R222): accumulators and flags are as if that had fallen due in their place. -/
def Tile.resolve (t : Tile) (o : MmulOp) (ps : List Pend) : Tile :=
  match t.mtx.undo with
  | none => t
  | some (a, fl, gs) =>
    let gs := gs.map fun g => if g.any fun p => p.src == o.src then g.filter (fun p => p.src != o.src) ++ ps else g
    let t := { t with regs := { t.regs with a := a }, flags := fl, mtx := { t.mtx with undo := some (a, fl, gs) } }
    gs.foldl Tile.replayWrites t
/-- The `mmul`s whose last chunk is read in cycle f, past their latency, take their results; where none is left whose result has fallen
due early nothing is kept any more. -/
def Tile.settleUndo (t : Tile) (f : Nat) : Tile :=
  if t.mtx.undo.isNone then t
  else
    let t := (t.mtx.mmuls.filter fun o => !o.dead && decide (o.c + o.lat ≤ f) && o.chunks.length == o.n && o.lastRead == f).foldl
      (fun t o => t.resolve o o.result) t
    if t.mtx.mmuls.any fun o => o.early f then t else { t with mtx := { t.mtx with undo := none } }

/-- The units work one cycle: line copy, `mldb` blocks, `mmul` chunks and accumulator reads. -/
def Tile.units (t : Tile) (f : Nat) : Tile :=
  let t : Tile := match t.lcopy with
    | none => t
    | some o =>
      if f ≤ o.c ∨ o.c + o.n ≤ f ∨ t.unitLost f scL then t
      else
        let k := f - o.c
        { t with pend := t.pend ++ [⟨f + 1, o.by_, .line (physLine o.h (o.dst + 256 * k)) allOn
          (t.sp.vec (256 * physLine o.h (o.src + 256 * k))) 3⟩] }
  let t : Tile := match t.mtx.mldb with
    | none => t
    | some o =>
      let k := f - o.c
      if f ≤ o.c ∨ o.c + o.n ≤ f ∨ t.unitLost f scM then t
      else { t with pend := t.pend ++ [⟨f + 4, o.src, .chunk ((o.g0 + k) % 16) (t.mldbChunk o k)⟩] }
  { t with mtx := { t.mtx with mmuls := t.mtx.mmuls.map fun o =>
      let k := o.chunks.length
      let o := if t.opFails f o then { o with dead := true }
        else if !o.dead && decide (1 ≤ k ∧ k < o.n) && o.readAt k == f then { o with chunks := o.chunks ++ [t.mmulChunk o k] }
        else o
      if f = o.c + 12 then { o with acc0 := some (t.regs.aAt o.ad) } else o } }
/-- Slot checks that fail at a later chunk in this cycle (18 Table 18-1). -/
def Tile.chunkFails (t : Tile) (f : Nat) : List (MmulOp × Fail) :=
  t.mtx.mmuls.filterMap fun o =>
    let k := o.chunks.length
    if !o.dead && decide (1 ≤ k ∧ k < o.n) && o.readAt k == f then (o.slotBad t.mtx k).map fun e => (o, slotFail e) else none

/-- Takes the carry snapshot of a commit at f - 1, as a reader issuing at f sees it (02 R45, 04 R108). -/
def Tile.snapCarry (t : Tile) (f : Nat) : Tile :=
  let take (n : Snap) : Snap :=
    if n.frc = f ∧ n.valid then
      { n with s := Vector.ofFn fun i => t.regs.sAt (i.val + 1), ft := t.ft, ftmask := t.ftmask, acq := t.acq }
    else n
  if t.seq.lastCommit = some (f - 1) ∧ f ≠ 0 then { t with snaps := t.snaps.map take, nextSnap := t.nextSnap.map take } else t

/-- Stream address of the earliest-issued of the writers of a unit. -/
def unitAddr (ps : List Pend) (u : Nat × Nat) : Nat :=
  match sortBy Pend.older (ps.filter fun p => p.w.unit == some u) with
  | p :: _ => p.src.addr
  | [] => 0

/-- All that becomes visible on a tile in frame cycle f; its records, each with its slot and stream address. -/
def Tile.landing (t : Tile) (f draw : Nat) : Tile × List (Nat × Nat × Fail) :=
  let due := (t.pend.filter fun p => decide (p.at_ ≤ f)) ++
    (t.mtx.mmuls.filter fun o => o.c + o.lat == f).flatMap (·.results draw)
  let hits := hitUnits due
  let late := due.filter fun p => (t.mtx.windowOf f p.w).isSome && !(hits.any fun u => p.w.unit == some u)
  let good := due.filter fun p =>
    !(hits.any fun u => p.w.unit == some u) && (t.mtx.windowOf f p.w).isNone
  let undo := t.keepUndo f good
  let t := { t with
    pend := t.pend.filter fun p => decide (f < p.at_)
    mtx := { t.mtx with undo := undo, mmuls := t.mtx.mmuls.filter fun o => decide (f ≤ o.lastRead ∨ f < max (o.c + o.lat) (o.c + o.occ)) } }
  let t := good.foldl Tile.write t
  let t := (sortBy Pend.flagOrder good).foldl Tile.applyFlags t
  let t := (t.mtx.mmuls.filter (t.opFails f)).foldl (fun t o => t.resolve o []) t
  let bad := t.chunkFails f
  let errs := t.unitErrs f
  let lost := errs.filter (·.2.fatal)
  ((((t.units f).settleUndo f).snapCarry f).sram (errs.length - lost.length) lost.length,
    hits.map (fun u => (0, unitAddr due u, unitHit due u)) ++
    late.filterMap (fun p => (t.mtx.windowOf f p.w).map fun o =>
      (p.src.slot, p.src.addr, ⟨0x2, 0x07, 0x03, w64 o.ad, w64 o.c⟩)) ++
    bad.map (fun x => (scM, x.1.src.addr, x.2)) ++ lost.map fun x => (x.1, 0, codeFail x.2))

/-- Tiles on which results land: those of the launch, and those of the coach outside it that have some due (08 R199). -/
def State.landTiles (s : State) (c : Nat) : List Nat :=
  let l := (s.coach c).launch
  l.tiles ++ (List.range 384).filter fun t =>
    !(s.tile t).pend.isEmpty && (s.tile t).own.owner == some c && !l.tiles.contains t

/-- `.land c`: the results of frame cycle f on the tiles of the coach. -/
def State.land (s : State) (c : Nat) : State :=
  let l := (s.coach c).launch
  (s.landTiles c).foldl (fun s t =>
    let r := (s.tile t).landing l.frc s.draws
    let s := { s.setTile t r.1 with draws := s.draws + 1 }
    r.2.foldl (fun s x => s.note c t x.1 x.2.1 x.2.2) s) s

/-! ## Arrivals and timed events of the coach -/

/-- The coach whose domain launch takes the flits of a port: one that holds the port, else the first (08 R204). A launch that
finishes still does: its events are recorded up to its end (17 R327). -/
def State.portCoach (s : State) (p : Nat) : Option Nat :=
  let on := (List.range 16).filter fun c =>
    let l := (s.coach c).launch
    l.lrec.type == 2 && (match l.mode with | .idle | .starting => false | _ => true)
  match on.find? fun c => s.coachHasPort c p with
  | some c => some c
  | none => on.head?
/-- Events that fall at the start of a frame cycle: refreshes and windows that are over, flits injected (10 R230, R246,
08 R202). -/
def State.arrivals (s : State) (c : Nat) : List Instr :=
  let l := (s.coach c).launch
  let f := l.frc
  (l.tiles.flatMap fun t =>
    let v := (s.tile t).vault
    ((List.range 32).filterMap fun b =>
      match (v.bank b).st, (v.bank b).refb with
      | .refreshing, some x => if x + Config.tRFC ≤ f then some (Instr.bankRefreshDone t b) else none
      | _, _ => none) ++
    (match v.window with
      | some w => if w.c + w.len < f then [Instr.stopWindowEnd t] else []
      | none => [])) ++
  ((List.range 16).filterMap fun p =>
    let port := s.pkg.ports.getD p Port.reset
    if s.portCoach p == some c && (port.holding.any (fun x => x.inject.toNat == f % 2 ^ 32) || port.lost.any fun x => x.1 == f) then
      some (Instr.flitInject p) else none)
/-- Pushes that arrive in this frame cycle. -/
def State.pushArrivals (s : State) (c : Nat) : List Instr :=
  let f := (s.coach c).launch.frc
  ((s.coach c).pushes.filter fun p => p.arrival == f && p.leaves.isNone).map fun p => .pushArrival p.id
/-- Banks whose refresh deadline passes at the end of this frame cycle (18 R347); the grant of an ended tile is refreshed in wall
time while operations of the launch are outstanding (17 R328 step 4). -/
def State.missed (s : State) (c : Nat) : List Instr :=
  let l := (s.coach c).launch
  match l.mode with
  | .running => l.tiles.flatMap fun t =>
      let x := s.tile t
      if x.seq.ended ∧ !(s.coach c).ops.isEmpty then [] else
      (List.range x.vault.n).filterMap fun b =>
        if (x.vault.bank b).due + Config.interval x.vault.rfclass = l.frc ∧ Config.interval x.vault.rfclass ≠ 0
        then some (Instr.refreshDeadlineMiss t b) else none
  | _ => []

/-! ## Commit (02 R44-R46, 17 R332) -/

/-- Does a write go to a carry-set register (02 R46)? -/
def Write.carry : Write → Bool
  | .s r _ => decide (1 ≤ r ∧ r ≤ 16)
  | .lper _ _ => true
  | .ft _ _ => true
  | _ => false
/-- Latest cycle above f of the pending writes that satisfy p. -/
def Tile.pendAfter (t : Tile) (f : Nat) (p : Pend → Bool) : Option Nat := latestAbove f ((t.pend.filter p).map (·.at_))
/-- Breaches 0x03 to 0x07 of a tile committing at f: the code and the cycle the work would complete. -/
def Tile.commitBreach (t : Tile) (pushes : List Push) (f : Nat) : List (Nat × Nat) :=
  let one (code : Nat) (x : Option Nat) : List (Nat × Nat) := match x with | some n => [(code, n)] | none => []
  let mldb := match t.mtx.mldb with | some o => [o.c + o.n + 3] | none => []
  one 0x03 (t.pendAfter (f + 1) fun p => p.w.carry) ++
  one 0x04 (t.pendAfter f Pend.isRead) ++
  one 0x05 (latestAbove f (mldb ++ t.mtx.mmuls.map (fun o => max o.lastRead (o.c + o.lat)) ++
    (t.pend.filter fun p => p.src.slot == scM).map (·.at_))) ++
  one 0x06 (match t.vault.window with | some w => if f < w.c + w.len then some (w.c + w.len) else none | none => none) ++
  one 0x07 (latestAbove f (pushes.map (·.arrival)))

/-- Is a tile's bundle of this cycle a commit? -/
def Tile.commits (t : Tile) : Bool := match t.meet with | .commit _ _ => true | _ => false
/-- Does a code that failed keep a tile's `commit` of this cycle from acting? It is then not missing, since its phase is cancelled
(notes/assumptions/21.md). -/
def Tile.suppressed (t : Tile) : Bool := t.meet == .suppressed

/-- Phase-rule breaches of a commit of the launch at f (17 Table 17-6): one record for each rule. -/
def State.phaseBreaches (s : State) (c : Nat) : List Fail :=
  let l := (s.coach c).launch
  let f := l.frc
  let missing := l.tiles.filter fun t => !(s.tile t).commits && !(s.tile t).suppressed
  let who (t : Nat) : Word := w64 (l.lrec.index * 2 ^ 16 + t)
  let all := (l.tiles.filter fun t => (s.tile t).commits).flatMap fun t =>
    ((s.tile t).commitBreach ((s.coach c).pushes.filter fun p => p.ofTile t) f).map fun x => (x.1, x.2, t)
  (if f + 1 < l.phaseStart + Config.minPhase then
    [⟨0x4, 0x01, 0x09, w64 l.phaseStart, who (lowest (l.tiles.filter fun t => (s.tile t).commits))⟩] else []) ++
  (if missing.isEmpty then [] else [⟨0x4, 0x02, 0x09, w64 f, who (lowest missing)⟩]) ++
  ([0x03, 0x04, 0x05, 0x06, 0x07].filterMap fun code =>
    match all.find? (fun x => x.1 == code) with
    | some x => some ⟨0x4, code, 0x09, w64 x.2.1, who x.2.2⟩
    | none => none)

/-- A tile commits at f (02 R45): restart point, snapshot slot of the next phase (which waits while the slot holds an
unsettled phase, 04 R108), halves, lists in force, digest. The closed digest of the ending phase is returned. -/
def Tile.commitAt (t : Tile) (f next rl os : Nat) (wait : Bool) : Tile × BitVec 128 × Nat :=
  let n : Snap :=
    { valid := true, settled := false, phase := next, frc := f + 1, sb := t.seq.markSb, h := !t.h
      addr := t.seq.markPc, ftmask := t.ftmask, s := Vector.replicate 16 0#64, ft := t.ft, acq := t.acq
      l := t.regs.l, banks := t.vault.banks, rl := rl, os := os, trigs := t.trigs }
  ({ (if wait then t else t.recode fun e => e.store == 6 && e.idx == next % 2) with
      snaps := if wait then t.snaps else t.snaps.setIfInBounds (next % 2) n
      nextSnap := if wait then some n else t.nextSnap
      h := !t.h
      seq := { t.seq with lastCommit := some f, rl := rl, os := os }
      blk := { t.blk with ops := 0 }
      digD := 0#128, digW := 0 }, closeDigest t.digD t.digW, t.digW)

/-- Phase k begins, a first time or again (17 R334). -/
def Launch.begin (l : Launch) (k : Nat) : Launch :=
  { l with replays := if l.replays.any (fun x => x.1 == k) then setK l.replays k (getK 0 l.replays k + 1) else setK l.replays k 0 }

/-- The commit of the launch; in a domain package 0 hears of it (17 Table 17-6 code 0x4/0x02). -/
def State.commitLaunch (s : State) (c : Nat) : State :=
  let l := (s.coach c).launch
  let f := l.frc
  let wait := l.unsettled.any fun u => u.phase + 1 == l.phase
  let r : State × List (Nat × BitVec 128 × Nat) := l.tiles.foldl (fun a t =>
    let x := a.1.tile t
    match x.meet with
    | .commit rl os =>
      let y := x.commitAt f (l.phase + 1) rl os wait
      (a.1.setTile t y.1, a.2 ++ [(t, y.2.1, y.2.2)])
    | _ => a) (s, [])
  let s' := r.1.modLaunch c fun l => Launch.begin { l with
      unsettled := l.unsettled ++ [⟨l.phase, l.phaseStart, f, s.wall, r.2⟩], phaseStart := f + 1, phase := l.phase + 1 }
      (l.phase + 1)
  if l.lrec.type = 2 ∧ l.lrec.index ≠ 0 then s'.tell (l.report (.committed l.phase) f) else s'

/-- Stream address of the `commit` concerned: that of the tile that Detail 2 names, where that tile has one. -/
def Launch.meetAddr (l : Launch) (x : Fail) : Nat :=
  match l.saves.find? (fun p => p.1 == x.d2.toNat % 2 ^ 9) with
  | some p => if x.code = 0x02 then 0 else p.2.seq.pc
  | none => 0
/-- The bundles of this cycle that met at the launch on the tiles that satisfy `who` are suppressed: each tile stands as before its
bundle, no push of those bundles leaves, and what their slots had noted is void. -/
def State.undoMeets (s : State) (c : Nat) (who : Tile → Bool) : State :=
  let l := (s.coach c).launch
  let undone := l.saves.filter fun p => who (s.tile p.1)
  let s := undone.foldl (fun s p => s.setTile p.1 p.2) s
  let last := l.tiles.foldl (fun n t => max n (s.tile t).seq.minIssue) 0 - 1
  s.modCoach c fun k => { k with
    launch := { k.launch with
      lastIssued := last, meetFaults := l.meetFaults.filter fun r => !undone.any fun x => x.1 == r.tile }
    pushes := k.pushes.filter fun p => !(p.src.issued == l.frc && undone.any fun x => p.ofTile x.1) }

/-- Commit at the end of a frame cycle, if any tile issued one: where a rule is breached every `commit` bundle is suppressed; where a
tile could not read its own the phase does not commit, and is cancelled. -/
def State.meetCommit (s : State) (c : Nat) : State :=
  let l := (s.coach c).launch
  if l.tiles.any fun t => (s.tile t).commits then
    match s.phaseBreaches c with
    | [] => if l.tiles.all fun t => (s.tile t).commits then s.commitLaunch c else s
    | xs => xs.foldl (fun s x => s.note c noTile scC (l.meetAddr x) x) (s.undoMeets c Tile.commits)
  else s

/-! ## Rendezvous and relay (02 R55, R58, R60, 20 R366) -/

/-- The rendezvous of a tile's bundle. -/
def Tile.rdvOf (t : Tile) : Option (Nat × Option (Nat × Word)) := match t.meet with | .rdv id x => some (id, x) | _ => none
/-- Rendezvous at the end of a frame cycle: all tiles with one id pause the frame; else 0x8/0x02 or 0x8/0x03. -/
def State.meetRdv (s : State) (c : Nat) : State :=
  let l := (s.coach c).launch
  let ids := l.tiles.filterMap fun t => (s.tile t).rdvOf.map (·.1)
  match ids with
  | [] => s
  | i :: r =>
    let lo := r.foldl min i
    let hi := r.foldl max i
    let none_ := l.tiles.filter fun t => (s.tile t).rdvOf.isNone
    let bad : List Fail :=
      (if lo = hi then [] else [⟨0x8, 0x02, 0x01, w64 lo, w64 hi⟩]) ++
      (if none_.isEmpty then [] else [⟨0x8, 0x03, 0x01, w64 lo, w64 (l.lrec.index * 2 ^ 16 + lowest none_)⟩])
    match bad with
    | [] => s.modLaunch c fun l => { l with
        mode := .paused, rdvId := i, sinceWall := s.wall, closingDone := none, reported := []
        conds := l.tiles.filterMap fun t => match (s.tile t).rdvOf with
          | some (_, some (tl, n)) => some (t, tl, n)
          | _ => none }
    | xs => xs.foldl (fun s x => s.note c noTile scC 0 x) (s.undoMeets c fun t => t.rdvOf.isSome)
/-- Relay at the end of a frame cycle. -/
def State.meetRelay (s : State) (c : Nat) : State :=
  if (s.coach c).launch.tiles.any fun t => (s.tile t).meet == .relay then
    s.modLaunch c fun l => { l with
      mode := .relaying false, sinceWall := s.wall, closingDone := none, reported := [], relayStep := 0, relayWall := 0 }
  else s

/-- Ports a coach holds. -/
def State.portsOf (s : State) (c : Nat) : List Nat := (List.range 16).filter fun p => s.coachHasPort c p

/-- A coach whose launch meets, through a layer that another coach has found failed, a tile marked failed stops too, under the
same class and code; the failure itself is reported once (19 R351, R352). -/
def State.layerStops (s : State) (c stack : Nat) : State :=
  (List.range 16).foldl (fun s d =>
    let l := (s.coach d).launch
    if d = c ∨ !(l.tiles.any fun t => stackOf t == stack) then s
    else
      let r := s.record d noTile 0 l.frc 0 ⟨0x6, 0x08, 0x07, 0#64, BitVec.ofNat 64 stack⟩
      match l.mode with
      | .idle | .finishing | .held => s
      | .starting => (s.announce d r).stopLaunch d r
      | _ => (s.announce d r).modLaunch d fun l => { l with mode := .held, hold := some r, sinceWall := s.wall }) s
/-- The vertical groups that failed in this cycle: their events, and a record 0x6/0x08 where a layer has now failed
(19 R352). -/
def State.layerFaults (s : State) (c : Nat) (rs : List Record) : State × List Record :=
  (rs.filter fun r => r.cls == 0x6 && r.code == 0x07).foldl (fun x r =>
    let pb := r.d2.toNat
    let y := x.1.groupLost r.tile pb
    if y.2 then (y.1.layerStops c (stackOf r.tile), x.2 ++ [s.record c r.tile r.slot r.frame r.addr
      ⟨0x6, 0x08, 0x07, BitVec.ofNat 64 (pb / 8), BitVec.ofNat 64 (stackOf r.tile)⟩]) else (y.1, x.2)) (s, [])
/-- A vertical group that a read outside the timetable's has found failed at bank pb of tile t, for coach c: a layer that fails with it
stops the other coaches that hold tiles of the stack (19 R351, R352). -/
def State.groupFound (s : State) (c t pb : Nat) : State :=
  let y := s.groupLost t pb
  if y.2 then y.1.layerStops c (stackOf t) else y.1
/-- Faults are taken, after what the failure of a vertical group does at once (19 R352). -/
def State.takeAll (s : State) (c : Nat) (rs : List Record) : State :=
  let (s, more) := s.layerFaults c rs
  s.takeFaults c (s.portsOf c) (rs ++ more)
/-- Reads of a tile of a coach other than the timetable's have shown vertical groups as failed (19 R352). -/
def State.groupsDown (s : State) (c t : Nat) (lost : List Nat) : State :=
  let f := (s.coach c).launch.frc
  s.takeAll c (lost.map fun pb => s.record c t 0 f 0 ⟨0x6, 0x07, 0x07, BitVec.ofNat 64 (pb % 8), BitVec.ofNat 64 pb⟩)
/-- `.endCycle c`: what the tiles asked of the launch, the fetchers, then every fault of the cycle is taken, and the mirrors follow. A pause does
not begin in a cycle whose faults stop the launch (18 R343). A domain's rendezvous keeps its tiles as they stood before it,
since package 0 may yet find a mismatch between packages (20 R366). -/
def State.endCycle (s : State) (c : Nat) : State :=
  let tiles := (s.coach c).launch.tiles
  let s := s.meetCommit c
  let s := if (s.coach c).faults.isEmpty ∧ (s.coach c).launch.meetFaults.isEmpty then (s.meetRdv c).meetRelay c else s.meetRdv c
  let s := s.modTiles (fun t => { t.fetch with meet := .none }) tiles
  let rs := (s.coach c).faults ++ (s.coach c).launch.meetFaults
  let s := s.modCoach c fun k => { k with
    faults := [], launch := { k.launch with
      meetFaults := []
      saves := if k.launch.mode = .paused ∧ k.launch.lrec.type = 2 then k.launch.saves else [] } }
  (s.takeAll c rs).syncMirrors c

end Sys2Proof.Machine
end

