-- ==== Sys2Proof/Machine/Repair.lean ====
section
/-! DEFINITION. Sparing of rows, retirement of banks and tiles, migration, and the tiles of a coach (01 R25, R31, 04 R96, R103,
R104, 13 R288, R290, R291, 19 R351, R352, R357). -/
namespace Sys2Proof.Machine

/-- Physical row of the next free spare of a bank (19 Table 19-3): 8,192 onwards, 64 of them. -/
def Life.nextSpare (l : Life) (pb : Nat) : Option Nat :=
  let n := l.spares.getD pb 0
  if n < 64 then some (8192 + n) else none
/-- Copies the 16 columns of a physical row of a bank. -/
def VaultSt.copyRow (v : VaultSt) (pb src dst : Nat) : VaultSt :=
  { v with cells := (List.range 16).foldl (fun m c =>
      m.putVec (cellAddr pb dst c) allOn (v.cells.vec (cellAddr pb src c)) 0 256) v.cells }
/-- Translation entry of rows lo to hi of one bank: the base, then the limit (04 Tables 4-3, 4-4). -/
def entryA (pb lo hi : Nat) : Word := BitVec.ofNat 64 (2 ^ 63 + lo * 2 ^ 45 + hi * 2 ^ 32 + 2 ^ pb)
def entryB (off : Int) : Word := BitVec.ofNat 64 (off % 16384).toNat
/-- The table with a new entry in front; none where its last entry is in use. -/
def VaultSt.addEntry (v : VaultSt) (a b : Word) : Option VaultSt :=
  if (v.vttA.getD 15 0#64).getLsbD 63 then none
  else some { v with
    vttA := Vector.ofFn fun i => if i.val = 0 then a else v.vttA.getD (i.val - 1) 0#64
    vttB := Vector.ofFn fun i => if i.val = 0 then b else v.vttB.getD (i.val - 1) 0#64 }
/-- The rows of an entry of bank pb alone, widened by a row next to them that goes by the same offset. -/
def widened (a b : Word) (pb row : Nat) (off : Word) : Option Word :=
  let lo := bits a 57 45
  let hi := bits a 44 32
  if !a.getLsbD 63 ∨ bits a 31 0 ≠ 2 ^ pb ∨ bits b 13 0 ≠ bits off 13 0 then none
  else if row = hi + 1 then some (entryA pb lo row)
  else if row + 1 = lo then some (entryA pb row hi)
  else none
/-- The table with a row translated by an offset: an entry is widened where one takes the row and none before it has the row,
else one is added (19 Table 19-3; which of the two is the model's choice, notes/assumptions/22.md). -/
def VaultSt.translateRow (v : VaultSt) (pb row : Nat) (off : Word) : Option VaultSt :=
  let fit (e : Nat) : Option (Nat × Word) :=
    if (List.range e).any fun j => vttHit (v.vttA.getD j 0#64) pb row then none
    else (widened (v.vttA.getD e 0#64) (v.vttB.getD e 0#64) pb row off).map fun a => (e, a)
  match (List.range 16).findSome? fit with
  | some (e, a) => some { v with vttA := v.vttA.setIfInBounds e a }
  | none => v.addEntry (entryA pb row row) off

/-- Is an offset one that an entry can hold (04 Table 4-4)? -/
def offsetOk (off : Int) : Bool := decide (-8192 ≤ off ∧ off ≤ 8191)
/-- The reads of the 16 columns of a row of a physical bank, where a logical bank is mapped to it. -/
def Tile.rowReads (t : Tile) (pb row : Nat) : Reading :=
  match (List.range t.vault.n).find? fun b => t.vault.pbank b == pb with
  | some b => (List.range 16).foldl (fun x c => (x.read ⟨b, row, c⟩).1) (⟨t, true, []⟩ : Reading)
  | none => ⟨t, true, []⟩
/-- Spares one row of a tile, or makes its bank's retirement pending with the record 0x6/0x0A: no spare row is free, or no
translation entry can be formed. The columns are read corrected, each read counted, and written with new codes; one whose code
fails keeps its error. -/
def State.spareRow (s : State) (c t : Nat) (p : Nat × Nat) : State :=
  let x := s.tile t
  let pr := x.vault.prow p.1 p.2
  let fail : State :=
    (s.modTile t fun x => { x with own := { x.own with bad := x.own.bad ||| (1#32 <<< p.1) } }).log c
      (s.record c t 0 0 0 ⟨0x6, 0x0A, 0x07, BitVec.ofNat 64 p.1, BitVec.ofNat 64 pr⟩)
  match x.own.life.nextSpare p.1 with
  | none => fail
  | some dst =>
    let off : Int := (dst : Int) - p.2
    match (if offsetOk off then (x.vault.copyRow p.1 pr dst).translateRow p.1 p.2 (entryB off) else none) with
    | none => fail
    | some v =>
      let read := x.rowReads p.1 p.2
      let x := read.tile
      ((s.setTile t { x with
        vault := v
        own := { x.own with
          errs := x.own.errs.filter fun e =>
            e.store != 4 || e.fatal || x.vault.pbank (unpackV e.idx).bank != p.1 || (unpackV e.idx).row != p.2
          life := { x.own.life with
            spares := x.own.life.spares.setIfInBounds p.1 (x.own.life.spares.getD p.1 0 + 1) } } }).event
        0x0003 1 0x0D (BitVec.ofNat 64 t) (BitVec.ofNat 64 (p.1 * 2 ^ 16 + pr))).groupsDown c t read.lost

/-- Marks a tile failed: it loses its owner tag at once (01 R25, 19 R352). -/
def State.failTile (s : State) (t : Nat) : State :=
  (s.modTile t fun x => { x with own := { x.own with failed := true, owner := none } }).event 0x0003 2 0x0D
    (BitVec.ofNat 64 t) 0xFF#64
/-- Retires the pending banks of a tile; a third retired bank marks it failed. -/
def State.retireBanks (s : State) (t : Nat) : State :=
  let x := s.tile t
  if x.own.bad = 0#32 then s
  else
    let m := x.vault.retired ||| x.own.bad
    let s := s.setTile t { x with vault := { x.vault with retired := m }, own := { x.own with bad := 0#32 } }
    let s := ((List.range 32).filter fun b => x.own.bad.getLsbD b && !x.vault.retired.getLsbD b).foldl
      (fun s b => s.event 0x0003 1 0x0D (BitVec.ofNat 64 t) (BitVec.ofNat 64 b)) s
    if retiredCount m ≥ 3 then s.failTile t else s
/-! ## Migration (13 R290) -/

/-- Moves the line of index g from the map (no, ro) to the one in force; a line whose two places coincide stays. -/
def VaultSt.moveLine (v : VaultSt) (no : Nat) (ro : BitVec 32) (g : Nat) : VaultSt :=
  if v.lineAddr no ro g 0 = v.lineAddr v.n v.retired g 0 then v
  else { v with cells := (List.range 16).foldl (fun m c =>
      m.putVec (v.lineAddr v.n v.retired g c) allOn (v.cells.vec (v.lineAddr no ro g c)) 0 256) v.cells }
/-- Moves the lines below g, in descending order. -/
def VaultSt.moveDown (v : VaultSt) (no : Nat) (ro : BitVec 32) : Nat → VaultSt
  | 0 => v
  | g + 1 => VaultSt.moveDown (v.moveLine no ro g) no ro g
/-- Moves k lines from g on, in ascending order: a change to more banks, which R290 leaves out (notes/assumptions/22.md). -/
def VaultSt.moveUp (v : VaultSt) (no : Nat) (ro : BitVec 32) (g : Nat) : Nat → VaultSt
  | 0 => v
  | k + 1 => VaultSt.moveUp (v.moveLine no ro g) no ro (g + 1) k
/-- Does the bank map differ from (no, ro)? -/
def VaultSt.remapped (v : VaultSt) (no : Nat) (ro : BitVec 32) : Bool :=
  v.n != no || (List.range v.n).any fun b => mapBank ro b != mapBank v.retired b
/-- The map in force replaces (no, ro): the watermark starts a migration, downwards one line at a time. -/
def VaultSt.startMigration (v : VaultSt) (no : Nat) (ro : BitVec 32) : VaultSt :=
  if !v.remapped no ro then v
  else if no < v.n then v.moveUp no ro 0 (no * Config.rows)
  else { v with watermark := some (v.n * Config.rows, no, ro) }
/-- One line of a migration. -/
def VaultSt.migrateLine (v : VaultSt) : VaultSt :=
  match v.watermark with
  | some (w + 1, no, ro) => { v.moveLine no ro w with watermark := if w = 0 then none else some (w, no, ro) }
  | _ => { v with watermark := none }
/-- What a migration that was interrupted has left to move, at once. -/
def VaultSt.finishMigration (v : VaultSt) : VaultSt :=
  match v.watermark with
  | some (w, no, ro) => { v.moveDown no ro w with watermark := none }
  | none => v
/-! ## The codes of what migrates (19 R348, R361) -/

/-- Line index of the place of a vault error under a map of n banks. -/
def StoreErr.line (e : StoreErr) (n : Nat) : Nat := (unpackV e.idx).row * n + (unpackV e.idx).bank
/-- Errors keep to their lines where a map of n banks replaces one of no; those of discarded lines are gone. -/
def Tile.rekey (t : Tile) (no : Nat) : Tile :=
  let n := t.vault.n
  if no = n then t
  else
    let errs := t.own.errs.filterMap fun e =>
      let g := e.line no
      if e.store ≠ 4 then some e
      else if n * Config.rows ≤ g then none
      else some { e with idx := packV ⟨g % n, g / n, (unpackV e.idx).col⟩ }
    { t with own := { t.own with errs := errs } }
/-- Is a line read from another place when it moves from the map (no, ro); and from a group whose lane parity fails? -/
def VaultSt.moves (v : VaultSt) (no : Nat) (ro : BitVec 32) (g : Nat) : Bool := v.lineAddr no ro g 0 != v.lineAddr v.n v.retired g 0
def Tile.movesLane (t : Tile) (no : Nat) (ro : BitVec 32) (g : Nat) : Bool :=
  t.own.lanes.getLsbD (mapBank ro (g % no) % 8) && t.vault.moves no ro g
/-- The columns that the moving of the lines lo to hi - 1 reads from groups whose lane parity fails: none of them is read good (19
R352). -/
def Tile.laneColumns (t : Tile) (no : Nat) (ro : BitVec 32) (lo hi : Nat) : List StoreErr :=
  if t.own.lanes = 0#8 then []
  else (((List.range (hi - lo)).map (lo + ·)).filter (t.movesLane no ro)).flatMap fun g =>
    (List.range 16).map fun c => laneErr ⟨g % t.vault.n, g / t.vault.n, c⟩
/-- What the moving of the lines lo to hi - 1 from the map (no, ro) reads: each error counted once, and what was corrected is
written with new codes; what was not keeps its error at its new place. A line whose places coincide is not read. -/
def Tile.moveReads (t : Tile) (no : Nat) (ro : BitVec 32) (lo hi : Nat) : Reading :=
  let v := t.vault
  let met (e : StoreErr) : Bool := e.store == 4 && decide (lo ≤ e.line v.n ∧ e.line v.n < hi) && v.moves no ro (e.line v.n)
  let lane (e : StoreErr) : Bool := met e && t.movesLane no ro (e.line v.n)
  let lost := t.laneColumns no ro lo hi
  let x := ((t.own.errs.filter fun e => met e && !lane e) ++ lost).foldl (fun (x : Reading) e =>
    let g := e.line v.n
    let pb := mapBank ro (g % no)
    x.meet pb (g / no) (v.prow pb (g / no)) e) ⟨t, true, []⟩
  let y := x.tile.recode fun e => (met e && !e.fatal) || lane e
  { x with tile := { y with own := { y.own with errs := y.own.errs ++ lost } } }
/-- The map in force on a tile replaces (no, ro): the migration begins, on errors that keep to the lines of the new map. -/
def Tile.beginMigration (t : Tile) (no : Nat) (ro : BitVec 32) : Reading :=
  let x := if no < t.vault.n then t.moveReads no ro 0 (no * Config.rows) else ⟨t, true, []⟩
  { x with tile := { x.tile with vault := x.tile.vault.startMigration no ro } }
def Tile.startMigration (t : Tile) (no : Nat) (ro : BitVec 32) : Reading := (t.rekey no).beginMigration no ro
/-- One line of a tile's migration, and what is left of it. -/
def Tile.migrateLine (t : Tile) : Reading :=
  let x := match t.vault.watermark with
    | some (w + 1, no, ro) => t.moveReads no ro w (w + 1)
    | _ => ⟨t, true, []⟩
  { x with tile := { x.tile with vault := x.tile.vault.migrateLine } }
def Tile.finishMigration (t : Tile) : Reading :=
  let x := match t.vault.watermark with
    | some (w, no, ro) => t.moveReads no ro 0 w
    | none => ⟨t, true, []⟩
  { x with tile := { x.tile with vault := x.tile.vault.finishMigration } }
/-- A tile's read, taken: the tile as it leaves it, and the groups that it has shown as failed. -/
def State.took (s : State) (c t : Nat) (x : Reading) : State := (s.setTile t x.tile).groupsDown c t x.lost

/-! ## A tile's repairs (19 Table 19-3) -/

/-- A relay interval begins on a tile: what its groups have lost counts anew (19 R352). -/
def Tile.newInterval (t : Tile) : Tile := { t with own := { t.own with lost := 0#32, groups := 0#8 } }

/-- Rows first, then banks, of a tile; a change goes into a new configuration image (01 R31). -/
def State.repairTile (s : State) (c t : Nat) (banks : Bool) : State :=
  let x := s.tile t
  let s := x.own.weak.foldl (fun s p => s.spareRow c t p) s
  let s := s.modTile t fun x => { x with own := { x.own with weak := [] } }
  let s := if banks then s.retireBanks t else s
  if x.own.weak.isEmpty ∧ (x.own.bad = 0#32 ∨ !banks) then s
  else
    let y := s.tile t
    s.newConfig fun k => CfgImage.health { k with
      vtt := (k.vtt.filter fun e => e.1 != t) ++
        (List.range 16).map fun i => (t, i, y.vault.vttA.getD i 0#64, y.vault.vttB.getD i 0#64) } t y.vault.retired y.own.failed
/-- The repairs of a tile of an idle coach, with the migration of its vault, after one that a stop has left unfinished. -/
def State.repairIdle (s : State) (c t : Nat) : State :=
  let s := s.took c t (s.tile t).finishMigration
  let v := (s.tile t).vault
  let s := (s.repairTile c t true).modTile t fun x => { x with
    vault := { x.vault with n := min v.n (32 - retiredCount x.vault.retired) } }
  let s := s.took c t ((s.tile t).startMigration v.n v.retired)
  s.took c t (s.tile t).finishMigration

/-! ## Tiles between coaches (13 R291, 01 R25) -/

/-- Are the fields within the limits of Table 13-6? -/
def Rect.legal (r : Rect) : Bool := !r.valid || decide (r.r0 ≤ r.r1 ∧ r.r1 < 16 ∧ r.c0 ≤ r.c1 ∧ r.c1 < 24)
def Rect.disjoint (a b : Rect) : Bool := (List.range 384).all fun t => !(a.has t && b.has t)
/-- Tiles that a plan releases and admits. -/
def Coach.leaving (k : Coach) : List Nat := (List.range 384).filter fun t => (rectOf k.crect).has t && !(rectOf k.cplan).has t
def Coach.entering (k : Coach) : List Nat := (List.range 384).filter fun t => (rectOf k.cplan).has t && !(rectOf k.crect).has t
/-- Is the plan's rectangle legal, disjoint from the others and its entering tiles unassigned, and does it release no tile
in `used`? -/
def State.planFits (s : State) (c : Nat) (used : List Nat) : Bool :=
  let k := s.coach c
  let r := rectOf k.cplan
  r.legal &&
  ((List.range 16).all fun d => d == c || (r.disjoint (rectOf (s.coach d).crect) && r.disjoint (rectOf (s.coach d).cplan))) &&
  (k.leaving.all fun t => !used.contains t) && k.entering.all fun t => (s.tile t).own.owner.isNone
/-- Has a tile that the plan releases an outstanding operation? -/
def Coach.planBusy (k : Coach) : Bool := k.leaving.any fun t => k.ops.any fun o => o.tile == t
/-- Applies a plan, and writes it into a new configuration image (01 R31): leaving tiles lose their tag; entering ones take it, unless disabled or failed, with their vault
zero-filled. -/
def State.applyPlan (s : State) (c : Nat) : State :=
  let k := s.coach c
  let s := s.modTiles (fun t => { t with own := { t.own with owner := none } }) k.leaving
  let s := s.modTiles (fun t =>
    if t.own.enabled ∧ !t.own.failed then
      { t with own := { t.own with owner := some c, errs := t.own.errs.filter fun e => e.store != 4 }
               vault := { t.vault with cells := [], watermark := none } }
    else t) k.entering
  (s.setCoach c { k with crect := k.cplan }).newConfig fun f => { f with rects := setK f.rects c k.cplan }
/-- The plan of an idle coach is applied at once where it holds. -/
def State.planIdle (s : State) (c : Nat) : State :=
  let k := s.coach c
  if k.cplan ≠ k.crect ∧ s.planFits c [] ∧ !k.planBusy then s.applyPlan c else s

/-! ## Half-rate retraining of a port group (19 Table 19-5 rung 4) -/

/-- Ports of the group of a port. -/
def groupPorts (p : Nat) : List Nat := (List.range 4).map fun i => 4 * (p / 4) + i
/-- The rate classes in force go into a new configuration image (01 R31). -/
def State.saveRates (s : State) : State :=
  let slowest (g : Nat) : Nat := (List.range 4).foldl (fun m i => min m (max 1 (s.pkg.port (4 * g + i)).rate)) 2
  s.newConfig fun k => { k with rates := (List.range 4).map slowest }
/-- Half-pending port groups of a coach begin to retrain at half rate, each once, with a retrain flit on each port of the group that
has a link; late flits are counted anew. The outcome of each port is a retrain flit (19 Table 19-5 rungs 4 and 5). -/
def State.retrainHalf (s : State) (c : Nat) : State :=
  (List.range 16).foldl (fun s p =>
    if !s.coachHasPort c p then s
    else
      let s := s.modPort p fun q => { q with lateInRelay := 0 }
      if !(s.pkg.port p).hpend ∨ (groupPorts p).any fun g => (s.pkg.port g).half.isSome then s
      else (groupPorts p).foldl (fun s g =>
        if (s.pkg.port g).peerPkg.isSome then
          (s.sendCtl g ((s.pkg.port g).retrainFlit true)).modPort g fun q => { q with half := some s.wall }
        else s) s) s
/-- Does a port of the coach still train at half rate? -/
def State.halfTraining (s : State) (c : Nat) : Bool :=
  (List.range 16).any fun p => s.coachHasPort c p && (groupPorts p).any fun g => (s.pkg.port g).half.isSome

end Sys2Proof.Machine
end

