-- ==== Sys2Proof/Machine/Phase.lean ====
section
/-! DEFINITION. Pauses, settling, strikes, phase replay, holds and the end of a launch, in wall-clock time (02 R36, R51-R66,
17 R327-R334, 19 R358, 20 R366). -/
namespace Sys2Proof.Machine

/-! ## Domains (02 R63, R64) -/

def Launch.isDomain (l : Launch) : Bool := l.lrec.type == 2
/-- Longest padded path of the domain tree, at least the largest pad of a trained link of this package. -/
def State.margin (s : State) : Nat :=
  (List.range 16).foldl (fun m p =>
    let q := s.pkg.ports.getD p Port.reset
    if q.peer.isSome then max m q.pad else m) s.pkg.treePath
/-- First epoch boundary at or after a cycle. -/
def epochAfter (n : Nat) : Nat := (n + (Config.epoch - 1)) / Config.epoch
/-- May a launch go on: it belongs to one package, or the named epoch boundary has come? -/
def State.mayGo (s : State) (c : Nat) : Bool :=
  let l := (s.coach c).launch
  !l.isDomain || match l.startEpoch with | some e => decide (e * Config.epoch ≤ s.pkg.epoch) | none => false
/-- Package 0 names an epoch boundary and a variant. -/
def State.nameEpoch (s : State) (c variant : Nat) : State :=
  let e := epochAfter (s.pkg.epoch + s.margin)
  let tag := (s.coach c).launch.sentTag
  (s.modLaunch c fun l => { l with startEpoch := some e, reported := [] }).sendTree (·.startFlit tag e variant)
/-- A domain launch reports to package 0; package 0's own report reaches it as the next thing it does. -/
def State.reportNow (s : State) (c : Nat) (kind : ReportKind) (variants : BitVec 8) : State :=
  let l := (s.coach c).launch
  let ports := BitVec.ofNat 16 ((s.portsOf c).foldl (fun n p => n + 2 ^ p) 0)
  let r : Report := { l.report kind l.frc with variants := variants, ports := ports }
  if !l.isDomain then s
  else if l.lrec.index = 0 then { s with todo := .ev (.conditionReport c r) :: s.todo }
  else s.tell r

/-! ## Pauses (02 R55-R60) -/

/-- One REFB of a pause or of an idle tile: the refresh pointer advances (10 R236); a row that an engine holds open is closed
first. -/
def VaultSt.pauseRef (v : VaultSt) (b wall : Nat) : VaultSt :=
  { v.modBank b (fun k => { k with ptr := nextGroup k.ptr }) with
    lastRefWall := v.lastRefWall.setIfInBounds b wall
    eng := v.eng.setIfInBounds b { v.eng.getD b EngBank.reset with row := none, refb := some wall } }
/-- Frame cycle of a running launch in which a tile has reached its `end`: a REFB of its grant counts for the deadline there. -/
def State.endedAt (s : State) (tile : Nat) : Option Nat :=
  if !(s.tile tile).seq.ended then none
  else ((List.range 16).find? fun c =>
    let l := (s.coach c).launch
    l.mode == .running && l.tiles.contains tile).map fun c => (s.coach c).launch.frc
def execPauseRefb (tile bank : Nat) (s : State) : Host.Outcome State Fault Refusal :=
  if tile < 384 ∧ bank < 32 then
    .next (s.modTile tile fun t =>
      let v := t.vault.pauseRef bank s.wall
      { t with vault := match s.endedAt tile with
          | some f => v.modBank bank fun k => { k with due := f }
          | none => v })
  else .fault .noSuchUnit
def execIdleTileRefb (tile bank : Nat) (s : State) : Host.Outcome State Fault Refusal :=
  if tile < 384 ∧ bank < 32 then .next (s.modTile tile fun t => { t with vault := t.vault.pauseRef bank s.wall })
  else .fault .noSuchUnit

/-- Closing refreshes begun: they stand as the banks' last ones (02 R57). -/
def VaultSt.closes (v : VaultSt) (wall : Nat) : VaultSt := { v with lastRefWall := Vector.replicate 32 wall }
/-- The closing REFB of every bank, admitted for the deadlines at frame cycle f; every bank is left Closed (02 R57). -/
def VaultSt.closing (v : VaultSt) (f : Nat) : VaultSt :=
  { v with
    banks := v.banks.map fun b => { b with st := .closed, ptr := nextGroup b.ptr, due := f }
    eng := Vector.replicate 32 EngBank.reset }
/-- Does every tile's condition hold (02 R58)? -/
def State.rdvHolds (s : State) (c : Nat) : Bool :=
  (s.coach c).launch.conds.all fun x => decide (x.2.2.toNat ≤ ((s.coach c).tl x.2.1).live)
/-- The acquired level of a counter becomes n (04 R101). -/
def Tile.acquire (t : Tile) (tl : Nat) (n : Word) : Tile := { t with acq := t.acq.setIfInBounds tl n }
/-- Frame cycle f + 1 begins on every tile of the launch (02 R55). -/
def State.resumeAt (s : State) (c f : Nat) : State :=
  s.modLaunch c fun l => { l with
    mode := .running, frc := f, conds := [], closingDone := none, startEpoch := none, reported := [], saves := [] }
/-- The closing refreshes of a coach's tiles, given once in a pause: each bank's REFB, which moves its refresh pointer on, at the
wall cycle in which they begin (02 R57, 10 R236). -/
def State.closeTiles (s : State) (c : Nat) (tiles : List Nat) : State :=
  let l := (s.coach c).launch
  if l.closingDone.isSome then s
  else s.modTiles (fun t => { t with vault := (t.vault.closing l.frc).closes s.wall }) tiles
/-- A rendezvous ends: closing refreshes, unless they have been given, acquired levels, and the frame goes on at f + 1. -/
def execPauseResume (coach : Nat) (s : State) : Host.Outcome State Fault Refusal :=
  if coach < 16 then
    let l := (s.coach coach).launch
    if l.mode = .paused ∧ s.rdvHolds coach then
      let s := s.closeTiles coach l.tiles
      let s := l.conds.foldl (fun s x => s.modTile x.1 fun t => t.acquire x.2.1 x.2.2) s
      .next (s.resumeAt coach (l.frc + 1))
    else .next s
  else .fault .noSuchUnit
/-- The rendezvous of this package is over, but the domain's is not: no epoch boundary has been named (02 R64). -/
def Launch.waitsDomain (l : Launch) : Bool := l.isDomain && l.startEpoch.isNone
/-- Wall cycles of a launch record's rendezvous timeout. -/
def Launch.timeout (l : Launch) : Nat := l.lrec.timeoutUs * Config.cycPerUs
/-- Has a pause waited for another package alone for longer than the timeout, from the end of its own closing refreshes on
(notes/assumptions/49.md)? -/
def Launch.overdue (l : Launch) (wall : Nat) : Bool := l.closingDone.any fun w => decide (w + l.timeout < wall)
/-- The rendezvous timeout: 0x8/0x01 at the paused frame cycle, unless the condition holds (20 R366); a pause that has waited too
long for another package alone names no counter (notes/assumptions/49.md). -/
def execRdvTimeout (coach : Nat) (s : State) : Host.Outcome State Fault Refusal :=
  if coach < 16 then
    let l := (s.coach coach).launch
    if l.mode = .paused ∧ (!s.rdvHolds coach ∨ (l.waitsDomain ∧ l.overdue s.wall)) then
      let (d1, d2) := match l.conds.find? fun x => !decide (x.2.2.toNat ≤ ((s.coach coach).tl x.2.1).live) with
        | some x => (2 ^ 11 + x.2.1 * 2 ^ 8 + l.rdvId, x.2.2)
        | none => (l.rdvId, 0#64)
      .next (s.stopEvent coach 0 ⟨0x8, 0x01, 0x0B, BitVec.ofNat 64 d1, d2⟩)
    else .next s
  else .fault .noSuchUnit

/-! ## Settling (02 R51, 11 R262) -/

/-- A tile's part of settling phase k: its snapshot slot is marked, or takes the snapshot that waits for it (04 R108); its
journal of the phase is dropped. -/
def Tile.settle (t : Tile) (k : Nat) : Tile :=
  let snaps := t.snaps.map fun n => if n.valid ∧ n.phase = k then { n with settled := true } else n
  let waits := t.nextSnap.any fun n => n.phase == k + 2
  { (t.recode fun e => e.store == 6 && (e.idx == k + 2 || (waits && e.idx == k % 2))) with
    snaps := match t.nextSnap with | some n => if n.phase = k + 2 then snaps.setIfInBounds (k % 2) n else snaps | none => snaps
    nextSnap := t.nextSnap.filter fun n => n.phase != k + 2
    blk := { t.blk with journal := t.blk.journal.filter fun j => decide (k < j.phase) } }
/-- A package of a domain whose commit of a phase package 0 has not heard of (17 Table 17-6 code 0x4/0x02). -/
def Launch.silent (l : Launch) (k : Nat) : Option Nat :=
  if l.isDomain && l.lrec.index == 0 then (List.range l.lrec.count).find? fun p => p != 0 && !l.commits.contains (p, k) else none
/-- A phase whose commit the packages do not share never commits: it and what follows it settle nowhere (17 R332), unless a replay
runs them again. -/
def Launch.bar (l : Launch) (k : Nat) : Launch := { l with barred := some (match l.barred with | some b => min b k | none => k) }
/-- A commit that another package does not share: 0x4/0x02 at the earliest commit, with a tile whose commit falls elsewhere or is
missing. The other packages hear of it, in a hold too, so that the phase settles on none of them. -/
def State.commitFault (s : State) (c phase first pkg tile : Nat) : State :=
  let r := s.record c noTile 0 first 0 ⟨0x4, 0x02, 0x09, BitVec.ofNat 64 first, BitVec.ofNat 64 (pkg * 2 ^ 16 + tile)⟩
  let s := if (s.coach c).launch.mode = .held then s.announce c r else s
  (s.modLaunch c fun l => l.bar phase).takeFaults c (s.portsOf c) [r]
/-- Is a phase kept from settling by a commit that another package does not share? -/
def Launch.bars (l : Launch) (k : Nat) : Bool := match l.barred with | some b => decide (b ≤ k) | none => false
/-- In a hold, may a package that has not told of a commit at a frame cycle have stopped before it? The hold's fault came first, or is
that package's own of that cycle. -/
def Launch.excuses (l : Launch) (commit : Nat) : Bool :=
  match l.hold with
  | some r => decide (r.frame < commit) || (r.frame == commit && r.source == 0x0B)
  | none => false
/-- The earliest committed phase settles: digest records, and it can no longer be cancelled. After a stop none does (17 R328
step 3). In a domain package 0 must by then have heard of the commit of every package. -/
def execPhaseSettle (coach : Nat) (s : State) : Host.Outcome State Fault Refusal :=
  if coach < 16 then
    match (if (s.coach coach).launch.mode = .finishing then [] else (s.coach coach).launch.unsettled) with
    | [] => .next s
    | u :: _ =>
      if (s.coach coach).launch.bars u.phase then .next s
      else if let some p := (s.coach coach).launch.silent u.phase then
        let tile := match (s.coach coach).launch.roster.find? fun r => r.pkg == p with | some r => r.tile | none => 0
        .next (if (s.coach coach).launch.excuses u.commit then s else s.commitFault coach u.phase u.commit p tile)
      else
      let s := s.writeDigests coach u
      let s := s.modTiles (fun t => t.settle u.phase) (s.coach coach).launch.tiles
      .next (s.modCoach coach fun k => { k with
        log := { k.log with settled := (k.log.settled + 1) % 2 ^ 32 }
        launch := { k.launch with
          unsettled := k.launch.unsettled.filter fun x => x.phase != u.phase
          commits := k.launch.commits.filter fun x => x.2 != u.phase
          spans := (u.phase, u.start) :: k.launch.spans } })
  else .fault .noSuchUnit

/-! ## Strikes and replay (17 R331-R334, 19 R358) -/

/-- The coach whose rectangle holds a tile. -/
def State.rectCoach (s : State) (t : Nat) : Option Nat := (List.range 16).find? fun c => (rectOf (s.coach c).crect).has t
/-- Has a sequencer reached its `end` with no bundle since its last `commit`? -/
def SeqSt.endedAtCommit (q : SeqSt) : Bool := q.ended && q.lastCommit.any fun f => f + 1 == q.minIssue
/-- Does a frame cycle lie after a launch's last commit, in the span that is no phase (02 R54)? -/
def State.pastPhases (s : State) (c f : Nat) : Bool :=
  let l := (s.coach c).launch
  decide (l.phaseStart ≤ f) && l.tiles.all fun t => (s.tile t).seq.endedAtCommit
/-- A record of the launch that a coach has completed last. -/
def State.pastRecord (s : State) (c tile frame : Nat) (x : Fail) : State :=
  let l := (s.coach c).past
  let r := { s.recordOf l tile 0 frame 0 x with first := !l.logged }
  s.modCoach c fun k => { k with
    past := { l with logged := true }
    log := { k.log with widx := k.log.widx + 1, recs := (r :: k.log.recs).take 127 } }
/-- A strike report that finds no frame: where it speaks of a phase that the coach's last launch has settled it is a late
sensor's (19 R358, 21 R380). -/
def State.latePast (s : State) (c tile frame sensor : Nat) : State :=
  let l := (s.coach c).past
  let k := BitVec.ofNat 64 (phaseAt l frame)
  if l.spans.isEmpty ∨ !l.settledAt frame then s
  else (s.pastRecord c tile frame ⟨0x6, 0x09, 0x06, k, BitVec.ofNat 64 sensor⟩).event 0x0009 1 0x06 (BitVec.ofNat 64 sensor) k
/-- A strike report: counted on the tile; for a coach's launch it cancels the phase of its frame cycle, or, where that
phase has settled, is recorded as 0x6/0x09 and its sensor counted faulty. In the span after the last commit it cancels
nothing (notes/assumptions/50.md). -/
def execStrikeReport (tile frame sensor : Nat) (s : State) : Host.Outcome State Fault Refusal :=
  if tile < 384 then
    if !s.up then .next s else
    let s := s.modTile tile fun t => { t with own := { t.own with life := { t.own.life with strikes := bump t.own.life.strikes 32 } } }
    match s.rectCoach tile with
    | none => .next s
    | some c =>
      match (s.coach c).launch.mode with
      | .idle | .starting => .next (s.latePast c tile frame sensor)
      | m =>
        let s := s.modCoach c fun k => { k with log := { k.log with strikes := (k.log.strikes + 1) % 2 ^ 32 } }
        let l := (s.coach c).launch
        let k := BitVec.ofNat 64 (phaseAt l frame)
        if l.settledAt frame then
          .next ((s.log c (s.record c tile 0 frame 0 ⟨0x6, 0x09, 0x06, k, BitVec.ofNat 64 sensor⟩)).event 0x0009 1 0x06
            (BitVec.ofNat 64 sensor) k)
        else if m ≠ .finishing ∧ s.pastPhases c frame then .next s
        else .next (s.cancel c tile 0x06 frame true (s.portsOf c))
  else .fault .noSuchUnit

/-- CLOSE is over: every bank is closed, and RELOAD begins. -/
def execReplayCloseDone (coach : Nat) (s : State) : Host.Outcome State Fault Refusal :=
  if coach < 16 then
    let l := (s.coach coach).launch
    match l.mode with
    | .closing =>
      .next ((s.modTiles (fun t => { t with vault := t.vault.closeAll }) l.tiles).modLaunch coach fun l =>
        { l with mode := .reloading, sinceWall := s.wall, closingDone := none })
    | _ => .next s
  else .fault .noSuchUnit

/-- Byte addresses that the journal entries of phase k and later restore. -/
def BlkSt.undone (b : BlkSt) (k : Nat) : List Nat := (b.journal.filter fun j => decide (k ≤ j.phase)).flatMap fun j => j.old.map (·.1)
/-- Undoes the journal entries of phase k and later, newest first (17 R333 step 1). -/
def BlkSt.undo (b : BlkSt) (k : Nat) : List JEntry → BlkSt
  | [] => { b with journal := [], ops := 0 }
  | j :: r =>
    if k ≤ j.phase then
      BlkSt.undo { b with mem := j.old.foldl (fun m x => m.put x.1 x.2) b.mem, head := j.head, free := j.free } k r
    else { b with journal := j :: r, ops := 0 }
/-- Fields of a refill entry (02 R47): first column, columns, first line within the half. -/
def refillOf (e : Word) : VAddr × Nat × Nat := (unpackV (bits e 63 42), bits e 41 38 + 1, bits e 37 26)
/-- Executes a refill entry into the C-half under h. An entry that passes its limits runs on as it stands: the model's choice
(notes/assumptions/47.md). -/
def Reading.refillEntry (x : Reading) (h : Bool) (e : Word) : Reading :=
  let (a, n, l0) := refillOf e
  (List.range n).foldl (fun x i =>
    let l := physLine h (256 * (l0 + i))
    match x.read { a with col := a.col + i } with
    | (y, none) => y
    | (y, some v) => { y with tile := { y.tile with sp := y.tile.sp.putVec (256 * l) allOn v 0 256 } }) x
/-- Lines of the C-half under h, cleared. -/
def Tile.clearC (t : Tile) (h : Bool) : Tile :=
  { t with sp := t.sp.filter fun p => !(decide (p.1 / 2 ^ 20 = (if h then 1 else 0))) }
/-- Scratchpad image and per-tile sections of a launch for a tile. -/
def Launch.dataOf (l : Launch) (t : Nat) : TileImg :=
  match l.image.data.find? (fun p => p.1 == t) with
  | some p => p.2
  | none => TileImg.reset
/-- RELOAD of a tile for target k (17 R333), with the reads of its refill list; each place that it writes has its code made anew:
the words that the journals restore, BTST, the journals that it drops, the lines. -/
def Tile.reload (t : Tile) (img : TileImg) (k wall : Nat) : Reading :=
  let n := t.snaps.getD (k % 2) Snap.reset
  let words := 65536 :: t.blk.undone k
  let half := if n.h then 1 else 0
  let t := { (t.recode fun e => (e.store == 3 && words.any fun a => a / 8 == e.idx / 8) ||
      (e.store == 6 && decide (k + 2 ≤ e.idx))) with
    blk := t.blk.undo k t.blk.journal }
  let t := (if k = 0 then { t with sp := img.sp } else t.clearC n.h).recode fun e =>
    e.store == 2 && decide (e.idx < 8192) && (k == 0 || e.idx / 4096 == half)
  let r := (getK [] t.seq.refills n.rl).foldl (fun (x : Reading) e => x.refillEntry n.h e) (⟨t, true, []⟩ : Reading)
  { r with tile := r.tile.restore k wall }
/-- Stored-code errors of what a replay to phase k reads: its snapshot slot, and the block-table journal of phases k and
later. Index 0 or 1 is a slot, 2 + j the journal of phase j. -/
def Tile.snapErrs (t : Tile) (k : Nat) : List StoreErr :=
  t.own.errs.filter fun e => e.store == 6 &&
    (e.idx == k % 2 || (decide (2 + k ≤ e.idx) && t.blk.journal.any fun j => j.phase + 2 == e.idx))
/-- The uncorrectable one among them (19 R349 code 0x6/0x06). -/
def Tile.snapErr (t : Tile) (k : Nat) : Option StoreErr := (t.snapErrs k).find? (·.fatal)
/-- Detail 1 of code 0x6/0x06: the slot, or the phase of the journal. -/
def snapDetail (e : StoreErr) : Nat := if e.idx < 2 then e.idx else e.idx - 2

/-- RELOAD on every tile of the launch, each column read counted. A column that cannot be read is the coach fault 0x5/0x03; a
vertical group that its reads find failed is reported as such (19 R352). Then WAIT. -/
def State.reloadTiles (s : State) (c k : Nat) (tiles : List Nat) : State :=
  let l := (s.coach c).launch
  let done := tiles.map fun t => (t, (s.tile t).reload (l.dataOf t) k s.wall)
  let s := done.foldl (fun s x => s.setTile x.1 x.2.tile) s
  match done.find? fun x => !x.2.good with
  | some x =>
    s.takeAll c (s.record c noTile 0 l.frc 0 ⟨0x5, 0x03, 0x09, BitVec.ofNat 64 k, BitVec.ofNat 64 x.1⟩ ::
      done.flatMap fun x => x.2.lost.map fun pb =>
        s.record c x.1 0 l.frc 0 ⟨0x6, 0x07, 0x07, BitVec.ofNat 64 (pb % 8), BitVec.ofNat 64 pb⟩)
  | none =>
    s.modLaunch c fun l => { l with mode := .waiting, closingDone := none, reported := [], startEpoch := none, told := false }
def execReloadDone (coach : Nat) (s : State) : Host.Outcome State Fault Refusal :=
  if coach < 16 then
    let l := (s.coach coach).launch
    match l.mode, l.pending with
    | .reloading, some k =>
      let s := s.modTiles (fun t =>
        let es := t.snapErrs k
        let lost := es.filter (·.fatal)
        t.sram (es.length - lost.length) lost.length) l.tiles
      match l.tiles.filterMap fun t => ((s.tile t).snapErr k).map fun e =>
          s.record coach t 0 l.frc 0 ⟨0x6, 0x06, 0x07, BitVec.ofNat 64 (snapDetail e), e.syndrome⟩ with
      | [] => .next (s.reloadTiles coach k l.tiles)
      | rs => .next (s.takeFaults coach (s.portsOf coach) rs)
    | _, _ => .next s
  else .fault .noSuchUnit

/-- RESTART: FRC takes the target's restart value, the replays are counted, and issue resumes at the restart point. A
relay point completed after it is undone, its relay number with it. -/
def Launch.restartAt (l : Launch) (k : Nat) : Launch :=
  let f := l.startOf k
  let undone := match l.lastRelay with | some x => decide (f ≤ x) | none => false
  Launch.begin { l with
    mode := .running, frc := f, phase := k, phaseStart := f, pending := none, closingDone := none, conds := []
    startEpoch := none, reported := [], struck := none, barred := l.barred.filter fun b => decide (b < k)
    unsettled := l.unsettled.filter fun u => decide (u.phase < k)
    commits := l.commits.filter fun x => decide (x.2 < k)
    relayNo := if undone then l.relayNo - 1 else l.relayNo
    lastRelay := if undone then none else l.lastRelay } k
/-- Have the ports of a domain launch retrained, and taken the epoch count from their SYNC flits (19 R357)? -/
def State.portsReady (s : State) (c : Nat) : Bool :=
  !(s.coach c).launch.isDomain || (s.portsOf c).all fun p =>
    let q := s.pkg.ports.getD p Port.reset
    q.training.isNone && !q.unsynced
/-- Has a phase before the target of a replay not settled yet? -/
def Launch.replayWaits (l : Launch) : Bool := match l.pending with | some k => l.unsettled.any fun u => decide (u.phase < k) | none => false
def execReplayRestart (coach : Nat) (s : State) : Host.Outcome State Fault Refusal :=
  if coach < 16 then
    let l := (s.coach coach).launch
    match l.mode, l.pending with
    | .waiting, some k =>
      if l.replayWaits ∨ !s.portsReady coach then .next s
      else
        let s := s.modCoach coach fun x => { x with
          log := { x.log with restarts := (x.log.restarts + 1) % 2 ^ 32 }, launch := x.launch.restartAt k }
        .next (s.modTiles (fun t => t.modSeq fun q => { q with buf := 64, need := 0 }) l.tiles)
    | _, _ => .next s
  else .fault .noSuchUnit

/-- The hold of D ends with no strike report: the launch stops (17 R329). -/
def execFaultHoldExpiry (coach : Nat) (s : State) : Host.Outcome State Fault Refusal :=
  if coach < 16 then
    match (s.coach coach).launch.mode, (s.coach coach).launch.hold with
    | .held, some r => .next (s.stopLaunch coach r)
    | _, _ => .next s
  else .fault .noSuchUnit

/-! ## The end of a launch (02 R36, 12 R268, R271, 17 R328) -/

/-- Is all issued work of a finishing launch complete? -/
def State.workDone (s : State) (c : Nat) : Bool :=
  let k := s.coach c
  k.ops.isEmpty && k.pushes.isEmpty && k.launch.tiles.all fun t =>
    let x := s.tile t
    x.pend.isEmpty && x.mtx.mmuls.isEmpty &&
    (match x.lcopy with | some o => decide (o.c + o.n ≤ k.launch.frc) | none => true) &&
    (match x.mtx.mldb with | some o => decide (o.c + o.n ≤ k.launch.frc) | none => true)
/-- The launch is over: final mirrors, the completion record, the interrupt; the coach is idle, no flit waits at its ports any
more, and pending repairs of every tile that it holds are made. -/
def execLaunchCompletion (coach : Nat) (s : State) : Host.Outcome State Fault Refusal :=
  if coach < 16 then
    let l := (s.coach coach).launch
    if l.mode = .finishing ∧ s.workDone coach then
      let s := (s.writeMirrors coach).complete coach l.status
      let s := s.modTiles (fun t => { t with seq := SeqSt.reset }) l.tiles
      let s := (s.portsOf coach).foldl (fun s p => s.modPort p fun q => { q with holding := [], lost := [] }) s
      let s := s.modCoach coach fun k => { k with
        launch := Launch.reset, past := k.launch, hat := { k.hat with busy := false } }
      let tiles := l.tiles ++ (s.tilesOf coach).filter fun t => !l.tiles.contains t
      let s := tiles.foldl (fun s t => (s.repairIdle coach t).modTile t Tile.newInterval) s
      .next ((s.retrainHalf coach).planIdle coach)
    else .next s
  else .fault .noSuchUnit
/-- The `rdv` bundles on which a domain paused are suppressed after all, where package 0 finds a mismatch between packages:
each sequencer stands before its bundle again (20 R366). -/
def State.undoRdv (s : State) (c : Nat) : State :=
  let l := (s.coach c).launch
  let s := l.saves.foldl (fun s p => s.modTile p.1 fun t => { t with seq := p.2.seq }) s
  let last := l.tiles.foldl (fun n t => max n (s.tile t).seq.minIssue) 0 - 1
  s.modLaunch c fun l => { l with saves := [], lastIssued := last }
/-- Is a fault a mismatch of rendezvous? -/
def isMismatch (cls code : Nat) : Bool := cls == 0x8 && (code == 0x02 || code == 0x03)
/-- Another package's stop message, with the class, code and frame cycle of its fault: no bundle issues any more (17 R328 step 1); a
held class is held here too once a frame has begun (R329), so that the strike report that supersedes it reaches every package;
where the replay under way already answers such a strike the fault is superseded. The launch ends with the fault's class in its
status and in FLSTAT; the record is the other package's. A phase whose commit packages do not share settles here neither. -/
def execStopMessage (note : StopNote) (s : State) : Host.Outcome State Fault Refusal :=
  let ⟨coach, cls, code, frame⟩ := note
  if coach < 16 then
    if !s.up then .next s else
    let l := (s.coach coach).launch
    let s := if isMismatch cls code ∧ l.mode = .paused ∧ l.frc = frame then s.undoRdv coach else s
    let s := if cls = 0x4 ∧ code = 0x02 then s.modLaunch coach fun l => l.bar (phaseAt l frame) else s
    let r := s.record coach noTile 0 frame 0 ⟨cls, code, 0x0B, 0#64, 0#64⟩
    let hold (s : State) : State := s.modLaunch coach fun l => { l with mode := .held, hold := some r, sinceWall := s.wall }
    match l.mode with
    | .idle | .finishing => .next s
    | .starting => .next (s.stopLaunch coach r)
    | .closing | .reloading | .waiting =>
      if !heldClass cls then .next (s.stopLaunch coach r)
      else .next (if l.struck.any fun t => decide (t ≤ frame) then s else hold s)
    | m => if heldClass cls then .next (if m = .held then s else hold s) else .next (s.stopLaunch coach r)
  else .fault .noSuchUnit

end Sys2Proof.Machine
end

