-- ==== Sys2Proof/Machine/Loader.lean ====
section
/-! DEFINITION. Launch records, images and their checks, variant selection, placement (03 R91, 04 R103, R104, 05 R126,
10 R237, R248, 12 R266, R267, R269, 13 R281-R283, R287, 18 R340, 20 R367). -/
namespace Sys2Proof.Machine

/-- Bytes of an image or record as they were fetched. -/
abbrev Bytes := Array Byte
/-- Little-endian number of n bytes from an offset; bytes past the end read 0. -/
def Bytes.num (x : Bytes) (o : Nat) : Nat → Nat
  | 0 => 0
  | n + 1 => (x.getD o 0#8).toNat + 256 * Bytes.num x (o + 1) n
def Bytes.slice (x : Bytes) (o n : Nat) : List Byte := (List.range n).map fun i => x.getD (o + i) 0#8
def Bytes.words (x : Bytes) (o w n : Nat) : List Nat := (List.range n).map fun i => x.num (o + w * i) w

/-! ## Launch record (12 Table 12-2) -/

/-- The fields of the 128 bytes of a record. -/
def rawRecord (b : List Byte) : LaunchRec :=
  let x : Bytes := b.toArray
  { type := x.num 0 1, irq := x.num 1 1 % 2 == 1, msix := x.num 2 2, tag := BitVec.ofNat 32 (x.num 4 4)
    image := BitVec.ofNat 64 (x.num 8 8), imageLen := x.num 0x10 8, mirror := BitVec.ofNat 64 (x.num 0x18 8)
    ring := BitVec.ofNat 64 (x.num 0x20 8), np := x.num 0x28 4, timeoutUs := x.num 0x2C 4
    completion := BitVec.ofNat 64 (x.num 0x30 8), count := x.num 0x38 1, index := x.num 0x39 1
    digest := BitVec.ofNat 256 (x.num 0x40 32) }
/-- Size of a function's MSI-X table. -/
def State.msixSize (s : State) (fn : Nat) : Nat := getK 2048 s.pkg.msix fn
/-- Is a record well formed: every field within its limits, every rsvd byte zero? `trained` is the package's index, `vectors`
the size of the owning function's MSI-X table. -/
def recordOk (trained vectors : Nat) (b : List Byte) : Bool :=
  let x : Bytes := b.toArray
  let r := rawRecord b
  (r.type = 1 ∧ r.count = 1 ∧ r.index = 0 ∨ r.type = 2 ∧ 2 ≤ r.count ∧ r.count ≤ 64 ∧ r.index = trained) ∧
    x.num 1 1 < 2 ∧ r.msix < 2048 ∧ r.msix < vectors ∧ r.image.toNat % 4096 = 0 ∧ 256 ≤ r.imageLen ∧ r.imageLen ≤ 2 ^ 40 ∧
    r.mirror.toNat % 64 = 0 ∧ r.ring.toNat % 32 = 0 ∧ 1 ≤ r.np ∧ r.np ≤ 2 ^ 24 ∧ 1 ≤ r.timeoutUs ∧
    r.completion.toNat % 16 = 0 ∧ x.num 0x3A 6 = 0 ∧ x.num 0x60 32 = 0

/-! ## Image container (12 R267) -/

/-- A directory entry. -/
structure Section where
  type : Nat
  variant : Nat
  tile : Nat
  off : Nat
  len : Nat
  deriving DecidableEq, Repr

/-- A refusal before frame cycle 0: its code, and for codes 0x20 to 0x2C the stream address and details of its class 0x1
record (18 R340). -/
structure Refuse where
  code : Nat
  addr : Nat
  d1 : Nat
  d2 : Nat
  deriving DecidableEq, Repr
def refuse1 (code : Nat) : Refuse := ⟨code, 0, 0, 0⟩

/-- Sections whose payload stands once for each variant and tile, each tile, each variant (12 Table 12-4). -/
def Section.ok (x : Section) (nv len : Nat) (zeros : Bool) : Bool :=
  zeros && decide (1 ≤ x.type ∧ x.type ≤ 10) &&
  (if x.type ≤ 2 ∨ x.type = 10 then decide (x.variant < nv) else x.variant == 0xFF) &&
  (if x.type = 10 then x.tile == 0xFFFF else decide (x.tile < 384)) && decide (x.off + x.len ≤ len)
def Section.clash (a b : Section) : Bool :=
  (a.type == b.type && a.variant == b.variant && a.tile == b.tile) ||
  (decide (0 < a.len ∧ 0 < b.len ∧ a.off < b.off + b.len ∧ b.off < a.off + a.len))
/-- No two of a list clash. -/
def noClash : List Section → Bool
  | [] => true
  | a :: r => r.all (fun b => !a.clash b) && noClash r
/-- Header and section directory (12 Table 12-3); none where they are refused. -/
def parseDirectory (x : Bytes) : Option (List Section) :=
  let nv := x.num 6 1
  let n := x.num 8 4
  let sec (i : Nat) : Section × Bool :=
    let o := 0x80 + 32 * i
    (⟨x.num o 2, x.num (o + 2) 1, x.num (o + 4) 2, x.num (o + 8) 8, x.num (o + 16) 8⟩,
      x.num (o + 3) 1 = 0 ∧ x.num (o + 6) 2 = 0 ∧ x.num (o + 24) 8 = 0)
  if x.num 0 4 ≠ 0x4E414B55 ∨ x.num 4 2 ≠ 1 ∨ nv = 0 ∨ nv > 8 ∨ x.num 7 1 > 1 ∨ x.num 0x0C 4 ≠ 0 ∨ x.num 0x70 16 ≠ 0 ∨
      0x80 + 32 * n > x.size then none
  else
    let secs := (List.range n).map sec
    let ss := secs.map (·.1)
    if secs.all (fun p => p.1.ok nv x.size p.2 && decide (0x80 + 32 * n ≤ p.1.off)) && noClash ss then some ss else none

/-- The section of a type, variant and tile. -/
def findSec (ss : List Section) (type variant tile : Nat) : Option Section :=
  ss.find? fun s => s.type == type && s.variant == variant && s.tile == tile

/-! ## Payloads (12 Table 12-4) -/

/-- Scratchpad runs. One whose address or length is no multiple of 256, or that passes the section or the scratchpad, is taken as it
stands: the model's choice (notes/assumptions/53.md). -/
def readRuns (x : Bytes) (o stop : Nat) (m : Mem) : Nat → Mem
  | 0 => m
  | k + 1 =>
    if o + 8 > stop then m
    else
      let a := x.num o 8 % 2 ^ 21
      let n := x.num (o + 4) 4
      readRuns x (o + 8 + n) stop (m.putL a (x.slice (o + 8) n)) k
/-- Vault runs: packed logical addresses with their columns. One that passes the section or row 8,191, or whose bank the map does not
hold, is taken as it stands: the model's choice (notes/assumptions/53.md). -/
def readVault (x : Bytes) (o stop : Nat) : Nat → List (Nat × Vec)
  | 0 => []
  | k + 1 =>
    if o + 8 > stop then []
    else
      let a := unpackV (x.num o 8 % 2 ^ 22)
      let n := x.num (o + 4) 4
      (List.range n).map (fun i =>
        let c := a.row * 16 + a.col + i
        (packV ⟨a.bank, c / 16, c % 16⟩, BitVec.ofNat 2048 (x.num (o + 8 + 256 * i) 256))) ++
      readVault x (o + 8 + 256 * n) stop k
/-- Refill lists: each a header of 8 bytes, then its entries. A list numbered 0 is taken as it stands, and of several lists of one
number the first. All three are the model's reading (notes/assumptions/47.md, notes/assumptions/51.md). -/
def readRefills (x : Bytes) (o stop : Nat) : Nat → List (Nat × List Word)
  | 0 => []
  | k + 1 =>
    if o + 8 > stop then []
    else
      let n := x.num (o + 2) 2
      (x.num o 1, (x.words (o + 8) 8 n).map (BitVec.ofNat 64)) :: readRefills x (o + 8 + 8 * n) stop k
/-- Per-tile sections of a tile. A section of type 0x0006 to 0x0009 of another length than the payload's is read at its offset all the
same: the model's choice (notes/assumptions/51.md, notes/assumptions/53.md). -/
def readTile (x : Bytes) (ss : List Section) (t : Nat) : TileImg :=
  let s (type : Nat) : Section := (findSec ss type 0xFF t).getD ⟨type, 0xFF, t, 0, 0⟩
  let p (y : Section) : Nat := y.len
  { sp := readRuns x (s 3).off ((s 3).off + p (s 3)) [] (p (s 3))
    vault := readVault x (s 4).off ((s 4).off + p (s 4)) (p (s 4))
    refills := readRefills x (s 5).off ((s 5).off + p (s 5)) (p (s 5))
    outs := if p (s 6) = 0 then [] else
      (List.range 15).map fun i => (i + 1, (x.words ((s 6).off + 128 * i) 8 16).map (BitVec.ofNat 64))
    ft := if p (s 7) = 0 then Vector.replicate 16 0#32 else Vector.ofFn fun i => BitVec.ofNat 32 (x.num ((s 7).off + 4 * i.val) 4)
    hasBt := p (s 8) != 0
    bt := if p (s 8) = 0 then [] else Mem.putL [] 0 (x.slice (s 8).off 65536)
    btst := if p (s 8) = 0 then 0#64 else BitVec.ofNat 64 (x.num ((s 8).off + 65536) 8)
    rl0 := if p (s 9) = 0 then 0 else x.num (s 9).off 1
    os0 := if p (s 9) = 0 then 0 else x.num ((s 9).off + 1) 1 }
/-- A variant section, its streams and dictionaries (13 Table 13-1), also those of tiles outside its tile set; its relay
entries have zero gaps. A last half word of a stream, and the bytes past the last whole bundle of a dictionary, are left
out: the model's reading (notes/assumptions/47.md). -/
def readVariant (x : Bytes) (ss : List Section) (v : Nat) : VariantImg × Bool :=
  let s := (findSec ss 10 v 0xFFFF).getD ⟨10, v, 0xFFFF, 0, 0⟩
  let tiles := (List.range 384).filter fun t => (x.num (s.off + 0x28 + t / 8) 1).testBit (t % 8)
  let named := (List.range 384).filter fun t =>
    tiles.contains t || ss.any fun y => (y.type == 1 || y.type == 2) && y.variant == v && y.tile == t
  let nr := x.num (s.off + 0x58) 4
  let n := nr * tiles.length
  let entry (i : Nat) : RelayEntry :=
    let o := s.off + 0x60 + 16 * i
    ⟨x.num o 8, x.num (o + 8) 4, x.num (o + 12) 1 = 1⟩
  let code (t : Nat) : List CodeWord :=
    match findSec ss 1 v t with | some y => (x.words y.off 2 (y.len / 2)).map (BitVec.ofNat 16) | none => []
  let dict (t : Nat) : List Bundle :=
    match findSec ss 2 v t with | some y => (x.words y.off 48 (y.len / 48)).map (BitVec.ofNat 384) | none => []
  ({ req := BitVec.ofNat 64 (x.num s.off 8), hash := BitVec.ofNat 256 (x.num (s.off + 8) 32), tiles := tiles, nr := nr
     relay := (List.range n).map entry, code := named.map fun t => (t, code t), dict := named.map fun t => (t, dict t) },
    s.len = 0x60 + 16 * n ∧ x.num (s.off + 0x5C) 4 = 0 ∧
      (List.range n).all fun i =>
        let o := s.off + 0x60 + 16 * i
        x.num (o + 8) 4 < 2 ^ 17 ∧ x.num (o + 12) 1 < 2 ∧ x.num (o + 13) 3 = 0)

/-! ## Image checks (05 R126, 18 R340) -/

/-- What a bundle is checked against: the stream, the refill lists and output sets of its tile. -/
structure BundleCtx where
  code : List CodeWord
  refills : List Nat
  outs : List Nat

/-- Checks of one enabled slot. -/
def checkSlot (k : BundleCtx) (b : Bundle) (sl : Slot) : Option (Nat × Nat) :=
  let w := bundleSlot b sl
  let hdr := (b.extractLsb' 360 24).toNat
  let alone := ([.S, .L, .VA, .VB, .M, .X, .DR, .DC] : List Slot).all fun s => !bundleEn b s
  match decodeSlot sl (bundleFtl b) w with
  | .error e => some (e.code, w.toNat)
  | .ok (.prep _ _ t) => if itemAt k.code 0 t.toNat then none else some (0x29, w.toNat)
  | .ok (.relay _) => if alone then none else some (0x2A, hdr)
  | .ok (.rdv _ _ _) => if alone then none else some (0x2A, hdr)
  | .ok (.commit _ rl os) =>
    if (rl.toNat = 0 ∨ k.refills.contains rl.toNat) ∧ (os.toNat = 0 ∨ k.outs.contains os.toNat) then none
    else some (0x2B, w.toNat)
  | .ok _ => none
/-- Slots high to low as a bundle holds them (05 R117). -/
def slotOrder : List Slot := [.C, .S, .L, .VA, .VB, .M, .X, .DR, .DC]
/-- First breach of a bundle: its code and Detail 2. A table-mode `mmul` or `mst` is known by its opcode and tm (05 Table 5-4).
Of several breaches of one bundle the header's comes first, then the
slots' from C to DC: the model's order (notes/assumptions/47.md). -/
def checkBundle (k : BundleCtx) (b : Bundle) : Option (Nat × Nat) :=
  let hdr := (b.extractLsb' 360 24).toNat
  let m := bundleSlot b .M
  let op := (fld m 27 7).toNat
  let table := bundleEn b .M && (op == 2 || op == 5) && fld m 9 1 == 1#1
  if bundleRsvd b ≠ 0#2 ∨ (bundleFtl b ≠ 0#2 ∧ !table) then some (0x23, hdr)
  else
    slotOrder.findSome? fun sl =>
      if bundleEn b sl then checkSlot k b sl
      else if bundleSlot b sl = 0#40 then none else some (0x24, (bundleSlot b sl).toNat)

/-- First breach among the words of a stream from address `a`; `last` is the first word of the item before, at `lastAt`. -/
def checkStream (k : BundleCtx) (ndict a lastAt : Nat) (last : CodeWord) (ws : List CodeWord) : Nat → Option (Nat × Nat × Nat)
  | 0 => none
  | n + 1 =>
    match ws with
    | [] => if last = 0xFC00#16 then none else some (0x2C, lastAt, last.toNat)
    | w :: r =>
      match decodeWord w with
      | .error e => some (e.code, a, w.toNat)
      | .ok (.issue i) => if i.toNat < ndict then checkStream k ndict (a + 1) a w r n else some (0x22, a, w.toNat)
      | .ok .escape =>
        match literal r with
        | none => some (0x21, a, w.toNat)
        | some b =>
          match checkBundle k b with
          | some (c, d) => some (c, a, d)
          | none => checkStream k ndict (a + 25) a w (r.drop 24) n
      | .ok _ => checkStream k ndict (a + 1) a w r n
/-- First breach among dictionary entries from index i. -/
def checkDict (k : BundleCtx) (i : Nat) : List Bundle → Option (Nat × Nat × Nat)
  | [] => none
  | b :: r =>
    match checkBundle k b with
    | some (c, d) => some (c, i, d)
    | none => checkDict k (i + 1) r
/-- Lookup in a list by number. -/
def look {α : Type} (d : α) (xs : List (Nat × α)) (n : Nat) : α := match xs.find? (fun p => p.1 == n) with | some p => p.2 | none => d
/-- The image's format-table row that is neither legal nor unused, the lowest (03 R91). -/
def TileImg.badRow (img : TileImg) : Option Nat :=
  ((List.range 16).map fun m => img.ft.getD m 0#32).find? (fun w => !ftOk w) |>.map (·.toNat)
/-- First breach of a tile in a variant (18 R340). Three points that the spec leaves open are the model's choice
(notes/assumptions/51.md): a stream or dictionary past its limit (02 R37) is refused with 0x03; a tile that has a dictionary and no
stream, or stands in the tile set without either, has the empty stream and is refused with 0x2C (05 R126); the rows of the
format table come after the dictionary. -/
def checkTile (v : Nat) (vi : VariantImg) (img : TileImg) (t : Nat) : Option Refuse :=
  let code := look [] vi.code t
  let dict := look [] vi.dict t
  let k : BundleCtx := ⟨code, img.refills.map (·.1), img.outs.map (·.1)⟩
  if code.length > codeMax ∨ dict.length > 4096 then some (refuse1 0x03)
  else
    match checkStream k dict.length 0 0 0#16 code (code.length + 1) with
    | some (c, a, d) => some ⟨c, a, v, d⟩
    | none =>
      match checkDict k 0 dict with
      | some (c, i, d) => some ⟨c, 0, v + 2 ^ 8 + i * 2 ^ 16, d⟩
      | none =>
        img.badRow.map fun w => ⟨0x28, 0, v, w⟩

/-- Follows the free chain from a head over n words (10 R248): the ids it visits, none where it leaves the free words. -/
def freeChain (m : Mem) (head : Nat) : Nat → Option (List Nat)
  | 0 => some []
  | n + 1 =>
    let w := m.blkWord head
    if w < 2 ^ 15 then none else (freeChain m (w % 2 ^ 14) n).map fun r => head :: r
/-- Block-table image: the four conditions of 10 R248. -/
def blockOk (m : Mem) (btst : Word) : Bool :=
  let head := bits btst 45 32
  let n := bits btst 30 16
  (match freeChain m head n with
    | some ids => ids.eraseDups.length == n
    | none => false) &&
  (List.range 1024).all (fun i => let d := m.dirEntry i; decide (d.base + d.layers * d.bpl ≤ 14336)) &&
  (List.range 14336).all fun i => let x := m.blkList i; x == 0xFFFF || m.blkWord (x % 2 ^ 14) < 2 ^ 15

/-- Commits of a stream in address order: refill list and output set. -/
def commitsOf (dict : List Bundle) (ws : List CodeWord) : Nat → List (Nat × Nat)
  | 0 => []
  | n + 1 =>
    let one (b : Bundle) : List (Nat × Nat) :=
      if bundleEn b .C then match decodeSlot .C 0#2 (bundleSlot b .C) with | .ok (.commit _ rl os) => [(rl.toNat, os.toNat)] | _ => []
      else []
    match ws with
    | [] => []
    | w :: r =>
      match decodeWord w with
      | .ok (.issue i) => (match dict[i.toNat]? with | some b => one b | none => []) ++ commitsOf dict r n
      | .ok .escape => (match literal r with | some b => one b | none => []) ++ commitsOf dict (r.drop 24) n
      | _ => commitsOf dict r n
/-- An item of a stream: address, words, the operation of its C slot, and whether the stream ends there. -/
structure Item where
  addr : Nat
  words : Nat
  c : Option Instr
  last : Bool
  deriving DecidableEq, Repr
/-- Items of a stream from address a. -/
def itemsOf (dict : List Bundle) (a : Nat) (ws : List CodeWord) : Nat → List Item
  | 0 => []
  | n + 1 =>
    let op (b : Option Bundle) : Option Instr := b.bind fun b =>
      if bundleEn b .C then match decodeSlot .C 0#2 (bundleSlot b .C) with | .ok i => some i | _ => none else none
    match ws with
    | [] => []
    | w :: r =>
      match decodeWord w with
      | .ok (.issue i) => ⟨a, 1, op dict[i.toNat]?, false⟩ :: itemsOf dict (a + 1) r n
      | .ok .escape => ⟨a, 25, op (literal r), false⟩ :: itemsOf dict (a + 25) (r.drop 24) n
      | .ok .endStream => ⟨a, 1, none, true⟩ :: itemsOf dict (a + 1) r n
      | _ => ⟨a, 1, none, false⟩ :: itemsOf dict (a + 1) r n
/-- Is a guard true whatever the predicates hold? -/
def alwaysOn (g : Guard) : Bool := (g.p == 0#5 && !g.neg) || (g.p == 1#5 && g.neg)
/-- A variant as a tile meets it: the items of its stream, and its relay entries by relay number; nothing for a tile outside the
variant's set. -/
structure Route where
  items : List Item
  entries : List RelayEntry
  deriving DecidableEq, Repr
def VariantImg.route (v : VariantImg) (t : Nat) : Route :=
  if v.tiles.contains t then
    ⟨itemsOf (look [] v.dict t) 0 (look [] v.code t) codeMax,
      (v.relay.zipIdx.filter fun e => nth v.tiles (e.2 % v.tiles.length) == t).map (·.1)⟩
  else ⟨[], []⟩
/-- A running loop as a path knows it: counter, the body's start and stop, and the runs that are left after this one, none where
the path leaves them open. -/
structure Turn where
  counter : Nat
  start : Nat
  stop : Nat
  left : Option Nat
  deriving DecidableEq, Repr
def Turn.holds (l : Turn) (a : Nat) : Bool := decide (l.start ≤ a ∧ a < l.stop)
/-- Where a path goes on that comes to address a with some loops running, innermost first: at a, unless bodies end there, of
which each returns or leaves in turn (06 R150). -/
def turnsAt (a : Nat) : List Turn → List (Nat × List Turn)
  | [] => [(a, [])]
  | l :: r =>
    let out := turnsAt a r
    if l.stop ≠ a then out.map fun x => (x.1, l :: x.2)
    else match l.left with
      | none => (l.start, l :: r) :: out
      | some 0 => out
      | some (k + 1) => [(l.start, { l with left := some k } :: r)]
/-- A place on a tile's paths: variant, stream address, relay points passed, the refill list of the phase that runs there, what
the path has given the steer registers (none: a target that it does not know), and the running loops, innermost first. -/
structure Place4 where
  variant : Nat
  addr : Nat
  relays : Nat
  rl : Nat
  steers : List (Nat × Option Nat)
  turns : List Turn
  deriving DecidableEq, Repr
/-- The places where a path comes to an address with some loops running. -/
def Place4.come (p : Place4) (a : Nat) (ts : List Turn) : List Place4 :=
  (turnsAt a ts).map fun x => { p with addr := x.1, turns := x.2 }
/-- A redirect through a steer register, which before any `prep` holds its launch value 0; none where the path does not know
the target, or where it would leave the body of a running loop (06 R152). -/
def Place4.jump (p : Place4) (st : BitVec 4) : List Place4 :=
  match getK (some 0) p.steers st.toNat with
  | some t => if p.turns.all fun l => !l.holds p.addr || l.holds t then p.come t p.turns else []
  | none => []
/-- Runs after the first that a path has before it in the body of a `loop`: those of an immediate count where the body holds a
`relay`, whose number tells the relay points apart, or runs once. -/
def runsLeft (xs : List Item) (start stop : Nat) : LoopCount → Option Nat
  | .imm k =>
    let relay := xs.any fun x => decide (start ≤ x.addr ∧ x.addr < stop) && match x.c with | some (.relay _) => true | _ => false
    if relay || k == 0#10 then some k.toNat else none
  | .reg _ => none
/-- Places that may follow an item. A relay point goes on at its own number's entry, of any variant (13 R289); a steer register
leads where the path's own `prep` sent it; a loop with an immediate count runs its body, one with a count in a register may skip
it; what stops a launch leads nowhere (notes/assumptions/46.md). -/
def Place4.next (p : Place4) (rs : List Route) (x : Item) : List Place4 :=
  let items := (rs.getD p.variant ⟨[], []⟩).items
  let on := x.addr + x.words
  let fall (p : Place4) : List Place4 := p.come on p.turns
  let pass (g : Guard) : List Place4 := if alwaysOn g then [] else fall p
  if x.last then []
  else match x.c with
    | some (.commit g rl _) => fall { p with rl := rl.toNat } ++ pass g
    | some (.relay g) => (rs.zipIdx.filterMap fun w => (w.1.entries[p.relays]?).map fun e =>
        { p with variant := w.2, addr := e.addr, relays := p.relays + 1 }) ++ pass g
    | some (.prep g st t) => fall { p with steers := setK p.steers st.toNat (some t.toNat) } ++ pass g
    | some (.prepr g st _) => fall { p with steers := setK p.steers st.toNat none } ++ pass g
    | some (.jmp g st) => p.jump st ++ pass g
    | some (.br _ st) | some (.brn _ st) => p.jump st ++ fall p
    | some (.loop g n k len) =>
      let stop := on + len.toNat
      (if p.turns.any fun l => l.counter == n.toNat || (l.holds x.addr && decide (l.stop < stop)) then []
        else p.come on (⟨n.toNat, on, stop, runsLeft items on stop k⟩ :: p.turns) ++
          match k with | .imm _ => [] | .reg _ => p.come stop p.turns) ++ pass g
    | some (.lbrk g n) =>
      (match p.turns.find? fun l => l.holds x.addr with
        | some l => if l.counter = n.toNat then p.come l.stop (p.turns.erase l) else []
        | none => []) ++ pass g
    | _ => fall p
/-- Does a commit on the paths from some places give the phase after it output ranges that meet the refill list of the phase that
it ends (02 R49)? -/
def pathsMeet (rs : List Route) (clash : Nat → Nat → Bool) (seen : List Place4) : List Place4 → Nat → Bool
  | [], _ => false
  | _, 0 => false
  | p :: r, n + 1 =>
    if seen.contains p then pathsMeet rs clash seen r n
    else
      match (rs.getD p.variant ⟨[], []⟩).items.find? fun x => x.addr == p.addr with
      | none => pathsMeet rs clash (p :: seen) r n
      | some x =>
        (match x.c with | some (.commit _ _ os) => clash p.rl os.toNat | _ => false) ||
          pathsMeet rs clash (p :: seen) (p.next rs x ++ r) n
/-- Do the rows of a phase's refill list meet the output ranges of a phase that may follow it on a tile (02 R49)? The paths
begin at launch, under any variant, and where the tile enters at a relay point. -/
def rowsMeet (img : TileImg) (rs : List Route) : Bool :=
  let clash (rl os : Nat) : Bool := (getK [] img.refills rl).any fun e => (getK [] img.outs os).any fun o =>
    rangeHas o (refillOf e).1.bank (refillOf e).1.row
  let starts := rs.zipIdx.flatMap fun w => ⟨w.2, 0, 0, img.rl0, [], []⟩ ::
    w.1.entries.zipIdx.filterMap fun e => if e.1.enter then some ⟨w.2, e.1.addr, e.2 + 1, img.rl0, [], []⟩ else none
  pathsMeet rs clash [] starts (2 ^ 40)

/-- Requirement word without reserved codes or bits (13 Table 13-2, R282). -/
def reqOk (w : Word) : Bool :=
  bits w 63 16 == 0 && bits w 7 6 == 0 && bits w 3 3 == 0 && bits w 5 4 != 3 &&
  ([1, 2, 4].contains (bits w 2 0)) && (List.range 4).all fun k => bits w (9 + 2 * k) (8 + 2 * k) != 3
def VariantImg.banks (v : VariantImg) : Nat := 32 - bits v.req 5 4
def VariantImg.cls (v : VariantImg) : Nat := bits v.req 2 0
/-- Variant section checks (13 R282). -/
def variantsOk (hash : BitVec 256) (vs : List (VariantImg × Bool)) : Bool :=
  vs.all fun p =>
    p.2 && p.1.hash == hash && reqOk p.1.req && (match vs with | q :: _ => p.1.nr == q.1.nr | [] => true) &&
    p.1.relay.zipIdx.all fun e =>
      itemAt (look [] p.1.code (nth p.1.tiles (e.2 % p.1.tiles.length))) 0 e.1.addr

/-- Reads and checks an image (12 R267, R269 step 2). The format-table rows of a tile without a stream come after the streams, under
variant 0: the model's choice (notes/assumptions/51.md). -/
def parseImage (x : Bytes) : Except Refuse Image :=
  match parseDirectory x with
  | none => .error (refuse1 0x03)
  | some ss =>
    let hash := BitVec.ofNat 256 (x.num 0x10 32)
    let vs := (List.range (x.num 6 1)).map (readVariant x ss)
    if !variantsOk hash vs then .error (refuse1 0x08)
    else
      let tiles := ((vs.flatMap fun v => v.1.code.map (·.1)) ++ (ss.filter fun s => s.tile != 0xFFFF).map (·.tile)).eraseDups
      let data := (sortBy (fun a b => decide (a ≤ b)) tiles).map fun t => (t, readTile x ss t)
      match (vs.zipIdx).findSome? fun v => v.1.1.code.findSome? fun t =>
          checkTile v.2 v.1.1 (look TileImg.reset data t.1) t.1 with
      | some r => .error r
      | none =>
        match data.findSome? fun d => d.2.badRow with
        | some w => .error ⟨0x28, 0, 0, w⟩
        | none =>
        if data.any fun d => d.2.hasBt && !blockOk d.2.bt d.2.btst then .error (refuse1 0x09)
        else if data.any fun d => rowsMeet d.2 (vs.map fun v => v.1.route d.1) then .error (refuse1 0x0D)
        else
          .ok { domain := x.num 7 1 == 1, hash := hash, peers := (x.words 0x30 4 16).map (BitVec.ofNat 16)
                variants := vs.map (·.1), data := data }

/-! ## Variant selection (13 R283, R287) -/

/-- Rank of a class: 1 < 2 < 4 < 0. -/
def classRank : Nat → Nat
  | 1 => 1 | 2 => 2 | 4 => 3 | _ => 4
/-- Forecast class of a stack (13 Table 13-5). -/
def State.fclass (s : State) (stack : Nat) : Nat := bits (s.pkg.fcst.getD stack 0#64) 2 0
/-- The larger class of two. -/
def worse (a b : Nat) : Nat := if classRank a ≥ classRank b then a else b
/-- Forecast class of a coach: the largest over the stacks that hold its tiles. -/
def State.coachClass (s : State) (c : Nat) : Nat := (s.tilesOf c).foldl (fun k t => worse k (s.fclass (stackOf t))) 1
/-- Rate of a port group: the lowest of its four ports. -/
def State.groupRate (s : State) (g : Nat) : Nat :=
  (List.range 4).foldl (fun r i => min r (s.pkg.ports.getD (4 * g + i) Port.reset).rate) 2
/-- Does every port group run at the rate a variant asks for? -/
def State.ratesOk (s : State) (v : VariantImg) : Bool :=
  (List.range 4).all fun g =>
    let need := bits v.req (9 + 2 * g) (8 + 2 * g)
    need == 0 || decide (need ≤ s.groupRate g)
/-- Are the tiles of a variant enabled, not failed, with banks enough, and all in the coach's rectangle, or all in its planned
rectangle where the plan can be applied with this variant (13 R283, R291)? -/
def State.tilesOk (s : State) (c : Nat) (v : VariantImg) : Bool :=
  let k := s.coach c
  (v.tiles.all fun t =>
    let x := s.tile t
    x.own.enabled && !x.own.failed && decide (v.banks ≤ 32 - retiredCount x.vault.retired)) &&
  (v.tiles.all (fun t => (rectOf k.crect).has t) ||
    (k.cplan != k.crect && v.tiles.all (fun t => (rectOf k.cplan).has t) && s.planFits c v.tiles && !k.planBusy))
/-- Is the forecast class at most the variant's class? -/
def classOk (cls : Nat) (v : VariantImg) : Bool := decide (classRank cls ≤ classRank v.cls)
/-- Do a variant's requirements hold under a forecast class (13 R283)? -/
def State.holds (s : State) (c cls : Nat) (v : VariantImg) : Bool := classOk cls v && s.ratesOk v && s.tilesOk c v
/-- Numbers of the variants that hold, lowest first. -/
def State.holding (s : State) (c cls : Nat) (vs : List VariantImg) : List Nat :=
  (vs.zipIdx.filter fun v => s.holds c cls v.1).map (·.2)
/-- A set of variants as a report carries it. -/
def setOf (vs : List Nat) : BitVec 8 := BitVec.ofNat 8 (vs.foldl (fun m i => m + 2 ^ i) 0)

/-! ## Vault translation table (04 R104) -/

/-- Translation of a row by entries e to e + k - 1, before it is known to lie in the bank. -/
def rowInt (va vb : Vector Word 16) (b r e : Nat) : Nat → Int
  | 0 => r
  | k + 1 =>
    if vttHit (va.getD e 0#64) b r then (r : Int) + toSigned 14 (bits (vb.getD e 0#64) 13 0)
    else rowInt va vb b r (e + 1) k
/-- Marks the physical rows of logical rows r to r + k - 1; none where one falls outside or twice on a row. -/
def markRows (va vb : Vector Word 16) (b r : Nat) (seen : Array Bool) : Nat → Option (Array Bool)
  | 0 => some seen
  | k + 1 =>
    let p := rowInt va vb b r 0 16
    if p < 0 ∨ (Config.physRows : Int) ≤ p ∨ seen.getD p.toNat false then none
    else markRows va vb b (r + 1) (seen.setIfInBounds p.toNat true) k
/-- Does every logical row reach a row of its own? -/
def VaultSt.tableOk (v : VaultSt) : Bool :=
  v.vttA.all (fun a => !a.getLsbD 63) ||
  (List.range 32).all fun b => (markRows v.vttA v.vttB b 0 (Array.replicate Config.physRows false) Config.rows).isSome

/-! ## Placement (02 R37, 04 R94, R96, 10 R237) -/

/-- Fields of the BTST word of an image. -/
def BlkSt.ofImage (m : Mem) (w : Word) : BlkSt := ⟨m, bits w 45 32, bits w 30 16, 0, []⟩
/-- A tile's state at frame cycle 0 of a launch under a variant and refresh class: what the image gives, what stays (vault,
translation table, owner; the block table where the image holds none, 11 R259, notes/assumptions/47.md), and the start state
of phase 0 in snapshot slot 0. That slot 1 is cleared is the model's choice (notes/assumptions/48.md). -/
def Tile.place (t : Tile) (img : TileImg) (code : List CodeWord) (dict : List Bundle) (banks cls wall : Nat) : Tile :=
  let v : VaultSt := { t.vault.finishMigration with
    banks := t.vault.banks.map fun b => { Bank.reset with ptr := nextGroup b.ptr }
    window := none, eng := Vector.replicate 32 EngBank.reset, n := banks, rfclass := cls, watermark := none
    lastRefWall := Vector.replicate 32 wall }
  let v := img.vault.foldl (fun v p => v.setColumn (unpackV p.1) p.2) v
  let s0 : Snap := { Snap.reset with valid := true, ft := img.ft, ftmask := 0xFFFF#16, banks := v.banks, rl := img.rl0, os := img.os0 }
  { Tile.reset with
    ft := img.ft, sp := img.sp, vault := v
    blk := if img.hasBt then BlkSt.ofImage img.bt img.btst else { t.blk with ops := 0, journal := [] }
    seq := { SeqSt.reset with code := code, dict := dict, buf := 64, rl := img.rl0, os := img.os0, refills := img.refills, outs := img.outs }
    snaps := Tile.reset.snaps.setIfInBounds 0 s0
    own := { t.own with errs := t.own.errs.filter fun e =>
      (e.store == 4 && !img.vault.any fun p => p.1 == e.idx) || (e.store == 3 && !img.hasBt) } }
/-- A tile placed once more before it has run: its banks have had their REFB (10 R237), so the refresh pointers stay. -/
def Tile.again (t old : Tile) : Tile :=
  { t with vault := { t.vault with banks := Vector.ofFn fun i => { t.vault.bank i.val with ptr := (old.vault.bank i.val).ptr } } }
/-- The other tiles of the coach take the bank map of a variant of so many banks (13 R288, R291). -/
def Tile.setBanks (t : Tile) (banks : Nat) : Tile :=
  { t with vault := { t.vault.finishMigration with n := min banks (32 - retiredCount t.vault.retired) } }
/-- Places variant n on every tile of its set (12 R269 step 5); those in `placed` have been placed for this launch before. The bank map
of the variant is in force on every tile of the coach. -/
def State.placeAll (s : State) (c n : Nat) (placed : List Nat) : State :=
  let l := (s.coach c).launch
  match l.image.variants[n]? with
  | none => s
  | some v =>
    let cls := s.coachClass c
    let s := v.tiles.foldl (fun s t => s.modTile t fun x =>
      let y := x.place (l.dataOf t) (look [] v.code t) (look [] v.dict t) v.banks cls s.wall
      if placed.contains t then y.again x else y) s
    let s := s.modTiles (·.setBanks v.banks) ((s.tilesOf c).filter fun t => !v.tiles.contains t)
    s.modCoach c fun k => { k with hot := false, launch := { k.launch with variant := n, tiles := v.tiles } }

/-! ## Loading (12 R269, R270) -/

/-- Translation for writing of the mirrors, the digest ring and the completion address (12 R269 step 1). -/
def State.probeAll (s : State) (c : Nat) (r : LaunchRec) (tiles : Nat) : Bool :=
  let p (a n : Nat) : Bool := ((s.coach c).hostProbe s.pkg.host a n (n / 256 + 2)).isNone
  p r.mirror.toNat 64 && p r.ring.toNat (32 * r.np * tiles) && p r.completion.toNat 16
/-- Does the peer map of an image equal the trained one on its used entries (08 R203)? -/
def State.peersOk (s : State) (img : Image) : Bool :=
  img.peers.zipIdx.all fun e =>
    let x := e.1.toNat
    decide (x < 2 ^ 15) || (match (s.pkg.ports.getD e.2 Port.reset).peer with
      | some (pkg, port) => decide (pkg = x % 64 ∧ port = x / 2 ^ 8 % 16)
      | none => false)
/-- Most tiles of a variant of an image, 0 where its directory cannot be read. The digest ring is probed for so many tiles before a
variant is selected: the model's choice (notes/assumptions/53.md). -/
def imageTiles (x : Bytes) : Nat :=
  match parseDirectory x with
  | none => 0
  | some ss => maxOf ((List.range (x.num 6 1)).map fun v => (readVariant x ss v).1.tiles.length)
/-- Step 1 of R269: the image as fetched, its digest, the translations for writing; then steps 2 to 4. A host port error while the
image is fetched is refused with 0x04, and a header whose domain bit is not that of the record's type with 0x03: the model's
choice (notes/assumptions/53.md). -/
def State.loadChecks (s : State) (c : Nat) (r : LaunchRec) : Except Refuse Image :=
  match s.hread c r.image.toNat r.imageLen with
  | .error _ => .error (refuse1 0x04)
  | .ok bytes =>
    if sha3_256 bytes ≠ r.digest then .error (refuse1 0x02)
    else if !s.probeAll c r (imageTiles bytes.toArray) then .error (refuse1 0x04)
    else
      match parseImage bytes.toArray with
      | .error e => .error e
      | .ok img =>
        if img.domain ≠ (r.type == 2) then .error (refuse1 0x03)
        else if img.variants.any (fun v => v.code.any fun t => !(rectOf (s.coach c).crect).has t.1) then .error (refuse1 0x05)
        else if r.type = 2 ∧ !s.peersOk img then .error (refuse1 0x06)
        else .ok img

/-- A launch refused before frame cycle 0: one record, the completion record with the code, and the coach is idle again, so that
a plan that waits is applied (20 R367, 13 R291). -/
def State.refuseLaunch (s : State) (c : Nat) (e : Refuse) : State :=
  let img := decide (0x20 ≤ e.code ∧ e.code ≤ 0x2C)
  let x : Fail := if img then ⟨0x1, e.code, 0x0B, BitVec.ofNat 64 e.d1, BitVec.ofNat 64 e.d2⟩
    else ⟨0x8, 0x40, 0x0B, BitVec.ofNat 64 e.code, 0#64⟩
  (((s.log c (s.record c noTile 0 0 e.addr x)).complete c e.code).modLaunch c fun _ => Launch.reset).planIdle c

/-- The launch has been placed: its counters and mirrors are 0; a domain launch reports the variants that hold and waits for
START, also where none holds here, since package 0 then refuses it on every package (12 R270). -/
def State.await (s : State) (c : Nat) (vs : List Nat) : State :=
  let s := s.modCoach c fun k => { k with
    tls := Vector.replicate 8 Timeline.reset, ops := [], unshown := [], pushes := [], faults := []
    launch := { k.launch with mode := .starting, sinceWall := s.wall } }
  (s.writeMirrors c).reportNow c .ready (setOf vs)
/-- Loads a launch whose record the queue's tail covers since wall cycle `tailWall` (12 R269): checks, variant, placement, mirrors; a
package launch then begins at the next cycle. A launch that is no restore begins a lineage of its own (14 R299). -/
def State.load (s : State) (c fn : Nat) (r : LaunchRec) (tailWall : Nat) : State :=
  let (n, s) := s.draw
  let s := s.modLaunch c fun _ => { Launch.reset with
    lrec := r, fn := fn, sentTag := r.tag, lineage := (Config.freeRandom n).truncate 128, tailWall := tailWall }
  match s.loadChecks c r with
  | .error e => s.refuseLaunch c e
  | .ok img =>
    let s := s.modLaunch c fun l => { l with image := img }
    let vs := s.holding c (s.coachClass c) img.variants
    match vs with
    | [] => if r.type = 2 then s.await c vs else s.refuseLaunch c (refuse1 0x07)
    | v :: _ => -- the tables of every variant's tiles, since a relay point may place any of them
      if img.variants.any fun w => w.tiles.any fun t => !(s.tile t).vault.tableOk then
        s.refuseLaunch c (refuse1 0x0A)
      else
      (s.placeAll c v []).await c vs

/-- Frame cycle 0 of a launch: FLSTAT and the counters are 0, and phase 0 begins (17 R326); what its ports hold of an earlier
launch is gone. -/
def State.startLaunch (s : State) (c : Nat) : State :=
  let ports := if (s.coach c).launch.isDomain then s.portsOf c else []
  let s := s.modPkg fun p => { p with ports := ports.foldl (fun v n =>
    v.setIfInBounds n { v.getD n Port.reset with holding := [], lost := [] }) p.ports }
  s.modCoach c fun k => { k with
    log := { k.log with tag := k.launch.lrec.tag, cls := 0, code := 0, cancels := 0, restarts := 0, strikes := 0, settled := 0 }
    launch := Launch.begin { k.launch with
      mode := .running, frc := 0, startEpoch := none, reported := [], ranVariant := k.launch.variant } 0 }

end Sys2Proof.Machine
end

