-- ==== Sys2Proof/Machine/Registers.lean ====
section
/-! DEFINITION. The host's registers: queue table, coach control blocks, APSEL and the tile aperture, far session table, fault
log, lifetime blocks, event log (01 R22, 12 R263-R265, R272, R279, R280, 13 R287, R291, 14 R293, 17 R326, 19 R361, 20 R365,
R370). -/
namespace Sys2Proof.Machine

/-! ## Functions (12 Table 12-1) -/

/-- Is a function one of the 128 virtual and two physical ones? -/
def isFn (fn : Nat) : Bool := decide (fn < 130)
def isPf (fn : Nat) : Bool := decide (128 ≤ fn ∧ fn < 130)

/-! ## Queue table (12 R263-R265) -/

def State.queue (s : State) (q : Nat) : Queue := getK Queue.reset s.pkg.queues q
def State.setQueue (s : State) (q : Nat) (x : Queue) : State := s.modPkg fun p => { p with queues := setK p.queues q x }
/-- May a function reach an entry? -/
def State.mayQueue (s : State) (fn q : Nat) : Bool := isPf fn || (isFn fn && (s.queue q).owner == fn)
/-- Is a queue bound to a coach owned by a function? -/
def State.bound (s : State) (fn c : Nat) : Bool := s.pkg.queues.any fun p => p.2.owner == fn && p.2.coach == c
/-- Pending records. -/
def Queue.pending (x : Queue) : Nat := (x.tail - x.head).toNat
/-- The lap rule: more pending records than the ring holds stop the queue. -/
def Queue.lapRule (x : Queue) : Queue := if x.pending > 2 ^ x.lsz then { x with status := 0x01, en := false } else x
def Queue.setTail (x : Queue) (tail : BitVec 32) : Queue := { x with tail := tail }.lapRule
/-- Writing en from 0 to 1. -/
def Queue.enable (x : Queue) : Queue :=
  if !x.en ∧ 4 ≤ x.lsz ∧ x.lsz ≤ 16 ∧ x.owner < 130 then { x with en := true, head := x.tail, status := 0, tails := [] } else x
def Queue.disable (x : Queue) : Queue := { x with en := false }
/-- A write of the configuration word [191:128] by a function. -/
def Queue.writeCfg (x : Queue) (pf : Bool) (w : Word) : Queue :=
  let y := if x.en then x else
    { x with
      lsz := bits w 48 44
      coach := if pf then bits w 63 60 else x.coach
      owner := if pf then bits w 59 52 else x.owner }
  let y := { y with prio := bits w 51 50 }
  if w.getLsbD 49 then y.enable else y.disable
/-- The four words of an entry. -/
def Queue.word (x : Queue) : Nat → Word
  | 0 => x.base
  | 1 => BitVec.ofNat 64 (x.tail.toNat * 2 ^ 32 + x.head.toNat)
  | 2 => BitVec.ofNat 64 (x.coach * 2 ^ 60 + x.owner * 2 ^ 52 + x.prio * 2 ^ 50 + (if x.en then 2 ^ 49 else 0) + x.lsz * 2 ^ 44)
  | 3 => BitVec.ofNat 64 (x.status * 2 ^ 56 + x.started.toNat)
  | _ => 0#64
/-- A write of word k of an entry. -/
def Queue.write (x : Queue) (pf : Bool) (k : Nat) (w : Word) : Queue :=
  match k with
  | 0 => if x.en then x else { x with base := w &&& ~~~0x7F#64 }
  | 1 => x.setTail (w.extractLsb' 32 32)
  | 2 => x.writeCfg pf w
  | _ => x
/-- Keeps the wall cycle of a tail write: from it on the host's buffers of the records before it are the package's (11 R258). -/
def Queue.noteTail (x : Queue) (tail : BitVec 32) (wall : Nat) : Queue :=
  if x.tail = tail then x else { x with tails := x.tails ++ [(x.tail, wall)] }
/-- The wall cycle of the tail write that a record stands before, the first one. -/
def Queue.tailWall (x : Queue) (k : BitVec 32) (wall : Nat) : Nat :=
  match x.tails.find? fun e => decide (1 ≤ (e.1 - k).toNat ∧ (e.1 - k).toNat ≤ 65536) with
  | some e => e.2
  | none => wall
/-- The record at the head is taken: tail writes that no later record stands before are forgotten. -/
def Queue.take (x : Queue) : Queue :=
  { x with head := x.head + 1, started := x.started + 1
           tails := x.tails.filter fun e => decide (1 ≤ (e.1 - (x.head + 1)).toNat ∧ (e.1 - (x.head + 1)).toNat ≤ 65536) }
/-- A write to an entry where the function may reach it; ignored otherwise. A change of owner or coach goes into a new
configuration image (01 R31). -/
def State.queueWrite (s : State) (fn q : Nat) (f : Queue → Queue) : State :=
  if s.up ∧ s.mayQueue fn q then
    let old := s.queue q
    let x := (f old).noteTail old.tail s.wall
    let s := s.setQueue q x
    if x.owner = old.owner ∧ x.coach = old.coach then s
    else s.newConfig fun k => { k with queues := setK k.queues q (x.owner, x.coach) }
  else s

def execQueueTailWrite (fn q : Nat) (tail : BitVec 32) (s : State) : Host.Outcome State Fault Refusal :=
  if q < 32768 ∧ isFn fn then .next (s.queueWrite fn q fun x => x.setTail tail) else .fault .noSuchUnit
def execQueueEnable (fn q : Nat) (s : State) : Host.Outcome State Fault Refusal :=
  if q < 32768 ∧ isFn fn then .next (s.queueWrite fn q Queue.enable) else .fault .noSuchUnit
def execQueueDisable (fn q : Nat) (s : State) : Host.Outcome State Fault Refusal :=
  if q < 32768 ∧ isFn fn then .next (s.queueWrite fn q Queue.disable) else .fault .noSuchUnit

/-! ## Coach control blocks (12 Table 12-5, 13 Table 13-6, 14 Table 14-1) -/

def State.writePlan (s : State) (c : Nat) (x : Word) : State :=
  let s := s.modCoach c fun k => { k with cplan := x &&& rectMask }
  if (s.coach c).launch.mode = .idle then s.planIdle c else s
/-- A plan for a coach; an idle coach takes it at once where it holds. -/
def execCplanWrite (fn coach : Nat) (x : Word) (s : State) : Host.Outcome State Fault Refusal :=
  if coach < 16 ∧ isFn fn then .next (if s.up ∧ isPf fn then s.writePlan coach x else s) else .fault .noSuchUnit
/-- HBREQ: ignored while a seal or restore is in progress. -/
def Hatbox.request (h : Hatbox) (x : Word) : Hatbox :=
  if h.busy then h else { h with disp := x.extractLsb' 1 2, go := x.getLsbD 0 }
def State.hatRequest (s : State) (fn c : Nat) (x : Word) : State :=
  if s.up ∧ isPf fn then s.modCoach c fun k => { k with hat := k.hat.request x } else s
def execHatboxKeepRequest (fn coach : Nat) (s : State) : Host.Outcome State Fault Refusal :=
  if coach < 16 ∧ isFn fn then .next (s.hatRequest fn coach 1#64) else .fault .noSuchUnit
def execHatboxHandoffRequest (fn coach : Nat) (s : State) : Host.Outcome State Fault Refusal :=
  if coach < 16 ∧ isFn fn then .next (s.hatRequest fn coach 3#64) else .fault .noSuchUnit

/-- Range registers of a coach. -/
def Coach.range (k : Coach) (e : Nat) : Word × Word × Word := getK (0#64, 0#64, 0#64) k.ranges e
/-- Writes of the registers of a coach control block but those that begin work. -/
def Coach.write (k : Coach) (off : Nat) (x : Word) : Coach :=
  let page : Word := x &&& ~~~0xFFF#64
  if off = 0 then { k with root := x &&& 0x000FFFFFFFFFF001#64 }
  else if off = 0x058 then { k with hat := { k.hat with dst := page } }
  else if off = 0x060 then { k with hat := { k.hat with peer := page } }
  else if 0x100 ≤ off ∧ off < 0x900 then
    let e := (off - 0x100) / 0x20
    let r := k.range e
    match (off - 0x100) % 0x20 with
    | 0 => { k with ranges := setK k.ranges e (x &&& ~~~0xFFE#64, r.2.1, r.2.2) }
    | 8 => { k with ranges := setK k.ranges e (r.1, page, r.2.2) }
    | 16 => { k with ranges := setK k.ranges e (r.1, r.2.1, page) }
    | _ => k
  else k
/-- N in force on a tile, image length of a coach (14 Table 14-2): HBLEN. -/
def State.imageLen (s : State) (c : Nat) : Nat :=
  let tiles := s.tilesOf c
  let up4k (n : Nat) : Nat := (n + 4095) / 4096 * 4096
  let segs := 19 * tiles.length + 1
  up4k (0x2000 + 48 * segs + 4627) + 4096 +
    tiles.foldl (fun n t => n + (4096 + 2097152 + up4k 65544 + 16 * ((s.tile t).vault.n * 2 ^ 21))) 0
/-- Reads of a coach control block. HBLEN is 0 where no launch is under way (notes/assumptions/45.md). -/
def State.coachWord (s : State) (c off : Nat) : Word :=
  let k := s.coach c
  let h := k.hat
  if off = 0 then k.root
  else if off = 0x040 then k.crect
  else if off = 0x048 then k.cplan
  else if off = 0x050 then BitVec.ofNat 64 (h.disp.toNat * 2 + (if h.go then 1 else 0))
  else if off = 0x058 then h.dst
  else if off = 0x060 then h.peer
  else if off = 0x068 then BitVec.ofNat 64
    (h.relay % 2 ^ 32 * 2 ^ 32 + h.code % 256 * 2 ^ 8 + (if h.moved then 2 else 0) + (if h.busy then 1 else 0))
  else if off = 0x070 then (if k.launch.mode = .idle then 0#64 else BitVec.ofNat 64 (s.imageLen c))
  else if off = 0x078 then h.ctr
  else if off = 0x080 then h.recAddr
  else if 0x100 ≤ off ∧ off < 0x900 then
    let r := k.range ((off - 0x100) / 0x20)
    match (off - 0x100) % 0x20 with
    | 0 => r.1 | 8 => r.2.1 | 16 => r.2.2 | _ => 0#64
  else 0#64

/-! ## Register writes (12 R263, R272, R279, 14 R293) -/

/-- Fields of APSEL. -/
def apselMask : Word := 0x000000FF000007FF#64
/-- A 64-bit write at an offset of BAR0 of a function; the restore that HBRST begins is `k`. -/
def State.bar0 (s : State) (fn off : Nat) (x : Word) (k : State → Nat → Word → State) : State :=
  if off < 0x100000 then s.queueWrite fn (off / 32) fun q => q.write (isPf fn) (off % 32 / 8) x
  else if 0x100000 ≤ off ∧ off < 0x110000 then
    let c := (off - 0x100000) / 0x1000
    let o := off % 0x1000
    if !isPf fn then s
    else if o = 0x048 then s.writePlan c x
    else if o = 0x050 then s.hatRequest fn c x
    else if o = 0x080 then k s c x
    else s.modCoach c fun k => k.write o x
  else if off = 0x200000 then s.modPkg fun p => { p with apsel := setK p.apsel fn (x &&& apselMask) }
  else s

/-! ## Tile aperture (12 R279) -/

/-- Is a tile in a launch, or placed for it by the relay work under way? A launch whose record still waits in its queue holds no
tile yet, so that a write through the aperture lands until its load: the model's choice (notes/assumptions/53.md). -/
def State.inLaunch (s : State) (t : Nat) : Bool :=
  (List.range 16).any fun c =>
    let l := (s.coach c).launch
    l.mode != .idle && (l.tiles.contains t || l.entered.contains t)
/-- Size of a space of a tile: vault, scratchpad, block table with BTST. -/
def spaceSize : Nat → Nat
  | 0 => 2 ^ 30 | 1 => 2 ^ 21 | 2 => 65544 | _ => 0
/-- Where an access of n bytes at an offset of a function's aperture goes: tile, space, byte offset; none where it takes no
effect. -/
def State.apAddr (s : State) (fn off n : Nat) : Option (Nat × Nat × Nat) :=
  let a := getK 0#64 s.pkg.apsel fn
  let t := bits a 8 0
  let sp := bits a 10 9
  let o := (if sp = 0 then bits a 39 32 * 2 ^ 26 else 0) + off
  let own := (s.tile t).own.owner
  let reach := isPf fn || (isFn fn && match own with | some c => s.bound fn c | none => false)
  if s.up ∧ t < 384 ∧ reach ∧ !s.inLaunch t ∧ off + n ≤ 2 ^ 26 ∧ o + n ≤ spaceSize sp then some (t, sp, o) else none
/-- Logical column of a vault offset and the byte in it; none where the bank is not in the tile's map. -/
def VaultSt.apCol (v : VaultSt) (o : Nat) : Option VAddr :=
  let b := o / 2 ^ 25
  if b < 32 - retiredCount v.retired then some ⟨b, o / 2 ^ 12 % 2 ^ 13, o / 2 ^ 8 % 16⟩ else none
/-- BTST as the image and the aperture hold it (04 Table 4-5). -/
def BlkSt.word (b : BlkSt) : Nat := b.head % 2 ^ 14 * 2 ^ 32 + b.free % 2 ^ 15 * 2 ^ 16 + b.ops % 2 ^ 11
/-- One byte through the aperture; what stands in a place whose code fails reads a free value. -/
def Tile.apByte (t : Tile) (draw sp o : Nat) : Byte :=
  match sp with
  | 0 =>
    match t.vault.apCol o with
    | none => 0xFF#8
    | some a =>
      if (t.columnErr a).any (·.fatal) then byteAt (Config.freeColumn draw) (o % 256)
      else t.vault.cells.get (t.vault.addr a + o % 256)
  | 1 => if (t.codesAt (2, o / 256, none)).any (·.fatal) then byteAt (Config.freeColumn draw) (o % 256) else t.sp.get o
  | _ =>
    if (t.codesAt (3, o, none)).any (·.fatal) then byteAt (Config.freeColumn draw) (o % 256)
    else if o < 65536 then t.blk.mem.get o
    else BitVec.ofNat 8 (t.blk.word / 2 ^ (8 * (o - 65536)))
/-- The codes of what an aperture read of n bytes reads, in the lifetime counters (19 R348, R361), with the banks whose reads
show their vertical group as failed. -/
def Tile.apCodes (t : Tile) (sp o n : Nat) : Reading :=
  match sp with
  | 0 => (List.range ((o % 256 + n + 255) / 256)).foldl (fun (x : Reading) i =>
      match t.vault.apCol (o + 256 * i) with | some a => (x.read a).1 | none => x) ⟨t, true, []⟩
  | _ =>
    let es := t.own.errs.filter fun e => if sp = 1 then e.store == 2 && decide (o / 256 ≤ e.idx ∧ e.idx ≤ (o + n - 1) / 256)
      else e.store == 3 && decide (o / 8 ≤ e.idx / 8 ∧ e.idx / 8 ≤ (o + n - 1) / 8)
    let lost := es.filter (·.fatal)
    ⟨t.sram (es.length - lost.length) lost.length, true, []⟩
/-- Writes one byte through the aperture; a whole column or line is rewritten, so its code holds again. -/
def Tile.apPut (t : Tile) (sp o : Nat) (x : Byte) : Tile :=
  match sp with
  | 0 =>
    match t.vault.apCol o with
    | none => t
    | some a => { t.recode (·.isAt (4, packV a, none)) with
        vault := { t.vault with cells := t.vault.cells.put (t.vault.addr a + o % 256) x } }
  | 1 => { t.recode (·.isAt (2, o / 256, none)) with sp := t.sp.put o x }
  | _ =>
    let t := t.recode (·.isAt (3, o, none))
    if o < 65536 then { t with blk := { t.blk with mem := t.blk.mem.put o x } }
    else
      let k := o - 65536
      let w := t.blk.word - t.blk.word / 2 ^ (8 * k) % 256 * 2 ^ (8 * k) + x.toNat * 2 ^ (8 * k)
      { t with blk := { t.blk with head := w / 2 ^ 32 % 2 ^ 14, free := w / 2 ^ 16 % 2 ^ 15, ops := w % 2 ^ 11 } }
def Tile.apPutL (t : Tile) (sp o : Nat) : List Byte → Tile
  | [] => t
  | x :: r => Tile.apPutL (t.apPut sp o x) sp (o + 1) r

/-- What the loader does about a tile outside every launch whose columns have been read: a vertical group that has failed is
reported, to the coach that holds the tile where one does, and an idle coach's tile has its repairs at once (19 R351, R352). -/
def State.apRepairs (s : State) (t : Nat) (lost : List Nat) : State :=
  match (s.tile t).own.owner with
  | none => lost.foldl (fun s pb => s.groupFound 16 t pb) s
  | some c =>
    let s := s.groupsDown c t lost
    if (s.coach c).launch.mode = .idle then s.repairIdle c t else s
/-- A host read through the aperture; a package that stopped in bring-up answers none (01 R33). -/
def execApertureRead (fn off len : Nat) (s : State) : Host.Outcome State Fault Refusal :=
  if isFn fn then
    if !s.up then .next s
    else
    match s.apAddr fn off len with
    | none => .next (s.out (.readData fn (List.replicate len 0xFF#8)))
    | some (t, sp, o) =>
      let (n, s) := s.draw
      let x := (s.tile t).apCodes sp o len
      let s := s.out (.readData fn ((List.range len).map fun i => (s.tile t).apByte n sp (o + i)))
      .next ((s.setTile t x.tile).apRepairs t x.lost)
  else .fault .noSuchUnit
def execApertureWrite (fn off : Nat) (data : List Byte) (s : State) : Host.Outcome State Fault Refusal :=
  if isFn fn then
    match s.apAddr fn off data.length with
    | none => .next s
    | some (t, sp, o) => .next (s.modTile t fun x => x.apPutL sp o data)
  else .fault .noSuchUnit

/-! ## Far sessions (12 R275, 20 R365) -/

/-- State of a session row as 0x8/0x09 names it (20 Table 20-1): usable, not established, attestation failed. -/
def sessionState (attested keyed : Bool) : Nat := if !attested then 2 else if keyed then 0 else 1
/-- A physical function programs a row with the peer's address and certificate, and the member endpoints of a group session.
The peer's attestation and the ML-KEM-1024 establishment run with it; their outcomes are inputs, the key a secret of its own
(12 R275, 20 R365; notes/assumptions/24.md). -/
def execFarSessionProgram (fn row : Nat) (peer : BitVec 48) (proof : PeerProof) (ends : List (Nat × BitVec 48))
    (s : State) : Host.Outcome State Fault Refusal :=
  if isFn fn ∧ row < 1024 then
    .next (if s.up ∧ isPf fn then
        let (n, s) := s.draw
        let key := kemSecret (sha3_512 proof.cert) (Config.freeRandom n)
        let x : Session := ⟨peer, proof.cert, key, ends, sessionState proof.attested proof.keyed, 0, 0⟩
        s.modPkg fun p => { p with sessions := setK p.sessions row x }
      else s)
  else .fault .noSuchUnit

/-! ## Register reads (12 R263, 13 R287, 17 R326, 19 R361, 20 R370) -/

/-- The 64 bytes of a record (17 Table 17-3). -/
def Record.bytes (r : Record) : List Byte :=
  bytesOf r.cls 1 ++ bytesOf r.code 1 ++
  bytesOf ((if r.first then 1 else 0) + (if r.stopped then 2 else 0) + (if r.superseded then 4 else 0) + (if r.domain then 8 else 0)) 1 ++
  bytesOf r.slot 1 ++ bytesOf (r.tile % 512) 2 ++ bytesOf r.pkg 1 ++ bytesOf r.source 1 ++ bytesOf r.frame 8 ++
  bytesOf r.phase 4 ++ bytesOf (r.addr % 2 ^ 17) 4 ++ bytesOf r.d1.toNat 8 ++ bytesOf r.d2.toNat 8 ++ bytesOf r.wall 8 ++
  bytesOf r.tag.toNat 4 ++ bytesOf r.replays 1 ++ bytesOf r.variant 1 ++ bytesOf 0 10
/-- Word k of a coach's fault log. -/
def FaultLog.word (g : FaultLog) (k : Nat) : Word :=
  match k with
  | 0 => BitVec.ofNat 64 (g.widx % 2 ^ 32)
  | 1 => BitVec.ofNat 64 (g.tag.toNat * 2 ^ 32 + g.cls * 2 ^ 8 + g.code)
  | 2 => BitVec.ofNat 64 (g.cancels * 2 ^ 32 + g.restarts)
  | 3 => BitVec.ofNat 64 (g.strikes * 2 ^ 32 + g.settled)
  | _ =>
    if k < 8 then 0#64
    else
      let i := (k - 8) / 8
      match (List.range g.recs.length).find? (fun j => (g.widx - 1 - j) % 127 == i) with
      | some j =>
        match g.recs[j]? with
        | some r => BitVec.ofNat 64 (natOf ((r.bytes.drop (8 * ((k - 8) % 8))).take 8))
        | none => 0#64
      | none => 0#64
/-- Word k of a tile's lifetime block (19 Table 19-7). -/
def Tile.lifeWord (t : Tile) (k : Nat) : Word :=
  let l := t.own.life
  if k = 0 then BitVec.ofNat 64 (l.sramc * 2 ^ 32 + l.vaultc)
  else if k = 1 then BitVec.ofNat 64 (l.vaultu * 2 ^ 48 + l.sramu * 2 ^ 32 + l.strikes)
  else if k = 2 then BitVec.ofNat 64 (l.h7 * 2 ^ 48 + l.h4 * 2 ^ 32 + l.h2 * 2 ^ 16 + l.h1)
  else if k = 3 then t.vault.retired.zeroExtend 64
  else if 4 ≤ k ∧ k < 20 then
    BitVec.ofNat 64 (l.spares.getD (2 * (k - 4)) 0 + l.spares.getD (2 * (k - 4) + 1) 0 * 2 ^ 32)
  else if k = 20 then (if t.own.failed then 1#64 else 0#64)
  else 0#64
/-- Word k of a port's lifetime block (19 Table 19-8). -/
def Port.lifeWord (p : Port) (k : Nat) : Word :=
  match k with
  | 0 => BitVec.ofNat 64 p.fecc
  | 1 => BitVec.ofNat 64 p.crcf
  | 2 => BitVec.ofNat 64 (p.late * 2 ^ 48 + p.r3 * 2 ^ 32 + p.r2 * 2 ^ 16 + p.r1)
  | 3 => BitVec.ofNat 64 (p.retrains * 2 ^ 8 + (if p.hpend then 4 else 0) + p.rate)
  | _ => 0#64
/-- The 32 bytes of an event (20 Table 20-3), its entry number n. -/
def MgmtEvent.bytes (e : MgmtEvent) (n : Nat) : List Byte :=
  bytesOf e.code 2 ++ bytesOf e.sev 1 ++ bytesOf e.source 1 ++ bytesOf n 4 ++ bytesOf e.time 8 ++ bytesOf e.d1.toNat 8 ++
  bytesOf e.d2.toNat 8
/-- The log's entry of number n; the newest has number eventCount - 1. -/
def Flash.event (f : Flash) (n : Nat) : Option MgmtEvent :=
  if n < f.eventCount then f.events[f.eventCount - 1 - n]? else none
/-- Word k of the event log: the header, then the entry in each place of the ring. -/
def Flash.eventWord (f : Flash) (k : Nat) : Word :=
  if k = 0 then BitVec.ofNat 64 f.eventCount
  else if k < 8 then 0#64
  else
    let i := (k - 8) / 4
    let last := f.eventCount - 1
    let n := last - (last + 4096 - i) % 4096
    match (if n % 4096 = i then f.event n else none) with
    | some e => BitVec.ofNat 64 (natOf (((e.bytes n).drop (8 * ((k - 8) % 4))).take 8))
    | none => 0#64
/-- The word at an offset of BAR0, as a function reads it. -/
def State.barRead (s : State) (fn off : Nat) : Word :=
  if !s.up ∨ !isFn fn then 0#64
  else if off < 0x100000 then (if s.mayQueue fn (off / 32) then (s.queue (off / 32)).word (off % 32 / 8) else 0#64)
  else if off < 0x110000 then (if isPf fn then s.coachWord ((off - 0x100000) / 0x1000) (off % 0x1000) else 0#64)
  else if off = 0x200000 then getK 0#64 s.pkg.apsel fn
  else if 0x201000 ≤ off ∧ off < 0x201020 then (if isPf fn then s.pkg.fcst.getD ((off - 0x201000) / 8) 0#64 else 0#64)
  else if 0x300000 ≤ off ∧ off < 0x320000 then
    let c := (off - 0x300000) / 0x2000
    if isPf fn ∨ s.bound fn c then (s.coach c).log.word (off % 0x2000 / 8) else 0#64
  else if 0x400000 ≤ off ∧ off < 0x418000 then
    (if isPf fn then (s.tile ((off - 0x400000) / 0x100)).lifeWord (off % 0x100 / 8) else 0#64)
  else if 0x418000 ≤ off ∧ off < 0x418400 then
    (if isPf fn then (s.pkg.port ((off - 0x418000) / 0x40)).lifeWord (off % 0x40 / 8) else 0#64)
  else if 0x500000 ≤ off ∧ off < 0x520040 then (if isPf fn then s.pkg.flash.eventWord ((off - 0x500000) / 8) else 0#64)
  else 0#64

/-! ## Extended capabilities (12 R280) -/

/-- A Quamor DVSEC: its ID, and the BAR, offset and number of entries of what it describes. -/
structure Dvsec where
  id : Nat
  bar : Nat
  off : Nat
  count : Nat
  deriving DecidableEq, Repr
/-- The DVSECs of a function (12 Table 12-9). 0x0005 is present on the form QM-OP384-E alone, which `Pkg.debug` tells (00 R1). The
spec gives contents for 0x0001 only; those of the others are the model's choice (notes/assumptions/48.md). -/
def State.dvsecs (s : State) (fn : Nat) : List Dvsec :=
  if isPf fn then
    [⟨1, 0, 0, 32768⟩, ⟨2, 0, 0x100000, 16⟩, ⟨3, 2, 0x200000, 1⟩, ⟨4, 0, 0, 1024⟩] ++
      if s.pkg.debug then [⟨5, 0, 0, 0⟩] else []
  else [⟨1, 0, 0, 32768⟩, ⟨3, 2, 0x200000, 1⟩]
/-- 32-bit word k of the configuration space of a function from offset 0x100: a list of records of 32 bytes, each with the PCIe
header of a DVSEC (capability 0x0023, version 1, next offset; length), its ID and contents. The layout is PCIe's
(notes/assumptions/48.md). -/
def State.capWord (s : State) (fn k : Nat) : Nat :=
  let ds := s.dvsecs fn
  match ds[k / 8]? with
  | none => 0
  | some d =>
    match k % 8 with
    | 0 => (if k / 8 + 1 < ds.length then 0x100 + 32 * (k / 8 + 1) else 0) * 2 ^ 20 + 2 ^ 16 + 0x0023
    | 1 => 32 * 2 ^ 20
    | 2 => d.id
    | 3 => d.bar
    | 4 => d.off
    | 5 => d.count
    | _ => 0
/-- A read of the configuration space. -/
def State.cfgRead (s : State) (fn off : Nat) : Nat := if isFn fn ∧ 0x100 ≤ off then s.capWord fn ((off - 0x100) / 4) else 0

end Sys2Proof.Machine
end

