-- ==== Sys2Proof/Machine/Engines.lean ====
section
/-! DEFINITION. The copy engine and the asynchronous port (02 R57, 06 R157, R159, 10 R244-R246, 11 R252-R255, R257, 12 R274,
19 R350, 20 R363, R364). -/
namespace Sys2Proof.Machine

/-! ## Operations -/

def Coach.op (k : Coach) (tl num : Nat) : Option AsyncOp := k.ops.find? fun o => o.tl == tl && o.num == num
def State.modOp (s : State) (c tl num : Nat) (f : AsyncOp → AsyncOp) : State :=
  s.modCoach c fun k => { k with ops := k.ops.map fun o => if o.tl == tl && o.num == num then f o else o }
/-- Operations whose numbers the mirrors do not show yet. -/
def Coach.unseen (k : Coach) (os : List AsyncOp) : List AsyncOp := os.filter fun o => decide ((k.tl o.tl).shown < o.num)
/-- An operation completes on its counter, and the mirror follows. A host keeps away from the destination of an `acopy.out` until the
mirror shows its number (11 R258). -/
def State.finishOp (s : State) (c : Nat) (o : AsyncOp) : State :=
  let s := (s.modCoach c fun k => { k.modTl o.tl (fun t => t.complete o.num) with
    ops := k.ops.filter fun x => !(x.tl == o.tl && x.num == o.num)
    unshown := if o.kind = .copyOut then k.unshown ++ [o] else k.unshown }).syncMirrors c
  s.modCoach c fun k => { k with unshown := k.unseen k.unshown }
/-- An operation meets a fault: what it has written stands, it completes on its counter, and the launch stops. -/
def State.engineFault (s : State) (c : Nat) (o : AsyncOp) (code d1 d2 : Nat) : State :=
  (s.finishOp c o).stopEvent c scPort ⟨0x8, code, 0x0A, BitVec.ofNat 64 d1, BitVec.ofNat 64 d2⟩
/-- The owner tag has changed since the operation was accepted (20 R364). -/
def State.tagFault (s : State) (c : Nat) (o : AsyncOp) : State := s.engineFault c o 0x06 (o.tl * 2 ^ 61 + o.num % 2 ^ 32) o.tile
def State.tagOk (s : State) (o : AsyncOp) : Bool := (s.tile o.tile).own.owner == o.owner
/-- The k-th column of a run of columns (06 R157). -/
def colAfter (start k : Nat) : VAddr :=
  let a := unpackV start
  let n := a.row * 16 + a.col + k
  ⟨a.bank, n / 16, n % 16⟩

/-! ## Which bank the asynchronous port may command, and when (10 R245, R246) -/

/-- Frame cycles left before the banks of a window must be Closed with every timing elapsed; none where the grant has no end
of its own (a pause, an ended tile, a stopped launch). The outer none: the bank is not granted. -/
def State.grant (s : State) (c t b : Nat) : Option (Option Nat) :=
  let l := (s.coach c).launch
  let x := s.tile t
  if x.vault.watermark.isSome ∨ b ≥ x.vault.n ∨ l.closingDone.isSome then none
  else if l.mode.still ∨ x.seq.ended then some none
  else
    match l.mode, x.vault.window with
    | .running, some w => if w.openAt l.frc ∧ w.mask.getLsbD b then some (some (w.c + w.len + 1 - l.frc)) else none
    | _, _ => none
/-- Have d cycles passed since t? -/
def since (t : Option Nat) (wall d : Nat) : Bool := match t with | some x => decide (x + d ≤ wall) | none => true
/-- Does a command that needs n cycles to its end fit the grant? -/
def fits (left : Option Nat) (n : Nat) : Bool := match left with | some k => decide (n ≤ k) | none => true
def VaultSt.engBank (v : VaultSt) (b : Nat) : EngBank := v.eng.getD b EngBank.reset
def VaultSt.modEng (v : VaultSt) (b : Nat) (f : EngBank → EngBank) : VaultSt :=
  { v with eng := v.eng.setIfInBounds b (f (v.engBank b)) }
/-- Last activate or refresh of a bank by the engines' history. -/
def EngBank.lastAct (e : EngBank) : Option Nat := laterOf e.act e.refb
/-- Is the row-command cycle free: neither the DR slot nor an engine has used it? -/
def VaultSt.rowFree (v : VaultSt) (wall : Nat) : Bool :=
  v.drWall != some wall && v.eng.all fun e => e.act != some wall && e.pre != some wall
/-- Is the column-command cycle free? -/
def VaultSt.colFree (v : VaultSt) (wall : Nat) : Bool :=
  v.dcWall != some wall && v.eng.all fun e => e.rd != some wall && e.wr != some wall
/-- Banks whose rows an engine holds open. -/
def VaultSt.engOpen (v : VaultSt) : List Nat := (List.range 32).filter fun b => (v.engBank b).row.isSome
/-- An ACT of an engine under its own history; what the grant has left must hold its `pre` too, and that of each row open by
then (10 R246). -/
def VaultSt.engActOk (v : VaultSt) (b wall : Nat) (left : Option Nat) : Bool :=
  let e := v.engBank b
  let layer := (v.layerBanks b).map fun k => (k, (v.engBank k).lastAct)
  e.row.isNone && v.rowFree wall && since e.pre wall Config.tRP && since e.act wall Config.tRC && since e.refb wall Config.tRFC &&
  (layer.all fun x => x.1 == b || since x.2 wall Config.tRRD) &&
  decide ((layer.filter fun x => !since x.2 wall Config.tFAW).length < 4) &&
  fits left (Config.tRAS + Config.tRP + v.engOpen.length)
def VaultSt.engPreOk (v : VaultSt) (b wall : Nat) (left : Option Nat) : Bool :=
  let e := v.engBank b
  e.row.isSome && v.rowFree wall && since e.act wall Config.tRAS && since e.wr wall Config.tWR && since e.rd wall Config.tRTP &&
  fits left Config.tRP
/-- A `pre` of the engines. -/
def VaultSt.engPre (v : VaultSt) (wall b : Nat) : VaultSt := v.modEng b fun e => { e with row := none, pre := some wall }
/-- A column command of an engine to the open row; what the grant has left must hold the `pre` of its row and of each other open one
(10 R246). -/
def VaultSt.engColOk (v : VaultSt) (write : Bool) (a : VAddr) (wall : Nat) (left : Option Nat) : Bool :=
  let e := v.engBank a.bank
  e.row == some a.row && v.colFree wall && since e.act wall Config.tRCD && since (laterOf e.rd e.wr) wall Config.tCCDL &&
  (write || (v.layerBanks a.bank).all fun k => since (v.engBank k).wr wall Config.tWTR) &&
  fits left ((if write then Config.tWR else Config.tRTP) + Config.tRP + (v.engOpen.length - 1))
/-- Did the window that grants the banks of an operation's tile, if it is one that does, begin after the operation's issue? -/
def State.windowAfter (s : State) (c : Nat) (o : AsyncOp) : Bool :=
  match (s.coach c).launch.mode, (s.tile o.tile).vault.window with
  | .running, some w => (s.tile o.tile).seq.ended || decide (o.startWall ≤ w.wall)
  | _, _ => true
/-- May a column command be issued now? A read waits for a window or pause that begins after the operation's issue (11 R253). -/
def State.portCol (s : State) (c : Nat) (o : AsyncOp) (write : Bool) (a : VAddr) : Bool :=
  match s.grant c o.tile a.bank with
  | none => false
  | some left => (s.tile o.tile).vault.engColOk write a s.wall left && (write || s.windowAfter c o)

/-- An engine's column write. -/
def State.portWrite (s : State) (o : AsyncOp) (a : VAddr) (x : Vec) : State :=
  s.modTile o.tile fun t => { t with
    vault := (t.vault.setColumn a x).modEng a.bank fun e => { e with wr := some s.wall }
    own := { t.own with errs := t.own.errs.filter fun e => !(e.store == 4 && e.idx == packV a) } }
/-- An engine's column read: the column, or 0x8/0x07 where its code fails (19 R350). -/
def State.portRead (s : State) (c : Nat) (o : AsyncOp) (a : VAddr) (f : State → Vec → State) : State :=
  let v := (s.tile o.tile).vault
  let pb := v.pbank a.bank
  let s := s.modTile o.tile fun t => { t with vault := t.vault.modEng a.bank fun e => { e with rd := some s.wall } }
  match (s.tile o.tile).columnErr a with
  | none => f s (v.column a)
  | some e =>
    if e.fatal then
      let group := (s.tile o.tile).own.groupFails pb
      let s := s.modTile o.tile fun t => { t with own := t.own.uncorrected pb }
      let s := if group then s.groupFound c o.tile pb else s
      s.engineFault c o 0x07 (packV a) (pb * 2 ^ 16 + v.prow pb a.row)
    else f (s.modTile o.tile fun t => { t with own := t.own.corrected pb a.row (v.prow pb a.row) e }) (v.column a)

/-! ## The copy engine (12 R274) -/

def AsyncOp.isCopy (o : AsyncOp) : Bool := o.kind == .copyIn || o.kind == .copyOut
def AsyncOp.has (o : AsyncOp) (k : Nat) : Bool := o.moved.contains k
/-- Marks column k moved; the last one completes the copy. -/
def State.copied (s : State) (c : Nat) (o : AsyncOp) (k : Nat) : State :=
  let s := s.modOp c o.tl o.num fun x => { x with moved := k :: x.moved }
  if o.moved.length + 1 = o.len then { s with todo := .ev (.acopyComplete c o.tl o.num) :: s.todo } else s
/-- The values that host bytes from p on held before the host's writes to them in the span of a coach's launch, which begins at
the write of its queue tail (11 R258). -/
def State.hostHeld (s : State) (c p n : Nat) : List (Nat × Byte) :=
  (s.pkg.hostOld.filter fun x => decide (p ≤ x.1 ∧ x.1 < p + n ∧ (s.coach c).launch.tailWall < x.2.2)).map fun x => (x.1, x.2.1)
/-- 256 bytes at a host address, each one of its values: the one given, or where the host has changed the byte in the span of the
coach's launch any that it has held in it, a free choice for each byte (11 R258). -/
def State.heldBytes (s : State) (c p : Nat) (now : Nat → List Byte) : List Byte × State :=
  let held := s.hostHeld c p 256
  if held.isEmpty then ((List.range 256).map fun j => (now j).headD 0#8, s)
  else
    let (n, s) := s.draw
    ((List.range 256).map fun j =>
      let old := (held.filter fun x => x.1 == p + j).map (·.2)
      let xs := if old.isEmpty then (now j).take 1 else now j ++ old
      xs.getD (Config.freeIndex n j % xs.length) 0#8, s)
/-- Column k of a copy, whole: host address translated, tag compared, the column command in a granted bank. The translation is the
one that stands when the column moves; of values that a range or table entry held in the span of the operation R273 allows
any (notes/assumptions/15.md). -/
def State.copyColumn (s : State) (c : Nat) (o : AsyncOp) (k : Nat) : State :=
  let host := o.host.toNat + 256 * k
  let a := colAfter o.va k
  match (s.coach c).translate s.pkg.host host (o.kind == .copyOut) with
  | .error e => s.engineFault c o 0x05 host e
  | .ok p =>
    match hostErr s.pkg.hostBad p with
    | some e => s.engineFault c o 0x0B host e
    | none =>
      if !s.tagOk o then s.tagFault c o
      else if !s.portCol c o (o.kind == .copyIn) a then s
      else if o.kind == .copyIn then
        let r := s.heldBytes c p fun j => [s.pkg.host.get (p + j)]
        (r.2.portWrite o a (BitVec.ofNat 2048 (natOf r.1))).copied c o k
      else s.portRead c o a fun s x =>
        let r := s.heldBytes c p fun j => [byteAt x j, s.pkg.host.get (p + j)]
        (r.2.modPkg fun q => { q with host := q.host.putL p r.1 }).copied c o k

def execCopyEngineColumn (coach tl num k : Nat) (s : State) : Host.Outcome State Fault Refusal :=
  if coach < 16 then
    match (s.coach coach).op tl num with
    | none => .next s
    | some o => .next (if o.isCopy ∧ k < o.len ∧ !o.has k then s.copyColumn coach o k else s)
  else .fault .noSuchUnit
/-- A copy whose last column has moved completes. -/
def execAcopyComplete (coach tl num : Nat) (s : State) : Host.Outcome State Fault Refusal :=
  if coach < 16 then
    match (s.coach coach).op tl num with
    | none => .next s
    | some o => .next (if o.isCopy ∧ o.len ≤ o.moved.length then s.finishOp coach o else s)
  else .fault .noSuchUnit

/-- Host addresses of the columns that copies of a coach have delivered whose numbers its mirrors do not show. -/
def State.outColumns (s : State) (c : Nat) : List Nat :=
  (((s.coach c).ops ++ (s.coach c).unshown).filter fun o => o.kind == .copyOut).flatMap fun o => o.moved.filterMap fun k =>
    match (s.coach c).translate s.pkg.host (o.host.toNat + 256 * k) true with
    | .ok p => some p
    | .error _ => none
/-- The host's own writes that are due. While a launch is under way or waits, the bytes that they replace are kept, since a copy
may still deliver them; a byte that a copy has delivered whose number the mirror does not show takes, of the values that it has held, a free choice
(11 R258). `busy`: such a launch there is. -/
def State.hostWrites (s : State) (busy : Bool) : State :=
  let due := (s.pkg.hostIn.filter fun x => decide (x.1 ≤ s.wall)).flatMap fun x => x.2.2.zipIdx.map fun b => (x.2.1 + b.2, b.1)
  let s := s.modPkg fun p => { p with
    hostIn := p.hostIn.filter fun x => decide (s.wall < x.1)
    hostOld := if busy then p.hostOld ++ due.map fun x => (x.1, p.host.get x.1, s.wall) else [] }
  if due.isEmpty then s
  else
    let outs := (List.range 16).map fun c => (c, s.outColumns c)
    let (n, s) := s.draw
    s.modPkg fun p => { p with host := due.zipIdx.foldl (fun m x =>
      let a := x.1.1
      match outs.find? fun o => o.2.any fun q => decide (q ≤ a ∧ a < q + 256) with
      | none => m.put a x.1.2
      | some o =>
        let xs := x.1.2 :: m.get a :: (s.hostHeld o.1 a 1).map (·.2)
        m.put a (xs.getD (Config.freeIndex n x.2 % xs.length) 0#8)) p.host }

/-! ## Row commands of the engines -/

/-- The coach and first operation of a tile. -/
def State.tileOp (s : State) (t : Nat) : Option (Nat × AsyncOp) :=
  (List.range 16).findSome? fun c => ((s.coach c).ops.find? fun o => o.tile == t).map fun o => (c, o)
/-- An engine's ACT or `pre` of a bank of a tile, for the operation that it serves first; not issued where it may not. -/
def State.portRow (s : State) (t : Nat) (act : Bool) (bank row : Nat) : State :=
  match s.tileOp t with
  | none => s
  | some (c, o) =>
    if !s.tagOk o then s.tagFault c o
    else
      match s.grant c t bank with
      | none => s
      | some left =>
        let v := (s.tile t).vault
        if act then
          if v.engActOk bank s.wall left ∧ row < Config.rows then
            s.modTile t fun x => { x with vault := x.vault.modEng bank fun e => { e with row := some row, act := some s.wall } }
          else s
        else if v.engPreOk bank s.wall left then
          s.modTile t fun x => { x with vault := x.vault.engPre s.wall bank }
        else s
/-- Banks whose rows the engines close in frame cycle f, before a window ends (10 R246): once no column command fits what the window
has left one at a time, in a cycle that is free for it; in the last cycle in which a `pre` may stand all that the DR slot has left no
cycle for: the model's choice (notes/assumptions/15.md). -/
def VaultSt.engDue (v : VaultSt) (f wall : Nat) : List Nat :=
  match v.window with
  | none => []
  | some w =>
    let left := w.c + w.len + 1 - f
    if Config.tRTP + Config.tRP + v.engOpen.length ≤ left + 1 then []
    else if left ≤ Config.tRP then v.engOpen
    else (v.engOpen.find? fun b => v.engPreOk b wall (some left)).toList
/-- The engines' own `pre` commands on a tile, under the owner tag of the operation that they serve (20 R364): that of the coach where
no operation of the tile is left. -/
def State.closeEngine (s : State) (c f t : Nat) : State :=
  match (s.tile t).vault.engDue f s.wall with
  | [] => s
  | bs =>
    let on : State := s.modTile t fun x => { x with vault := bs.foldl (fun v b => v.engPre s.wall b) x.vault }
    match s.tileOp t with
    | some (d, o) => if s.tagOk o then on else s.tagFault d o
    | none => if (s.tile t).own.owner = some c then on else s
/-- `.deadline c` for the engines: on every tile of a running launch that has not ended. -/
def State.closeEngines (s : State) (c : Nat) : State :=
  let l := (s.coach c).launch
  l.tiles.foldl (fun s t => if (s.tile t).seq.ended then s else s.closeEngine c l.frc t) s

end Sys2Proof.Machine
end

