-- ==== Sys2Proof/Machine/Far.lean ====
section
/-! DEFINITION. The far engine: descriptors, compression, contributions, results (06 R158, 12 R275-R278, 20 R363, R365). The
protocol between members is not in the spec: which contributions reach this package is an input (notes/assumptions/24.md). -/
namespace Sys2Proof.Machine

/-! ## Far descriptor (12 Table 12-6) -/

/-- Field of n bytes at a byte offset. -/
def farField (d : Vec) (o n : Nat) : Nat := d.toNat / 2 ^ (8 * o) % 2 ^ (8 * n)
def farSession (d : Vec) : Nat := farField d 0 2
def farFormat (d : Vec) : Nat := farField d 2 1
def farTag (d : Vec) : Nat := farField d 4 4
def farMask (d : Vec) : BitVec 64 := BitVec.ofNat 64 (farField d 0x30 8)
def farOwn (d : Vec) : Nat := farField d 0x38 1
def farRoot (d : Vec) : Nat := farField d 0x39 1
/-- Members of a mask, ascending. -/
def members (m : BitVec 64) : List Nat := (List.range 64).filter fun i => m.getLsbD i
def OpKind.isFarm : OpKind → Bool
  | .sum | .gather | .bcast => true
  | _ => false
/-- Is a packed address with n columns from it within a bank of the map? Its bits [63:22] are ignored (10 R229). -/
def farAddrOk (banks a n : Nat) : Bool :=
  let v := unpackV a
  decide (v.bank < banks ∧ v.row * 16 + v.col + n ≤ 131072)
/-- Columns of the result of an operation. -/
def farResults (kind : OpKind) (d : Vec) : Nat :=
  if kind = .gather then (members (farMask d)).length * farField d 0x10 4 else farField d 0x10 4
/-- First field outside its limits: byte offset and value. Fields that the table gives to `farm`, `.bcast` or format 0x4
alone bind those alone; the others bind every operation (notes/assumptions/24.md). -/
def farBad (kind : OpKind) (d : Vec) (sess : Session) (banks : Nat) : Option (Nat × Nat) :=
  let chk (o n : Nat) (ok : Bool) : List (Nat × Nat) := if ok then [] else [(o, farField d o n)]
  let farm := kind.isFarm
  let l := farField d 0x10 4
  let m := farMask d
  (chk 0 2 (decide (farSession d < 1024) && (!farm || !sess.ends.isEmpty)) ++ chk 2 1 (decide (farFormat d ≤ 4)) ++
    chk 3 1 (farField d 3 1 == 0) ++ chk 8 8 (farAddrOk banks (farField d 8 8) (min l 131072)) ++
    chk 0x10 4 (decide (1 ≤ l ∧ l ≤ 131072)) ++ chk 0x14 4 (farField d 0x14 4 == 0) ++
    chk 0x18 8 (!farm || farAddrOk banks (farField d 0x18 8) (farResults kind d)) ++
    chk 0x20 8 (farFormat d != 4 || farAddrOk banks (farField d 0x20 8) (min l 131072)) ++
    chk 0x28 8 (!farm || farAddrOk banks (farField d 0x28 8) 1) ++
    chk 0x30 8 (m != 0#64 && m.getLsbD (farOwn d)) ++ chk 0x38 1 (decide (farOwn d < 64)) ++
    chk 0x39 1 (kind != .bcast || (decide (farRoot d < 64) && m.getLsbD (farRoot d))) ++
    chk 0x3A 2 (decide (1 ≤ farField d 0x3A 2 ∧ farField d 0x3A 2 ≤ (members m).length)) ++
    chk 0x3C 4 (decide (1 ≤ farField d 0x3C 4 ∧ farField d 0x3C 4 ≤ 1000000)) ++
    chk 0x40 192 (farField d 0x40 192 == 0)).head?

/-! ## Compression (12 R277) -/

/-- floor(log2) of a nonzero finite value; none for 0 and what is not finite. -/
def logVal : Val → Option Int
  | .fin _ m e => if m = 0 then none else some ((Nat.log2 m : Int) + e)
  | _ => none
/-- E8M0 byte of a block of FP32 encodings for an element type of largest exponent emax (03 R80): a block with an element
that is not finite has none stated. -/
def farScale (emax : Int) (xs : List Nat) : Nat :=
  let vs := xs.map (valueOf .f32)
  if vs.any fun v => !v.isFin then Config.freeScale xs % 256
  else
    match (vs.filterMap logVal) with
    | [] => 0
    | l :: r => (max (-127) (min 127 (r.foldl max l - emax)) + 127).toNat
/-- A block of 32 elements as the wire carries it: scale byte, then the elements. -/
def farBlock (t : Ty) (xs : List Nat) : List Nat :=
  let e := farScale (if t = .e4m3 then 8 else 15) xs
  e :: xs.map fun x => (roundNE t ((valueOf .f32 x).scaleBy (127 - (e : Int)))).1
/-- The values of a block, exactly, as FP32. -/
def farUnblock (t : Ty) (b : List Nat) : List Nat :=
  match b with
  | [] => []
  | e :: xs => xs.map fun q =>
    if e = 0xFF then Ty.canonNaN .f32 else (roundNE .f32 ((valueOf t q).scaleBy ((e : Int) - 127))).1
/-- Wire bytes of a column of 64 FP32 elements under a format. -/
def farEncode (fmt : Nat) (xs : List Nat) : List Byte :=
  let blocks (t : Ty) : List Byte := (farBlock t (xs.take 32) ++ farBlock t (xs.drop 32)).map (BitVec.ofNat 8)
  match fmt with
  | 0 => xs.flatMap fun x => bytesOf x 4
  | 1 => xs.flatMap fun x => bytesOf (roundNE .bf16 (valueOf .f32 x)).1 2
  | 3 => blocks .e5m2
  | _ => blocks .e4m3
/-- The column that wire bytes stand for. -/
def farDecode (fmt : Nat) (b : List Byte) : List Nat :=
  let blocks (t : Ty) : List Nat :=
    farUnblock t ((b.take 33).map (·.toNat)) ++ farUnblock t (((b.drop 33).take 33).map (·.toNat))
  match fmt with
  | 0 => (List.range 64).map fun i => natOf ((b.drop (4 * i)).take 4)
  | 1 => (List.range 64).map fun i => (roundNE .f32 (valueOf .bf16 (natOf ((b.drop (2 * i)).take 2)))).1
  | 3 => blocks .e5m2
  | _ => blocks .e4m3
/-- A column of 64 lanes from a list. -/
def colOf64 (xs : List Nat) : Vec := ofLanes 32 64 (nth xs)
/-- RoundNE(a + b, f32) and RoundNE(a - b, f32) of encodings. -/
def addF32 (a b : Nat) : Nat := (roundNE .f32 (addV (valueOf .f32 a) (valueOf .f32 b)).1).1
def subF32 (a b : Nat) : Nat := (roundNE .f32 (addV (valueOf .f32 a) (valueOf .f32 b).neg).1).1

/-! ## Progress of an operation. `staged` holds (member, column, value): members 0 to 63 are contributions, 64 the source as
read, 65 the residual as read, 66 the residual to write. `moved` holds k for a column sent or received, `residCode` + k for
a residual written, `resultCode` + k for a result written, `ackCode` + k for a column delivered, and `statusCode`. -/

def residCode : Nat := 2 ^ 24
def resultCode : Nat := 2 ^ 25
def statusCode : Nat := 2 ^ 26
def ackCode : Nat := 2 ^ 27
def AsyncOp.piece (o : AsyncOp) (m k : Nat) : Option Vec := (o.staged.find? fun x => x.1 == m && x.2.1 == k).map (·.2.2)
def AsyncOp.cols (o : AsyncOp) : Nat := farField o.desc 0x10 4
/-- Have all the columns of a member's contribution come? -/
def AsyncOp.whole (o : AsyncOp) (m : Nat) : Bool := (List.range o.cols).all fun k => (o.piece m k).isSome
/-- The members of the mask whose contributions have come by now. -/
def AsyncOp.come (o : AsyncOp) : List Nat := (members (farMask o.desc)).filter o.whole
/-- S as the root has fixed it, before that what has come here. -/
def AsyncOp.presentSet (o : AsyncOp) : List Nat := o.present.getD o.come
/-- The root: of `.bcast` the named one, else the lowest member that has come. -/
def AsyncOp.root (o : AsyncOp) : Option Nat := if o.kind = .bcast then some (farRoot o.desc) else o.come.head?
/-- Does this package fix S, the member wait being over or not? As the root, once the wait is over or every member has come; and at
the end of the wait where no root has come. Else S is what the root's frame says. -/
def AsyncOp.fixes (o : AsyncOp) (ended : Bool) : Bool :=
  o.kind.isFarm && o.present.isNone &&
    match o.root with
    | none => ended
    | some r =>
      if r = farOwn o.desc then ended || (members (farMask o.desc)).all o.whole
      else ended && o.kind == .bcast && !o.come.contains r
/-- Is the result written, not the status alone: quorum reached, and for `.bcast` the root present? -/
def AsyncOp.succeeds (o : AsyncOp) : Bool :=
  decide (farField o.desc 0x3A 2 ≤ o.presentSet.length) && (o.kind != .bcast || o.presentSet.contains (farRoot o.desc))
/-- Is S fixed, and are the contributions that a result takes here? -/
def AsyncOp.settled (o : AsyncOp) : Bool := o.present.any fun m => !o.succeeds || m.all o.whole
/-- Result column j (12 R278). -/
def AsyncOp.result (o : AsyncOp) (j : Nat) : Vec :=
  let part (m k : Nat) : Vec := (o.piece m k).getD 0#2048
  match o.kind with
  | .gather =>
    let m := nth (members (farMask o.desc)) (j / o.cols)
    if o.presentSet.contains m then part m (j % o.cols) else 0#2048
  | .bcast => part (farRoot o.desc) j
  | _ =>
    match o.presentSet with
    | [] => 0#2048
    | m :: r => r.foldl (fun acc k => colOf64 (((laneList acc 32).zip (laneList (part k j) 32)).map fun p => addF32 p.1 p.2)) (part m j)
/-- The status column. -/
def AsyncOp.status (o : AsyncOp) : Vec :=
  BitVec.ofNat 2048 ((o.presentSet.foldl (fun n m => n + 2 ^ m) 0) + (if o.succeeds then 0 else 2 ^ 64))
/-- Have the residuals been written back, where the format keeps them? -/
def AsyncOp.residDone (o : AsyncOp) : Bool := farFormat o.desc != 4 || (List.range o.cols).all fun k => o.has (residCode + k)
/-- Is the operation done? -/
def AsyncOp.farDone (o : AsyncOp) : Bool :=
  match o.kind with
  | .recv => (List.range o.cols).all o.has
  | .send => (List.range o.cols).all (fun k => o.has (ackCode + k)) && o.residDone
  | .sum | .gather | .bcast => o.has statusCode && o.residDone
  | .copyIn | .copyOut => false
def State.session (s : State) (n : Nat) : Session := getK Session.reset s.pkg.sessions n
/-- The fault of an operation that cannot run: a bad descriptor, an unusable session. -/
def State.farFault (s : State) (o : AsyncOp) : Option (Nat × Nat × Nat) :=
  let se := s.session (farSession o.desc)
  match farBad o.kind o.desc se (s.tile o.tile).vault.n with
  | some (a, x) => some (0x08, a, x)
  | none => if se.state = 0 then none else some (0x09, farSession o.desc, se.state)

/-- Nonce of a frame: the 32-bit session id, then the 64-bit counter (12 R275). -/
def farNonce (session count : Nat) : BitVec 96 := BitVec.ofNat 96 (session % 2 ^ 32 + count % 2 ^ 64 * 2 ^ 32)
/-- Plaintext of a frame: tag, column, length, own index, then the wire column; the spec lays out no frame
(notes/assumptions/24.md). -/
def AsyncOp.farPlain (o : AsyncOp) (k : Nat) (wire : List Byte) : List Byte :=
  bytesOf (farTag o.desc) 4 ++ bytesOf k 4 ++ bytesOf o.cols 4 ++ bytesOf (farOwn o.desc) 1 ++ wire
/-- A frame of an operation goes out, sealed under the session's key and its next nonce. -/
def State.farSend (s : State) (n : Nat) (plain : List Byte) : State :=
  let se := s.session n
  let nonce := farNonce n se.nonce
  let text := gcmText se.key nonce plain
  (s.modPkg fun p => { p with sessions := setK p.sessions n { se with nonce := se.nonce + 1 } }).out
    (.farFrame n nonce text (Config.gcmTag se.key nonce [] text))
/-- S is fixed where this package fixes it; the root tells the members, in a frame of column 0xFFFFFFFF (the frame is the
model's, notes/assumptions/24.md). -/
def State.farFix (s : State) (c tl num : Nat) (ended : Bool) : State :=
  match (s.coach c).op tl num with
  | none => s
  | some o =>
    if !o.fixes ended then s
    else
      let s := s.modOp c tl num fun x => { x with present := some o.come }
      if o.root = some (farOwn o.desc) then
        s.farSend (farSession o.desc) (o.farPlain 0xFFFFFFFF (bytesOf (o.come.foldl (fun n m => n + 2 ^ m) 0) 8))
      else s
/-- Column k of this member's contribution goes out: quantised, sealed as a frame of the session under its key, kept as every
member sees it, with the new residual. -/
def State.contribute (s : State) (c : Nat) (o : AsyncOp) (k : Nat) (src resid : Vec) : State :=
  let fmt := farFormat o.desc
  let n := farSession o.desc
  let x := laneList src 32
  let y := if fmt = 4 then (x.zip (laneList resid 32)).map fun p => addF32 p.1 p.2 else x
  let wire := farEncode fmt y
  let v := farDecode fmt wire
  let left := colOf64 ((y.zip v).map fun p => subF32 p.1 p.2)
  let s := (s.modOp c o.tl o.num fun o => { o with
    moved := k :: o.moved
    staged := (farOwn o.desc, k, colOf64 v) :: (if fmt = 4 then [(66, k, left)] else []) ++ o.staged }).farSend n (o.farPlain k wire)
  s.farFix c o.tl o.num false
/-- Reads source column k (k below L) or residual column k - L of an operation that sends. -/
def State.farRead (s : State) (c : Nat) (o : AsyncOp) (k : Nat) : State :=
  let l := o.cols
  let fmt4 := farFormat o.desc == 4
  let j := if k < l then k else k - l
  let slot := if k < l then 64 else 65
  if o.kind = .recv ∨ j ≥ l ∨ (l ≤ k ∧ !fmt4) ∨ (o.piece slot j).isSome then s
  else
    let a := colAfter (farField o.desc (if k < l then 8 else 0x20) 8) j
    if !s.portCol c o false a then s
    else
      s.portRead c o a fun s x =>
        let other := o.piece (if k < l then 65 else 64) j
        let s := s.modOp c o.tl o.num fun o => { o with staged := (slot, j, x) :: o.staged }
        match fmt4, other with
        | false, _ => s.contribute c o j x 0#2048
        | true, some y => if k < l then s.contribute c o j x y else s.contribute c o j y x
        | true, none => s
/-- The next column to write for an index: its code, place and value. -/
def AsyncOp.farTarget (o : AsyncOp) (k : Nat) : Option (Nat × VAddr × Vec) :=
  let d := o.desc
  if residCode ≤ k then (o.piece 66 (k - residCode)).map fun x => (k, colAfter (farField d 0x20 8) (k - residCode), x)
  else if o.kind = .recv then (o.piece 0 k).map fun x => (k, colAfter (farField d 8 8) k, x)
  else if o.kind.isFarm ∧ o.settled then
    let n := if o.succeeds then farResults o.kind d else 0
    if k < n then some (resultCode + k, colAfter (farField d 0x18 8) k, o.result k)
    else if (List.range n).all fun j => o.has (resultCode + j) then some (statusCode, colAfter (farField d 0x28 8) 0, o.status)
    else none
  else none
def State.farWrite (s : State) (c : Nat) (o : AsyncOp) (k : Nat) : State :=
  match o.farTarget k with
  | none => s
  | some (code, a, x) =>
    if o.has code ∨ !s.portCol c o true a then s
    else (s.portWrite o a x).modOp c o.tl o.num fun o => { o with moved := code :: o.moved }

/-! ## Events -/

/-- A far operation whose descriptor or session cannot serve it ends with the fault; one that is done completes. -/
def State.farStep (s : State) (c : Nat) (o : AsyncOp) : State :=
  match s.farFault o with
  | some (code, d1, d2) => s.engineFault c o code d1 d2
  | none => if o.farDone then s.finishOp c o else s
def execFarOpComplete (coach tl num : Nat) (s : State) : Host.Outcome State Fault Refusal :=
  if coach < 16 then
    match (s.coach coach).op tl num with
    | none => .next s
    | some o => .next (if o.isCopy then s else s.farStep coach o)
  else .fault .noSuchUnit
/-- The member wait of a `farm` is over: at the root S is what has come, for good; another member has it from the root. -/
def execFarmMemberWaitExpiry (coach tl num : Nat) (s : State) : Host.Outcome State Fault Refusal :=
  if coach < 16 then .next (s.farFix coach tl num true)
  else .fault .noSuchUnit

/-- One command of an engine on the asynchronous port of a tile. -/
def execEngineVaultCommand (tile : Nat) (cmd : EngineCmd) (s : State) : Host.Outcome State Fault Refusal :=
  if tile < 384 then
    let col (tl num : Nat) (f : Nat → AsyncOp → State) : State :=
      match (List.range 16).findSome? fun c =>
          match (s.coach c).op tl num with
          | some o => if o.tile = tile then some (c, o) else none
          | none => none with
      | none => s
      | some (c, o) =>
        if o.isCopy then s
        else if !s.tagOk o then s.tagFault c o
        else match s.farFault o with
          | some (code, d1, d2) => s.engineFault c o code d1 d2
          | none => f c o
    match cmd with
    | .act bank row => .next (s.portRow tile true bank row)
    | .pre bank => .next (s.portRow tile false bank 0)
    | .rdCol tl num k => .next (col tl num fun c o => s.farRead c o k)
    | .wrCol tl num k => .next (col tl num fun c o => s.farWrite c o k)
  else .fault .noSuchUnit

/-- The operation that a frame's contribution is for. -/
def State.farMatch (s : State) (f : FarFrame) : Option (Nat × AsyncOp) :=
  (List.range 16).findSome? fun c => ((s.coach c).ops.find? fun o =>
    (o.kind == .recv || o.kind.isFarm) && farSession o.desc == f.session && farTag o.desc == f.tag.toNat).map fun o => (c, o)
/-- A column of a `.send` has been delivered. -/
def AsyncOp.delivered (o : AsyncOp) (f : FarFrame) : AsyncOp :=
  if o.kind = .send ∧ farSession o.desc = f.session ∧ farTag o.desc = f.tag.toNat ∧ o.has f.col ∧ !o.has (ackCode + f.col) then
    { o with moved := (ackCode + f.col) :: o.moved }
  else o
def State.farAck (s : State) (f : FarFrame) : State :=
  (List.range 16).foldl (fun s c => s.modCoach c fun k => { k with ops := k.ops.map (·.delivered f) }) s
/-- A column that has come is staged once. -/
def AsyncOp.stage (o : AsyncOp) (m k : Nat) (x : Vec) : AsyncOp :=
  if (o.piece m k).isSome then o else { o with staged := (m, k, x) :: o.staged }
/-- The root's word of S reaches a member: from the named root of `.bcast`, else from the lowest member of the set. -/
def AsyncOp.hear (o : AsyncOp) (member : Nat) (m : BitVec 64) : AsyncOp :=
  let set := members (m &&& farMask o.desc)
  let from_ := if o.kind = .bcast then some (farRoot o.desc) else set.head?
  if o.kind.isFarm ∧ o.present.isNone ∧ from_ = some member then { o with present := some set } else o
/-- Is a member's contribution taken: before S is fixed of every other member, then of those in S? -/
def AsyncOp.takes (o : AsyncOp) (m : Nat) : Bool :=
  (members (farMask o.desc)).contains m && m != farOwn o.desc && (match o.present with | none => true | some set => set.contains m)
/-- A far frame arrives: one whose tag fails is discarded and counted, the sixteenth in a row closes the session; a good one
delivers its column. -/
def State.farFrame (s : State) (f : FarFrame) : State :=
  let se := s.session f.session
  let put (x : Session) (s : State) : State := s.modPkg fun p => { p with sessions := setK p.sessions f.session x }
  if se.state ≠ 0 then s
  else if !f.good then put { se with failed := se.failed + 1, state := if se.failed + 1 ≥ 16 then 3 else 0 } s
  else
    let s := put { se with failed := 0 } s
    if f.ack then s.farAck f
    else match s.farMatch f with
    | none => s
    | some (c, o) =>
      if let some m := f.set then s.modOp c o.tl o.num fun o => o.hear f.member m
      else
      let x := colOf64 (farDecode (farFormat o.desc) f.data)
      if o.kind = .recv then
        if f.len ≠ o.cols then s.engineFault c o 0x0A f.tag.toNat f.len
        else if f.col < o.cols then s.modOp c o.tl o.num fun o => o.stage 0 f.col x
        else s
      else if o.takes f.member ∧ f.col < o.cols then
        (s.modOp c o.tl o.num fun o => o.stage f.member f.col x).farFix c o.tl o.num false
      else s
def execFarFrameReceive (f : FarFrame) (s : State) : Host.Outcome State Fault Refusal :=
  if f.session < 1024 then .next (s.farFrame f) else .fault .noSuchUnit

end Sys2Proof.Machine
end

