-- ==== Sys2Proof/Machine/Queues.lean ====
section
/-! DEFINITION. The dispatcher's decision (02 R66, 12 R265, R268, 20 R367). -/
namespace Sys2Proof.Machine

/-- Queues that a decision for a coach considers, with their entries. -/
def State.eligible (s : State) (c : Nat) : List (Nat × Queue) :=
  s.pkg.queues.filter fun p => p.2.en && p.2.coach == c && p.2.status == 0 && decide (p.2.owner < 130) &&
    !s.pkg.fnOff.contains p.2.owner && decide (1 ≤ p.2.pending)
def Queue.lapped (x : Queue) : Bool := decide (2 ^ x.lsz < x.pending)
/-- Of the eligible queues, the one served: lowest priority level, then first after the last served at that level. -/
def pick (rr : Vector Nat 4) (qs : List (Nat × Queue)) : Option (Nat × Queue) :=
  let key (p : Nat × Queue) : Nat := p.2.prio * 32768 + (p.1 + 32768 - 1 - rr.getD p.2.prio 0 % 32768) % 32768
  qs.foldl (fun best p => match best with
    | none => some p
    | some b => if key p < key b then some p else some b) none
/-- Host address of record k of a queue. -/
def Queue.slot (x : Queue) (k : Nat) : Nat := x.base.toNat + 128 * (k % 2 ^ x.lsz)
/-- One decision of the dispatcher for an idle coach. Where the record cannot be read, or is malformed, it decides again. -/
def State.dispatch (s : State) (c : Nat) : State :=
  let qs := s.eligible c
  let s := (qs.filter fun p => p.2.lapped).foldl (fun s p => s.setQueue p.1 p.2.lapRule) s
  match pick (s.coach c).rr (qs.filter fun p => !p.2.lapped) with
  | none => s
  | some (q, x) =>
    let s := s.modCoach c fun k => { k with rr := k.rr.setIfInBounds x.prio q }
    let again (s : State) : State := { s with todo := .ev (.dispatchDecision c) :: s.todo }
    match s.hread c (x.slot x.head.toNat) 128 with
    | .error _ => again (s.setQueue q { x with status := 0x02, en := false })
    | .ok b =>
      let s := s.setQueue q x.take
      if recordOk s.pkg.index (s.msixSize x.owner) b then s.load c x.owner (rawRecord b) (x.tailWall x.head s.wall)
      else
        again ((s.modLaunch c fun _ => { Launch.reset with lrec := rawRecord b, fn := x.owner }).refuseLaunch c (refuse1 0x01))

def execDispatchDecision (coach : Nat) (s : State) : Host.Outcome State Fault Refusal :=
  if coach < 16 then
    match (s.coach coach).launch.mode with
    | .idle => .next (if s.up ∧ !s.halfTraining coach then s.dispatch coach else s)
    | _ => .next s
  else .fault .noSuchUnit

end Sys2Proof.Machine
end

