-- ==== Sys2Proof/Machine/Hatbox.lean ====
section
/-! DEFINITION. Hatbox images: capture, sealing, the counter store, restore (04 R96, R109, 14 R294-R305, 20 R367, R369). The
cryptographic functions that the spec names without giving are the opaque ones of Config (notes/assumptions/4.md). -/
namespace Sys2Proof.Machine

def up4k (n : Nat) : Nat := (n + 4095) / 4096 * 4096
/-- n bytes that hold the given parts at their offsets, zero elsewhere. -/
def assemble (n : Nat) (parts : List (Nat × List Byte)) : List Byte :=
  (parts.foldl (fun (m : Mem) p => m.putL p.1 p.2) []).getL 0 n

/-! ## Capture (14 R294, R295) -/

/-- Table 14-5. -/
def Tile.stateBlock (t : Tile) (tile phase : Nat) : List Byte :=
  let n := t.snaps.getD (phase % 2) Snap.reset
  assemble 4096
    [(0, (List.range 128).flatMap fun i => bytesOf (n.word i).toNat 8),
     (0x400, (List.range 16).flatMap fun i =>
       bytesOf (t.vault.vttA.getD i 0#64).toNat 8 ++ bytesOf (t.vault.vttB.getD i 0#64).toNat 8),
     (0x500, bytesOf t.vault.retired.toNat 4 ++ bytesOf t.vault.n 1 ++ bytesOf (if t.h then 1 else 0) 1 ++ bytesOf tile 2)]
/-- Vault segment j: rows 512 j to 512 j + 511, banks 0 to N - 1 in each, columns 0 to 15. -/
def Tile.vaultSegment (t : Tile) (j : Nat) : List Byte :=
  (List.range 512).flatMap fun r => (List.range t.vault.n).flatMap fun b => (List.range 16).flatMap fun c =>
    bytesOf (t.vault.column ⟨b, 512 * j + r, c⟩).toNat 256
/-- A segment: tile, kind, index, plaintext. -/
abbrev Segment := Nat × Nat × Nat × List Byte
/-- Segments of a coach in table order (Table 14-4). -/
def State.segments (s : State) (c : Nat) : List Segment :=
  let k := s.coach c
  (0xFFFF, 5, 0, (List.range 8).flatMap fun i => bytesOf (k.tl i).live 8) ::
  (s.tilesOf c).flatMap fun t =>
    let x := s.tile t
    (t, 1, 0, x.stateBlock t k.launch.phase) :: (t, 2, 0, x.sp.getL 0 2097152) ::
    (t, 3, 0, x.blk.mem.getL 0 65536 ++ bytesOf x.blk.word 8) :: (List.range 16).map fun j => (t, 4, j, x.vaultSegment j)

/-! ## Sealing (14 R296-R301) -/

/-- Digest of a byte string as an identity or measurement. -/
def identityOf (key : List Byte) : BitVec 512 := sha3_512 key
/-- Tenant measurement of a launch (14 R298). -/
def Launch.measurement (l : Launch) : BitVec 512 := sha3_512 (bytesOf l.lrec.digest.toNat 32 ++ bytesOf l.image.hash.toNat 32)
/-- Key that wraps the image key. -/
def wrapKey (ss : BitVec 256) (lineage : BitVec 128) (k : Nat) (m : BitVec 512) : BitVec 256 :=
  sha3_256 (bytesOf ss.toNat 32 ++ bytesOf lineage.toNat 16 ++ bytesOf k 8 ++ bytesOf m.toNat 64)
/-- Nonce of segment x: 8 zero bytes, then x in 4 bytes. -/
def segNonce (x : Nat) : BitVec 96 := BitVec.ofNat 96 (x % 2 ^ 32 * 2 ^ 64)
/-- Header of an image of S segments: bytes 0x0000-0x01FF of Table 14-2. -/
def imageHeader (l : Launch) (handoff : Bool) (k tiles segs len : Nat) (restorer : BitVec 512) : List Byte :=
  assemble 0x200
    [(0, bytesOf 0x584F4248 4 ++ bytesOf 1 2 ++ bytesOf (if handoff then 1 else 0) 1), (8, bytesOf k 8),
     (0x10, bytesOf l.lineage.toNat 16), (0x20, bytesOf l.measurement.toNat 64), (0x60, bytesOf l.image.hash.toNat 32),
     (0x80, bytesOf l.relayNo 4 ++ bytesOf l.variant 1 ++ bytesOf l.lrec.index 1 ++ bytesOf l.lrec.count 1),
     (0x88, bytesOf l.lrec.tag.toNat 4 ++ bytesOf tiles 4 ++ bytesOf segs 8 ++ bytesOf len 8),
     (0x100, bytesOf (identityOf identityKey).toNat 64), (0x140, bytesOf restorer.toNat 64)]
/-- Bytes 0x00-0x1F of a segment table entry. -/
def segEntry (off : Nat) (g : Segment) : List Byte :=
  bytesOf off 8 ++ bytesOf g.2.2.2.length 8 ++ bytesOf g.1 2 ++ bytesOf g.2.1 1 ++ bytesOf g.2.2.1 1 ++ bytesOf 0 12
/-- Segments with their offsets, each on a 4 KiB boundary. -/
def placeSegs (off : Nat) : List Segment → List (Nat × Segment)
  | [] => []
  | g :: r => (off, g) :: placeSegs (off + up4k g.2.2.2.length) r
/-- The whole image (14 R295, R297). -/
def sealImage (l : Launch) (handoff : Bool) (k tiles : Nat) (segs : List Segment) (restorer ek : BitVec 512) (ki draw : BitVec 256) :
    List Byte :=
  let n := segs.length
  let placed := placeSegs (up4k (0x2000 + 48 * n + 4627)) segs
  let len := placed.foldl (fun x p => max x (p.1 + up4k p.2.2.2.2.length)) 0
  let head := imageHeader l handoff k tiles n len restorer
  let w := wrapKey (kemSecret ek draw) l.lineage k l.measurement
  let wrapped := gcmText w 0#96 (bytesOf ki.toNat 32)
  let sealed := (placed.zipIdx).map fun p =>
    let aad := head ++ segEntry p.1.1 p.1.2
    let text := gcmText ki (segNonce p.2) p.1.2.2.2.2
    (p.1.1, segEntry p.1.1 p.1.2 ++ gcmTag ki (segNonce p.2) aad text, text)
  let signed := assemble (0x2000 + 48 * n)
    [(0, head), (0x200, kemCipher ek draw),
     (0x820, wrapped ++ gcmTag w 0#96 head wrapped), (0x1000, identityKey),
     (0x2000, sealed.flatMap fun x => x.2.1)]
  assemble len ((0, signed) :: (0x2000 + 48 * n, dsaSign (sha3_512 signed)) :: sealed.map fun x => (x.1, x.2.2))

/-- The peer bundle at HBPEER, if the controller accepts it (14 R301): its certificate chains to the root, its signature
verifies, its firmware measurement is on the accepted list. Its public key and encapsulation key. -/
def State.peerBundle (s : State) (c : Nat) : Option (List Byte × List Byte) :=
  let a := (s.coach c).hat.peer.toNat
  match s.hread c a 0x2304 with
  | .error _ => none
  | .ok b =>
    let lc := natOf (b.drop 0x2300)
    if lc = 0 ∨ lc > 65536 ∨ natOf ((b.drop 0x2293).take 0x6D) ≠ 0 then none
    else
      match s.hread c a (0x2304 + lc) with
      | .error _ => none
      | .ok b =>
        let pk := b.take 0xA20
        if Config.certGood pk ((b.drop 0x2304).take lc) ∧
            s.pkg.flash.cfg.accepted.contains (BitVec.ofNat 512 (natOf ((b.drop 0x1040).take 64))) ∧
            dsaVerify pk (sha3_512 (b.take 0x1080)) ((b.drop 0x1080).take 4627) then
          some (pk, (b.drop 0xA20).take 0x620)
        else none

def State.lineageOf (s : State) (id : BitVec 128) : Option Lineage := s.pkg.flash.store.find? fun x => x.id == id
/-- Writes a lineage of the counter store; entries are never removed. -/
def State.setLineage (s : State) (x : Lineage) : State :=
  s.modPkg fun p => { p with flash := { p.flash with
    store := if p.flash.store.any (fun y => y.id == x.id) then p.flash.store.map (fun y => if y.id == x.id then x else y)
      else p.flash.store ++ [x] } }
/-- The request is over with a code. -/
def State.hatDone (s : State) (c code : Nat) : State :=
  s.modCoach c fun k => { k with hat := { k.hat with go := false, busy := false, code := code } }
/-- The restorer of an image: identity and encapsulation key, or the refusal code. -/
def State.restorer (s : State) (c : Nat) : Except Nat (BitVec 512 × BitVec 512) :=
  match (s.coach c).hat.disp.toNat with
  | 0 => .ok (identityOf identityKey, sha3_512 encapKey)
  | 1 => match s.peerBundle c with
    | some (pk, ek) => .ok (identityOf pk, sha3_512 ek)
    | none => .error 0x35
  | _ => .error 0x30
/-- Counter of the next image of a lineage, or the refusal code. -/
def State.nextCounter (s : State) (id : BitVec 128) : Except Nat Nat :=
  if !s.pkg.flash.storeGood then .error 0x3B
  else match s.lineageOf id with
    | some x => .ok (x.kmax + 1)
    | none => if s.pkg.flash.store.length ≥ 4096 then .error 0x38 else .ok 1
/-- Stored-code errors among the words that a seal reads of a tile: scratchpad, block table with BTST, the snapshot slot in force
(19 R348). -/
def Tile.sealErrs (t : Tile) (phase : Nat) : List StoreErr :=
  t.own.errs.filter fun e => (e.store == 2 && decide (e.idx < 8192)) || e.store == 3 || (e.store == 6 && e.idx == phase % 2)
/-- Those among the columns that it reads; of a vertical group whose lane parity fails every column is one, one of each bank stands
for them. -/
def Tile.sealColumns (t : Tile) : List StoreErr :=
  (t.own.errs.filter fun e => e.store == 4 && decide ((unpackV e.idx).bank < t.vault.n)) ++
    ((List.range t.vault.n).filterMap fun b => t.columnErr ⟨b, 0, 0⟩).filter fun e => t.own.lanes.getLsbD (t.vault.pbank (unpackV e.idx).bank % 8)
/-- A seal reads a tile: each error is counted; what the code does not correct gives its failure. A lane's columns fill their
counter. -/
def Tile.sealReads (t : Tile) (phase : Nat) : Tile × List Fail :=
  let es := t.sealErrs phase
  let lost := es.filter (·.fatal)
  let t := t.sram (es.length - lost.length) lost.length
  let x := t.sealColumns.foldl (fun (x : Reading × List Fail) e =>
    let a := unpackV e.idx
    let v := x.1.tile.vault
    let pb := v.pbank a.bank
    let pr := v.prow pb a.row
    let y := x.1.meet pb a.row pr e
    (y, x.2 ++ if !e.fatal then [] else
      if y.lost.length = x.1.lost.length then [⟨0x6, 0x04, 0x07, BitVec.ofNat 64 e.idx, BitVec.ofNat 64 (pb * 2 ^ 16 + pr)⟩]
      else [⟨0x6, 0x07, 0x07, BitVec.ofNat 64 (pb % 8), BitVec.ofNat 64 pb⟩])) (⟨t, true, []⟩, [])
  let t := if t.own.lanes = 0#8 then x.1.tile
    else { x.1.tile with own := { x.1.tile.own with life := { x.1.tile.own.life with vaultu := 2 ^ 16 - 1 } } }
  (t, (lost.map fun e => { codeFail e with d1 := BitVec.ofNat 64 (if e.store = 6 then snapDetail e else e.idx) }) ++ x.2)
/-- The reads of a seal on every tile of the coach, with the records of those that fail. -/
def State.sealReads (s : State) (c : Nat) : State × List Record :=
  let l := (s.coach c).launch
  (s.tilesOf c).foldl (fun x t =>
    let y := (s.tile t).sealReads l.phase
    (x.1.setTile t y.1, x.2 ++ y.2.map fun f => s.record c t 0 l.frc 0 f)) (s, [])
/-- Seals the image of a coach at step 7 of a relay point (14 R297, R300, 20 R369). After a handoff the launch ends. A write
that faults ends the request with code 0x04 and the launch with 0x8/0x05. Where a word that it reads cannot be corrected its
code is raised (19 R348, R349), no image is made and the request stands: the model's choice (notes/assumptions/52.md). -/
def State.seal (s : State) (c : Nat) : State :=
  let l := (s.coach c).launch
  let handoff := (s.coach c).hat.disp == 1#2
  if !s.pkg.flash.storeGood then s.hatDone c 0x3B
  else
  match s.restorer c, s.nextCounter l.lineage with
  | .error e, _ => s.hatDone c e
  | _, .error e => s.hatDone c e
  | .ok (rid, ek), .ok k =>
    let (s, bad) := s.sealReads c
    if !bad.isEmpty then s.takeAll c bad
    else
    let (n1, s) := s.draw
    let (n2, s) := s.draw
    let image := sealImage l handoff k (s.tilesOf c).length (s.segments c) rid ek (Config.freeRandom n1) (Config.freeRandom n2)
    let (host, bad) := (s.coach c).hostWrite s.pkg.host (s.coach c).hat.dst.toNat image (image.length / 256 + 2)
    let s := s.modPkg fun p => { p with host := host }
    if let some (a, e) := bad then (s.hatDone c 0x04).stopEvent c 0 (trFail a e)
    else if s.pkg.flash.storeFails then
      let s := (s.hatDone c 0x3B).modPkg fun p => { p with flash := { p.flash with storeGood := false } }
      (s.event 0x0008 3 0x0C 0#64 0#64).stopEvent c 0 ⟨0x9, 0x01, 0x0C, l.lineage.truncate 64, BitVec.ofNat 64 k⟩
    else
      let s := (s.setLineage ⟨l.lineage, k, handoff⟩).hatDone c 0
      let s := s.modCoach c fun x => { x with hat := { x.hat with relay := l.relayNo, moved := handoff, ctr := BitVec.ofNat 64 k } }
      if handoff then s.modLaunch c fun l => l.finish 0 s.wall else s

/-! ## Restore (14 R302-R305) -/

/-- The parts of an image that a restore reads: header, table entries, wrapped key, sealer's key, signature. -/
structure HatImage where
  bytes : Bytes
  k : Nat
  handoff : Bool
  lineage : BitVec 128
  segs : Nat
  deriving DecidableEq, Repr

def HatImage.part (h : HatImage) (o n : Nat) : List Byte := h.bytes.slice o n
/-- Reads an image at an address: its length stands in its header. -/
def State.readHat (s : State) (c : Nat) : Except Nat HatImage :=
  let a := (s.coach c).hat.dst.toNat
  match s.hread c a 0x2000 with
  | .error _ => .error 0x04
  | .ok b =>
    let x : Bytes := b.toArray
    if x.num 0 4 ≠ 0x584F4248 ∨ x.num 4 2 ≠ 1 ∨ x.num 6 1 > 1 then .error 0x30
    else
      match s.hread c a (x.num 0x98 8) with
      | .error _ => .error 0x04
      | .ok b => .ok ⟨b.toArray, x.num 8 8, x.num 6 1 == 1, BitVec.ofNat 128 (x.num 0x10 16), x.num 0x90 8⟩
/-- Steps 2 to 4 of R302. -/
def State.checkHat (s : State) (c : Nat) (h : HatImage) : Option Nat :=
  let l := (s.coach c).launch
  let own := identityOf identityKey
  let pk := h.part 0x1000 2592
  let num (o n : Nat) : Nat := h.bytes.num o n
  if num 0x20 64 ≠ l.measurement.toNat then some 0x31
  else if num 0x60 32 ≠ l.image.hash.toNat then some 0x32
  else if num 0x140 64 ≠ own.toNat then some 0x33
  else if num 0x100 64 ≠ (identityOf pk).toNat then some 0x34
  else if !h.handoff then (if pk = identityKey then none else some 0x34)
  else match s.peerBundle c with
    | none => some 0x35
    | some (peer, _) => if identityOf peer = identityOf pk then none else some 0x34
/-- Step 5: the image key. -/
def State.openHat (s : State) (c : Nat) (h : HatImage) : Except Nat (BitVec 256) :=
  let n := 0x2000 + 48 * h.segs
  let head := h.part 0 0x200
  let w := wrapKey (kemDecaps (h.part 0x200 1568)) h.lineage h.k (s.coach c).launch.measurement
  let wrapped := h.part 0x820 32
  if dsaVerify (h.part 0x1000 2592) (sha3_512 (h.part 0 n)) (h.part n 4627) ∧
      gcmTag w 0#96 head wrapped = h.part 0x840 16 then .ok (BitVec.ofNat 256 (natOf (gcmText w 0#96 wrapped)))
  else .error 0x36
/-- Step 6: the stale rule (14 R303), the store in order. -/
def State.stale (s : State) (h : HatImage) : Option Nat :=
  if !s.pkg.flash.storeGood then some 0x3B
  else match s.lineageOf h.lineage, h.handoff with
    | some x, false => if !x.moved ∧ x.kmax ≤ h.k then none else some 0x37
    | none, false => some 0x37
    | some x, true => if x.moved ∧ x.kmax < h.k then none else some 0x37
    | none, true => if s.pkg.flash.store.length ≥ 4096 then some 0x38 else none
/-- Segment x of an image, authenticated and opened. -/
def HatImage.segment (h : HatImage) (ki : BitVec 256) (x : Nat) : Option Segment :=
  let o := 0x2000 + 48 * x
  let e := h.part o 32
  let aad := h.part 0 0x200 ++ e
  let text := h.part (h.bytes.num o 8) (h.bytes.num (o + 8) 8)
  if gcmTag ki (segNonce x) aad text = h.part (o + 0x20) 16 then
    some (h.bytes.num (o + 0x10) 2, h.bytes.num (o + 0x12) 1, h.bytes.num (o + 0x13) 1, gcmText ki (segNonce x) text)
  else none
/-- All segments, or none where one fails. -/
def HatImage.openAll (h : HatImage) (ki : BitVec 256) : Nat → Option (List Segment)
  | 0 => some []
  | n + 1 => match HatImage.openAll h ki n, h.segment ki n with
    | some r, some g => some (r ++ [g])
    | _, _ => none
/-- The plaintext of a tile's segment. -/
def segOf (gs : List Segment) (t kind j : Nat) : Bytes :=
  match gs.find? (fun g => g.1 == t && g.2.1 == kind && g.2.2.1 == j) with
  | some g => g.2.2.2.toArray
  | none => #[]
/-- A loop counter from its words A, B, C (04 Table 4-5). -/
def loopOf (a b c : Nat) : LoopSt :=
  ⟨a / 2 ^ 63 % 2 == 1, BitVec.ofNat 16 (a / 2 ^ 32), a % 2 ^ 32, b / 2 ^ 32 % 2 ^ 32, c, b % 2 ^ 17, b / 2 ^ 17 % 2 ^ 14, 0⟩
/-- The carry snapshot of a state block, its settled bit set; the banks stand Closed, as a relay point leaves them. -/
def snapOf (x : Bytes) (rl os : Nat) : Snap :=
  let w (i : Nat) : Nat := x.num (8 * i) 8
  { valid := true, settled := true, phase := w 0 % 2 ^ 32, frc := w 1, sb := w 2, h := w 3 / 2 ^ 17 % 2 == 1, addr := w 3 % 2 ^ 17
    ftmask := BitVec.ofNat 16 (w 4), s := Vector.ofFn fun i => BitVec.ofNat 64 (w (0x10 + i.val))
    ft := Vector.ofFn fun i => BitVec.ofNat 32 (w (0x20 + i.val)), acq := Vector.ofFn fun i => BitVec.ofNat 64 (w (0x30 + i.val))
    l := Vector.ofFn fun i => loopOf (w (0x40 + 4 * i.val)) (w (0x41 + 4 * i.val)) (w (0x42 + 4 * i.val))
    banks := Vector.replicate 32 { Bank.reset with due := w 1 }, rl := rl, os := os, trigs := Vector.replicate 8 0 }
/-- Refill list and output range set that the `commit` before a stream address names: those of the phase that follows. -/
def commitBefore (code : List CodeWord) (dict : List Bundle) (addr : Nat) : Nat × Nat :=
  let lit := decide (25 ≤ addr) && itemAt code 0 (addr - 25) && code.getD (addr - 25) 0#16 == 0xF400#16
  match commitsOf dict (code.drop (if lit then addr - 25 else addr - 1)) 1 with
  | x :: _ => x
  | [] => (0, 0)
/-- The translation table that a restore puts in force: the image's for a keep image, for a handoff image that of the
configuration (14 R304). -/
def hatTable (cfg : CfgImage) (gs : List Segment) (tile : Nat) (handoff b : Bool) : Vector Word 16 :=
  let x := segOf gs tile 1 0
  if handoff then cfg.table tile b
  else Vector.ofFn fun i => BitVec.ofNat 64 (x.num (0x400 + 16 * i.val + if b then 8 else 0) 8) &&& if b then vttMaskB else vttMaskA
/-- A tile restored from its segments (14 R304): dead state at its launch values; the refresh pointers go on (10 R236). -/
def Tile.ofHat (t : Tile) (gs : List Segment) (tile : Nat) (va vb : Vector Word 16) (img : TileImg) (code : List CodeWord)
    (dict : List Bundle) : Tile :=
  let x := segOf gs tile 1 0
  let n := x.num 0x504 1
  let addr := x.num 0x18 8 % 2 ^ 17
  let (rl, os) := commitBefore code dict addr
  let sn := snapOf x rl os
  let v : VaultSt := { t.vault with
    n := n, cells := [], window := none, watermark := none, eng := Vector.replicate 32 EngBank.reset
    banks := Vector.ofFn fun i => { sn.banks.getD i.val Bank.reset with ptr := (t.vault.bank i.val).ptr }
    vttA := va, vttB := vb }
  let v := (List.range 16).foldl (fun (v : VaultSt) j =>
    let g := segOf gs tile 4 j
    (List.range (512 * n * 16)).foldl (fun (v : VaultSt) i =>
      v.setColumn ⟨i / 16 % n, 512 * j + i / (16 * n), i % 16⟩ (BitVec.ofNat 2048 (g.num (256 * i) 256))) v) v
  let b := segOf gs tile 3 0
  { Tile.reset with
    regs := { Regs.reset with
      s := Vector.ofFn fun i => if 1 ≤ i.val ∧ i.val ≤ 16 then sn.s.getD (i.val - 1) 0#64 else 0#64, l := sn.l }
    ft := sn.ft, ftmask := sn.ftmask, acq := sn.acq, h := x.num 0x505 1 == 1
    sp := Mem.putL [] 0 (segOf gs tile 2 0).toList
    vault := v
    blk := BlkSt.ofImage (Mem.putL [] 0 (b.toList.take 65536)) (BitVec.ofNat 64 (b.num 65536 8))
    seq := { SeqSt.reset with
      code := code, dict := dict, pc := sn.addr, sb := sn.sb, buf := 64, minIssue := sn.frc, lastCommit := some (sn.frc - 1)
      rl := rl, os := os, refills := img.refills, outs := img.outs }
    snaps := Tile.reset.snaps.setIfInBounds (sn.phase % 2) sn
    own := { t.own with errs := [] } }
/-- Zero-fills the vaults of a coach's tiles (04 R96). -/
def State.wipe (s : State) (c : Nat) : State :=
  s.modTiles (fun t => { t with vault := { t.vault with cells := [] } }) (s.tilesOf c)
/-- A restore fails: its code, its record, the vaults of a tile just admitted, an idle coach, whose waiting plan is applied (14 R302,
20 R367, 13 R291). -/
def State.restoreFail (s : State) (c : Nat) (e : Refuse) : State :=
  let img := decide (0x20 ≤ e.code ∧ e.code ≤ 0x2C)
  let x : Fail := if img then ⟨0x1, e.code, 0x0B, BitVec.ofNat 64 e.d1, BitVec.ofNat 64 e.d2⟩
    else ⟨0x8, 0x40, 0x0B, BitVec.ofNat 64 e.code, 0#64⟩
  (((s.log c (s.record c noTile 0 0 e.addr x)).wipe c).modCoach c fun k => { k with
    hat := { k.hat with busy := false, code := e.code }, launch := Launch.reset }).planIdle c
/-- Tile of the i-th block of 19 segments of an image, and N there by the length of its vault segments. -/
def HatImage.tileAt (h : HatImage) (i : Nat) : Nat := h.bytes.num (0x2000 + 48 * (1 + 19 * i) + 0x10) 2
def HatImage.banksAt (h : HatImage) (i : Nat) : Nat := h.bytes.num (0x2000 + 48 * (4 + 19 * i) + 8) 8 / 2 ^ 21
/-- Step 7: does the coach hold exactly the image's tiles, each with banks enough? -/
def State.hatFits (s : State) (c : Nat) (h : HatImage) : Bool :=
  let n := (h.segs - 1) / 19
  (List.range n).map h.tileAt == s.tilesOf c && h.bytes.num 0x8C 4 == n &&
    (List.range n).all fun i => decide (h.banksAt i ≤ 32 - retiredCount (s.tile (h.tileAt i)).vault.retired)
/-- Steps 2 to 8 of R302, on a state whose launch holds the record, up to the placing: the segments, or the refusal. -/
def State.restoreChecks (s : State) (c : Nat) (h : HatImage) : Except Refuse (List Segment) :=
  match s.checkHat c h with
  | some e => .error (refuse1 e)
  | none =>
    match s.openHat c h with
    | .error e => .error (refuse1 e)
    | .ok ki =>
      match s.stale h with
      | some e => .error (refuse1 e)
      | none =>
        if !s.hatFits c h then .error (refuse1 0x39)
        else
          match h.openAll ki h.segs with
          | none => .error (refuse1 0x3A)
          | some gs =>
            if (s.tilesOf c).all fun t => ({ (s.tile t).vault with
                vttA := hatTable s.pkg.flash.cfg gs t h.handoff false
                vttB := hatTable s.pkg.flash.cfg gs t h.handoff true } : VaultSt).tableOk then .ok gs
            else .error (refuse1 0x0A)
/-- Step 8: places the segments. The frame is that of a tile of the image's variant. -/
def State.restorePlace (s : State) (c : Nat) (h : HatImage) (gs : List Segment) : State :=
  let num (o n : Nat) : Nat := h.bytes.num o n
  let l := (s.coach c).launch
  let cfg := s.pkg.flash.cfg
  let v := num 0x84 1
  let vi := l.image.variants.getD v ⟨0#64, 0#256, [], 0, [], [], []⟩
  let s := (s.tilesOf c).foldl (fun s t => s.modTile t fun x =>
    x.ofHat gs t (hatTable cfg gs t h.handoff false) (hatTable cfg gs t h.handoff true) (l.dataOf t) (look [] vi.code t)
      (look [] vi.dict t)) s
  let g := segOf gs 0xFFFF 5 0
  let sn := match vi.tiles with
    | t :: _ => let x := segOf gs t 1 0; (x.num 0 8 % 2 ^ 32, x.num 8 8)
    | [] => (0, 0)
  let s := s.modCoach c fun k => { k with
    tls := Vector.ofFn fun i => ⟨g.num (8 * i.val) 8, g.num (8 * i.val) 8, [], 0⟩
    ops := [], unshown := [], pushes := [], faults := []
    log := { k.log with tag := l.lrec.tag, cls := 0, code := 0, cancels := 0, restarts := 0, strikes := 0, settled := 0 }
    launch := { k.launch with
      mode := .starting, variant := v, relayNo := num 0x80 4, frc := sn.2, phase := sn.1, phaseStart := sn.2
      tiles := vi.tiles, sinceWall := s.wall, lastIssued := sn.2, restored := true, lineage := h.lineage
      replays := [(sn.1, 0)], ranVariant := v, sentTag := BitVec.ofNat 32 (num 0x88 4), restoring := true, hatCtr := h.k, hatMoved := h.handoff } }
  s.writeMirrors c
/-- Steps 9 and 10: the counter store, then the work of a relay point. A domain's packages first agree on one launch tag and
relay number (14 R305); from here on the image is the last one restored (Table 14-1). -/
def State.restoreOn (s : State) (c : Nat) : State :=
  let k := s.coach c
  let s := s.setLineage ⟨k.launch.lineage, k.launch.hatCtr, false⟩
  s.modCoach c fun k => { k with
    hat := { k.hat with
      code := 0, relay := k.launch.relayNo, moved := k.launch.hatMoved, ctr := BitVec.ofNat 64 k.launch.hatCtr }
    launch := { k.launch with mode := .relaying false, sinceWall := s.wall, reported := [], startEpoch := none, relayStep := 0, relayWall := 0 } }
/-- HBRST: the restore of an idle coach by a function; ignored otherwise. It is in progress until the frame runs, or it fails. Where
the counter store is bad every one is refused with 0x3B (20 R369). -/
def State.restore (s : State) (c fn : Nat) (rec : Word) : State :=
  let s := s.modCoach c fun k => { k with hat := { k.hat with recAddr := rec &&& ~~~0x7F#64 } }
  if !rec.getLsbD 0 ∨ (s.coach c).launch.mode ≠ .idle then s
  else
    let s := s.modCoach c fun k => { k with hat := { k.hat with busy := true } }
    let read := s.hread c (rec &&& ~~~0x7F#64).toNat 128
    let s := s.modLaunch c fun _ => { Launch.reset with
      lrec := match read with | .ok b => rawRecord b | .error _ => LaunchRec.reset
      fn := fn, tailWall := s.wall }
    if !s.pkg.flash.storeGood then s.restoreFail c (refuse1 0x3B)
    else
    match read with
    | .error _ => s.restoreFail c (refuse1 0x04)
    | .ok b =>
      let r := rawRecord b
      if !recordOk s.pkg.index (s.msixSize fn) b then s.restoreFail c (refuse1 0x01)
      else
        match s.loadChecks c r with
        | .error e => s.restoreFail c e
        | .ok img =>
          let s := s.modLaunch c fun l => { l with image := img }
          match s.readHat c with
          | .error e => s.restoreFail c (refuse1 e)
          | .ok h =>
            match s.restoreChecks c h with
            | .error e => s.restoreFail c e
            | .ok gs =>
              let s := s.restorePlace c h gs
              match (s.coach c).launch.mode with
              | .starting => if r.type = 2 then s.reportNow c .ready 0xFF#8 else s.restoreOn c
              | _ => s
def execHatboxRestore (fn coach : Nat) (rec : Word) (s : State) : Host.Outcome State Fault Refusal :=
  if coach < 16 ∧ isFn fn then .next (if s.up ∧ isPf fn then s.restore coach fn rec else s) else .fault .noSuchUnit
/-- A register write; HBRST begins a restore. -/
def execRegisterWrite (fn off : Nat) (x : Word) (s : State) : Host.Outcome State Fault Refusal :=
  if isFn fn then .next (if s.up then s.bar0 fn off x fun s c x => s.restore c fn x else s) else .fault .noSuchUnit

end Sys2Proof.Machine
end

