-- ==== Sys2Proof/Machine/Relay.lean ====
section
/-! DEFINITION. Loader work at a relay point and the no-variant rule (02 R61, R62, 13 R283-R292, 14 R294, 20 R367). -/
namespace Sys2Proof.Machine

/-- Saves every lifetime block in module flash (19 R361). -/
def State.saveLives (s : State) : State :=
  s.modPkg fun p => { p with flash := { p.flash with
    lives := s.tiles.map fun x => (x.1, x.2.own.life), ports := (List.range 16).map fun i => (i, p.port i) } }
/-- Rank of a tile in a tile set. -/
def rankOf (tiles : List Nat) (t : Nat) : Nat := (tiles.takeWhile fun x => x != t).length
/-- Relay entry of a tile of a variant. -/
def Launch.entry (l : Launch) (t : Nat) : RelayEntry :=
  match l.image.variants[l.chosen]? with
  | some v => v.relay.getD (l.relayNo * v.tiles.length + rankOf v.tiles t) ⟨0, 0, false⟩
  | none => ⟨0, 0, false⟩
def Launch.variantImg (l : Launch) (n : Nat) : VariantImg := l.image.variants.getD n ⟨0#64, 0#256, [], 0, [], [], []⟩

/-! ## Steps 2 to 6 (13 Table 13-3) -/

/-- Variants that hold at this relay point under its forecast class; after a restore those whose banks are at most the image's
(14 R304). -/
def State.relayHolding (s : State) (c : Nat) : List Nat :=
  let l := (s.coach c).launch
  let vs := s.holding c l.relayClass l.image.variants
  if l.restoring then
    vs.filter fun n => l.tiles.all fun t => decide ((l.variantImg n).banks ≤ (s.tile t).vault.n)
  else vs
/-- A tile whose map (no, ro) gives way to one of n banks: its migration starts. One that has been started and has moved no line
starts anew from its own old map; one that is under way is finished first. -/
def State.remap (s : State) (c t n no : Nat) (ro : BitVec 32) : State :=
  let x := s.tile t
  let v := x.vault
  let at_ (x : Tile) : Tile := { x with vault := { x.vault with n := n, watermark := none } }
  match v.watermark with
  | none => s.took c t ((at_ x).startMigration no ro)
  | some (w, wn, wr) =>
    if w = v.n * Config.rows then s.took c t (((at_ x).rekey v.n).beginMigration wn wr)
    else
      let s := s.took c t x.finishMigration
      s.took c t ((at_ (s.tile t)).startMigration v.n v.retired)
/-- Is there a plan that is to be applied under a variant that uses some tiles? -/
def State.planReady (s : State) (c : Nat) (used : List Nat) : Bool :=
  let k := s.coach c
  k.cplan != k.crect && s.planFits c used && !k.planBusy
/-- Step 5: the plan, where it holds; one that can never hold has its event (20 Table 20-4 code 0x0006), another waits. A tile
that enters by it is placed after it. -/
def State.relayPlan (s : State) (c : Nat) (used : List Nat) : State :=
  let k := s.coach c
  if k.cplan ≠ k.crect ∧ !(rectOf k.cplan).legal then s.event 0x0006 1 0x0B (BitVec.ofNat 64 c) k.cplan
  else if s.planReady c used then
    (s.applyPlan c).modLaunch c fun l => { l with entered := l.entered.filter fun t => !k.entering.contains t }
  else s
/-- The bank maps of a coach's tiles. -/
def State.mapsOf (s : State) (c : Nat) : List (Nat × Nat × BitVec 32) :=
  (s.tilesOf c).map fun t => (t, (s.tile t).vault.n, (s.tile t).vault.retired)
/-- Tiles of every variant that a coach's selection holds. -/
def Launch.heldTiles (l : Launch) : List Nat :=
  (l.image.variants.zipIdx.filter fun v => l.relaySet.getLsbD v.2).flatMap fun v => v.1.tiles
/-- A variant is selected: steps 5 and 6 begin; a tile that enters by the plan, zero-filled, takes the bank map at once. The selection
ends 64 cycles after the settling (13 Table 13-4). While package 0 may yet name another variant (`named` false), the plan releases no
tile of a variant that holds. -/
def State.relayChoose (s : State) (c v : Nat) (named : Bool) : State :=
  let l := (s.coach c).launch
  let vi := l.variantImg v
  let s := if l.restoring then s else s.relayPlan c (if named then vi.tiles else vi.tiles ++ l.heldTiles)
  let s := l.relayMaps.foldl (fun s x =>
    let v := (s.tile x.1).vault
    if (s.tile x.1).own.owner = some c then s.remap c x.1 (min vi.banks (32 - retiredCount v.retired)) x.2.1 x.2.2 else s) s
  let s := s.modTiles (·.setBanks vi.banks) ((s.tilesOf c).filter fun t => !l.relayMaps.any fun x => x.1 == t)
  let maps := s.mapsOf c
  s.modLaunch c fun l => { l with
    mode := match l.mode with | .relaying _ => .relaying false | m => m
    chosen := v, relayStep := 1, relayMaps := maps
    relayWall := if s.wall = l.sinceWall + 4096 then s.wall + 63 else s.wall + 64 }
/-- No variant holds: the pause refreshes at class 4, and each forecast selects again. -/
def State.relayNone (s : State) (c : Nat) : State :=
  (s.modTiles (fun t => { t with vault := { t.vault with rfclass := 4 } }) (s.tilesOf c)).modLaunch c
    fun l => { l with mode := .relaying true, relayStep := 0, closingDone := none }
/-- Step 4, with the set that a domain's report carries; where it is empty package 0 hears of it at once. Package 0 forgets the set that
it has told itself, and keeps those of the others. -/
def State.relaySelect (s : State) (c : Nat) : State :=
  let vs := s.relayHolding c
  let s := s.modLaunch c fun l => { l with relaySet := setOf vs, reported := l.reported.filter fun r => r.pkg != l.lrec.index }
  match vs with
  | v :: _ => s.relayChoose c v (!(s.coach c).launch.isDomain)
  | [] => (s.relayNone c).reportNow c .held 0#8
/-- Step 3 on a tile: its repairs, and, where a bank is retired, the migration that its new map asks for, before which one that is
still under way is finished. -/
def State.relayRepair (s : State) (c t : Nat) : State :=
  let s := s.took c t (s.tile t).finishMigration
  let v := (s.tile t).vault
  let s := (s.repairTile c t (!(s.coach c).ops.any fun o => o.tile == t)).modTile t fun x =>
    { x.newInterval with vault := { x.vault with n := min v.n (32 - retiredCount x.vault.retired) } }
  s.took c t ((s.tile t).startMigration v.n v.retired)
/-- Steps 2 and 3; the selection waits for a retrain at half rate. -/
def State.relayBegin (s : State) (c : Nat) : State :=
  let s := s.saveLives
  let maps := s.mapsOf c
  let cls := s.coachClass c
  let s := s.modLaunch c fun l => { l with relayMaps := maps, relayClass := cls, relayStep := 7, entered := [] }
  let s := if (s.coach c).launch.restoring then s else (s.tilesOf c).foldl (fun s t => s.relayRepair c t) s
  s.retrainHalf c

/-! ## Steps 6 to 10 -/

/-- Step 8 for a tile: the variant's stream and dictionary; a tile that enters is placed as at launch. A replay to a phase
before the relay point takes its stream address in the new variant's code: the model's choice (notes/assumptions/48.md). -/
def State.relayTile (s : State) (c t : Nat) : State :=
  let l := (s.coach c).launch
  let vi := l.variantImg l.chosen
  let e := l.entry t
  s.modTile t fun x =>
    if l.tiles.contains t ∨ !e.enter then
      (x.modSeq fun q => { q with code := look [] vi.code t, dict := look [] vi.dict t }).recode fun e => e.store == 5
    else
      let y := x.place (l.dataOf t) (look [] vi.code t) (look [] vi.dict t) vi.banks x.vault.rfclass s.wall
      let y := if l.entered.contains t then y.again x else y
      let n : Snap := { y.snaps.getD 0 Snap.reset with phase := l.phase, frc := l.phaseStart, sb := e.sb, addr := e.addr }
      { y with
        snaps := Tile.reset.snaps.setIfInBounds (l.phase % 2) n
        seq := { y.seq with ended := false, minIssue := l.frc + 1, lastCommit := some (l.frc - 1) } }
/-- Step 8: nothing where the variant is unchanged and its tiles are placed, else 1,800 cycles. -/
def State.relayLoad (s : State) (c : Nat) : State :=
  let l := (s.coach c).launch
  let vi := l.variantImg l.chosen
  if l.chosen = l.variant ∧ vi.tiles.all fun t => l.tiles.contains t || l.entered.contains t then
    s.modLaunch c fun l => { l with relayStep := 4 }
  else
    let s := vi.tiles.foldl (fun s t => s.relayTile c t) s
    s.modLaunch c fun l => { l with
      variant := l.chosen, relayStep := 4
      entered := l.entered ++ vi.tiles.filter fun t => !l.tiles.contains t && !l.entered.contains t
      relayWall := s.wall + 1800 }
/-- Step 9 on every tile of the coach: the class of step 2, and the closing REFB of every bank, once, with its tRFCpb (128
cycles, 13 Table 13-4). -/
def State.relayClose (s : State) (c : Nat) : State :=
  let l := (s.coach c).launch
  let s := s.modTiles (fun t => { t with vault := { t.vault with rfclass := l.relayClass } }) (s.tilesOf c)
  let s := s.closeTiles c (s.tilesOf c)
  let done := l.closingDone.getD (s.wall + 128)
  s.modCoach c fun k => { k with
    hot := false, launch := { k.launch with relayStep := 5, relayWall := max s.wall done, closingDone := some done } }
/-- A switch from the variant that the frame has run last has its event (13 R284). -/
def State.switchEvent (s : State) (c : Nat) : State :=
  let l := (s.coach c).launch
  if l.variant = l.ranVariant then s
  else s.event 0x0002 0 0x0B (BitVec.ofNat 64 (c * 2 ^ 32 + l.relayNo)) (BitVec.ofNat 64 (l.ranVariant * 2 ^ 8 + l.variant))
/-- Step 10: every tile goes on at its relay entry, at the next frame cycle; a tile that leaves the set has no stream any more;
the relay number moves on. A switch of the variant is reported. A restore is then over. -/
def State.relayResume (s : State) (c : Nat) : State :=
  let l := (s.coach c).launch
  let vi := l.variantImg l.chosen
  let s := s.switchEvent c
  let s := ((l.tiles ++ l.entered).filter fun t => !vi.tiles.contains t).foldl
    (fun s t => s.modTile t fun x => { x with seq := SeqSt.reset }) s
  let s := vi.tiles.foldl (fun s t =>
    let e := l.entry t
    s.modTile t fun x => x.modSeq fun q => { q with pc := e.addr, sb := e.sb, buf := 64, need := 0 }) s
  let s := s.modCoach c fun k => { k with
    hat := if l.restoring then { k.hat with busy := false } else k.hat
    launch := { k.launch with
      tiles := vi.tiles, relayNo := l.relayNo + 1, lastRelay := some l.frc, relayStep := 0, relayMaps := [], entered := []
      restoring := false, ranVariant := l.variant } }
  s.resumeAt c (l.frc + 1)
/-- Has the epoch boundary come at which package 0 has named the resume of a domain's relay point? What a change of the variant by that
START has left to do is then done at once (02 R64; notes/assumptions/36.md). -/
def State.relayDue (s : State) (c : Nat) : Bool :=
  let l := (s.coach c).launch
  l.isDomain && l.startEpoch.isSome && s.mayGo c
/-- Step 7: a requested image waits until no operation of the coach is outstanding; at a named boundary it waits for the next relay
point. -/
def State.relayHatbox (s : State) (c : Nat) : State :=
  let k := s.coach c
  let on (s : State) : State := match (s.coach c).launch.mode with
    | .relaying _ => s.modLaunch c fun l => { l with relayStep := 3 }
    | _ => s
  if !k.hat.go ∨ k.launch.restoring ∨ s.relayDue c then on s
  else if k.ops.isEmpty then on (s.seal c)
  else s.modCoach c fun k => { k with hat := { k.hat with busy := true } }
/-- One step of the work. -/
def State.relayOne (s : State) (c : Nat) : State :=
  let l := (s.coach c).launch
  match l.relayStep with
  | 0 => s.relayBegin c
  | 7 => if s.halfTraining c then s else s.relaySelect c
  | 1 =>
    if s.relayDue c then
      ((s.tilesOf c).foldl (fun s t => s.took c t (s.tile t).finishMigration) s).modLaunch c fun l => { l with relayStep := 2 }
    else if (s.tilesOf c).any fun t => (s.tile t).vault.watermark.isSome then
      ((s.tilesOf c).foldl (fun s t => s.took c t (s.tile t).migrateLine) s).modLaunch c
        fun l => { l with relayWall := s.wall + 32 }
    else s.modLaunch c fun l => { l with relayStep := 2 }
  | 2 => s.relayHatbox c
  | 3 => s.relayLoad c
  | 4 => s.relayClose c
  | 5 =>
    if !l.isDomain then s.relayResume c
    else if l.startEpoch.isSome then s.modLaunch c fun l => { l with relayStep := 6 }
    else (s.modLaunch c fun l => { l with relayStep := 6 }).reportNow c .held l.relaySet
  | _ => if s.mayGo c then s.relayResume c else s
/-- The steps that take no time follow at once; a step that waits, or takes time, ends the work of this cycle. -/
def State.relayGo (s : State) (c : Nat) : Nat → State
  | 0 => s
  | n + 1 =>
    let l := (s.coach c).launch
    match l.mode with
    | .relaying false =>
      if l.relayWall ≤ s.wall ∨ s.relayDue c then
        let s' := s.relayOne c
        if (s'.coach c).launch.relayStep = l.relayStep then s' else State.relayGo s' c n
      else s
    | _ => s
/-- Relay work of a coach, once the committed phase has settled (step 1). -/
def execRelayLoaderWork (coach : Nat) (s : State) : Host.Outcome State Fault Refusal :=
  if coach < 16 then
    let l := (s.coach coach).launch
    .next (if l.unsettled.any fun u => decide (u.phase < l.phase) then s else s.relayGo coach 10)
  else .fault .noSuchUnit

/-! ## The no-variant rule (20 R367) -/

/-- Why no variant holds: [0] class, [1] rate, [2] tiles or banks. -/
def State.noVariantWhy (s : State) (c : Nat) : Nat :=
  let vs := (s.coach c).launch.image.variants
  (if vs.any fun v => !classOk (s.coachClass c) v then 1 else 0) + (if vs.any fun v => !s.ratesOk v then 2 else 0) +
  (if vs.any fun v => !s.tilesOk c v then 4 else 0)
/-- Does a relay point of a domain wait for what only another package can send? -/
def Launch.relayWaits (l : Launch) : Bool := l.isDomain && l.relayStep == 6 && l.startEpoch.isNone
/-- The rendezvous timeout has passed with no variant: 0xA/0x03; so it ends a relay point of a domain that waits for another
package (notes/assumptions/49.md). -/
def execNoVariantTimeout (coach : Nat) (s : State) : Host.Outcome State Fault Refusal :=
  if coach < 16 then
    let l := (s.coach coach).launch
    if l.mode = .relaying true ∨ (l.mode = .relaying false ∧ l.relayWaits) then
      .next (s.stopEvent coach 0 ⟨0xA, 0x03, 0x0B, BitVec.ofNat 64 l.relayNo, BitVec.ofNat 64 (s.noVariantWhy coach)⟩)
    else .next s
  else .fault .noSuchUnit

/-- fclass of a forecast peak DRAM temperature, in units of 0.125 degrees (13 Table 13-5). -/
def forecastClass (t : Nat) : Nat := if t ≤ 664 then 1 else if t ≤ 744 then 2 else if t ≤ 824 then 4 else 0
/-- FCST word of a publication: seq, tdram, tjct, mdram, fclass. -/
def fcstWord (old : Word) (x : Nat × Nat × Nat) : Word :=
  BitVec.ofNat 64 ((bits old 63 48 + 1) % 2 ^ 16 * 2 ^ 48 + x.1 % 2 ^ 12 * 2 ^ 36 + x.2.1 % 2 ^ 12 * 2 ^ 24 + x.2.2 % 2 ^ 12 * 2 ^ 12 +
    forecastClass x.1)
/-- A forecast is published, in stack order, once the package is up (01 R33); a coach whose relay point holds no variant takes it and selects again. -/
def execForecastPublish (pkgWords : List (Nat × Nat × Nat)) (s : State) : Host.Outcome State Fault Refusal :=
  if !s.up then .next s
  else
  let s := s.modPkg fun p => { p with fcst := Vector.ofFn fun i =>
    match pkgWords[i.val]? with | some x => fcstWord (p.fcst.getD i.val 0#64) x | none => p.fcst.getD i.val 0#64 }
  .next ((List.range 16).foldl (fun s c =>
    match (s.coach c).launch.mode with
    | .relaying true => (s.modLaunch c fun l => { l with relayClass := s.coachClass c }).relaySelect c
    | _ => s) s)

end Sys2Proof.Machine
end

