-- ==== Sys2Proof/Machine/Tandem.lean ====
section
/-! DEFINITION. Tandem ports: flits, link replay, injection, retraining; epochs, reports and the START of a domain launch
(02 R63, R64, 08 R202-R204, 12 R270, 14 R305, 19 R354-R357, 20 R366, R367). -/
namespace Sys2Proof.Machine

/-! ## Link replay (19 R354, R355) -/

/-- Is sequence a at most b, modulo 65,536? -/
def seqLe (a b : BitVec 16) : Bool := decide ((b - a).toNat < 2 ^ 15)
/-- Is generation g older than h, modulo 256? -/
def genOlder (g h : BitVec 8) : Bool := g != h && decide ((h - g).toNat < 2 ^ 7)
/-- An acknowledgement frees the replay buffer up to it. -/
def Port.acked (p : Port) (ack : BitVec 16) : Port :=
  { p with replay := p.replay.filter fun x => !seqLe (BitVec.ofNat 16 x.1) ack }
/-- The acknowledgements of a flit: a negative one resends every unacknowledged flit in sequence order. -/
def State.takeAck (s : State) (p : Nat) (f : Flit) : State :=
  let s := s.modPort p fun q => q.acked f.ack
  if f.nak then
    let q := s.pkg.port p
    let s := q.replay.foldl (fun s x => s.out (.flit p (flitSeal { x.2 with ack := q.got }))) s
    s.modPort p fun q => { q with lastResend := some s.wall, lastSent := some s.wall }
  else s
/-- An idle flit of a port, with its acknowledgement of the other direction. -/
def Port.idleFlit (q : Port) (nak : Bool) : Flit :=
  flitSeal ⟨0x00#8, q.gen, q.sent, q.got, nak, 0#9, 0#21, 0#32, 0#2048, 0#32, 0, 0#9, 0#64, 0#32⟩
def State.sendAck (s : State) (p : Nat) (nak : Bool) : State :=
  (s.out (.idle p ((s.pkg.port p).idleFlit nak))).modPort p fun q => { q with lastSent := some s.wall }
/-- What the link below gives with every flit: the FEC codewords that it corrected, and a CRC-32 mismatch after that (19
R357 rungs 1 and 2). -/
def State.linkCounts (s : State) (p : Nat) (f : Flit) : State :=
  s.modPort p fun q => { q with
    fecc := min (q.fecc + f.fec) (2 ^ 64 - 1), crcf := if flitGood f then q.crcf else bump q.crcf 64 }
def execIdleFlit (port : Nat) (f : Flit) (s : State) : Host.Outcome State Fault Refusal :=
  if port < 16 then
    .next (if !s.up then s
      else
        let s := s.linkCounts port f
        if flitGood f && f.kind == 0x00#8 then s.takeAck port f else s)
  else .fault .noSuchUnit

/-! ## Late flits (19 R355, Table 19-5) -/

/-- A flit had no good copy at I: 0x7/0x02, for which the port retrains; the second in one relay interval makes the port's group half-pending. -/
def State.lateFlit (s : State) (c p seq frame : Nat) : State :=
  let second := decide (1 ≤ (s.pkg.port p).lateInRelay)
  let s := (s.modPort p fun q => { q with
    late := bump q.late 16, lateInRelay := q.lateInRelay + 1, training := some s.wall }).sendCtl p ((s.pkg.port p).retrainFlit false)
  let s := if second then (groupPorts p).foldl (fun s g => s.modPort g fun q => { q with hpend := true }) s else s
  let r := s.record c (portTile p) scRouter frame 0 ⟨0x7, 0x02, 0x05, BitVec.ofNat 64 p, BitVec.ofNat 64 seq⟩
  if frame = (s.coach c).launch.frc then s.modCoach c fun k => { k with faults := k.faults ++ [r] }
  else s.takeFaults c (s.portsOf c) [r]
/-- The frame cycle nearest to the launch's own with given low 32 bits (19 Table 19-4). -/
def nearFrame (frc low : Nat) : Nat :=
  let d := (low + 2 ^ 32 - frc % 2 ^ 32) % 2 ^ 32
  if d < 2 ^ 31 then frc + d else frc + d - 2 ^ 32

/-! ## Push flits (08 R202, 19 R355) -/

/-- A copy of a flit is discarded, so that the flit is resent. -/
def Port.discards (p : Port) (seq : Nat) : Port := { p with copies := setK p.copies seq (getK 0 p.copies seq + 1) }
/-- Histogram of a flit delivered after some resends: one for each of its copies that was discarded. -/
def Port.delivered (p : Port) (seq : Nat) : Port :=
  let p := match getK 0 p.copies seq with
    | 0 => p
    | 1 => { p with r1 := bump p.r1 16 }
    | 2 => { p with r2 := bump p.r2 16 }
    | _ => { p with r3 := bump p.r3 16 }
  { p with copies := delK p.copies seq }
/-- The coach whose launch takes a flit of a port, with the flit's I; none for a flit of an older generation. -/
def State.takes (s : State) (p : Nat) (f : Flit) : Option (Nat × Nat) :=
  if genOlder f.gen (s.pkg.port p).gen then none
  else (s.portCoach p).map fun c => (c, nearFrame (s.coach c).launch.frc f.inject.toNat)
/-- A copy that is discarded, bad or out of sequence, is counted; a push has no good copy so far, and is late at I unless one
comes: where the injections of I are over it is late at once. -/
def State.awaitCopy (s : State) (p : Nat) (f : Flit) : State :=
  let s := s.modPort p fun q => q.discards f.seq.toNat
  match (if f.kind = 0x01#8 then s.takes p f else none) with
  | some (c, i) =>
    if (s.pkg.port p).lost.contains (i, f.seq.toNat) then s
    else
      let s := s.modPort p fun q => { q with lost := q.lost ++ [(i, f.seq.toNat)] }
      if (s.coach c).launch.frc < i then s else s.lateFlit c p f.seq.toNat i
  | none => s
/-- A flit received good and in sequence is held until I. One that comes when the injections of I are over, where no copy came
before, is late. -/
def State.goodFlit (s : State) (p : Nat) (f : Flit) : State :=
  let s := s.modPort p fun q => { q.delivered f.seq.toNat with got := f.seq }
  match s.takes p f with
  | none => s
  | some (c, i) =>
    let missed := (s.pkg.port p).lost.contains (i, f.seq.toNat)
    let s := s.modPort p fun q => { q with lost := q.lost.erase (i, f.seq.toNat) }
    if (s.coach c).launch.frc < i then s.modPort p fun q => { q with holding := q.holding ++ [f] }
    else if missed then s else s.lateFlit c p f.seq.toNat i
/-- The coach whose domain launch goes by a launch tag. -/
def State.tagCoach (s : State) (tag : Nat) : Option Nat := (List.range 16).find? fun c =>
  let l := (s.coach c).launch
  l.isDomain && l.mode != .idle && l.sentTag.toNat == tag
/-- The coach that a report is for: that of its launch tag, else one whose domain launch waits for START and so can refuse it
(12 R270), else one that completed a launch of that tag. -/
def State.reportCoach (s : State) (tag : Nat) : Option Nat :=
  match s.tagCoach tag with
  | some c => some c
  | none =>
    match (List.range 16).find? fun c => (s.coach c).launch.isDomain && (s.coach c).launch.mode == .starting with
    | some c => some c
    | none => (List.range 16).find? fun c => (s.coach c).past.isDomain && (s.coach c).past.sentTag.toNat == tag
/-- What a good control flit says (19 Table 19-4): an epoch SYNC, a START SYNC, a condition report, a retrain. Flits of reserved
types are discarded. -/
def State.ctlEvent (s : State) (p : Nat) (f : Flit) : Option Instr :=
  let w := wordAt f.data
  if f.kind = 0x02#8 then some (.epochSync p (w 0))
  else if f.kind = 0x03#8 then (s.tagCoach (w 0)).map fun c => .startSync p c (w 1) (w 2)
  else if f.kind = 0x04#8 then (reportOf f.data).bind fun r => (s.reportCoach r.tag.toNat).map fun c => .conditionReport c r
  else if f.kind = 0x05#8 then some (.retrainFlit p (w 0 == 1) true)
  else none
/-- A control flit received good and in sequence is what it says, whatever its generation (notes/assumptions/27.md). -/
def State.goodCtl (s : State) (p : Nat) (f : Flit) : State :=
  let s := s.modPort p fun q => { q.delivered f.seq.toNat with got := f.seq }
  match s.ctlEvent p f with
  | some i => { s with todo := .ev i :: s.todo }
  | none => s
/-- A flit arrives: a bad one asks for a resend; a good one acknowledges, and is taken in sequence, or discarded; one of a reserved type
is discarded. -/
def State.pushFlit (s : State) (p : Nat) (f : Flit) : State :=
  let next := (s.pkg.port p).got + 1
  let s := s.linkCounts p f
  if !flitGood f then
    let s := if seqLe next f.seq then s.awaitCopy p f else s
    s.sendAck p true
  else if f.kind = 0x00#8 ∨ 5 < f.kind.toNat then s
  else
    let s := s.takeAck p f
    if f.seq = next then (if f.kind = 0x01#8 then s.goodFlit p f else s.goodCtl p f).sendAck p false
    else if seqLe next f.seq then s.awaitCopy p f
    else s
/-- A flit that carries something; a package that stopped in bring-up has no tandem port (01 R33). -/
def execTandemPushFlit (port : Nat) (f : Flit) (s : State) : Host.Outcome State Fault Refusal :=
  if port < 16 then .next (if s.up then s.pushFlit port f else s) else .fault .noSuchUnit

/-! ## Injection at I (08 R202, R204) -/

/-- Cycles from the issue of a push on a tile of the peer's package to its I at this port (08 R202). -/
def Port.flight (q : Port) (src : Nat) : Nat := (firstLeg 0 src (portTile (match q.peer with | some (_, n) => n | none => 0)) q.pad).2
/-- A flit enters the mesh at its port's tile, or is discarded there by owner tag (subcode 2) or because its port lies
outside the coach (subcode 3), holding the ingress all the same. -/
def State.inject (s : State) (c p : Nat) (f : Flit) : State :=
  let i := (s.coach c).launch.frc
  let t := f.tile.toNat
  let pt := portTile p
  let why := if !s.coachHasPort c p then 3 else if t ≥ 384 ∨ (s.tile t).own.owner ≠ some c then 2 else 0
  let id := s.pkg.nextId
  let s := s.modPkg fun k => { k with nextId := k.nextId + 1 }
  let issued := i - (s.pkg.port p).flight f.src.toNat
  let push (arrival : Nat) (takes : List (Nat × Res)) (leaves : Option (Nat × Nat)) : State :=
    s.modCoach c fun k => { k with pushes := k.pushes ++
      [⟨id, f.src.toNat, f.desc, t, f.addr.toNat, f.data, f.pushCrc, arrival, takes, leaves, ⟨0, issued, scRouter⟩⟩] }
  if why = 0 then push (secondLeg i pt t).2 (secondLeg i pt t).1 none
  else (push i [(i, ⟨pt, 7⟩)] (some (p, i))).note c pt scRouter 0 ⟨0x1, 0x0D, 0x05, f.desc, BitVec.ofNat 64 why⟩
/-- The flits whose I is this frame cycle: each good one is injected; each with no good copy so far, or lost at an egress,
is late. -/
def execFlitInject (port : Nat) (s : State) : Host.Outcome State Fault Refusal :=
  if port < 16 then
    match s.portCoach port with
    | none => .next s
    | some c =>
      let f := (s.coach c).launch.frc
      let q := s.pkg.port port
      let due (x : Flit) : Bool := x.inject.toNat == f % 2 ^ 32
      let s := s.modPort port fun q => { q with holding := q.holding.filter fun x => !due x }
      let s := (q.holding.filter due).foldl (fun s x => s.inject c port x) s
      .next ((q.lost.filter fun x => x.1 == f).foldl (fun s x => s.lateFlit c port x.2 f) s)
  else .fault .noSuchUnit

/-! ## Retraining (19 Table 19-5) -/

/-- A port that has retrained takes the epoch count from a SYNC flit before RESTART (19 R357): package 0 sends one on it, its peer
waits for it (notes/assumptions/3.md). -/
def State.awaitSync (s : State) (p : Nat) : State := s.modPort p fun q => { q with
  unsynced := match q.peer with | some (k, _) => s.pkg.index == 0 || k == 0 | none => false }
/-- At an epoch boundary package 0 sends the SYNC flits that its ports owe; a package that is not up sends none (01 R33). -/
def State.syncPorts (s : State) : State :=
  if !s.up ∨ s.pkg.index ≠ 0 ∨ s.pkg.epoch % Config.epoch ≠ 0 then s
  else (List.range 16).foldl (fun s p =>
    if (s.pkg.port p).unsynced then
      (s.sendCtl p ((s.pkg.port p).syncFlit (s.pkg.epoch / Config.epoch))).modPort p fun q => { q with unsynced := false }
    else s) s
/-- The outcome of a retrain of a port that is under way, at the rate in force or at half rate; each counts. One at half rate that
succeeds takes the group's rate down with it; one that fails takes the port down (19 Table 19-5 rungs 4 and 5). -/
def State.retrained (s : State) (p : Nat) (half good : Bool) : State :=
  let q := s.pkg.port p
  if !(if half then q.half.isSome else q.training.isSome) then s
  else
    let group (s : State) (f : Port → Port) : State := (groupPorts p).foldl (fun s g => s.modPort g f) s
    let d := BitVec.ofNat 64 p
    let s := s.modPort p fun q => { q with retrains := bump q.retrains 8 }
    match half, good with
    | false, true =>
      let s := (s.modPort p fun q => { q with training := none }).awaitSync p
      match s.portCoach p with
      | some c => s.log c (s.record c noTile 0 0 0 ⟨0x7, 0x06, 0x05, d, BitVec.ofNat 64 (s.pkg.port p).rate⟩)
      | none => s
    | false, false => (group s fun q => { q with hpend := true }).modPort p fun q => { q with training := none }
    | true, true =>
      let s := group s fun q => { q with rate := min q.rate 1, hpend := false }
      (((s.modPort p fun q => { q with training := none, half := none }).awaitSync p).saveRates).event 0x0005 1 0x05 d 4#64
    | true, false =>
      let s := group s fun q => { q with rate := min q.rate 1, hpend := false }
      let s := (s.modPort p fun q => { q with rate := 0, training := none, half := none }).event 0x0005 2 0x05 d 5#64
      (List.range 16).foldl (fun s c =>
        let l := (s.coach c).launch
        match l.mode with
        | .idle => s
        | _ =>
          if s.coachHasPort c p ∧ bits (l.variantImg l.variant).req (9 + 2 * (p / 4)) (8 + 2 * (p / 4)) ≠ 0 then
            s.takeFaults c [] [s.record c noTile 0 l.frc 0 ⟨0x7, 0x04, 0x05, d, 5#64⟩]
          else s) s
def execRetrainFlit (port : Nat) (half good : Bool) (s : State) : Host.Outcome State Fault Refusal :=
  if port < 16 then .next (if s.up then s.retrained port half good else s) else .fault .noSuchUnit

/-! ## Epochs and START (02 R63, R64, 19 Table 19-2 code 0x7/0x05) -/

/-- A SYNC flit disagrees with the receiver's count. -/
def State.syncFault (s : State) (c p count : Nat) : State :=
  let l := (s.coach c).launch
  let f := if l.mode.still then l.frc else 0
  s.takeFaults c [] [s.record c noTile 0 f 0 ⟨0x7, 0x05, 0x05, BitVec.ofNat 64 p, BitVec.ofNat 64 count⟩]
/-- Coaches with a domain launch under way; one that finishes records what comes (17 R327). -/
def State.domains (s : State) : List Nat := (List.range 16).filter fun c =>
  let l := (s.coach c).launch
  l.isDomain && l.mode != .idle
/-- An epoch SYNC flit sets the count; one that disagrees during a domain launch is a fault. -/
def execEpochSync (port : Nat) (count : Nat) (s : State) : Host.Outcome State Fault Refusal :=
  if port < 16 then
    let n := count * Config.epoch + (s.pkg.port port).pad
    if !s.up then .next s
    else
    let s := s.modPort port fun q => { q with unsynced := false }
    if n ≠ s.pkg.epoch ∧ !s.domains.isEmpty then .next (s.domains.foldl (fun s c => s.syncFault c port count) s)
    else .next (s.modPkg fun p => { p with epoch := n })
  else .fault .noSuchUnit
/-- Takes a variant that package 0 names. -/
def State.takeVariant (s : State) (c variant : Nat) : State :=
  let l := (s.coach c).launch
  match l.mode with
  | .starting => if variant = l.variant then s else s.placeAll c variant l.tiles
  | .relaying _ =>
    if l.relayStep = 6 ∧ variant = l.chosen ∧ !s.planReady c (l.variantImg variant).tiles then s else s.relayChoose c variant true
  | _ => s
/-- A START SYNC flit names an epoch boundary, and a variant where one is to be chosen. A domain restore takes it as the word
that all packages agree, and goes on to its relay work (14 R305). -/
def execStartSync (port coach epoch variant : Nat) (s : State) : Host.Outcome State Fault Refusal :=
  if port < 16 ∧ coach < 16 then
    let l := (s.coach coach).launch
    match l.mode with
    | .starting | .paused | .relaying _ | .waiting =>
      if !l.isDomain ∨ !s.up then .next s
      else if epoch * Config.epoch < s.pkg.epoch then .next (s.syncFault coach port epoch)
      else if l.mode = .starting ∧ l.restoring then .next (s.restoreOn coach)
      else .next ((s.modLaunch coach fun l => { l with startEpoch := some epoch }).takeVariant coach variant)
    | _ => .next s
  else .fault .noSuchUnit

/-! ## Reports (02 R64, 08 R204, 12 R270, 13 R283, 14 R305, 17 Table 17-6, 20 R366, R367) -/

/-- A domain launch is refused before frame cycle 0 on this package: a launch, or a restore. -/
def State.refuseDomain (s : State) (c code : Nat) : State :=
  if (s.coach c).launch.restored then s.restoreFail c (refuse1 code) else s.refuseLaunch c (refuse1 code)
/-- It is refused on every package. -/
def State.refuseAll (s : State) (c code : Nat) : State :=
  let l := (s.coach c).launch
  (s.refuseDomain c code).tell (l.report (.refused code) l.frc)
/-- Variants that lie in every set reported. -/
def commonVariants (rs : List Report) : List Nat := (List.range 8).filter fun v => rs.all fun r => r.variants.getLsbD v
/-- Does a used port of package 0's coach lead to a port outside its peer's coach (08 R204)? A peer that is no package of the
launch has sent no report and refuses nothing: the model's choice (notes/assumptions/34.md). -/
def State.peerOutside (s : State) (c : Nat) (rs : List Report) : Bool :=
  (s.coach c).launch.image.peers.zipIdx.any fun e =>
    let x := e.1.toNat
    decide (2 ^ 15 ≤ x) && s.coachHasPort c e.2 &&
      rs.any fun r => r.pkg == x % 64 && !r.ports.getLsbD (x / 2 ^ 8 % 16)
/-- A tile with its package, as a Detail names them (17 Table 17-6, 20 Table 20-1). -/
def tileDetail (pkg tile : Nat) : Word := BitVec.ofNat 64 (pkg * 2 ^ 16 + tile)
/-- The rendezvous of a report. -/
def Report.rdvOf (r : Report) : Option Nat := match r.kind with | .rdv id => some id | _ => none
/-- Package 0 finds that the packages do not meet at one rendezvous: the fault, its own `rdv` bundles at that frame cycle
suppressed (20 R366). -/
def State.rdvFault (s : State) (c frame : Nat) (x : Fail) : State :=
  let l := (s.coach c).launch
  let s := if l.mode = .paused ∧ l.frc = frame then s.undoRdv c else s
  s.takeFaults c (s.portsOf c) [s.record c noTile 0 frame 0 x]
/-- A package issued no `rdv` where another did. -/
def State.rdvMissing (s : State) (c frame id pkg tile : Nat) : State :=
  s.rdvFault c frame ⟨0x8, 0x03, 0x01, BitVec.ofNat 64 id, tileDetail pkg tile⟩
/-- Package 0 holds every report of a kind: the launch starts, goes on or is refused. Where both refusals hold, 0x0E stands before
0x07: the model's order (notes/assumptions/34.md). -/
def State.allReported (s : State) (c : Nat) : State :=
  let l := (s.coach c).launch
  let rs := l.reported
  match l.mode with
  | .starting =>
    let s := s.modLaunch c fun l => { l with roster := rs }
    if s.peerOutside c rs then s.refuseAll c 0x0E
    else if l.restoring then (s.nameEpoch c l.variant).restoreOn c
    else
      match commonVariants rs with
      | [] => s.refuseAll c 0x07
      | v :: _ => (s.nameEpoch c v).takeVariant c v
  | .relaying _ =>
    match commonVariants rs with
    | [] => ((s.relayNone c).modLaunch c fun l => { l with reported := [] }).tell (l.report .noVariant l.frc)
    | v :: _ => (s.nameEpoch c v).takeVariant c v
  | .paused =>
    let ids := rs.filterMap Report.rdvOf
    let lo := ids.foldl min l.rdvId
    let hi := ids.foldl max l.rdvId
    if lo = hi then s.nameEpoch c l.variant
    else s.rdvFault c l.frc ⟨0x8, 0x02, 0x01, BitVec.ofNat 64 lo, BitVec.ofNat 64 hi⟩
  | _ => s.nameEpoch c l.variant
/-- Does a report match the launch and those before it (12 R270)? -/
def reportOk (l : Launch) (r : Report) : Bool :=
  r.count == l.lrec.count && decide (r.pkg < l.lrec.count) && !l.reported.any fun x => x.pkg == r.pkg
/-- Package 0 takes a report of the kind it waits for. A restore starts with restores alone, each of one launch tag and relay number
(14 R305). A later one of the same package takes the place of its earlier one
at a relay point, where each forecast selects again. -/
def State.takeReport (s : State) (c : Nat) (r : Report) : State :=
  let l := (s.coach c).launch
  let again : Bool := match l.mode with | .relaying _ => true | _ => false
  let l := if again then { l with reported := l.reported.filter fun x => x.pkg != r.pkg } else l
  if l.mode = .starting ∧ (r.restore ≠ l.restoring ∨ (l.restoring ∧ (r.tag ≠ l.sentTag ∨ r.relay ≠ l.relayNo))) then s.refuseAll c 0x3C
  else if r.tag ≠ l.sentTag ∨ !reportOk l r then (if l.mode = .starting then s.refuseAll c 0x0B else s)
  else
    let s := s.modLaunch c fun _ => { l with reported := l.reported ++ [r] }
    if (s.coach c).launch.reported.length = l.lrec.count then s.allReported c else s
/-- A report that package 0 cannot use yet is held: it comes again in the next cycle. -/
def State.holdReport (s : State) (c : Nat) (r : Report) : State :=
  { s with agenda := s.agenda ++ [(s.wall + 1, .conditionReport c r)] }
/-- A breach of another package reaches package 0 when its own tiles have ended: it is recorded, and a launch that has ended well so
far ends with its class instead, which the other packages hear. -/
def State.failEnding (s : State) (c frame : Nat) (x : Fail) : State :=
  let l := (s.coach c).launch
  let r := s.record c noTile 0 frame 0 x
  let s := s.log c r
  if l.status ≠ 0 then s
  else
    (s.announce c r).modCoach c fun k => { k with
      log := { k.log with
        cls := r.cls, code := r.code, tag := l.lrec.tag, recs := markRec r (fun x => { x with stopped := true }) k.log.recs }
      launch := { k.launch with status := 0x80 + r.cls } }
/-- Has a finishing launch, or one that is over, gone past a frame cycle: it has ended well, or, where it stopped, issued bundles
after it? -/
def Launch.ranPast (l : Launch) (f : Nat) : Bool := l.status == 0 || decide (f < l.lastIssued)
/-- May a replay under way run a frame cycle again? What a package has told of it is then void, since that package runs it again
too. -/
def Launch.runsAgain (l : Launch) (f : Nat) : Bool := match l.pending with | some k => decide (l.startOf k ≤ f) | none => false
/-- It reaches package 0 when the launch is over there: it is recorded, and the other packages hear of it. -/
def State.failPast (s : State) (c frame : Nat) (x : Fail) : State :=
  (s.pastRecord c noTile frame x).out (.stopMessage c x.cls x.code frame)
/-- Package 0 hears of a rendezvous on a package: one at its own paused frame cycle is a report like others, another one is a
breach of the package that issued none there, found in a hold too. -/
def State.rdvReport (s : State) (c : Nat) (r : Report) (id : Nat) : State :=
  let l := (s.coach c).launch
  match l.mode with
  | .paused =>
    if r.frame = l.frc then s.takeReport c r
    else if r.frame < l.frc then s.rdvMissing c r.frame id l.lrec.index (lowest l.tiles)
    else s.rdvMissing c l.frc l.rdvId r.pkg r.tile
  | .running => if r.frame < l.frc then s.rdvMissing c r.frame id l.lrec.index (lowest l.tiles) else s.holdReport c r
  | .relaying _ => if r.frame ≤ l.frc then s.rdvMissing c r.frame id l.lrec.index (lowest l.tiles) else s
  | .closing | .reloading | .waiting => if l.runsAgain r.frame then s else s.holdReport c r
  | .held =>
    let none_ := l.tiles.filter fun t => !(s.tile t).atRdv
    if r.frame < l.frc then s.rdvMissing c r.frame id l.lrec.index (lowest l.tiles)
    else if r.frame = l.frc ∧ !none_.isEmpty then s.rdvMissing c r.frame id l.lrec.index (lowest none_)
    else s
  | .finishing =>
    if l.ranPast r.frame then
      s.failEnding c r.frame ⟨0x8, 0x03, 0x01, BitVec.ofNat 64 id, tileDetail l.lrec.index (lowest l.tiles)⟩
    else s
  | .idle =>
    let p := (s.coach c).past
    if p.isDomain ∧ p.lrec.index = 0 ∧ p.sentTag = r.tag ∧ p.ranPast r.frame then
      s.failPast c r.frame ⟨0x8, 0x03, 0x01, BitVec.ofNat 64 id, tileDetail p.lrec.index (lowest p.tiles)⟩
    else s
  | .starting => s
/-- Package 0 hears of a relay point on a package, which therefore issued no `rdv` there. -/
def State.heldReport (s : State) (c : Nat) (r : Report) : State :=
  let l := (s.coach c).launch
  match l.mode with
  | .relaying _ => s.takeReport c r
  | .paused => if l.frc ≤ r.frame then s.rdvMissing c l.frc l.rdvId r.pkg r.tile else s.holdReport c r
  | .running => s.holdReport c r
  | .closing | .reloading | .waiting => if l.runsAgain r.frame then s else s.holdReport c r
  | _ => s
/-- Commit frame cycle of a phase on this package: of a committed one, or none where the phase goes on past a frame cycle. -/
def Launch.commitOf (l : Launch) (k : Nat) : Option Nat := (l.unsettled.find? fun u => u.phase == k).map (·.commit)
/-- Package 0 hears of a commit on a package (17 Table 17-6 code 0x4/0x02): one at its own frame cycle is kept; one of a phase that
a replay is to run again is void, as that package's own replay runs it again too. In a hold, and where the launch finishes, a breach
is recorded still (17 R327). -/
def State.commitReport (s : State) (c : Nat) (r : Report) (k : Nat) : State :=
  let l := (s.coach c).launch
  let own := lowest l.tiles
  let late := l.tiles.filter fun t => !(s.tile t).atCommit
  let fail (first pkg tile : Nat) : State :=
    s.failEnding c first ⟨0x4, 0x02, 0x09, BitVec.ofNat 64 first, tileDetail pkg tile⟩
  let keep (s : State) : State := s.modLaunch c fun l => { l with
    commits := if l.commits.contains (r.pkg, k) then l.commits else l.commits ++ [(r.pkg, k)] }
  let void : Bool := match l.mode, l.pending with
    | .closing, some p | .reloading, some p | .waiting, some p => decide (p ≤ k)
    | _, _ => false
  match l.mode with
  | .idle | .starting => s
  | .finishing =>
    match l.commitOf k with
    | some f => if f = r.frame then keep s else if f < r.frame then fail f r.pkg r.tile else fail r.frame l.lrec.index own
    | none => if l.phase ≤ k ∧ l.ranPast r.frame then fail r.frame l.lrec.index own else s
  | m =>
    if void then s
    else
      match l.commitOf k with
      | some f =>
        if f = r.frame then keep s
        else if f < r.frame then s.commitFault c k f r.pkg r.tile
        else s.commitFault c k r.frame l.lrec.index own
      | none =>
        if k < l.phase then s
        else if l.phase < k then s.holdReport c r
        else if m = .held ∧ r.frame = l.frc then (if late.isEmpty then s else s.commitFault c k r.frame l.lrec.index (lowest late))
        else if l.frc ≤ r.frame then
          (if m = .paused ∧ l.frc < r.frame then s.rdvMissing c l.frc l.rdvId r.pkg r.tile else s.holdReport c r)
        else s.commitFault c k r.frame l.lrec.index own
/-- A report reaches this package. Those of package 0 to all name refusals, cancels and a relay point without a common
variant; the others are taken on package 0 of a domain launch. One of RELOAD done names the cancels that its package has counted:
package 0 waits for those that name its own number of them, since a later cancel makes every package reload again (17 Table 17-6;
notes/assumptions/27.md). -/
def State.report (s : State) (c : Nat) (r : Report) : State :=
  let l := (s.coach c).launch
  let first := l.isDomain && l.lrec.index == 0
  match r.kind with
  | .refused code => if l.isDomain ∧ l.mode = .starting then s.refuseDomain c code else s
  | .cancelled t strike => if l.isDomain then s.cancelAt c noTile 0x09 t strike (s.portsOf c) else s
  | .noVariant => match l.mode with
    | .relaying false => if l.isDomain then s.relayNone c else s
    | _ => s
  | .ready => match l.mode with
    | .starting => if first then s.takeReport c r else s
    | .idle | .finishing => s.holdReport c r
    | _ => s
  | .rdv id => if first || l.mode == .idle then s.rdvReport c r id else s
  | .held => if first then s.heldReport c r else s
  | .committed k => if first then s.commitReport c r k else s
  | .reloadDone n =>
    let own := (s.coach c).log.cancels
    if n < own then s
    else match l.mode with
    | .waiting => if !first then s else if n = own then s.takeReport c r else s.holdReport c r
    | .running | .closing | .reloading | .paused | .relaying _ => s.holdReport c r
    | _ => s
/-- A report; a package that is not up takes none (01 R33). -/
def execConditionReport (coach : Nat) (r : Report) (s : State) : Host.Outcome State Fault Refusal :=
  if coach < 16 then .next (if s.up then s.report coach r else s) else .fault .noSuchUnit
/-- The wait for START exceeds the rendezvous timeout: refused (12 R270, 20 Table 20-2 code 0x0C). -/
def execStartWaitTimeout (coach : Nat) (s : State) : Host.Outcome State Fault Refusal :=
  if coach < 16 then
    let l := (s.coach coach).launch
    match l.mode with
    | .starting => .next (if l.isDomain ∧ l.startEpoch.isNone then s.refuseAll coach 0x0C else s)
    | _ => .next s
  else .fault .noSuchUnit

end Sys2Proof.Machine
end

