-- ==== Sys2Proof/Machine/Manage.lean ====
section
/-! DEFINITION. Bring-up and the management controller: thermal model, lifetime counters, field records, health test (01 R21,
R30-R34, 12 R264, 13 R287, 19 R361, 20 R362, R368-R371). -/
namespace Sys2Proof.Machine

/-! ## Bring-up (01 R32, R33) -/

/-- Step 4 for a tile: cleared, its table seeded, its vault zero; its owner by the configuration's rectangles. -/
def bootTile (cfg : CfgImage) (lives : List (Nat × Life)) (t : Nat) : Tile :=
  let on := !cfg.disabled.contains t
  let failed := cfg.failed.contains t
  let ret := getK 0#32 cfg.retired t
  { Tile.reset with
    vault := { VaultSt.reset with vttA := cfg.table t false, vttB := cfg.table t true, retired := ret, n := 32 - retiredCount ret }
    own := { Own.reset with
      enabled := on, failed := failed, life := getK Life.reset lives t
      owner := if on && !failed then (cfg.rects.find? fun r => (rectOf (r.2 &&& rectMask)).has t).map (·.1) else none } }
/-- Step 5 for a port: trained at its configured class, its counters as last saved. -/
def bootPort (cfg : CfgImage) (saved : List (Nat × Port)) (p : Nat) : Port :=
  let cnt := ((saved.find? fun x => x.1 == p).map (·.2)).getD Port.reset
  { Port.reset with
    long := cfg.long.getLsbD p
    rate := nth cfg.rates (p / 4)
    peer := (cfg.peers.find? fun x => x.1 == p).map (·.2)
    hpend := cnt.hpend, fecc := cnt.fecc, crcf := cnt.crcf, r1 := cnt.r1, r2 := cnt.r2, r3 := cnt.r3, late := cnt.late
    retrains := cnt.retrains }
/-- Step 6: the queue table is cleared, but for the allocation that the configuration image makes. -/
def bootQueues (cfg : CfgImage) : List (Nat × Queue) :=
  cfg.queues.foldl (fun m x => setK m x.1 { Queue.reset with owner := x.2.1, coach := x.2.2 }) []
/-- The package stops at a step of bring-up. -/
def State.bootStop (s : State) (step : Nat) (digest : Word) : State :=
  (s.modPkg fun p => { p with boot := step }).event 0x0001 3 0x0C (BitVec.ofNat 64 step) digest
/-- What training makes known: the link record of each trained port (08 R203), given once and unasked, and, from the package of
domain index 0, the epoch SYNC of each (02 R63). Both moments are the model's (notes/assumptions/3.md). -/
def State.trained (s : State) : State :=
  (List.range 16).foldl (fun s p =>
    match (s.pkg.port p).peer with
    | some (k, q) =>
      let s := s.out (.linkRecord p k q)
      if s.pkg.index = 0 then s.sendCtl p ((s.pkg.port p).syncFlit 0) else s
    | none => s) s
/-- Steps 4 to 6. Package time counts from here. The store is read and authenticated (20 R369), and the controller signs what a
peer's restore asks of it (14 R296). -/
def State.bootPkg (s : State) : State :=
  let cfg := s.pkg.flash.cfg
  let at_ (n : Nat) : Nat := n - s.wall
  { s with
    wall := 0
    agenda := s.agenda.map fun x => (at_ x.1, x.2)
    tiles := (List.range 384).map fun t => (t, bootTile cfg s.pkg.flash.lives t)
    coaches := Vector.ofFn fun c =>
      let r := getK 0#64 cfg.rects c.val &&& rectMask
      { Coach.reset with crect := r, cplan := r }
    pkg := { s.pkg with
      boot := 6
      queues := bootQueues cfg
      apsel := []
      ports := Vector.ofFn fun p => bootPort cfg s.pkg.flash.ports p.val
      epoch := 0
      sessions := []
      fcst := Vector.replicate 4 0#64
      temps := Vector.replicate 4 (0, 0)
      flash := { s.pkg.flash with storeGood := !s.pkg.flash.storeFails }
      bundle := ownBundle s.pkg.flash.measure s.pkg.flash.cert
      hostIn := s.pkg.hostIn.map fun x => (at_ x.1, x.2) } }
def State.boot (s : State) : State :=
  let s := s.bootPkg
  let s := s.trained
  let s := if s.pkg.flash.storeGood then s else s.event 0x0008 3 0x0C 0#64 0#64
  s.out .ready
/-- Bring-up, of a package that is off. -/
def execBringUp (s : State) : Host.Outcome State Fault Refusal :=
  if s.pkg.boot ≠ 0 then .next s
  else if !s.pkg.flash.cfg.firmwareGood then
    let (n, s) := s.draw
    .next (s.bootStop 2 ((Config.freeRandom n).truncate 64))
  else if !s.pkg.flash.cfg.good then
    .next (s.bootStop 3 ((Config.cfgDigest s.pkg.flash.cfg.version).truncate 64))
  else .next s.boot

/-! ## Thermal model (20 R368) -/

/-- Limit of a refresh class in units of 0.125 degrees (10 Table 10-4); 115 degrees is the trip. -/
def classLimit : Nat → Nat
  | 1 => 680 | 2 => 760 | 4 => 840 | _ => 920
def tripLevel : Nat := 920
/-- Is a launch running on a coach? -/
def State.active (s : State) (c : Nat) : Bool :=
  match (s.coach c).launch.mode with | .idle | .starting | .finishing => false | _ => true
/-- RFCLASS of a coach. -/
def State.classOf (s : State) (c : Nat) : Nat :=
  match (s.coach c).launch.tiles with | t :: _ => (s.tile t).vault.rfclass | [] => 0
/-- A stack above the limits of the running coaches that hold its tiles: each stops, and its idle tiles are refreshed at class
4 from then on. -/
def State.overheat (s : State) (k measured : Nat) : State :=
  let d1 := BitVec.ofNat 64 k
  let d2 := BitVec.ofNat 64 measured
  (List.range 16).foldl (fun s c =>
    let tiles := s.tilesOf c
    if s.active c ∧ (tiles.any fun t => stackOf t == k) ∧ classLimit (s.classOf c) < measured then
      ((s.stopEvent c 0 ⟨0xA, 0x01, 0x0D, d1, d2⟩).modCoach c fun k => { k with hot := true }).event 0x0007 2 0x0D d1 d2
    else s) s
/-- The core supply is removed: every tile, launch, operation and port is lost; the package returns only through bring-up. -/
def State.powerOff (s : State) : State :=
  { s with
    todo := []
    tiles := []
    coaches := s.coaches.map fun k => { k with
      launch := Launch.reset, past := Launch.reset, ops := [], unshown := [], pushes := [], faults := [] }
    pkg := { s.pkg with boot := 0, ports := Vector.replicate 16 Port.reset } }
/-- A thermal trip: 0xA/0x02 for every running coach. -/
def State.trip (s : State) (k measured : Nat) : State :=
  let d1 := BitVec.ofNat 64 k
  let d2 := BitVec.ofNat 64 measured
  let s := (List.range 16).foldl (fun s c => if s.active c then s.stopEvent c 0 ⟨0xA, 0x02, 0x0D, d1, d2⟩ else s) s
  (s.event 0x0007 3 0x0D d1 d2).powerOff
/-- A run of the model: measured DRAM and junction temperatures of the stacks, in units of 0.125 degrees. -/
def execThermalModelRun (temps : List (Nat × Nat)) (s : State) : Host.Outcome State Fault Refusal :=
  if s.pkg.boot ≠ 6 then .next s
  else
    let ts := temps.take 4
    let s := s.modPkg fun p => { p with temps := Vector.ofFn fun i => ts.getD i.val (p.temps.getD i.val (0, 0)) }
    match ts.zipIdx.find? fun x => decide (tripLevel ≤ x.1.1 ∨ tripLevel ≤ x.1.2) with
    | some x => .next (s.trip x.2 (if tripLevel ≤ x.1.1 then x.1.1 else x.1.2))
    | none => .next (ts.zipIdx.foldl (fun s x => s.overheat x.2 x.1.1) s)

/-! ## Counters, records, health -/

def execLifetimeCounterSave (s : State) : Host.Outcome State Fault Refusal :=
  .next (if s.pkg.boot = 6 then s.saveLives else s)
/-- The bytes of a field record before its signature; of a package that is not up, with the lifetime blocks as last saved. -/
def State.fieldBytes (s : State) (first : Nat) : List Byte :=
  let f := s.pkg.flash
  let tile (t : Nat) : Tile := if s.up then s.tile t else bootTile f.cfg f.lives t
  let port (p : Nat) : Port := if s.up then s.pkg.port p else bootPort f.cfg f.ports p
  let words (n : Nat) (w : Nat → Word) : List Byte := (List.range n).flatMap fun k => bytesOf (w k).toNat 8
  bytesOf (sha3_512 identityKey).toNat 64 ++ bytesOf (Config.cfgDigest f.cfg.version).toNat 64 ++
    (List.range 384).flatMap (fun t => words 32 (tile t).lifeWord) ++
    (List.range 16).flatMap (fun p => words 8 (port p).lifeWord) ++
    (List.range f.eventCount).flatMap fun n =>
      if first ≤ n then (match f.event n with | some e => e.bytes n | none => []) else []
/-- A field record, signed (20 R371). -/
def execFieldRecordRequest (first : Nat) (s : State) : Host.Outcome State Fault Refusal :=
  let b := s.fieldBytes first
  .next (s.out (.fieldRecord (b ++ dsaSign (sha3_512 b))))
/-- The random generator fails its health test: 0x9/0x02 for every coach with a launch (20 Table 20-1). -/
def execHealthTestFailure (s : State) : Host.Outcome State Fault Refusal :=
  .next ((List.range 16).foldl (fun s c => if s.active c then s.stopEvent c 0 ⟨0x9, 0x02, 0x0C, 0#64, 0#64⟩ else s) s)

end Sys2Proof.Machine
end

