-- ==== Sys2Proof/Machine/Dispatch.lean ====
section
/-! DEFINITION. The meaning of each instruction: one arm per constructor, each a direct call. -/
namespace Sys2Proof.Machine

/-- Executes one instruction. -/
def exec (i : Instr) (s : State) : Host.Outcome State Fault Refusal :=
  match i with
  | .issue n => Sys2Proof.Machine.execIssue n s
  | .escape => Sys2Proof.Machine.execEscape s
  | .idle n => Sys2Proof.Machine.execIdle n s
  | .seg n => Sys2Proof.Machine.execSeg n s
  | .endStream => Sys2Proof.Machine.execEndStream s
  | .nop sl => Sys2Proof.Machine.execNop sl s
  | .prep g st target => Sys2Proof.Machine.execPrep g st target s
  | .prepr g st sa => Sys2Proof.Machine.execPrepr g st sa s
  | .br g st => Sys2Proof.Machine.execBr g st s
  | .brn g st => Sys2Proof.Machine.execBrn g st s
  | .jmp g st => Sys2Proof.Machine.execJmp g st s
  | .loop g l count len => Sys2Proof.Machine.execLoop g l count len s
  | .lper g l per => Sys2Proof.Machine.execLper g l per s
  | .lbrk g l => Sys2Proof.Machine.execLbrk g l s
  | .commit g rl os => Sys2Proof.Machine.execCommit g rl os s
  | .relay g => Sys2Proof.Machine.execRelay g s
  | .rdv g id cond => Sys2Proof.Machine.execRdv g id cond s
  | .tlsig g tl => Sys2Proof.Machine.execTlsig g tl s
  | .tlrd g sd tl => Sys2Proof.Machine.execTlrd g sd tl s
  | .acopyIn g tl sh sv sn => Sys2Proof.Machine.execAcopyIn g tl sh sv sn s
  | .acopyOut g tl sh sv sn => Sys2Proof.Machine.execAcopyOut g tl sh sv sn s
  | .farxSend g tl sd => Sys2Proof.Machine.execFarxSend g tl sd s
  | .farxRecv g tl sd => Sys2Proof.Machine.execFarxRecv g tl sd s
  | .farmSum g tl sd => Sys2Proof.Machine.execFarmSum g tl sd s
  | .farmGather g tl sd => Sys2Proof.Machine.execFarmGather g tl sd s
  | .farmBcast g tl sd => Sys2Proof.Machine.execFarmBcast g tl sd s
  | .ftload g sa mask => Sys2Proof.Machine.execFtload g sa mask s
  | .fclr g fs => Sys2Proof.Machine.execFclr g fs s
  | .rdsys g sd idx => Sys2Proof.Machine.execRdsys g sd idx s
  | .wrsys g sa idx => Sys2Proof.Machine.execWrsys g sa idx s
  | .trap g k => Sys2Proof.Machine.execTrap g k s
  | .add g sd sa sb => Sys2Proof.Machine.execAdd g sd sa sb s
  | .sub g sd sa sb => Sys2Proof.Machine.execSub g sd sa sb s
  | .mul g sd sa sb => Sys2Proof.Machine.execMul g sd sa sb s
  | .mulh g sd sa sb => Sys2Proof.Machine.execMulh g sd sa sb s
  | .mulhn g sd sa sb => Sys2Proof.Machine.execMulhn g sd sa sb s
  | .divs g sd sa sb => Sys2Proof.Machine.execDivs g sd sa sb s
  | .divn g sd sa sb => Sys2Proof.Machine.execDivn g sd sa sb s
  | .rems g sd sa sb => Sys2Proof.Machine.execRems g sd sa sb s
  | .remn g sd sa sb => Sys2Proof.Machine.execRemn g sd sa sb s
  | .and g sd sa sb => Sys2Proof.Machine.execAnd g sd sa sb s
  | .or g sd sa sb => Sys2Proof.Machine.execOr g sd sa sb s
  | .xor g sd sa sb => Sys2Proof.Machine.execXor g sd sa sb s
  | .andn g sd sa sb => Sys2Proof.Machine.execAndn g sd sa sb s
  | .shl g sd sa sb => Sys2Proof.Machine.execShl g sd sa sb s
  | .shr g sd sa sb => Sys2Proof.Machine.execShr g sd sa sb s
  | .sra g sd sa sb => Sys2Proof.Machine.execSra g sd sa sb s
  | .rotl g sd sa sb => Sys2Proof.Machine.execRotl g sd sa sb s
  | .min g sd sa sb => Sys2Proof.Machine.execMin g sd sa sb s
  | .max g sd sa sb => Sys2Proof.Machine.execMax g sd sa sb s
  | .minn g sd sa sb => Sys2Proof.Machine.execMinn g sd sa sb s
  | .maxn g sd sa sb => Sys2Proof.Machine.execMaxn g sd sa sb s
  | .clz g sd sa => Sys2Proof.Machine.execClz g sd sa s
  | .ctz g sd sa => Sys2Proof.Machine.execCtz g sd sa s
  | .popc g sd sa => Sys2Proof.Machine.execPopc g sd sa s
  | .sext g sd sa n => Sys2Proof.Machine.execSext g sd sa n s
  | .zext g sd sa n => Sys2Proof.Machine.execZext g sd sa n s
  | .sel g sd sa sb inv k => Sys2Proof.Machine.execSel g sd sa sb inv k s
  | .mov g sd sa => Sys2Proof.Machine.execMov g sd sa s
  | .movi g sd imm => Sys2Proof.Machine.execMovi g sd imm s
  | .ins16 g sd imm j => Sys2Proof.Machine.execIns16 g sd imm j s
  | .addi g sd sa imm => Sys2Proof.Machine.execAddi g sd sa imm s
  | .andi g sd sa imm => Sys2Proof.Machine.execAndi g sd sa imm s
  | .ori g sd sa imm => Sys2Proof.Machine.execOri g sd sa imm s
  | .xori g sd sa imm => Sys2Proof.Machine.execXori g sd sa imm s
  | .shli g sd sa k => Sys2Proof.Machine.execShli g sd sa k s
  | .shri g sd sa k => Sys2Proof.Machine.execShri g sd sa k s
  | .srai g sd sa k => Sys2Proof.Machine.execSrai g sd sa k s
  | .cmp g d c sa sb => Sys2Proof.Machine.execCmp g d c sa sb s
  | .cmpi g d c sa imm => Sys2Proof.Machine.execCmpi g d c sa imm s
  | .scmp g d c sa sb => Sys2Proof.Machine.execScmp g d c sa sb s
  | .scmpi g d c sa imm => Sys2Proof.Machine.execScmpi g d c sa imm s
  | .pand g pd pa pb na nb => Sys2Proof.Machine.execPand g pd pa pb na nb s
  | .por g pd pa pb na nb => Sys2Proof.Machine.execPor g pd pa pb na nb s
  | .pxor g pd pa pb na nb => Sys2Proof.Machine.execPxor g pd pa pb na nb s
  | .pandn g pd pa pb na nb => Sys2Proof.Machine.execPandn g pd pa pb na nb s
  | .blkx g sd sa => Sys2Proof.Machine.execBlkx g sd sa s
  | .blkalloc g sd sa => Sys2Proof.Machine.execBlkalloc g sd sa s
  | .blkfree g sd sa => Sys2Proof.Machine.execBlkfree g sd sa s
  | .blkref g sd sa sb => Sys2Proof.Machine.execBlkref g sd sa sb s
  | .ldV g vd base off pi q => Sys2Proof.Machine.execLdV g vd base off pi q s
  | .stV g vs base off pi q => Sys2Proof.Machine.execStV g vs base off pi q s
  | .ldbV g vd base off pi q => Sys2Proof.Machine.execLdbV g vd base off pi q s
  | .ldS g sd base off pi => Sys2Proof.Machine.execLdS g sd base off pi s
  | .stS g ss base off pi => Sys2Proof.Machine.execStS g ss base off pi s
  | .ldgV g vd vi base q ty => Sys2Proof.Machine.execLdgV g vd vi base q ty s
  | .stgV g vs vi base q ty => Sys2Proof.Machine.execStgV g vs vi base q ty s
  | .ldQ g qd base off pi => Sys2Proof.Machine.execLdQ g qd base off pi s
  | .stQ g qs base off pi => Sys2Proof.Machine.execStQ g qs base off pi s
  | .pushV g vs dsc => Sys2Proof.Machine.execPushV g vs dsc s
  | .pushl g sl dsc => Sys2Proof.Machine.execPushl g sl dsc s
  | .lcopy g sd ss cnt => Sys2Proof.Machine.execLcopy g sd ss cnt s
  | .pushArrival id => Sys2Proof.Machine.execPushArrival id s
  | .mldb g ty x f sa n sb => Sys2Proof.Machine.execMldb g ty x f sa n sb s
  | .mmul g ad x sa n c aty bsel scA scB => Sys2Proof.Machine.execMmul g ad x sa n c aty bsel scA scB s
  | .mmulTableMode g ad x sa n c l => Sys2Proof.Machine.execMmulTableMode g ad x sa n c l s
  | .mzero g ad => Sys2Proof.Machine.execMzero g ad s
  | .mld g ad sa => Sys2Proof.Machine.execMld g ad sa s
  | .mst g as sa i32 ty mode => Sys2Proof.Machine.execMst g as sa i32 ty mode s
  | .mstTableMode g as sa l => Sys2Proof.Machine.execMstTableMode g as sa l s
  | .mmov g ad as => Sys2Proof.Machine.execMmov g ad as s
  | .macc g ad as i32 => Sys2Proof.Machine.execMacc g ad as i32 s
  | .mrowadd g ad sa i32 => Sys2Proof.Machine.execMrowadd g ad sa i32 s
  | .mscl g ad sk => Sys2Proof.Machine.execMscl g ad sk s
  | .xin g vs => Sys2Proof.Machine.execXin g vs s
  | .xout g vd => Sys2Proof.Machine.execXout g vd s
  | .xclr g => Sys2Proof.Machine.execXclr g s
  | .xmode g b16 => Sys2Proof.Machine.execXmode g b16 s
  | .act g bank row => Sys2Proof.Machine.execAct g bank row s
  | .acti g k sn => Sys2Proof.Machine.execActi g k sn s
  | .pre g bank => Sys2Proof.Machine.execPre g bank s
  | .prea g => Sys2Proof.Machine.execPrea g s
  | .refb g bank => Sys2Proof.Machine.execRefb g bank s
  | .stop g sm len => Sys2Proof.Machine.execStop g sm len s
  | .rd g vd sv ai => Sys2Proof.Machine.execRd g vd sv ai s
  | .rds g sl sv ai => Sys2Proof.Machine.execRds g sl sv ai s
  | .wr g vs sv ai => Sys2Proof.Machine.execWr g vs sv ai s
  | .wrs g sl sv ai => Sys2Proof.Machine.execWrs g sl sv ai s
  | .vadd g u vd va vb q ty rz => Sys2Proof.Machine.execVadd g u vd va vb q ty rz s
  | .vsub g u vd va vb q ty rz => Sys2Proof.Machine.execVsub g u vd va vb q ty rz s
  | .vmul g u vd va vb q ty rz => Sys2Proof.Machine.execVmul g u vd va vb q ty rz s
  | .vfma g u vd va vb q ty rz => Sys2Proof.Machine.execVfma g u vd va vb q ty rz s
  | .vfms g u vd va vb q ty rz => Sys2Proof.Machine.execVfms g u vd va vb q ty rz s
  | .vfnma g u vd va vb q ty rz => Sys2Proof.Machine.execVfnma g u vd va vb q ty rz s
  | .vmin g u vd va vb q ty num => Sys2Proof.Machine.execVmin g u vd va vb q ty num s
  | .vmax g u vd va vb q ty num => Sys2Proof.Machine.execVmax g u vd va vb q ty num s
  | .vabs g u vd va q ty => Sys2Proof.Machine.execVabs g u vd va q ty s
  | .vneg g u vd va q ty => Sys2Proof.Machine.execVneg g u vd va q ty s
  | .vtwosum g u vd va vb q ty => Sys2Proof.Machine.execVtwosum g u vd va vb q ty s
  | .vcmp g u qd c va vb q ty => Sys2Proof.Machine.execVcmp g u qd c va vb q ty s
  | .vclass g u vd va q ty => Sys2Proof.Machine.execVclass g u vd va q ty s
  | .vscale g u vd va vb q ty inv => Sys2Proof.Machine.execVscale g u vd va vb q ty inv s
  | .vcvt g u vd va q dt st mode => Sys2Proof.Machine.execVcvt g u vd va q dt st mode s
  | .viadd g u vd va vb q ty => Sys2Proof.Machine.execViadd g u vd va vb q ty s
  | .visub g u vd va vb q ty => Sys2Proof.Machine.execVisub g u vd va vb q ty s
  | .vimul g u vd va vb q ty => Sys2Proof.Machine.execVimul g u vd va vb q ty s
  | .vimulh g u vd va vb q ty => Sys2Proof.Machine.execVimulh g u vd va vb q ty s
  | .viaddw g u vd va vb q ty hi => Sys2Proof.Machine.execViaddw g u vd va vb q ty hi s
  | .vishl g u vd va vb q ty => Sys2Proof.Machine.execVishl g u vd va vb q ty s
  | .vishr g u vd va vb q ty => Sys2Proof.Machine.execVishr g u vd va vb q ty s
  | .visra g u vd va vb q ty => Sys2Proof.Machine.execVisra g u vd va vb q ty s
  | .vand g u vd va vb q => Sys2Proof.Machine.execVand g u vd va vb q s
  | .vor g u vd va vb q => Sys2Proof.Machine.execVor g u vd va vb q s
  | .vxor g u vd va vb q => Sys2Proof.Machine.execVxor g u vd va vb q s
  | .vnot g u vd va q => Sys2Proof.Machine.execVnot g u vd va q s
  | .vimin g u vd va vb q ty => Sys2Proof.Machine.execVimin g u vd va vb q ty s
  | .vimax g u vd va vb q ty => Sys2Proof.Machine.execVimax g u vd va vb q ty s
  | .viabs g u vd va q ty sat => Sys2Proof.Machine.execViabs g u vd va q ty sat s
  | .vicmp g u qd c va vb q ty => Sys2Proof.Machine.execVicmp g u qd c va vb q ty s
  | .vpopc g u vd va q ty => Sys2Proof.Machine.execVpopc g u vd va q ty s
  | .vclz g u vd va q ty => Sys2Proof.Machine.execVclz g u vd va q ty s
  | .viaddsat g u vd va vb q ty sub => Sys2Proof.Machine.execViaddsat g u vd va vb q ty sub s
  | .vsel g u vd va vb q qs => Sys2Proof.Machine.execVsel g u vd va vb q qs s
  | .vmov g u vd va q => Sys2Proof.Machine.execVmov g u vd va q s
  | .vmovi g u vd q imm t => Sys2Proof.Machine.execVmovi g u vd q imm t s
  | .vbcast g u vd sn q c => Sys2Proof.Machine.execVbcast g u vd sn q c s
  | .vext g u sd va c k signed => Sys2Proof.Machine.execVext g u sd va c k signed s
  | .vins g u vd sn q c k => Sys2Proof.Machine.execVins g u vd sn q c k s
  | .vlsh g vd va sn q ty rot => Sys2Proof.Machine.execVlsh g vd va sn q ty rot s
  | .vperm g vd va vb q ty z => Sys2Proof.Machine.execVperm g vd va vb q ty z s
  | .vrev g vd va q ty => Sys2Proof.Machine.execVrev g vd va q ty s
  | .vzip g vd va vb q ty hi => Sys2Proof.Machine.execVzip g vd va vb q ty hi s
  | .vunzip g vd va vb q ty odd => Sys2Proof.Machine.execVunzip g vd va vb q ty odd s
  | .vscan g vd va q ty op excl => Sys2Proof.Machine.execVscan g vd va q ty op excl s
  | .vred g vd va q ty op => Sys2Proof.Machine.execVred g vd va q ty op s
  | .vqand g u qd qa qb => Sys2Proof.Machine.execVqand g u qd qa qb s
  | .vqor g u qd qa qb => Sys2Proof.Machine.execVqor g u qd qa qb s
  | .vqxor g u qd qa qb => Sys2Proof.Machine.execVqxor g u qd qa qb s
  | .vqnot g u qd qa => Sys2Proof.Machine.execVqnot g u qd qa s
  | .vqcnt g u sd qa => Sys2Proof.Machine.execVqcnt g u sd qa s
  | .vrcp g vd va q => Sys2Proof.Machine.execVrcp g vd va q s
  | .vrsq g vd va q => Sys2Proof.Machine.execVrsq g vd va q s
  | .vsqrt g vd va q => Sys2Proof.Machine.execVsqrt g vd va q s
  | .vdiv g vd va vb q => Sys2Proof.Machine.execVdiv g vd va vb q s
  | .vexp2 g vd va q => Sys2Proof.Machine.execVexp2 g vd va q s
  | .vlog2 g vd va q => Sys2Proof.Machine.execVlog2 g vd va q s
  | .bringUp => Sys2Proof.Machine.execBringUp s
  | .bankRefreshDone tile bank => Sys2Proof.Machine.execBankRefreshDone tile bank s
  | .stopWindowEnd tile => Sys2Proof.Machine.execStopWindowEnd tile s
  | .refreshDeadlineMiss tile bank => Sys2Proof.Machine.execRefreshDeadlineMiss tile bank s
  | .pauseRefb tile bank => Sys2Proof.Machine.execPauseRefb tile bank s
  | .idleTileRefb tile bank => Sys2Proof.Machine.execIdleTileRefb tile bank s
  | .pauseResume coach => Sys2Proof.Machine.execPauseResume coach s
  | .rdvTimeout coach => Sys2Proof.Machine.execRdvTimeout coach s
  | .phaseSettle coach => Sys2Proof.Machine.execPhaseSettle coach s
  | .strikeReport tile frame sensor => Sys2Proof.Machine.execStrikeReport tile frame sensor s
  | .replayCloseDone coach => Sys2Proof.Machine.execReplayCloseDone coach s
  | .reloadDone coach => Sys2Proof.Machine.execReloadDone coach s
  | .replayRestart coach => Sys2Proof.Machine.execReplayRestart coach s
  | .faultHoldExpiry coach => Sys2Proof.Machine.execFaultHoldExpiry coach s
  | .launchCompletion coach => Sys2Proof.Machine.execLaunchCompletion coach s
  | .dispatchDecision coach => Sys2Proof.Machine.execDispatchDecision coach s
  | .queueTailWrite fn q tail => Sys2Proof.Machine.execQueueTailWrite fn q tail s
  | .queueEnable fn q => Sys2Proof.Machine.execQueueEnable fn q s
  | .queueDisable fn q => Sys2Proof.Machine.execQueueDisable fn q s
  | .registerWrite fn off x => Sys2Proof.Machine.execRegisterWrite fn off x s
  | .cplanWrite fn coach x => Sys2Proof.Machine.execCplanWrite fn coach x s
  | .hatboxKeepRequest fn coach => Sys2Proof.Machine.execHatboxKeepRequest fn coach s
  | .hatboxHandoffRequest fn coach => Sys2Proof.Machine.execHatboxHandoffRequest fn coach s
  | .hatboxRestore fn coach rec => Sys2Proof.Machine.execHatboxRestore fn coach rec s
  | .apertureRead fn off len => Sys2Proof.Machine.execApertureRead fn off len s
  | .apertureWrite fn off data => Sys2Proof.Machine.execApertureWrite fn off data s
  | .farSessionProgram fn row peer proof ends => Sys2Proof.Machine.execFarSessionProgram fn row peer proof ends s
  | .relayLoaderWork coach => Sys2Proof.Machine.execRelayLoaderWork coach s
  | .noVariantTimeout coach => Sys2Proof.Machine.execNoVariantTimeout coach s
  | .forecastPublish pkgWords => Sys2Proof.Machine.execForecastPublish pkgWords s
  | .thermalModelRun temps => Sys2Proof.Machine.execThermalModelRun temps s
  | .lifetimeCounterSave => Sys2Proof.Machine.execLifetimeCounterSave s
  | .fieldRecordRequest first => Sys2Proof.Machine.execFieldRecordRequest first s
  | .copyEngineColumn coach tl num k => Sys2Proof.Machine.execCopyEngineColumn coach tl num k s
  | .engineVaultCommand tile cmd => Sys2Proof.Machine.execEngineVaultCommand tile cmd s
  | .acopyComplete coach tl num => Sys2Proof.Machine.execAcopyComplete coach tl num s
  | .farOpComplete coach tl num => Sys2Proof.Machine.execFarOpComplete coach tl num s
  | .farmMemberWaitExpiry coach tl num => Sys2Proof.Machine.execFarmMemberWaitExpiry coach tl num s
  | .farFrameReceive f => Sys2Proof.Machine.execFarFrameReceive f s
  | .tandemPushFlit port f => Sys2Proof.Machine.execTandemPushFlit port f s
  | .flitInject port => Sys2Proof.Machine.execFlitInject port s
  | .idleFlit port f => Sys2Proof.Machine.execIdleFlit port f s
  | .epochSync port count => Sys2Proof.Machine.execEpochSync port count s
  | .startSync port coach epoch variant => Sys2Proof.Machine.execStartSync port coach epoch variant s
  | .conditionReport coach r => Sys2Proof.Machine.execConditionReport coach r s
  | .retrainFlit port half good => Sys2Proof.Machine.execRetrainFlit port half good s
  | .startWaitTimeout coach => Sys2Proof.Machine.execStartWaitTimeout coach s
  | .stopMessage note => Sys2Proof.Machine.execStopMessage note s
  | .healthTestFailure => Sys2Proof.Machine.execHealthTestFailure s

end Sys2Proof.Machine
end

