-- ==== Sys2Proof/Machine/Schedule.lean ====
section
/-! DEFINITION. The order of a wall-clock cycle: what is due, then each running coach's frame cycle, then the agenda, then the
tick (notes/assumptions/2.md; 02 R36, R40, R51, R55-R65, 12 R265, R270, 17 R329, R332, 19 Table 19-5, 20 R366, R367). -/
namespace Sys2Proof.Machine

/-! ## What is due at the start of a wall-clock cycle -/

/-- Is the frame of a launch advancing: running, or completing issued work? -/
def Launch.advances (l : Launch) : Bool := match l.mode with | .running | .finishing => true | _ => false
/-- Is no launch under way, and no record of a queue waiting to be served? -/
def State.quiet (s : State) : Bool :=
  ((List.range 16).all fun c => (s.coach c).launch.mode == .idle) && s.pkg.queues.all fun q => q.2.pending == 0
/-- The largest refill of a replay of a coach, in columns (17 R333). -/
def State.refillColumns (s : State) (c k : Nat) : Nat :=
  maxOf ((s.coach c).launch.tiles.map fun t =>
    let x := s.tile t
    ((getK [] x.seq.refills (x.snaps.getD (k % 2) Snap.reset).rl).map fun e => (refillOf e).2.1).foldl (· + ·) 0)

/-- Stage 0 of a coach: settling, timeouts, the end of CLOSE and of the hold. -/
def State.due0 (s : State) (c : Nat) : List Instr :=
  let l := (s.coach c).launch
  let w := s.wall
  (match l.unsettled with
    | u :: _ =>
      let free := match l.pending with | some p => decide (u.phase < p) | none => true
      if u.wall + Config.settle < w ∧ free = true ∧ !l.bars u.phase then [.phaseSettle c]
      else []
    | [] => []) ++
  match l.mode with
  | .starting => if l.isDomain ∧ l.startEpoch.isNone ∧ l.sinceWall + l.timeout < w then [.startWaitTimeout c] else []
  | .paused =>
    if (!s.rdvHolds c ∧ l.sinceWall + l.timeout < w) ∨ (l.waitsDomain ∧ l.overdue w) then [.rdvTimeout c] else []
  | .relaying false => if l.relayWaits ∧ l.overdue w then [.noVariantTimeout c] else []
  | .relaying true => if l.sinceWall + l.timeout < w then [.noVariantTimeout c] else []
  | .held => if l.sinceWall + Config.settle ≤ w then [.faultHoldExpiry c] else []
  | .closing => if l.sinceWall + 64 < w then [.replayCloseDone c] else []
  | _ => []
/-- Stage 0 of the engines and ports: far operations that can end, member waits that are over, retrains that fail. -/
def State.dueOps (s : State) (c : Nat) : List Instr :=
  (s.coach c).ops.flatMap fun o =>
    if o.isCopy then []
    else
      (if (s.farFault o).isSome ∨ o.farDone then [.farOpComplete c o.tl o.num] else []) ++
      (if o.fixes true ∧ o.startWall + farField o.desc 0x3C 4 * Config.cycPerUs < s.wall then
        [.farmMemberWaitExpiry c o.tl o.num] else [])
def State.duePorts (s : State) : List Instr :=
  if !s.up then [] else
  (List.range 16).filterMap fun p =>
    match (s.pkg.port p).training, (s.pkg.port p).half with
    | some w, _ => if w + 1440000 ≤ s.wall then some (.retrainFlit p false false) else none
    | none, some w => if w + 1440000 ≤ s.wall then some (.retrainFlit p true false) else none
    | none, none => none
/-- Every counter is saved once a second (19 R361). -/
def State.dueSave (s : State) : List Instr := if s.up ∧ s.wall ≠ 0 ∧ s.wall % 1200000000 = 0 then [.lifetimeCounterSave] else []
/-- Stage 1: RELOAD is over. -/
def State.due1 (s : State) (c : Nat) : List Instr :=
  let l := (s.coach c).launch
  match l.mode, l.pending with
  | .reloading, some k => if l.sinceWall + s.refillColumns c k + 288 ≤ s.wall then [.reloadDone c] else []
  | _, _ => []
/-- Stage 2: the frame goes on, or the launch is over. -/
def State.due2 (s : State) (c : Nat) : List Instr :=
  let l := (s.coach c).launch
  match l.mode with
  | .paused => match l.closingDone with
    | some w => if w ≤ s.wall ∧ s.mayGo c then [.pauseResume c] else []
    | none => []
  | .relaying false => if l.relayWall ≤ s.wall ∨ s.relayDue c then [.relayLoaderWork c] else []
  | .waiting =>
    if !l.replayWaits ∧ s.mayGo c ∧ s.portsReady c then [.replayRestart c] else []
  | .finishing => if s.workDone c ∧ l.sinceWall < s.wall then [.launchCompletion c] else []
  | _ => []
/-- Banks of a tile whose last REFB is an interval ago. -/
def VaultSt.stale (v : VaultSt) (cls wall : Nat) : List Nat :=
  let i := Config.interval cls
  if i = 0 then [] else (List.range 32).filter fun b => decide (v.lastRefWall.getD b 0 + i ≤ wall)
/-- Stage 2: the refreshes of a pause, also of one that goes on after its closing refresh because a domain waits, and of a
tile that has ended while operations of the launch are outstanding (02 R57, 17 R328 step 4). -/
def State.dueRefb (s : State) (c : Nat) : List Instr :=
  let l := (s.coach c).launch
  let closing : Bool := match l.closingDone with | some w => decide (s.wall < w) | none => false
  l.tiles.flatMap fun t =>
    let x := s.tile t
    if (l.mode.still && !closing) || (l.mode == .running && x.seq.ended && !(s.coach c).ops.isEmpty) then
      (x.vault.stale x.vault.rfclass s.wall).map fun b => .pauseRefb t b
    else []
/-- Stage 3: the loader's refreshes of idle tiles, at the class in force, or at class 4 where there is none or a thermal stop
asks for it (20 R368). -/
def State.dueIdle (s : State) : List Instr :=
  let busy := (List.range 16).flatMap fun c => (s.coach c).launch.tiles
  s.tiles.flatMap fun x =>
    if !x.2.own.enabled || busy.contains x.1 then []
    else
      let hot : Bool := match x.2.own.owner with | some c => (s.coach c).hot | none => false
      let cls := if hot ∨ Config.interval x.2.vault.rfclass = 0 then 4 else x.2.vault.rfclass
      (x.2.vault.stale cls s.wall).map fun b => .idleTileRefb x.1 b
/-- Stage 3: an idle coach with a record to serve. -/
def State.dueDispatch (s : State) (c : Nat) : List Instr :=
  match (s.coach c).launch.mode with
  | .idle => if s.up ∧ !(s.eligible c).isEmpty then [.dispatchDecision c] else []
  | _ => []

/-! ## What begins with no event of its own -/

/-- The closing refresh of a rendezvous begins once its condition holds (02 R57, R65). -/
def State.beginClosing (s : State) (c : Nat) : State :=
  let l := (s.coach c).launch
  if l.mode = .paused ∧ l.closingDone.isNone ∧ s.rdvHolds c then
    (s.closeTiles c l.tiles).modLaunch c fun l => { l with closingDone := some (s.wall + 128) }
  else s
/-- Every tile has reached its end and the last commit has settled (02 R36). -/
def State.beginEnd (s : State) (c : Nat) : State :=
  let l := (s.coach c).launch
  if l.mode = .running ∧ l.unsettled.isEmpty ∧ l.tiles.all fun t => (s.tile t).seq.ended then
    (s.modTiles (fun t => { t with vault := t.vault.closeAll }) l.tiles).modLaunch c fun l =>
      { l with mode := .finishing, status := 0, sinceWall := s.wall }
  else s
/-- Frame cycle 0 of a launch that may start; the report of a package whose closing refresh is done, or whose replay waits for nothing
of its own any more (notes/assumptions/27.md). -/
def State.beginFrame (s : State) (c : Nat) : State :=
  let l := (s.coach c).launch
  match l.mode with
  | .starting => if (if l.isDomain then s.mayGo c else decide (l.sinceWall < s.wall)) then s.startLaunch c else s
  | .paused =>
    if l.closingDone = some s.wall then s.reportNow c (.rdv l.rdvId) 0#8 else s
  | .waiting =>
    if l.told ∨ l.replayWaits ∨ !s.portsReady c then s
    else (s.modLaunch c fun l => { l with told := true }).reportNow c (.reloadDone (s.coach c).log.cancels) 0#8
  | _ => s

/-- The plan of an idle coach that waits is applied as soon as it holds, as where another coach's plan has freed its tiles (13
R291). -/
def State.idlePlan (s : State) (c : Nat) : State := if s.up ∧ (s.coach c).launch.mode = .idle then s.planIdle c else s

/-! ## The cycle -/

def coachList : List Nat := List.range 16
/-- The frame cycle of a coach as work. -/
def State.frameTasks (s : State) (c : Nat) : List Task :=
  let l := (s.coach c).launch
  if !l.advances then []
  else
    [.arrive c, .mesh c, .land c] ++
    (if l.mode = .running then l.tiles.map (fun t => Task.tile c t) ++ [.deadline c] else []) ++ [.endCycle c]
/-- Agenda entries that are due, and the rest. -/
def State.dueAgenda (s : State) : List Task := (s.agenda.filter fun x => decide (x.1 ≤ s.wall)).map fun x => .ev x.2
def State.later (s : State) : List (Nat × Instr) := s.agenda.filter fun x => decide (s.wall < x.1)
/-- Puts events before the rest of the work. -/
def State.before (s : State) (es : List Instr) (r : List Task) : State := { s with todo := es.map .ev ++ r ++ s.todo }
/-- `.timers k`: the stages of the start of a wall-clock cycle, then its frame cycles, the agenda and the tick. -/
def State.timers (s : State) (stage : Nat) : State :=
  match stage with
  | 0 =>
    let s := coachList.foldl State.beginClosing (s.hostWrites !s.quiet).syncPorts
    s.before (coachList.flatMap s.due0 ++ coachList.flatMap s.dueOps ++ s.duePorts ++ s.dueSave) [.timers 1]
  | 1 =>
    let s := coachList.foldl State.beginEnd s
    s.before (coachList.flatMap s.due1) [.timers 2]
  | 2 =>
    let s := { s with todo := .timers 3 :: s.todo }
    let s := coachList.foldl State.beginFrame s
    s.before (coachList.flatMap s.due2 ++ coachList.flatMap s.dueRefb) []
  | 3 =>
    let s := coachList.foldl State.idlePlan s
    s.before (coachList.flatMap s.dueDispatch ++ s.dueIdle) [.timers 4]
  | _ => { s with
      todo := coachList.flatMap s.frameTasks ++ s.dueAgenda ++ [.tick] ++ s.todo
      agenda := s.later }
/-- Has a port a flit slot in a wall cycle: 3 in 5 at full rate, 3 in 10 at half rate (01 R28; notes/assumptions/32.md)? -/
def Port.slotAt (q : Port) (wall : Nat) : Bool :=
  match q.rate with
  | 2 => decide (wall % 5 < 3)
  | 1 => decide (wall % 10 < 3)
  | _ => false
/-- The idle flits of the slots that carried nothing in this cycle (19 R354). -/
def State.idleFlits (s : State) : List Output :=
  (List.range 16).filterMap fun p =>
    let q := s.pkg.port p
    if s.up && q.peer.isSome && q.lastSent != some s.wall && q.slotAt s.wall then some (.idle p (q.idleFlit false)) else none
/-- The wall clock, the epoch count and the advancing frames move on by one. -/
def State.tick (s : State) : State :=
  { s with
    wall := s.wall + 1
    pkg := { s.pkg with epoch := s.pkg.epoch + 1, out := s.pkg.out ++ s.idleFlits }
    coaches := s.coaches.map fun k =>
      if k.launch.advances then { k with launch := { k.launch with frc := k.launch.frc + 1 } } else k }

/-- One piece of the work; `ex` gives an instruction its meaning. -/
def State.runTask (ex : Instr → State → Host.Outcome State Fault Refusal) (s : State) : Task → Host.Outcome State Fault Refusal
  | .ev i => ex i s
  | .arrive c => .next (s.before (s.arrivals c) [])
  | .mesh c =>
    let s := s.meshCycle c
    .next (s.before (s.pushArrivals c) [])
  | .land c => .next (s.land c)
  | .tile c t => s.runTile ex c t
  | .slot sl ftl w => s.runSlot ex sl ftl w
  | .endBundle => .next s.endBundle
  | .deadline c =>
    let s := s.closeEngines c
    .next (s.before (s.missed c) [])
  | .endCycle c => .next (s.endCycle c)
  | .timers k => .next (s.timers k)
  | .tick => .next s.tick

end Sys2Proof.Machine
end

