-- ==== Sys2Proof/Machine/Step.lean ====
section
/-! DEFINITION. One step: the next piece of the work (notes/assumptions/2.md), and the placing of a code word where the next
step fetches it (notes/assumptions/25.md). -/
namespace Sys2Proof.Machine

/-- The step. Where no work is left a wall-clock cycle begins. -/
def step (s : State) : Host.Outcome State Fault Refusal :=
  match s.todo with
  | [] => .next { s with todo := [.timers 0] }
  | t :: r => State.runTask exec { s with todo := r } t

/-- s with the code word w as the next word of tile 0's stream, in a launch of coach 0 on tile 0 at frame cycle 0, with the
zero words after it and a dictionary of empty bundles: what a load of a timetable would place (12 R269). -/
def State.withFetchWord (s : State) (nbits w : Nat) : State :=
  let word : CodeWord := BitVec.ofNat 16 (w % 2 ^ nbits)
  let t : Tile := { Tile.reset with
    own := { Own.reset with owner := some 0, enabled := true }
    seq := { SeqSt.reset with
      code := word :: List.replicate 24 0#16
      dict := List.replicate (word.toNat % 4096 + 1) 0#384
      buf := 64 } }
  { s with
    todo := [.tile 0 0]
    tiles := setK s.tiles 0 t
    coaches := s.coaches.setIfInBounds 0 { Coach.reset with
      crect := 0x80000000#64, cplan := 0x80000000#64
      launch := { Launch.reset with mode := .running, tiles := [0] } }
    pkg := { s.pkg with boot := 6 } }

end Sys2Proof.Machine
end

