-- ==== Sys2Proof/Safety.lean ====
section
/-! DEFINITION. What counts as a safe outcome, and the invariant that every memory of the machine is in canonical form
(notes/assumptions/5.md). -/
namespace Sys2Proof.Machine

/-- The outcome is a next state that satisfies P. -/
def nextWith (P : State → Prop) : Host.Outcome State Fault Refusal → Prop
  | .next s => P s
  | _ => False
/-- No stop: neither a fault nor a refusal. -/
def goesOn (o : Host.Outcome State Fault Refusal) : Prop := nextWith (fun _ => True) o
/-- Whatever next state there is satisfies P. -/
def allNext (P : State → Prop) : Host.Outcome State Fault Refusal → Prop
  | .next s => P s
  | _ => True

/-- The memories of a tile are in canonical form: scratchpad, vault, block table. -/
def Tile.memOk (t : Tile) : Prop := t.sp.wf = true ∧ t.vault.cells.wf = true ∧ t.blk.mem.wf = true
/-- So are those of the tiles that a launch keeps from before this cycle's bundles, and its image. -/
def Launch.memOk (l : Launch) : Prop :=
  (∀ p ∈ l.saves, p.2.memOk) ∧ ∀ p ∈ l.image.data, p.2.sp.wf = true ∧ p.2.bt.wf = true
/-- So are those that the bundle being issued would restore. -/
def Cursor.memOk (c : Cursor) : Prop := ∀ x, c.save = some x → x.1.memOk ∧ x.2.launch.memOk
/-- Every memory of the machine is in canonical form: tiles, what is kept to be restored, images, host memory. -/
def State.memOk (s : State) : Prop :=
  (∀ t, (s.tile t).memOk) ∧ (∀ c, (s.coach c).launch.memOk) ∧ s.cur.memOk ∧ s.pkg.host.wf = true

end Sys2Proof.Machine
end

