-- ==== Sys2Proof/Certificates/Slice0/Obligations.lean ====
section
/-! DEFINITION. The statements for the provers. Each quotes or rests on numbered rules of spec/ (OBLIGATIONS.json); the
functions of Sys2Proof.Claims say in integers, bits and bytes what the rules give. -/
namespace Sys2Proof.Claims
open Sys2Proof Sys2Proof.Machine

/-- s with writes of the bundle being issued queued, each with its latency and slot code (02 R41). -/
def queue (s : State) (ws : List (Nat × Nat × Write)) : State :=
  ws.foldl (fun s x => s.modCt fun t =>
    { t with pend := t.pend ++ [⟨s.frc + x.1, ⟨s.cur.src.addr, s.cur.src.issued, x.2.1⟩, x.2.2⟩] }) s
/-- The same writes as a list. -/
def pends (s : State) (ws : List (Nat × Nat × Write)) : List Pend :=
  ws.map fun x => ⟨s.frc + x.1, ⟨s.cur.src.addr, s.cur.src.issued, x.2.1⟩, x.2.2⟩
/-- A scalar, predicate or vector-predicate destination; s0, p0, p1 and q0 discard the write (04 R95). -/
def toS (sc lat : Nat) (d : BitVec 6) (x : Word) : List (Nat × Nat × Write) :=
  if d = 0#6 then [] else [(lat, sc, .s d.toNat x)]
def toP (d : Nat) (b : Bool) : List (Nat × Nat × Write) := if d < 2 then [] else [(1, 1, .p d b)]
def toQ (sc lat : Nat) (d : BitVec 4) (m x : Mask) : List (Nat × Nat × Write) :=
  if d = 0#4 then [] else [(lat, sc, .q d.toNat m x)]
/-- Raised flags; an empty event is none. -/
def toF (sc lat : Nat) (f : BitVec 6) : List (Nat × Nat × Write) := if f = 0#6 then [] else [(lat, sc, .flags sc f)]
/-- Some bit vector with given bits, and some vector with given bytes. -/
def hasBytes (x : Vec) (f : Nat → Byte) : Prop := ∀ j, j < 256 → x.extractLsb' (8 * j) 8 = f j
/-- Byte of the scratchpad at a scratchpad address, under H: with H = 1 the two halves change places (04 R97). -/
def spByteAt (t : Tile) (a : Nat) : Byte :=
  t.sp.get (if t.h then (a + 2 ^ 20) % 2 ^ 21 else a)

/-- Guard p0 without inversion. -/
def g0 : Guard := ⟨false, 0#5⟩
/-- Words of the manual's worked encodings (05 Table 5-9, 15 R308 and R313, 16 R318 and R321, 21 R377), one for each slot. -/
def writtenWords : Prop :=
  (decodeWord 0x0003#16).toOption = some (.issue 3#12) ∧ (decodeWord 0xF007#16).toOption = some (.idle 7#10) ∧
  (decodeWord 0xF83F#16).toOption = some (.seg 63#10) ∧ (decodeWord 0xF400#16).toOption = some .escape ∧ (decodeWord 0xFC00#16).toOption = some .endStream ∧
  (decodeSlot .S 0#2 0x00F8A28001#40).toOption = some (.addi g0 5#6 5#6 1#15) ∧
  (decodeSlot .C 0#2 0x003505C002#40).toOption = some (.loop g0 2#2 (.reg 23#6) 2#14) ∧
  (decodeSlot .L 0#2 0x18514A8000#40).toOption = some (.pushV ⟨false, 6#5⟩ 10#6 21#6) ∧
  (decodeSlot .VA 0#2 0x014D0C3000#40).toOption = some (.vlsh g0 40#6 24#6 24#6 0#4 .f32 false) ∧
  (decodeSlot .VA 0#2 0x005B0C5000#40).toOption = some (.vtwosum g0 .va 24#6 24#6 40#6 0#4 .f32) ∧
  (decodeSlot .M 1#2 0x9810000200#40).toOption = some (.mmulTableMode ⟨true, 6#5⟩ 0#3 0#1 0#6 0#4 false 1#2) ∧
  (decodeSlot .X 0#2 0x0012C00000#40).toOption = some (.xout g0 22#6) ∧
  (decodeSlot .DR 0#2 0x0012170000#40).toOption = some (.acti g0 8#5 23#6) ∧
  (decodeSlot .DC 0#2 0x00196BC000#40).toOption = some (.wr g0 11#6 23#6 true)

/-- The conditions under which the word at a tile's stream address is the bundle of this frame cycle: the stream has not
ended, its issue cycle is now, no bundle issued later, all its words are usable (05 R113 to R116) and no code of the
stream has failed. -/
def bundleDue (x : Tile) (f need : Nat) : Prop :=
  x.seq.ended = false ∧ x.peek f codeMax = .bundle x.seq.pc f (x.seq.need + need) x.seq.buf ∧ x.seq.minIssue ≤ f ∧
  x.seq.need + need ≤ x.seq.buf ∧ 0 < need ∧ x.own.errs = []
/-- s with the bundle being issued on tile t of coach c. -/
def onTile (s : State) (c t : Nat) : State := { s with cur := { s.cur with coach := c, tile := t } }

/-! ## Scalars (06 R139 to R143) -/

/-- The unsigned and signed numbers of a word are its `toNat` and `toInt`; a result is written as the number modulo
2^64. -/
def wrapI (x : Int) : Word := BitVec.ofInt 64 x
def wrapN (x : Nat) : Word := BitVec.ofNat 64 x
/-- Shifts and rotation by an amount n of any size. -/
def shlN (a n : Nat) : Word := if 64 ≤ n then 0#64 else wrapN (a * 2 ^ n)
def shrN (a n : Nat) : Word := if 64 ≤ n then 0#64 else wrapN (a / 2 ^ n)
def sraN (a : Int) (n : Nat) : Word := wrapI (a / 2 ^ (if 64 ≤ n then 63 else n))
def rotN (a n : Nat) : Word := wrapN (a * 2 ^ (n % 64) % 2 ^ 64 + a / 2 ^ (64 - n % 64))
/-- Number of one bits of a word. -/
def ones (a : Word) : Nat := ((List.range 64).filter fun k => a.getLsbD k).length
/-- Number of the lowest one bit, 64 where there is none. -/
def lowestOne (a : Word) : Nat := ((List.range 64).find? fun k => a.getLsbD k).getD 64
/-- Zero bits above the highest one bit. -/
def leadingZeros (a : Word) : Nat := if a = 0#64 then 64 else 63 - Nat.log2 a.toNat
/-- The word with 16 bits replaced, piece j. -/
def ins16N (a imm j : Nat) : Word := wrapN (a / 2 ^ (16 * (j + 1)) * 2 ^ (16 * (j + 1)) + imm * 2 ^ (16 * j) + a % 2 ^ (16 * j))

/-- Guard and writes of a scalar operation whose sources read sv and whose predicates read pv (06 Tables 6-1 and 6-2). -/
def scalarWrites (sv : BitVec 6 → Word) (pv : BitVec 5 → Bool) : Instr → Option (Guard × List (Nat × Nat × Write))
  | .add g d a b => some (g, toS 1 1 d (wrapN ((sv a).toNat + (sv b).toNat)))
  | .sub g d a b => some (g, toS 1 1 d (wrapI ((sv a).toNat - (sv b).toNat : Int)))
  | .mul g d a b => some (g, toS 1 3 d (wrapN ((sv a).toNat * (sv b).toNat)))
  | .mulh g d a b => some (g, toS 1 3 d (wrapI ((sv a).toInt * (sv b).toInt / 2 ^ 64)))
  | .mulhn g d a b => some (g, toS 1 3 d (wrapN ((sv a).toNat * (sv b).toNat / 2 ^ 64)))
  | .divs g d a b =>
    if sv b = 0#64 then some (g, toS 1 20 d (wrapI (-1)) ++ toF 1 20 2#6)
    else some (g, toS 1 20 d (wrapI ((sv a).toInt.tdiv (sv b).toInt)))
  | .divn g d a b =>
    if sv b = 0#64 then some (g, toS 1 20 d (wrapI (-1)) ++ toF 1 20 2#6)
    else some (g, toS 1 20 d (wrapN ((sv a).toNat / (sv b).toNat)))
  | .rems g d a b =>
    if sv b = 0#64 then some (g, toS 1 20 d (sv a) ++ toF 1 20 2#6)
    else some (g, toS 1 20 d (wrapI ((sv a).toInt.tmod (sv b).toInt)))
  | .remn g d a b =>
    if sv b = 0#64 then some (g, toS 1 20 d (sv a) ++ toF 1 20 2#6)
    else some (g, toS 1 20 d (wrapN ((sv a).toNat % (sv b).toNat)))
  | .and g d a b => some (g, toS 1 1 d (wrapN ((sv a).toNat &&& (sv b).toNat)))
  | .or g d a b => some (g, toS 1 1 d (wrapN ((sv a).toNat ||| (sv b).toNat)))
  | .xor g d a b => some (g, toS 1 1 d (wrapN ((sv a).toNat ^^^ (sv b).toNat)))
  | .andn g d a b => some (g, toS 1 1 d (wrapN ((sv a).toNat &&& (2 ^ 64 - 1 - (sv b).toNat))))
  | .shl g d a b => some (g, toS 1 1 d (shlN (sv a).toNat (sv b).toNat))
  | .shr g d a b => some (g, toS 1 1 d (shrN (sv a).toNat (sv b).toNat))
  | .sra g d a b => some (g, toS 1 1 d (sraN (sv a).toInt (sv b).toNat))
  | .rotl g d a b => some (g, toS 1 1 d (rotN (sv a).toNat (sv b).toNat))
  | .min g d a b => some (g, toS 1 1 d (wrapI (min (sv a).toInt (sv b).toInt)))
  | .max g d a b => some (g, toS 1 1 d (wrapI (max (sv a).toInt (sv b).toInt)))
  | .minn g d a b => some (g, toS 1 1 d (wrapN (min (sv a).toNat (sv b).toNat)))
  | .maxn g d a b => some (g, toS 1 1 d (wrapN (max (sv a).toNat (sv b).toNat)))
  | .clz g d a => some (g, toS 1 1 d (wrapN (leadingZeros (sv a))))
  | .ctz g d a => some (g, toS 1 1 d (wrapN (lowestOne (sv a))))
  | .popc g d a => some (g, toS 1 1 d (wrapN (ones (sv a))))
  | .sext g d a n => some (g, toS 1 1 d (wrapI ((sv a).truncate (n.toNat + 1)).toInt))
  | .zext g d a n => some (g, toS 1 1 d (wrapN ((sv a).truncate (n.toNat + 1)).toNat))
  | .sel g d a b inv k => some (g, toS 1 1 d (if pv k = inv then sv b else sv a))
  | .mov g d a => some (g, toS 1 1 d (sv a))
  | .movi g d imm => some (g, toS 1 1 d (wrapI imm.toInt))
  | .ins16 g d imm j => some (g, toS 1 1 d (ins16N (sv d).toNat imm.toNat j.toNat))
  | .addi g d a imm => some (g, toS 1 1 d (wrapI ((sv a).toInt + imm.toInt)))
  | .andi g d a imm => some (g, toS 1 1 d (sv a &&& wrapI imm.toInt))
  | .ori g d a imm => some (g, toS 1 1 d (sv a ||| wrapI imm.toInt))
  | .xori g d a imm => some (g, toS 1 1 d (sv a ^^^ wrapI imm.toInt))
  | .shli g d a k => some (g, toS 1 1 d (shlN (sv a).toNat k.toNat))
  | .shri g d a k => some (g, toS 1 1 d (shrN (sv a).toNat k.toNat))
  | .srai g d a k => some (g, toS 1 1 d (sraN (sv a).toInt k.toNat))
  | _ => none

/-- Condition of 06 Table 6-3 on two integers. -/
def holds : Cond → Int → Int → Bool
  | .eq, a, b => a == b | .ne, a, b => a != b | .lt, a, b => decide (a < b) | .ge, a, b => !decide (a < b)
  | .le, a, b => !decide (b < a) | .gt, a, b => decide (b < a)
/-- A compare writes p2k and the inverse to p2k+1, or one steer condition (06 R142). -/
def toCmp (d : CmpDest) (c : Bool) : List (Nat × Nat × Write) :=
  match d with
  | .pair k => toP (2 * k.toNat) c ++ toP (2 * k.toNat + 1) (!c)
  | .steer n => [(1, 1, .stCond n.toNat c)]
/-- Guard and writes of the compares and predicate logic (06 R142, R143). -/
def predicateWrites (sv : BitVec 6 → Word) (pv : BitVec 5 → Bool) : Instr → Option (Guard × List (Nat × Nat × Write))
  | .cmp g d c a b => some (g, toCmp d (holds c (sv a).toNat (sv b).toNat))
  | .cmpi g d c a imm => some (g, toCmp d (holds c (sv a).toNat imm.toNat))
  | .scmp g d c a b => some (g, toCmp d (holds c (sv a).toInt (sv b).toInt))
  | .scmpi g d c a imm => some (g, toCmp d (holds c (sv a).toInt imm.toInt))
  | .pand g d a b na nb => some (g, toP d.toNat ((pv a ^^ na) && (pv b ^^ nb)))
  | .por g d a b na nb => some (g, toP d.toNat ((pv a ^^ na) || (pv b ^^ nb)))
  | .pxor g d a b na nb => some (g, toP d.toNat ((pv a ^^ na) ^^ (pv b ^^ nb)))
  | .pandn g d a b na nb => some (g, toP d.toNat ((pv a ^^ na) && !(pv b ^^ nb)))
  | _ => none

/-! ## Block table (04 R105, 06 R144, Table 6-4) -/

def num2 (m : Mem) (a : Nat) : Nat := (m.get a).toNat + 256 * (m.get (a + 1)).toNat
def num4 (m : Mem) (a : Nat) : Nat := num2 m a + 65536 * num2 m (a + 2)
/-- The key names list slot x: its directory entry is valid, layer and block lie within it, and x within the list area. -/
def keyNames (m : Mem) (key : Word) (x : Nat) : Prop :=
  let k := key.toNat
  let d := num4 m (4 * (k / 2 ^ 32 % 2 ^ 10))
  2 ^ 31 ≤ d ∧ k / 2 ^ 16 % 2 ^ 8 < d / 2 ^ 9 % 2 ^ 8 ∧ k % 2 ^ 9 < d % 2 ^ 9 ∧
  x = d / 2 ^ 17 % 2 ^ 14 + k / 2 ^ 16 % 2 ^ 8 * (d % 2 ^ 9) + k % 2 ^ 9 ∧ x < 14336
/-- Byte addresses of the reference word of a block id and of a list slot. -/
def refAt (id : Nat) : Nat := 0x1000 + 2 * id
def slotAt (x : Nat) : Nat := 0x9000 + 2 * x
/-- Result word of a block id: the id, first bank 0 or 16, the row (06 R144). -/
def blockWord (id : Nat) : Word := wrapN (id * 2 ^ 32 + id / 2 ^ 13 * 2 ^ 21 + id % 2 ^ 13 * 2 ^ 4)
/-- b' is b with list slot x and the reference word of id rewritten, every other byte the same, the operation counted, and
the bytes and fields that it overwrote kept in the journal of the phase (04 R106). -/
def blockStep (b b' : BlkSt) (phase x id slotVal refVal head free : Nat) : Prop :=
  num2 b'.mem (slotAt x) = slotVal ∧ num2 b'.mem (refAt id) = refVal ∧ b'.head = head ∧ b'.free = free ∧
  b'.ops = b.ops + 1 ∧ b'.mem.wf = true ∧
  (∀ a, a ≠ slotAt x → a ≠ slotAt x + 1 → a ≠ refAt id → a ≠ refAt id + 1 → b'.mem.get a = b.mem.get a) ∧
  ∃ e, b'.journal = e :: b.journal ∧ e.phase = phase ∧ e.head = b.head ∧ e.free = b.free ∧
    ∀ a, b'.mem.get a ≠ b.mem.get a → (a, b.mem.get a) ∈ e.old
/-- s with the block table of the issuing tile replaced. -/
def withBlk (s : State) (b : BlkSt) : State := s.modCt fun t => { t with blk := b }

/-! ## Loads and stores (08 R192 to R196, 05 R131) -/

/-- Effective address: the base scalar, plus 256 times the signed offset in the form without post-increment, modulo 2^64. -/
def lmAddr (s : State) (base : BitVec 5) (off : BitVec 12) (pi : Bool) : Nat :=
  (((s.sv (base.zeroExtend 6)).toNat + if pi then 0 else 256 * off.toInt : Int) % 2 ^ 64).toNat
/-- The post-increment: S + 256 * off to the base at issue + 1. -/
def lmInc (s : State) (base : BitVec 5) (off : BitVec 12) (pi : Bool) : List (Nat × Nat × Write) :=
  if pi then toS 6 1 (base.zeroExtend 6) (wrapI ((s.sv (base.zeroExtend 6)).toNat + 256 * off.toInt)) else []
/-- An access of n bytes that lies in the scratchpad and is aligned to n (08 R194). -/
def accessOk (ea n : Nat) : Prop := ea + n ≤ 2 ^ 21 ∧ ea % n = 0
/-- Physical line of a scratchpad address. -/
def lineOf (t : Tile) (a : Nat) : Nat := (if t.h then (a + 2 ^ 20) % 2 ^ 21 else a) / 256
/-- A line write of n bytes from address a: its mask selects them, and byte j of the value goes to byte j of them. -/
def lineBytes (m : Mask) (x : Vec) (a n : Nat) (f : Nat → Byte) : Prop :=
  (∀ k, k < 256 → (m.getLsbD k = true ↔ a % 256 ≤ k ∧ k < a % 256 + n)) ∧
  ∀ j, j < n → x.extractLsb' (8 * (a % 256 + j)) 8 = f j
/-- Guard, base, offset, form, opcode and bytes of an LM-format instruction (05 Table 5-6, 08 Table 8-1). -/
def lmShape : Instr → Option (Guard × BitVec 5 × BitVec 12 × Bool × Nat × Nat)
  | .ldV g _ b o p _ => some (g, b, o, p, 1, 256)
  | .stV g _ b o p _ => some (g, b, o, p, 2, 256)
  | .ldbV g _ b o p _ => some (g, b, o, p, 3, 4)
  | .ldS g _ b o p => some (g, b, o, p, 4, 8)
  | .stS g _ b o p => some (g, b, o, p, 5, 8)
  | .ldQ g _ b o p => some (g, b, o, p, 8, 32)
  | .stQ g _ b o p => some (g, b, o, p, 9, 32)
  | _ => none
/-- Address of lane i of a gather or scatter of wb-byte lanes (08 R195). -/
def gatherAt (base : Word) (vi : Vec) (wb i : Nat) : Nat := (base.toNat + (vi.extractLsb' (32 * i) 32).toNat * wb) % 2 ^ 64
/-- Every active lane's address lies in the scratchpad and is aligned: a lane is active where a bit of its bytes is set. -/
def gatherOk (base : Word) (vi : Vec) (q : Mask) (wb : Nat) : Prop :=
  ∀ i, i < 64 → (∃ j, wb * i ≤ j ∧ j < wb * i + wb ∧ q.getLsbD j = true) →
    gatherAt base vi wb i + wb ≤ 2 ^ 21 ∧ gatherAt base vi wb i % wb = 0
/-- The byte that a scatter leaves at byte p of the scratchpad's storage: that of the last enabled lane byte that reaches
it, in ascending order, else the old one. -/
def scattered (t : Tile) (base : Word) (vi vs : Vec) (q : Mask) (wb p : Nat) : Byte :=
  (List.range (64 * wb)).foldl (fun old j =>
    let a := gatherAt base vi wb (j / wb) + j % wb
    if q.getLsbD j = true ∧ (if t.h then (a + 2 ^ 20) % 2 ^ 21 else a) = p then vs.extractLsb' (8 * j) 8 else old) (t.sp.get p)
/-- The bytes of the scratchpad after some line writes have become visible, in order. -/
def afterLines (t : Tile) (ws : List (Nat × Nat × Write)) : Mem :=
  (ws.foldl (fun t x => t.apply ⟨0, ⟨0, 0, 0⟩, x.2.2⟩) t).sp
/-- A line write visible at issue + 1, of a scatter. -/
def isScatterLine (x : Nat × Nat × Write) : Bool :=
  x.1 == 1 && x.2.1 == 6 && match x.2.2 with | .line _ _ _ 2 => true | _ => false

/-! ## Pushes (08 R198 to R202, 01 R13, R15) -/

/-- Hops between two tiles, and the stack boundaries on the way. -/
def hopCount (a b : Nat) : Nat := (max (a / 24) (b / 24) - min (a / 24) (b / 24)) + (max (a % 24) (b % 24) - min (a % 24) (b % 24))
def boundaries (a b : Nat) : Nat := (if a / 192 = b / 192 then 0 else 1) + (if a % 24 / 12 = b % 24 / 12 then 0 else 1)
/-- s with one more push in flight, numbered next. -/
def sent (s : State) (p : Push) : State :=
  (s.modPkg fun k => { k with nextId := k.nextId + 1 }).modCoach s.cur.coach fun k => { k with pushes := k.pushes ++ [p] }
/-- What every push carries from its issue (08 R198). -/
def pushCarries (s : State) (d : Word) (x : Vec) (p : Push) : Prop :=
  p.id = s.pkg.nextId ∧ p.tile = s.cur.tile ∧ p.dst = d.toNat / 2 ^ 40 % 2 ^ 9 ∧ p.addr = d.toNat % 2 ^ 21 ∧ p.data = x ∧
  p.desc = d ∧ p.crc = pushCrc x d ∧ p.src = ⟨s.cur.src.addr, s.cur.src.issued, 6⟩
/-- Arrival of a push: within the package, or through its port with the pad of the link class. -/
def pushArrives (s : State) (d : Word) (p : Push) : Prop :=
  let dst := d.toNat / 2 ^ 40 % 2 ^ 9
  if d.toNat / 2 ^ 56 % 2 ^ 6 = s.cl.lrec.index then
    p.leaves = none ∧ p.arrival = s.frc + 3 + hopCount s.cur.tile dst + 24 * boundaries s.cur.tile dst
  else
    let n := d.toNat / 2 ^ 32 % 2 ^ 4
    let port := s.pkg.ports.getD n Port.reset
    let far := portTile (match port.peer with | some (_, q) => q | none => 0)
    ∃ i, p.leaves = some (n, i) ∧
      i = s.frc + 1 + hopCount s.cur.tile (portTile n) + 24 * boundaries s.cur.tile (portTile n) + (if port.long then 4096 else 1536) ∧
      p.arrival = i + 2 + hopCount far dst + 24 * boundaries far dst

/-! ## Vectors (07) -/

/-- Lane i of width w as bits, and as the number that its type reads. -/
def laneBits (x : Vec) (w i : Nat) : BitVec w := x.extractLsb' (w * i) w
def laneN (x : Vec) (w i : Nat) : Nat := (laneBits x w i).toNat
def laneI (ty : Ty) (x : Vec) (i : Nat) : Int :=
  if ty.signed then (laneBits x ty.width i).toInt else (laneN x ty.width i : Int)
/-- Range of an integer type. -/
def tyMin (ty : Ty) : Int := if ty.signed then -(2 ^ (ty.width - 1)) else 0
def tyMax (ty : Ty) : Int := if ty.signed then 2 ^ (ty.width - 1) - 1 else 2 ^ ty.width - 1
/-- Slot code of a vector slot. -/
def vsc : VSlot → Nat
  | .va => 2 | .vb => 3
/-- One bits and leading zero bits of a number of w bits. -/
def onesN (n w : Nat) : Nat := ((List.range w).filter fun k => n.testBit k).length
def leadN (n w : Nat) : Nat := if n = 0 then w else w - 1 - Nat.log2 n

def isFlags : Write → Bool
  | .flags _ _ => true | _ => false
/-- Destinations of a write: file and number. -/
def destOf : Write → Nat × Nat
  | .s r _ => (0, r) | .v r _ _ => (4, r) | .q r _ _ => (5, r) | .flags k _ => (9, k) | _ => (99, 0)
/-- The vector slots' operations: guard, slot code, latency, destinations, and whether flags may be raised (07 Table 7-1,
R166, R167). A write to s0 or q0 is discarded. -/
def vectorShape : Instr → Option (Guard × Nat × Nat × List (Nat × Nat) × Bool)
  | .vadd g u d _ _ _ _ _ | .vsub g u d _ _ _ _ _ | .vmin g u d _ _ _ _ _ | .vmax g u d _ _ _ _ _ | .vscale g u d _ _ _ _ _ =>
    some (g, vsc u, 3, [(4, d.toNat)], true)
  | .vmul g u d _ _ _ _ _ | .vfma g u d _ _ _ _ _ | .vfms g u d _ _ _ _ _ | .vfnma g u d _ _ _ _ _ =>
    some (g, vsc u, 5, [(4, d.toNat)], true)
  | .vtwosum g u d _ _ _ _ => some (g, vsc u, 4, [(4, d.toNat), (4, (d + 1).toNat)], true)
  | .vcmp g u d _ _ _ _ _ => some (g, vsc u, 3, if d = 0#4 then [] else [(5, d.toNat)], true)
  | .vcvt g u d _ _ _ _ m => some (g, vsc u, if m = .ef then 8 else 4, [(4, d.toNat)], true)
  | .vscan g d _ _ _ _ _ | .vred g d _ _ _ _ => some (g, 2, 8, [(4, d.toNat)], true)
  | .vrcp g d _ _ | .vrsq g d _ _ | .vexp2 g d _ _ | .vlog2 g d _ _ => some (g, 3, 16, [(4, d.toNat)], true)
  | .vsqrt g d _ _ | .vdiv g d _ _ _ => some (g, 3, 20, [(4, d.toNat)], true)
  | .vabs g u d _ _ _ | .vneg g u d _ _ _ | .vclass g u d _ _ _ | .vpopc g u d _ _ _ | .vclz g u d _ _ _
  | .viadd g u d _ _ _ _ | .visub g u d _ _ _ _ | .viaddw g u d _ _ _ _ _ | .vishl g u d _ _ _ _ | .vishr g u d _ _ _ _
  | .visra g u d _ _ _ _ | .vimin g u d _ _ _ _ | .vimax g u d _ _ _ _ | .viabs g u d _ _ _ _ | .viaddsat g u d _ _ _ _ _
  | .vand g u d _ _ _ | .vor g u d _ _ _ | .vxor g u d _ _ _ | .vnot g u d _ _ | .vmov g u d _ _ | .vsel g u d _ _ _ _
  | .vmovi g u d _ _ _ | .vbcast g u d _ _ _ | .vins g u d _ _ _ _ => some (g, vsc u, 2, [(4, d.toNat)], false)
  | .vimul g u d _ _ _ _ | .vimulh g u d _ _ _ _ => some (g, vsc u, 5, [(4, d.toNat)], false)
  | .vlsh g d _ _ _ _ _ | .vrev g d _ _ _ | .vzip g d _ _ _ _ _ | .vunzip g d _ _ _ _ _ => some (g, 2, 2, [(4, d.toNat)], false)
  | .vperm g d _ _ _ _ _ => some (g, 2, 4, [(4, d.toNat)], false)
  | .vicmp g u d _ _ _ _ _ | .vqand g u d _ _ | .vqor g u d _ _ | .vqxor g u d _ _ | .vqnot g u d _ =>
    some (g, vsc u, 2, if d = 0#4 then [] else [(5, d.toNat)], false)
  | .vext g u d _ _ _ _ | .vqcnt g u d _ => some (g, vsc u, 2, if d = 0#6 then [] else [(0, d.toNat)], false)
  | _ => none

/-- Sign and magnitude of an encoding. -/
def negCode (ty : Ty) (n : Nat) : Bool := decide (2 ^ (ty.width - 1) ≤ n)
def magCode (ty : Ty) (n : Nat) : Nat := n % 2 ^ (ty.width - 1)
/-- Bit of the class mask (07 R176). -/
def classBit (ty : Ty) (n : Nat) : Nat :=
  let m := magCode ty n
  let sides (x y : Nat) : Nat := if negCode ty n then x else y
  if m = Ty.infCode ty then sides 0 7
  else if Ty.infCode ty < m then (if m / 2 ^ (Ty.mbits ty - 1) % 2 = 0 then 8 else 9)
  else if m = 0 then sides 3 4 else if m < 2 ^ Ty.mbits ty then sides 2 5 else sides 1 6
/-- An operation whose lanes of width w are the numbers f i modulo 2^w: guard, slot code, latency, destination, predicate,
w and f (07 Table 7-6, R173, R181, R184, Table 7-8). -/
def laneResults (s : State) : Instr → Option (Guard × Nat × Nat × BitVec 6 × BitVec 4 × Nat × (Nat → Int))
  | .viadd g u d a b q ty => some (g, vsc u, 2, d, q, ty.width, fun i => laneI ty (s.vv a) i + laneI ty (s.vv b) i)
  | .visub g u d a b q ty => some (g, vsc u, 2, d, q, ty.width, fun i => laneI ty (s.vv a) i - laneI ty (s.vv b) i)
  | .vimul g u d a b q ty => some (g, vsc u, 5, d, q, ty.width, fun i => laneI ty (s.vv a) i * laneI ty (s.vv b) i)
  | .vimulh g u d a b q ty =>
    some (g, vsc u, 5, d, q, ty.width, fun i => laneI ty (s.vv a) i * laneI ty (s.vv b) i / 2 ^ ty.width)
  | .viaddw g u d a b q ty hi => some (g, vsc u, 2, d, q, 2 * ty.width, fun i =>
      (laneN (s.vv a) (2 * ty.width) i : Int) + laneI ty (s.vv b) (if hi then i + 2048 / (2 * ty.width) else i))
  | .vishl g u d a b q ty => some (g, vsc u, 2, d, q, ty.width, fun i =>
      if laneN (s.vv b) ty.width i < ty.width then (laneN (s.vv a) ty.width i * 2 ^ laneN (s.vv b) ty.width i : Nat) else 0)
  | .vishr g u d a b q ty => some (g, vsc u, 2, d, q, ty.width, fun i =>
      if laneN (s.vv b) ty.width i < ty.width then (laneN (s.vv a) ty.width i / 2 ^ laneN (s.vv b) ty.width i : Nat) else 0)
  | .visra g u d a b q ty => some (g, vsc u, 2, d, q, ty.width, fun i =>
      (laneBits (s.vv a) ty.width i).toInt / 2 ^ min (laneN (s.vv b) ty.width i) (ty.width - 1))
  | .vimin g u d a b q ty => some (g, vsc u, 2, d, q, ty.width, fun i => min (laneI ty (s.vv a) i) (laneI ty (s.vv b) i))
  | .vimax g u d a b q ty => some (g, vsc u, 2, d, q, ty.width, fun i => max (laneI ty (s.vv a) i) (laneI ty (s.vv b) i))
  | .viabs g u d a q ty sat => some (g, vsc u, 2, d, q, ty.width, fun i =>
      let x : Int := (laneBits (s.vv a) ty.width i).toInt.natAbs
      if sat then min x (2 ^ (ty.width - 1) - 1) else x)
  | .viaddsat g u d a b q ty sub => some (g, vsc u, 2, d, q, ty.width, fun i =>
      let x := if sub then laneI ty (s.vv a) i - laneI ty (s.vv b) i else laneI ty (s.vv a) i + laneI ty (s.vv b) i
      max (tyMin ty) (min (tyMax ty) x))
  | .vpopc g u d a q ty => some (g, vsc u, 2, d, q, ty.width, fun i => onesN (laneN (s.vv a) ty.width i) ty.width)
  | .vclz g u d a q ty => some (g, vsc u, 2, d, q, ty.width, fun i => leadN (laneN (s.vv a) ty.width i) ty.width)
  | .vabs g u d a q ty => some (g, vsc u, 2, d, q, ty.width, fun i => (laneN (s.vv a) ty.width i % 2 ^ (ty.width - 1) : Nat))
  | .vneg g u d a q ty =>
    some (g, vsc u, 2, d, q, ty.width, fun i => (laneN (s.vv a) ty.width i + 2 ^ (ty.width - 1) : Nat))
  | .vclass g u d a q ty => some (g, vsc u, 2, d, q, ty.width, fun i => 2 ^ classBit ty (laneN (s.vv a) ty.width i))
  | .vmovi g u d q imm t => some (g, vsc u, 2, d, q, if t then 8 else 32, fun _ => imm.toInt)
  | .vbcast g u d sn q c => some (g, vsc u, 2, d, q, 8 * 2 ^ c.toNat, fun _ => (s.sv sn).toNat)
  | .vlsh g d a sn q ty rot => some (g, 2, 2, d, q, ty.width, fun i =>
      let n : Int := (2048 / ty.width : Nat)
      let k := (i : Int) + (s.sv sn).toInt
      if rot then laneN (s.vv a) ty.width (k % n).toNat
      else if 0 ≤ k ∧ k < n then laneN (s.vv a) ty.width k.toNat else 0)
  | .vperm g d a b q ty z => some (g, 2, 4, d, q, ty.width, fun i =>
      let n := 2048 / ty.width
      let x := laneN (s.vv b) ty.width i
      if x < n then laneN (s.vv a) ty.width x else if z then 0 else laneN (s.vv a) ty.width (x % n))
  | .vrev g d a q ty => some (g, 2, 2, d, q, ty.width, fun i => laneN (s.vv a) ty.width (2048 / ty.width - 1 - i))
  | .vzip g d a b q ty hi => some (g, 2, 2, d, q, ty.width, fun i =>
      let h := if hi then 2048 / ty.width / 2 else 0
      if i % 2 = 0 then laneN (s.vv a) ty.width (h + i / 2) else laneN (s.vv b) ty.width (h + (i - 1) / 2))
  | .vunzip g d a b q ty odd => some (g, 2, 2, d, q, ty.width, fun i =>
      let k := 2 * i + if odd then 1 else 0
      if k < 2048 / ty.width then laneN (s.vv a) ty.width k else laneN (s.vv b) ty.width (k - 2048 / ty.width))
  | _ => none

/-- A NaN and a signalling NaN of the types of set F (03 R70, Table 3-2). -/
def isNaNCode (ty : Ty) (n : Nat) : Prop :=
  n / 2 ^ Ty.mbits ty % 2 ^ Ty.ebits ty = 2 ^ Ty.ebits ty - 1 ∧ n % 2 ^ Ty.mbits ty ≠ 0
def isSigCode (ty : Ty) (n : Nat) : Prop := isNaNCode ty n ∧ n / 2 ^ (Ty.mbits ty - 1) % 2 = 0
/-- Float operations on sources of one type, lane by lane (07 Table 7-4, R172, R190): guard, slot code, latency,
destination, predicate, type and the source registers. -/
def floatOp : Instr → Option (Guard × Nat × Nat × BitVec 6 × BitVec 4 × Ty × List (BitVec 6))
  | .vadd g u d a b q ty _ => some (g, vsc u, 3, d, q, ty, [a, b])
  | .vsub g u d a b q ty _ => some (g, vsc u, 3, d, q, ty, [a, b])
  | .vmul g u d a b q ty _ => some (g, vsc u, 5, d, q, ty, [a, b])
  | .vfma g u d a b q ty _ => some (g, vsc u, 5, d, q, ty, [a, b, d])
  | .vfms g u d a b q ty _ => some (g, vsc u, 5, d, q, ty, [a, b, d])
  | .vfnma g u d a b q ty _ => some (g, vsc u, 5, d, q, ty, [a, b, d])
  | .vmin g u d a b q ty false => some (g, vsc u, 3, d, q, ty, [a, b])
  | .vmax g u d a b q ty false => some (g, vsc u, 3, d, q, ty, [a, b])
  | .vrcp g d a q => some (g, 3, 16, d, q, .f32, [a])
  | .vrsq g d a q => some (g, 3, 16, d, q, .f32, [a])
  | .vexp2 g d a q => some (g, 3, 16, d, q, .f32, [a])
  | .vlog2 g d a q => some (g, 3, 16, d, q, .f32, [a])
  | .vsqrt g d a q => some (g, 3, 20, d, q, .f32, [a])
  | .vdiv g d a b q => some (g, 3, 20, d, q, .f32, [a, b])
  | _ => none
/-- A finite value of a type of set F in units of 2^-400, which is below the least unit of every one. -/
def units (v : Val) : Int :=
  match v with
  | .fin n m e => (if n then -1 else 1) * m * 2 ^ (e + 400).toNat
  | _ => 0
/-- The finite encodings a and b have an exact nonzero sum (or product), and c encodes it. -/
def exactly (ty : Ty) (product : Bool) (a b c : Nat) : Prop :=
  c < 2 ^ ty.width ∧ (valueOf ty a).isFin = true ∧ (valueOf ty b).isFin = true ∧ (valueOf ty c).isFin = true ∧
  units (valueOf ty c) ≠ 0 ∧
  (if product then units (valueOf ty a) * units (valueOf ty b) = units (valueOf ty c) * 2 ^ 400
    else units (valueOf ty a) + units (valueOf ty b) = units (valueOf ty c))

/-- Does a predicate enable lane n of width w, or a part of it (07 R165)? -/
def anyOn (q : Mask) (w n : Nat) : Bool := (List.range (w / 8)).any fun j => q.getLsbD (w / 8 * n + j)
/-- Sum of the first n lanes that a predicate enables, or holds partly. -/
def sumLanes (x : Vec) (q : Mask) (w : Nat) : Nat → Nat
  | 0 => 0
  | n + 1 => sumLanes x q w n + if anyOn q w n then laneN x w n else 0
/-- Union of the flags of the first n numbers, and of the first n lanes that a predicate enables, or holds partly. -/
def allFlags (fs : Nat → BitVec 6) : Nat → BitVec 6
  | 0 => 0#6
  | n + 1 => allFlags fs n ||| fs n
def laneFlags (q : Mask) (w : Nat) (fs : Nat → BitVec 6) : Nat → BitVec 6 := allFlags fun n => if anyOn q w n then fs n else 0#6

/-! ## Rounding (03 R69 to R85, Tables 3-2, 3-6, 3-7). A finite value is an integer in units of 2^-800. -/

/-- An exact value: a NaN that raises invalid or not, an infinity, a zero with its sign, or a nonzero number. -/
inductive Exact where
  | nan (invalid : Bool)
  | inf (neg : Bool)
  | zero (neg : Bool)
  | num (x : Int)

/-- Value of a magnitude code in units of its type's least subnormal, the exponent taken as unbounded. -/
def codeVal (ty : Ty) (k : Nat) : Nat :=
  if k < 2 ^ Ty.mbits ty then k else (2 ^ Ty.mbits ty + k % 2 ^ Ty.mbits ty) * 2 ^ (k / 2 ^ Ty.mbits ty - 1)
/-- The least subnormal is 2^(n - 800). -/
def leastAt : Ty → Nat
  | .f32 => 651 | .bf16 => 667 | .f16 => 776 | .e4m3 => 791 | .e5m2 => 784 | _ => 800
/-- Value of a P2S8 byte in units of 2^-6. -/
def p2Half (n : Nat) : Int := (if n / 8 = 1 then -1 else 1) * if n % 8 = 7 then 0 else 2 ^ (6 - n % 8)
def p2Num (b : Nat) : Int := p2Half (b / 16 % 16) + p2Half (b % 16)
def signed (neg : Bool) (x : Nat) : Int := if neg then -x else x
def exactI (x : Int) : Exact := if x = 0 then .zero false else .num x
/-- Value of an encoding of any type. -/
def exactOf (ty : Ty) (n : Nat) : Exact :=
  if ty = .p2s8 then exactI (p2Num n * 2 ^ 794)
  else if Ty.isFloat ty then
    if magCode ty n = 0 then .zero (negCode ty n)
    else if magCode ty n ≤ Ty.maxFin ty then .num (signed (negCode ty n) (codeVal ty (magCode ty n) * 2 ^ leastAt ty))
    else if ty ≠ .e4m3 ∧ n % 2 ^ Ty.mbits ty = 0 then .inf (negCode ty n)
    else .nan (ty ≠ .e4m3 ∧ n / 2 ^ (Ty.mbits ty - 1) % 2 = 0)
  else exactI (if ty.signed then (BitVec.ofNat ty.width n).toInt else n) |> fun x => match x with
    | .num k => .num (k * 2 ^ 800)
    | y => y

/-- Lo or Hi of the rungs of a destination, for a nonzero magnitude: the k-th rung is the largest at or below it, m the one
chosen; `order t` compares t in units of 2^-809 with the magnitude, `tieLow` tells that a tie goes to the lower rung. -/
def Chosen (rung : Nat → Nat) (tieLow : Nat → Bool) (mode : RMode) (thr : Nat) (order : Nat → Ordering) (k m : Nat) : Prop :=
  order (512 * rung k) ≠ .gt ∧ order (512 * rung (k + 1)) = .gt ∧
  m = if order (512 * rung k) = .eq then k else match mode with
    | .rtz => k
    | .dith => if order (512 * rung k + 2 * (256 - thr) * (rung (k + 1) - rung k)) = .gt then k else k + 1
    | _ => match order (256 * (rung k + rung (k + 1))) with
      | .gt => k
      | .lt => k + 1
      | .eq => if tieLow k then k else k + 1
/-- A nonzero magnitude rounds to a floating-point code c and flags f. -/
def FloatRounds (ty : Ty) (mode : RMode) (thr : Nat) (neg : Bool) (order : Nat → Ordering) (c : Nat) (f : BitVec 6) : Prop :=
  ∃ k m, Chosen (fun k => codeVal ty k * 2 ^ leastAt ty) (fun k => k % 2 == 0) mode thr order k m ∧
    c = (if neg then 2 ^ (ty.width - 1) else 0) +
      (if m ≤ Ty.maxFin ty then m else if ty ≠ .e4m3 ∧ (mode = .rne ∨ mode = .ef) then Ty.infCode ty else Ty.maxFin ty) ∧
    f = if Ty.maxFin ty < m then 0x14#6 else if order (512 * (codeVal ty k * 2 ^ leastAt ty)) = .eq then 0#6
      else if m < 2 ^ Ty.mbits ty then 0x18#6 else 0x10#6
/-- It rounds to an integer of a type, saturated to the type's limits. -/
def IntRounds (ty : Ty) (mode : RMode) (thr : Nat) (neg : Bool) (order : Nat → Ordering) (c : Nat) (f : BitVec 6) : Prop :=
  ∃ k m, Chosen (fun k => k * 2 ^ 800) (fun k => k % 2 == 0) mode thr order k m ∧
    (c : Int) = max (tyMin ty) (min (tyMax ty) (signed neg m)) % 2 ^ ty.width ∧
    f = if signed neg m < tyMin ty ∨ tyMax ty < signed neg m then 0x01#6
      else if order (512 * (k * 2 ^ 800)) = .eq then 0#6 else 0x10#6
/-- Canonical byte of a P2S8 value: 0x77 for zero, else the least of its bytes whose first sign is its own. -/
def p2Byte (v : Int) : Nat :=
  if v = 0 then 0x77 else ((List.range 256).find? fun b => p2Num b == v && (decide (128 ≤ b) == decide (v < 0))).getD 0
/-- Nonzero terms of a byte; the magnitudes in rising order, above the last one a rung that nothing reaches. -/
def p2Count (b : Nat) : Nat := (if b / 16 % 8 = 7 then 0 else 1) + if b % 8 = 7 then 0 else 1
def p2Rung (k : Nat) : Nat :=
  let mags : List Nat := (List.range 129).filter fun n => (List.range 256).any fun b => p2Num b == (n : Int)
  mags.getD k (2 ^ 800) * 2 ^ 794
/-- It rounds to a P2S8 byte: above 2 it overflows in every mode. -/
def P2Rounds (mode : RMode) (thr : Nat) (neg : Bool) (order : Nat → Ordering) (c : Nat) (f : BitVec 6) : Prop :=
  let byte (k : Nat) : Nat := p2Byte (signed neg (p2Rung k / 2 ^ 794))
  if order (512 * 2 ^ 801) = .lt then c = p2Byte (signed neg 128) ∧ f = 0x14#6
  else ∃ k m, Chosen p2Rung (fun k => decide (p2Count (byte k) ≤ p2Count (byte (k + 1)))) mode thr order k m ∧ c = byte m ∧
    f = if order (512 * p2Rung k) = .eq then 0#6 else if m = 0 then 0x18#6 else 0x10#6
/-- RoundTo of an exact value: encoding and flags. -/
def Rounds (ty : Ty) (mode : RMode) (thr : Nat) (x : Exact) (c : Nat) (f : BitVec 6) : Prop :=
  let top (neg : Bool) : Nat := if neg then 2 ^ (ty.width - 1) else 0
  let order (y : Int) (t : Nat) : Ordering := compare t (512 * y.natAbs)
  if ty = .p2s8 then match x with
    | .nan _ => c = 0x77 ∧ f = 0x01#6
    | .inf n => c = p2Byte (signed n 128) ∧ f = if mode = .sat then 0x14#6 else 0x01#6
    | .zero _ => c = 0x77 ∧ f = 0#6
    | .num y => P2Rounds mode thr (decide (y < 0)) (order y) c f
  else if Ty.isFloat ty then match x with
    | .nan i => c = Ty.canonNaN ty ∧ f = if i then 0x01#6 else 0#6
    | .inf n => if mode = .sat then c = top n + Ty.maxFin ty ∧ f = 0x14#6
      else if ty = .e4m3 then c = 0x7F ∧ f = 0x01#6 else c = top n + Ty.infCode ty ∧ f = 0#6
    | .zero n => c = top n ∧ f = 0#6
    | .num y => FloatRounds ty mode thr (decide (y < 0)) (order y) c f
  else match x with
    | .nan _ => c = 0 ∧ f = 0x01#6
    | .inf n => (c : Int) = (if n then tyMin ty else tyMax ty) % 2 ^ ty.width ∧ f = 0x01#6
    | .zero _ => c = 0 ∧ f = 0#6
    | .num y => IntRounds ty mode thr (decide (y < 0)) (order y) c f

/-- Sum, negation, product and scaling by 2^k of exact values, with the zero signs and NaNs of 07 R171. -/
def sumX : Exact → Exact → Exact
  | .nan i, .nan j => .nan (i || j)
  | .nan i, _ | _, .nan i => .nan i
  | .inf n, .inf m => if n = m then .inf n else .nan true
  | .inf n, _ | _, .inf n => .inf n
  | .zero n, .zero m => .zero (n && m)
  | .zero _, .num y | .num y, .zero _ => .num y
  | .num x, .num y => exactI (x + y)
def negX : Exact → Exact
  | .nan i => .nan i | .inf n => .inf (!n) | .zero n => .zero (!n) | .num x => .num (-x)
def negOf : Exact → Bool
  | .nan _ => false | .inf n => n | .zero n => n | .num x => decide (x < 0)
def mulX (x y : Exact) : Exact :=
  match x, y with
  | .nan i, .nan j => .nan (i || j)
  | .nan i, _ | _, .nan i => .nan i
  | .inf _, .zero _ | .zero _, .inf _ => .nan true
  | .inf _, _ | _, .inf _ => .inf (negOf x != negOf y)
  | .zero _, _ | _, .zero _ => .zero (negOf x != negOf y)
  | .num x, .num y => .num (x * y / 2 ^ 800)
def scaleX (k : Int) : Exact → Exact
  | .num x => .num (if 0 ≤ k then x * 2 ^ k.toNat else x / 2 ^ (-k).toNat)
  | x => x
/-- The arithmetic group, `vscale` and the sum of `vtwosum`: guard, slot code, latency, destination, predicate, type, toward
zero, and the exact value of a lane (07 Table 7-4, R171, R174, R177). -/
def arithOf (s : State) : Instr → Option (Guard × Nat × Nat × BitVec 6 × BitVec 4 × Ty × Bool × (Nat → Exact))
  | .vadd g u d a b q ty rz => some (g, vsc u, 3, d, q, ty, rz, fun k => sumX (lx ty a k) (lx ty b k))
  | .vsub g u d a b q ty rz => some (g, vsc u, 3, d, q, ty, rz, fun k => sumX (lx ty a k) (negX (lx ty b k)))
  | .vmul g u d a b q ty rz => some (g, vsc u, 5, d, q, ty, rz, fun k => mulX (lx ty a k) (lx ty b k))
  | .vfma g u d a b q ty rz => some (g, vsc u, 5, d, q, ty, rz, fun k => sumX (lx ty d k) (mulX (lx ty a k) (lx ty b k)))
  | .vfms g u d a b q ty rz => some (g, vsc u, 5, d, q, ty, rz, fun k => sumX (lx ty d k) (negX (mulX (lx ty a k) (lx ty b k))))
  | .vfnma g u d a b q ty rz => some (g, vsc u, 5, d, q, ty, rz, fun k => negX (sumX (lx ty d k) (mulX (lx ty a k) (lx ty b k))))
  | .vscale g u d a b q ty inv => some (g, vsc u, 3, d, q, ty, false, fun k =>
      let e := laneN (s.vv b) 8 (k / 32)
      if e = 255 then .nan true else scaleX (if inv then 127 - (e : Int) else (e : Int) - 127) (lx ty a k))
  | _ => none
where
  /-- Lane k of a source, exactly. -/
  lx (ty : Ty) (r : BitVec 6) (k : Nat) : Exact := exactOf ty (laneN (s.vv r) ty.width k)

/-- Word k of an accumulator as FP32, and as `mst` reads it (09 R227). -/
def wordX (x : Acc) (k : Nat) : Exact := exactOf .f32 (x.getD k 0#32).toNat
def readX (i32 : Bool) (x : Acc) (k : Nat) : Exact := if i32 then exactI ((x.getD k 0#32).toInt * 2 ^ 800) else wordX x k
/-- A value times 2^k, for any k, rounded to FP32 (09 R228): the magnitudes are compared with neither one divided. -/
def ScaleRounds (k : Int) (e : Exact) (c : Nat) (f : BitVec 6) : Prop :=
  match e with
  | .num x => FloatRounds .f32 .rne 0 (decide (x < 0))
      (fun t => if 0 ≤ k then compare t (512 * x.natAbs * 2 ^ k.toNat) else compare (t * 2 ^ (-k).toNat) (512 * x.natAbs)) c f
  | y => Rounds .f32 .rne 0 y c f
/-- Carding threshold (03 R85). -/
def cardAt (y x : Nat) : Nat :=
  (List.range 4).foldl (fun n k => n + (2 * ((x / 2 ^ k % 2 + y / 2 ^ k % 2) % 2) + y / 2 ^ k % 2) * 4 ^ (3 - k)) 0
/-- The finite number of an exact value; 0 for what is none. -/
def numOf : Exact → Int
  | .num x => x
  | _ => 0
/-- Error feedback over lanes (03 R84): y is x with the residual of the lanes before it in its block of 32. -/
def Feeds (ty : Ty) (n : Nat) (en : Nat → Bool) (x : Nat → Exact) (c : Nat → Nat) (f : Nat → BitVec 6) : Prop :=
  ∃ res : Nat → Int, ∀ k, k < n → (k % 32 = 0 → res k = 0) ∧
    let y := if res k = 0 then x k else sumX (x k) (.num (res k))
    (en k = true → Rounds ty .ef 0 y (c k) (f k)) ∧
    ((k + 1) % 32 ≠ 0 → res (k + 1) = if en k = false then res k
      else if (f k).getLsbD 2 || (f k).getLsbD 0 then 0 else numOf y - numOf (exactOf ty (c k)))

/-- Error of a rounded sum e (07 R174): y encodes what the code c leaves of it, +0 where nothing is left or c is an infinity. -/
def ErrorOf (ty : Ty) (e : Exact) (c y : Nat) : Prop :=
  match exactOf ty c with
  | .nan _ => y = Ty.canonNaN ty
  | .inf _ => y = 0
  | r => if numOf e = numOf r then y = 0 else ∃ f, Rounds ty .rne 0 (.num (numOf e - numOf r)) y f

/-- Order of encodings, -0 below +0; and as the comparisons take them, the zeros equal. -/
def codeRank (ty : Ty) (n : Nat) : Int := if negCode ty n then -(magCode ty n : Int) - 1 else magCode ty n
def codeOrder (ty : Ty) (n : Nat) : Int := signed (negCode ty n) (magCode ty n)
/-- minimum or maximum, and their number forms (07 R172). -/
def Extreme (ty : Ty) (isMax num : Bool) (a b c : Nat) (f : BitVec 6) : Prop :=
  (isNaNCode ty a ∧ isNaNCode ty b → c = Ty.canonNaN ty) ∧
  (isNaNCode ty a → ¬ isNaNCode ty b → c = if num then b else Ty.canonNaN ty) ∧
  (¬ isNaNCode ty a → isNaNCode ty b → c = if num then a else Ty.canonNaN ty) ∧
  (¬ isNaNCode ty a → ¬ isNaNCode ty b → c = if (codeRank ty a ≤ codeRank ty b) = (isMax = true) then b else a) ∧
  (isSigCode ty a ∨ isSigCode ty b → f = 0x01#6) ∧ (¬ isSigCode ty a → ¬ isSigCode ty b → f = 0#6)
/-- Float conditions on encodings that are no NaN; `ne` and `un` hold of a NaN (07 Table 7-5). -/
def fholds (ty : Ty) : FCond → Nat → Nat → Bool
  | .eq, a, b => codeOrder ty a == codeOrder ty b | .ne, a, b => codeOrder ty a != codeOrder ty b
  | .lt, a, b => decide (codeOrder ty a < codeOrder ty b) | .ge, a, b => decide (codeOrder ty b ≤ codeOrder ty a)
  | .le, a, b => decide (codeOrder ty a ≤ codeOrder ty b) | .gt, a, b => decide (codeOrder ty b < codeOrder ty a)
  | .un, _, _ => false
/-- Result and flags of a float comparison (07 Table 7-5). -/
def Compares (ty : Ty) (c : FCond) (a b : Nat) (r : Bool) (f : BitVec 6) : Prop :=
  (¬ isNaNCode ty a → ¬ isNaNCode ty b → r = fholds ty c a b ∧ f = 0#6) ∧
  (isNaNCode ty a ∨ isNaNCode ty b → (r = true ↔ c = .ne ∨ c = .un) ∧
    (isSigCode ty a ∨ isSigCode ty b ∨ c = .lt ∨ c = .ge ∨ c = .le ∨ c = .gt → f = 0x01#6) ∧
    (¬ isSigCode ty a → ¬ isSigCode ty b → c = .eq ∨ c = .ne ∨ c = .un → f = 0#6))

/-- One combining step, and the identity (07 R186). -/
def Combines (ty : Ty) (op : COp) (a b c : Nat) (f : BitVec 6) : Prop :=
  if ty.isF then match op with
    | .add => Rounds ty .rne 0 (sumX (exactOf ty a) (exactOf ty b)) c f
    | .max => Extreme ty true false a b c f
    | .min => Extreme ty false false a b c f
    | .amax => Extreme ty true false (magCode ty a) (magCode ty b) c f
  else
    let x (n : Nat) : Int := if ty.signed then (BitVec.ofNat ty.width n).toInt else n
    f = 0#6 ∧ match op with
    | .add => c = (a + b) % 2 ^ ty.width
    | .min => c = if x a ≤ x b then a else b
    | _ => c = if x a ≤ x b then b else a
def identity (ty : Ty) : COp → Nat
  | .add => if ty.isF then 2 ^ (ty.width - 1) else 0
  | .max => if ty.isF then 2 ^ (ty.width - 1) + Ty.infCode ty else if ty.signed then 2 ^ (ty.width - 1) else 0
  | .min => if ty.isF then Ty.infCode ty else if ty.signed then 2 ^ (ty.width - 1) - 1 else 2 ^ ty.width - 1
  | .amax => 0
/-- n halving steps from the numbers x 0 to x (2^n - 1), and n scanning steps over L numbers from distance d: the result and
the flags (07 R187, R188). -/
def Reduces (ty : Ty) (op : COp) : Nat → (Nat → Nat) → Nat → BitVec 6 → Prop
  | 0, x, r, fl => r = x 0 ∧ fl = 0#6
  | n + 1, x, r, fl => ∃ y f fl', (∀ i, i < 2 ^ n → Combines ty op (x i) (x (i + 2 ^ n)) (y i) (f i)) ∧
      Reduces ty op n y r fl' ∧ fl = allFlags f (2 ^ n) ||| fl'
def Scans (ty : Ty) (op : COp) (l : Nat) : Nat → Nat → (Nat → Nat) → (Nat → Nat) → BitVec 6 → Prop
  | 0, _, x, r, fl => (∀ i, i < l → r i = x i) ∧ fl = 0#6
  | n + 1, d, x, r, fl => ∃ y f fl', (∀ i, i < l → if i < d then y i = x i ∧ f i = 0#6 else Combines ty op (x (i - d)) (x i) (y i) (f i)) ∧
      Scans ty op l n (2 * d) y r fl' ∧ fl = allFlags f l ||| fl'
/-- Input of a lane: its value, or the identity where a predicate disables it. -/
def inputAt (ty : Ty) (op : COp) (x : Vec) (q : Mask) (i : Nat) : Nat := if anyOn q ty.width i then laneN x ty.width i else identity ty op

/-! ## Special functions (07 R190, Table 7-9) -/

/-- `order` compares each t with a real number; and a real number keeps off every point halfway between two FP32 rungs, by more
than 2^-80 of itself (both in units of 2^-809). -/
def RealOrder (v : ℝ) (order : Nat → Ordering) : Prop := ∀ t : Nat, (order t = .lt ↔ (t : ℝ) < v) ∧ (order t = .gt ↔ v < t)
def OffHalves (v : ℝ) : Prop :=
  ∀ k : Nat, v / 2 ^ 80 ≤ |((256 * (codeVal .f32 k + codeVal .f32 (k + 1)) * 2 ^ 651 : Nat) : ℝ) - v|
/-- The result of a special function on lanes a and b: the exact value rounded once, or a special case. Squares and products
compare the algebraic ones; the values of `vexp2` and `vlog2` are real numbers, taken to keep off the halfway points
(notes/assumptions/6.md). Its flags join DZ, IV and those of the rounding. -/
def Special : Instr → Nat → Nat → Nat → BitVec 6 → Prop
  | .vrcp .., a, _, c, f => match exactOf .f32 a with
    | .nan i => Rounds .f32 .rne 0 (.nan i) c f
    | .inf n => Rounds .f32 .rne 0 (.zero n) c f
    | .zero n => c = sign n + 0x7F800000 ∧ f = 0x02#6
    | .num x => FloatRounds .f32 .rne 0 (decide (x < 0)) (fun t => compare (t * x.natAbs) (2 ^ 1609)) c f
  | .vrsq .., a, _, c, f => match exactOf .f32 a with
    | .nan i => Rounds .f32 .rne 0 (.nan i) c f
    | .inf n => if n then Rounds .f32 .rne 0 (.nan true) c f else Rounds .f32 .rne 0 (.zero false) c f
    | .zero n => c = sign n + 0x7F800000 ∧ f = 0x02#6
    | .num x => if x < 0 then Rounds .f32 .rne 0 (.nan true) c f
      else FloatRounds .f32 .rne 0 false (fun t => compare (t * t * x.natAbs) (2 ^ 2418)) c f
  | .vsqrt .., a, _, c, f => match exactOf .f32 a with
    | .inf true => Rounds .f32 .rne 0 (.nan true) c f
    | .num x => if x < 0 then Rounds .f32 .rne 0 (.nan true) c f
      else FloatRounds .f32 .rne 0 false (fun t => compare (t * t) (x.natAbs * 2 ^ 818)) c f
    | y => Rounds .f32 .rne 0 y c f
  | .vdiv .., a, b, c, f =>
    let n := negOf (exactOf .f32 a) != negOf (exactOf .f32 b)
    match exactOf .f32 a, exactOf .f32 b with
    | .nan i, .nan j => Rounds .f32 .rne 0 (.nan (i || j)) c f
    | .nan i, _ | _, .nan i => Rounds .f32 .rne 0 (.nan i) c f
    | .inf _, .inf _ | .zero _, .zero _ => Rounds .f32 .rne 0 (.nan true) c f
    | .inf _, _ => Rounds .f32 .rne 0 (.inf n) c f
    | _, .inf _ | .zero _, _ => Rounds .f32 .rne 0 (.zero n) c f
    | .num _, .zero _ => c = sign n + 0x7F800000 ∧ f = 0x02#6
    | .num x, .num y => FloatRounds .f32 .rne 0 n (fun t => compare (t * y.natAbs) (x.natAbs * 2 ^ 809)) c f
  | .vexp2 .., a, _, c, f => match exactOf .f32 a with
    | .nan i => Rounds .f32 .rne 0 (.nan i) c f
    | .inf n => Rounds .f32 .rne 0 (if n then .zero false else .inf false) c f
    | .zero _ => c = 0x3F800000 ∧ f = 0#6
    | .num x => (128 * 2 ^ 800 ≤ x → c = 0x7F800000 ∧ f = 0x14#6) ∧
      (∀ k : Int, x = k * 2 ^ 800 → -149 ≤ k → k < 128 → exactOf .f32 c = .num (2 ^ (800 + k).toNat) ∧ f = 0#6) ∧
      (x = -150 * 2 ^ 800 → c = 0 ∧ f = 0x18#6) ∧
      (x < 128 * 2 ^ 800 → OffHalves (2 ^ 809 * (2 : ℝ) ^ ((x : ℝ) / 2 ^ 800)) → ∃ order,
        RealOrder (2 ^ 809 * (2 : ℝ) ^ ((x : ℝ) / 2 ^ 800)) order ∧ FloatRounds .f32 .rne 0 false order c f)
  | .vlog2 .., a, _, c, f => match exactOf .f32 a with
    | .nan i => Rounds .f32 .rne 0 (.nan i) c f
    | .inf n => Rounds .f32 .rne 0 (if n then .nan true else .inf false) c f
    | .zero _ => c = 0xFF800000 ∧ f = 0x02#6
    | .num x => (x < 0 → Rounds .f32 .rne 0 (.nan true) c f) ∧
      (∀ k : Nat, x = 2 ^ k → exactOf .f32 c = exactI (((k : Int) - 800) * 2 ^ 800) ∧ f = 0#6) ∧
      (0 < x → OffHalves (2 ^ 809 * |Real.logb 2 ((x : ℝ) / 2 ^ 800)|) → ∃ order,
        RealOrder (2 ^ 809 * |Real.logb 2 ((x : ℝ) / 2 ^ 800)|) order ∧
        FloatRounds .f32 .rne 0 (decide (x < 2 ^ 800)) order c f)
  | _, _, _, _, _ => False
where
  /-- Sign bit of a code. -/
  sign (n : Bool) : Nat := if n then 2 ^ 31 else 0

/-! ## Results become visible (02 R41, 18 R338) -/

/-- No unit of the tile is at work and no stored code has failed. -/
def idleUnits (t : Tile) : Prop := t.lcopy = none ∧ t.mtx.mldb = none ∧ t.mtx.mmuls = [] ∧ t.own.errs = []
/-- The tile after its results of frame cycle f have become visible, and the records of that cycle. -/
def landed (t : Tile) (f n : Nat) : Tile := (t.landing f n).1
def landedRecords (t : Tile) (f n : Nat) : List (Nat × Nat × Fail) := (t.landing f n).2
/-- k is the lowest flag of an event. -/
def lowestFlag (b : BitVec 6) (k : Nat) : Prop := k < 6 ∧ b.getLsbD k = true ∧ ∀ j, j < k → b.getLsbD j = false
/-- A first-event record names an event: the stream address of its bundle, its slot, its lowest flag (03 R89). -/
def Names (r : FirstEvent) (src : Src) (set : Nat) (b : BitVec 6) : Prop :=
  r.addr = BitVec.ofNat 17 src.addr ∧ r.slot.toNat = set ∧ lowestFlag b r.bit.toNat
/-- The first-event record as a system register (04 Table 4-5). -/
def ferWordOf (t : Tile) : Word :=
  match t.flags.fer with
  | none => 0#64
  | some r => wrapN (2 ^ 63 + r.addr.toNat * 2 ^ 10 + r.slot.toNat * 2 ^ 3 + r.bit.toNat)
/-- Every flag of a set, by the set's slot code. -/
def flagBits (t : Tile) (set : Nat) : BitVec 6 :=
  if set = 1 then t.flags.fls else if set = 2 then t.flags.flva else if set = 3 then t.flags.flvb else t.flags.flm

/-! ## Matrix engine (09) -/

/-- Sum of f 0 to f (n - 1). -/
def sumTo (f : Nat → Int) : Nat → Int
  | 0 => 0
  | n + 1 => sumTo f n + f n
/-- Element of a block of s8 bytes as an integer. -/
def s8At (blk : List Nat) (i : Nat) : Int := (BitVec.ofNat 8 (blk.getD i 0)).toInt
/-- The classical product of 32 x 32 blocks of integers, element (i, j), over all chunks (09 R208, R216). -/
def intProduct (cs : List Chunk) (i j : Nat) : Int :=
  match cs with
  | [] => 0
  | c :: r => sumTo (fun k => s8At c.a (32 * i + k) * s8At c.slot.blk (32 * k + j)) 32 + intProduct r i j
/-- A well-formed s8 chunk. -/
def s8Chunk (c : Chunk) : Prop :=
  c.slot.ty = .s8 ∧ c.a.length = 1024 ∧ c.slot.blk.length = 1024 ∧ (∀ x ∈ c.a, x < 256) ∧ ∀ x ∈ c.slot.blk, x < 256
/-- Elements of wb bytes from an address, as numbers. -/
def elemAt (t : Tile) (a wb : Nat) : Nat → Nat
  | 0 => 0
  | n + 1 => elemAt t a wb n + (spByteAt t (a + n)).toNat * 256 ^ n
/-- Fraction bits of a guard format and its least unit, in units of 2^-800; P2S8 and s8 pre-sums are exact (03 R77, Table 3-4). -/
def guardOf : Ty → Option (Nat × Nat)
  | .e4m3 => some (6, 780) | .e5m2 => some (5, 765) | .bf16 => some (10, 536) | .f16 => some (13, 757) | _ => none
/-- The multiple of u nearest to a, of two the even one. -/
def nearest (u a : Nat) : Nat :=
  u * (a / u + if u < 2 * (a % u) ∨ (u = 2 * (a % u) ∧ a / u % 2 = 1) then 1 else 0)
/-- A pre-sum in the guard format of a type. -/
def guardX (ty : Ty) (x : Exact) : Exact :=
  match guardOf ty, x with
  | some (mb, least), .num y => exactI (signed (decide (y < 0)) (nearest (2 ^ max (Nat.log2 y.natAbs - mb) least) y.natAbs))
  | _, x => x
/-- Element (i, k) of quadrant (r, c) of a block, and the terms P1 to P7 of A and Q1 to Q7 of B (09 Tables 9-1, 9-3, 9-4). -/
def quadX (ty : Ty) (blk : List Nat) (r c i k : Nat) : Exact := exactOf ty (blk.getD (32 * (i + 16 * r) + k + 16 * c) 0)
def termA (ty : Ty) (blk : List Nat) (m i k : Nat) : Exact :=
  let q (r c : Nat) : Exact := quadX ty blk r c i k
  if m = 1 then guardX ty (sumX (q 0 0) (q 1 1)) else if m = 2 then guardX ty (sumX (q 1 0) (q 1 1))
  else if m = 3 then q 0 0 else if m = 4 then q 1 1 else if m = 5 then guardX ty (sumX (q 0 0) (q 0 1))
  else if m = 6 then guardX ty (sumX (q 1 0) (negX (q 0 0))) else guardX ty (sumX (q 0 1) (negX (q 1 1)))
def termB (ty : Ty) (blk : List Nat) (m k j : Nat) : Exact :=
  let q (r c : Nat) : Exact := quadX ty blk r c k j
  if m = 1 then guardX ty (sumX (q 0 0) (q 1 1)) else if m = 2 then q 0 0
  else if m = 3 then guardX ty (sumX (q 0 1) (negX (q 1 1))) else if m = 4 then guardX ty (sumX (q 1 0) (negX (q 0 0)))
  else if m = 5 then q 1 1 else if m = 6 then guardX ty (sumX (q 0 0) (q 0 1)) else guardX ty (sumX (q 1 0) (q 1 1))
/-- Exact sum of f 0 to f (n - 1). -/
def sumXs (f : Nat → Exact) : Nat → Exact
  | 0 => .zero false
  | n + 1 => sumX (sumXs f n) (f n)
/-- The chunk value of element (i, j): a zero is +0, a NaN quiet (09 R214, R215). -/
def chunkX (op : MmulOp) (c : Chunk) (i j : Nat) : Exact :=
  let m (n : Nat) : Exact := sumXs (fun k => mulX (termA op.aty c.a n (i % 16) k) (termB c.slot.ty c.slot.blk n k (j % 16))) 16
  let v :=
    if op.classical then
      sumXs (fun k => mulX (exactOf op.aty (c.a.getD (32 * i + k) 0)) (exactOf c.slot.ty (c.slot.blk.getD (32 * k + j) 0))) 32
    else if i < 16 then (if j < 16 then sumX (sumX (m 1) (m 4)) (sumX (negX (m 5)) (m 7)) else sumX (m 3) (m 5))
    else if j < 16 then sumX (m 2) (m 4) else sumX (sumX (m 1) (negX (m 2))) (sumX (m 3) (m 6))
  match v with
  | .nan _ => .nan false
  | .zero _ => .zero false
  | x => x
/-- Non-finite, NaN and signalling elements of a block. -/
def anyInf (ty : Ty) (blk : List Nat) : Prop := ∃ x ∈ blk, match exactOf ty x with | .nan _ | .inf _ => True | _ => False
def anyNaN (ty : Ty) (blk : List Nat) : Prop := ∃ x ∈ blk, ∃ i, exactOf ty x = .nan i
def anySig (ty : Ty) (blk : List Nat) : Prop := ∃ x ∈ blk, exactOf ty x = .nan true
/-- One chunk takes the accumulator x to y with flags f: the rounded sums, RNF, and IV (09 R216, R218). -/
def ChunkAdds (op : MmulOp) (c : Chunk) (x y : Acc) (f : BitVec 6) : Prop :=
  let eb := if op.scB then c.slot.scale.toNat else 127
  ∃ (fs : Nat → BitVec 6) (rnf iv : Bool),
    (∀ k, k < 1024 → if c.ea = 255 ∨ eb = 255 then (y.getD k 0#32).toNat = 0x7FC00000 ∧ fs k = 0x01#6
      else Rounds .f32 .rne 0 (sumX (wordX x k) (scaleX ((c.ea : Int) + eb - 254) (chunkX op c (k / 32) (k % 32))))
        (y.getD k 0#32).toNat (fs k)) ∧
    (rnf = true ↔ op.classical = false ∧ (anyInf op.aty c.a ∨ anyInf c.slot.ty c.slot.blk)) ∧
    (iv = true ↔ anySig op.aty c.a ∨ anySig c.slot.ty c.slot.blk ∨
      (¬ anyNaN op.aty c.a ∧ ¬ anyNaN c.slot.ty c.slot.blk ∧ ∃ i j, i < 32 ∧ j < 32 ∧ ∃ b, chunkX op c i j = .nan b)) ∧
    f = allFlags fs 1024 ||| (if rnf then 0x20#6 else 0#6) ||| if iv then 0x01#6 else 0#6
/-- Chunks in order. -/
def ChunksAdd (op : MmulOp) : List Chunk → Acc → Acc → BitVec 6 → Prop
  | [], x, y, f => y = x ∧ f = 0#6
  | c :: r, x, y, f => ∃ z f1 f2, ChunkAdds op c x z f1 ∧ ChunksAdd op r z y f2 ∧ f = f1 ||| f2
/-- A chunk of a floating-point pair (09 Table 9-2), whole, its elements within their widths. -/
def floatChunk (op : MmulOp) (c : Chunk) : Prop :=
  ((op.aty = .e4m3 ∨ op.aty = .e5m2) ∧ (c.slot.ty = .e4m3 ∨ c.slot.ty = .e5m2 ∨ c.slot.ty = .p2s8) ∨
    (op.aty = .bf16 ∨ op.aty = .f16) ∧ c.slot.ty = op.aty) ∧
  c.a.length = 1024 ∧ c.slot.blk.length = 1024 ∧ (∀ x ∈ c.a, x < 2 ^ op.aty.width) ∧ ∀ x ∈ c.slot.blk, x < 2 ^ c.slot.ty.width
/-- One `mmul` runs on the tile and nothing else does. -/
def soleMmul (t : Tile) (op : MmulOp) : Prop :=
  t.lcopy = none ∧ t.mtx.mldb = none ∧ t.own.errs = [] ∧ t.pend = [] ∧ t.mtx.mmuls = [op] ∧ op.dead = false ∧ t.mtx.undo = none
/-- Cycle at which chunk k is read, and whether the next chunk is read in cycle f (09 R222). -/
def chunkCycle (op : MmulOp) (k : Nat) : Nat := op.c + (if op.classical then 8 * k / 7 else k) * op.b
def chunkDue (op : MmulOp) (f : Nat) : Prop :=
  0 < op.chunks.length ∧ op.chunks.length < op.n ∧ f = chunkCycle op op.chunks.length
/-- What chunk k reads of the scratchpad, under the H bit of the issue: its block, and its byte of the scale line. -/
def chunkRead (t : Tile) (op : MmulOp) (k : Nat) (c : Chunk) : Prop :=
  let e := op.aty.width / 8
  c.a.length = 1024 ∧
  (∀ i, i < 1024 → c.a.getD i 0 = elemAt { t with h := op.h } (op.base + k * (1024 * e) + i * e) e e) ∧
  c.ea = if op.scA then (spByteAt { t with h := op.h } (op.base + op.n * (1024 * e) + k)).toNat else 127
/-- s with an `mmul` more at work on the issuing tile. -/
def withMmul (s : State) (op : MmulOp) : State :=
  s.modCt fun t => { t with mtx := { t.mtx with mmuls := t.mtx.mmuls ++ [op] } }
/-- The type and scale fields of an `mmul`: the type of A, those admitted of B, cycles for each product, integer form, and whether each
operand has scales. -/
structure MmulForm where
  aty : Ty
  accept : List Ty
  b : Nat
  int : Bool
  scA : Bool
  scB : Bool
  deriving DecidableEq, Repr
/-- What an `mmul` starts as: read at c, its fields, its first chunk read with its scale byte, its occupancy and latency (09 R220, R222,
R223). -/
def mmulStarts (s : State) (op : MmulOp) (ad : BitVec 3) (x : BitVec 1) (sa : BitVec 6) (n : Nat) (c : Bool) (m : MmulForm) (occ : Nat) : Prop :=
  op.c = s.frc ∧ op.ad = ad.toNat ∧ op.g0 = 8 * x.toNat ∧ op.n = n ∧ op.classical = c ∧ op.base = (s.sv sa).toNat ∧
  op.h = s.ct.h ∧ op.aty = m.aty ∧ op.accept = m.accept ∧ op.b = m.b ∧ op.int = m.int ∧ op.scA = m.scA ∧ op.scB = m.scB ∧
  op.occ = occ ∧ op.lat = 12 + occ ∧ op.dead = false ∧ op.acc0 = none ∧ op.src = ⟨s.cur.src.addr, s.cur.src.issued, 4⟩ ∧
  ∃ ch, op.chunks = [ch] ∧ some ch.slot = s.ct.mtx.bs.getD (8 * x.toNat) none ∧ ch.a.length = 1024 ∧
    (∀ k, k < 1024 → ch.a.getD k 0 = elemAt s.ct ((s.sv sa).toNat + k * (m.aty.width / 8)) (m.aty.width / 8) (m.aty.width / 8)) ∧
    ch.ea = if m.scA then (spByteAt s.ct ((s.sv sa).toNat + n * (1024 * (m.aty.width / 8)))).toNat else 127
/-- No `mmul` uses the product cells; or one does until cycle e. -/
def cellsFree (s : State) : Prop := ∀ o ∈ s.ct.mtx.mmuls, s.frc < o.c ∨ o.c + o.occ ≤ s.frc
def cellsBusyTo (s : State) (e : Nat) : Prop :=
  (∃ o ∈ s.ct.mtx.mmuls, o.c ≤ s.frc ∧ s.frc < o.c + o.occ) ∧
  ∀ o ∈ s.ct.mtx.mmuls, o.c ≤ s.frc → s.frc < o.c + o.occ → o.c + o.occ = e
/-- The first slot holds a chunk of an accepted type. -/
def slotHolds (s : State) (x : BitVec 1) (accepted : List Ty) : Prop :=
  ∃ k, s.ct.mtx.bs.getD (8 * x.toNat) none = some k ∧ k.ty ∈ accepted
/-- Occupancy of n chunks at b cycles: seven products for eight classical ones under recombination (09 R220). -/
def occOf (c : Bool) (n b : Nat) : Nat := if c then (8 * n + 6) / 7 * b else n * b
/-- B types and cycles of a direct `mmul` (09 Tables 9-2 and 9-8). -/
def directPair (aty : Ty) (bsel : Bool) : List Ty × Nat :=
  if aty = .e4m3 ∨ aty = .e5m2 then (if bsel then ([.p2s8], 1) else ([.e4m3, .e5m2], 2))
  else if aty = .s8 then ([.s8], 2) else ([aty], 4)
/-- The extent of sA: aligned to a line and within the scratchpad. -/
def extentOk (s : State) (sa : BitVec 6) (len : Nat) : Prop := (s.sv sa).toNat % 256 = 0 ∧ (s.sv sa).toNat + len ≤ 2 ^ 21
/-- The lines ws hold the converted block of an accumulator, element n at byte n * w / 8, with flags fs (09 R227). -/
def BlockStored (s : State) (as : BitVec 3) (sa : BitVec 6) (i32 : Bool) (ty : Ty) (mode : RMode) (lat : Nat)
    (ws : List (Nat × Nat × Write)) (fs : Nat → BitVec 6) : Prop :=
  ∃ out : Nat → Nat, ws.length = ty.width / 2 ∧
    (∀ k, k < ws.length → ∃ x, ws[k]? = some (lat, 4, .line (lineOf s.ct ((s.sv sa).toNat + 256 * k)) (BitVec.allOnes 256) x 6) ∧
      ∀ l, l < 2048 / ty.width → laneN x ty.width l = out (2048 / ty.width * k + l)) ∧
    (mode ≠ .ef → ∀ i j, i < 32 → j < 32 → Rounds ty mode (if mode = .dith then cardAt (i % 16) (j % 16) else 0)
      (readX i32 (s.av as) (32 * i + j)) (out (32 * i + j)) (fs (32 * i + j))) ∧
    (mode = .ef → ∀ i, i < 32 → Feeds ty 32 (fun _ => true) (fun j => readX i32 (s.av as) (32 * i + j))
      (fun j => out (32 * i + j)) (fun j => fs (32 * i + j)))

/-! ## Transposer (08 R206, R207) -/

def txSize (x : Tx) : Nat := if x.b16 then 128 else 64
def txSlot (x : Tx) (second : Bool) : TxSlot := if second then x.s1 else x.s0
/-- s with the transposer of the issuing tile replaced; `fresh` names the rows, by slot, that are written anew: so are their codes
(19 R348). -/
def withTx (s : State) (x : Tx) (fresh : Nat → Nat → Bool) : State := s.modCt fun t => { t with
  tx := x
  own := { t.own with errs := t.own.errs.filter fun e => !(e.store == 2 && decide (8208 ≤ e.idx) && fresh (e.idx - 8208) (e.word / 32)) } }

/-! ## Vault commands (10 R230, R231, Table 10-2) -/

/-- d cycles have passed from an earlier command to f; a command never issued constrains nothing. -/
def elapsed (t : Option Nat) (d f : Nat) : Prop := ∀ x, t = some x → x + d ≤ f
/-- Bank b of the issuing tile, and its banks of the layer of b. -/
def bankOf (s : State) (b : Nat) : Bank := s.ct.vault.banks.getD b Bank.reset
def inLayer (s : State) (b k : Nat) : Prop := k < s.ct.vault.n ∧ s.ct.vault.layer k = s.ct.vault.layer b
/-- Bank b lies in a layer of which a mask names a bank (10 R244). -/
def namedLayer (s : State) (mask : BitVec 32) (b : Nat) : Prop := b < s.ct.vault.n ∧ ∃ k, mask.getLsbD k = true ∧ inLayer s b k
/-- No command window is open on the tile in this cycle, or one that names no bank of the layer of b. -/
def noWindow (s : State) (b : Nat) : Prop := s.ct.vault.inWindowLayer b s.frc = false
/-- tRRD from the other banks of the layer, and fewer than four activates or `refb` of the layer in the last 16 cycles. -/
def spaced (s : State) (b : Nat) : Prop :=
  (∀ k, inLayer s b k → k ≠ b → elapsed (bankOf s k).act 2 s.frc ∧ elapsed (bankOf s k).refb 2 s.frc) ∧
  (((List.range s.ct.vault.n).filter fun k => s.ct.vault.layer k == s.ct.vault.layer b && match (bankOf s k).act, (bankOf s k).refb with
    | some x, some y => decide (s.frc < max x y + 16)
    | some x, none => decide (s.frc < x + 16)
    | none, some y => decide (s.frc < y + 16)
    | none, none => false).length < 4)
/-- A bank may be activated, or refreshed: Closed, with the timing met. -/
def mayRefresh (s : State) (b : Nat) : Prop :=
  b < s.ct.vault.n ∧ (bankOf s b).st = .closed ∧ elapsed (bankOf s b).pre 12 s.frc ∧ elapsed (bankOf s b).refb 96 s.frc ∧
  spaced s b ∧ noWindow s b
def mayActivate (s : State) (b : Nat) : Prop := mayRefresh s b ∧ elapsed (bankOf s b).act 40 s.frc
/-- An open bank may be closed. -/
def mayClose (s : State) (b : Nat) : Prop :=
  (∃ r, (bankOf s b).st = .opened r) ∧ elapsed (bankOf s b).act 28 s.frc ∧ elapsed (bankOf s b).wr 14 s.frc ∧
  elapsed (bankOf s b).rd 4 s.frc ∧ noWindow s b
/-- s with bank b changed by an admitted row command. -/
def afterRow (s : State) (b : Nat) (f : Bank → Bank) : State :=
  s.modCt fun t => { t with vault := { t.vault with
    banks := t.vault.banks.setIfInBounds b (f (t.vault.banks.getD b Bank.reset)), drWall := some s.wall } }
/-- A column command to bank b, row r may issue: the row open, tRCD and tCCD_L met, no window (and, for a read, tWTR from
every write of the layer). -/
def mayColumn (s : State) (read : Bool) (b r : Nat) : Prop :=
  b < s.ct.vault.n ∧ (bankOf s b).st = .opened r ∧ elapsed (bankOf s b).act 12 s.frc ∧ elapsed (bankOf s b).rd 2 s.frc ∧
  elapsed (bankOf s b).wr 2 s.frc ∧ noWindow s b ∧ (read = true → ∀ k, inLayer s b k → elapsed (bankOf s k).wr 6 s.frc)
/-- The column commands: guard, register of the data or line, register of the vault address, whether the first is a line
address. -/
def columnCmd : Instr → Option (Guard × BitVec 6 × BitVec 6 × Bool)
  | .rd g r sv _ => some (g, r, sv, false)
  | .wr g r sv _ => some (g, r, sv, false)
  | .rds g r sv _ => some (g, r, sv, true)
  | .wrs g r sv _ => some (g, r, sv, true)
  | _ => none
/-- A stop window open in cycle f names the bank (10 R230). -/
def grantedAt (v : VaultSt) (b f : Nat) : Bool :=
  match v.window with
  | some w => decide (w.c < f ∧ f ≤ w.c + w.len) && w.mask.getLsbD b
  | none => false
def grantedBank (s : State) (b : Nat) : Bool := grantedAt s.ct.vault b s.frc
/-- Bank, row and column of a packed vault address (10 R234). -/
def vBank (x : Word) : Nat := x.toNat / 2 ^ 17 % 32
def vRow (x : Word) : Nat := x.toNat / 2 ^ 4 % 8192
def vCol (x : Word) : Nat := x.toNat % 16
/-- Byte address of a column in the vault's cells, through the bank map and the row translation. -/
def columnAt (s : State) (x : Word) : Nat := s.ct.vault.addr ⟨vBank x, vRow x, vCol x⟩
/-- s with the history of an admitted column command. -/
def afterColumn (s : State) (write : Bool) (b : Nat) : State :=
  s.modCt fun t => { t with vault := { t.vault with
    banks := t.vault.banks.setIfInBounds b (let k := t.vault.banks.getD b Bank.reset
      if write then { k with wr := some s.frc } else { k with rd := some s.frc })
    dcWall := some s.wall } }
/-- The write-back of the `.i` forms: the column field counts modulo 16, the line address by 256 (10 R240). -/
def colInc (s : State) (ai : Bool) (sv : BitVec 6) : List (Nat × Nat × Write) :=
  if ai then toS 9 1 sv (wrapN ((s.sv sv).toNat / 16 * 16 + ((s.sv sv).toNat % 16 + 1) % 16)) else []
def lineInc (s : State) (ai : Bool) (sl : BitVec 6) : List (Nat × Nat × Write) :=
  if ai then toS 9 1 sl (wrapN ((s.sv sl).toNat + 256)) else []
/-- t' is t with one column of 256 bytes written to the cells from address a, folded into the digest and counted. -/
def columnWritten (t t' : Tile) (a : Nat) (x : Vec) (v : VAddr) : Prop :=
  (∀ p, t'.vault.cells.get p = if a ≤ p ∧ p < a + 256 then x.extractLsb' (8 * (p - a)) 8 else t.vault.cells.get p) ∧
  t'.vault.cells.wf = true ∧ t'.digW = t.digW + 1 ∧ t'.digD = foldColumn t.digD v x ∧
  t' = { t with vault := { t.vault with cells := t'.vault.cells }, digD := t'.digD, digW := t'.digW, own := t'.own } ∧
  t'.own = { t.own with errs := t'.own.errs }
/-- The output range set in force admits a write to bank b, row r (10 R243). -/
def mayWrite (s : State) (b r : Nat) : Prop :=
  ∃ e ∈ getK [] s.ct.seq.outs s.ct.seq.os, e.getLsbD 31 = true ∧ e.getLsbD (32 + b) = true ∧
    e.toNat / 2 ^ 16 % 2 ^ 13 ≤ r ∧ r ≤ e.toNat % 2 ^ 13

/-! ## Control (06 R147 to R163) -/

/-- s with the sequencer of the issuing tile sent to an address, with some usable words there; the bundle's own advance is
replaced. -/
def wentTo (s : State) (a words : Nat) : State :=
  s.modCt fun t => { t with seq := { t.seq with pc := a, buf := words, need := 0, redirected := true } }
/-- The steer register st. -/
def steerOf (s : State) (st : BitVec 4) : Steer := s.ct.regs.st.getD st.toNat Steer.reset
/-- Words of a target buffer usable in this cycle: four at the end of each of the three cycles after its `prep` (05 R115). -/
def targetWords (s : State) (st : BitVec 4) : Nat :=
  match (steerOf s st).fillAt with
  | some c => if s.frc ≤ c then 0 else if s.frc = c + 1 then 4 else if s.frc = c + 2 then 8 else 12
  | none => 0
/-- The bundle stands in no running loop's body, or its target stands in the innermost one's too (06 R152). -/
def steerAllowed (s : State) (st : BitVec 4) : Prop :=
  ∀ i, s.ct.inLoop = some i → ((s.ct.regs.l.getD i LoopSt.reset).holds (steerOf s st).target.toNat) = true
/-- Loop counter l. -/
def loopOf (s : State) (l : BitVec 2) : LoopSt := s.ct.regs.l.getD l.toNat LoopSt.reset
/-- t with loop counter i written: its stored code is made anew (19 R348). -/
def loopSet (t : Tile) (i : Nat) (x : LoopSt) : Tile :=
  { t with
    regs := { t.regs with l := t.regs.l.setIfInBounds i x }
    own := { t.own with errs := t.own.errs.filter fun e => !(e.store == 1 && e.idx == 7 * 256 + i) } }
/-- s with loop counter l written. -/
def withLoop (s : State) (l : BitVec 2) (x : LoopSt) : State := s.modCt fun t => loopSet t l.toNat x
/-- Iterations that a `loop` names. -/
def loopCount (s : State) : LoopCount → Nat
  | .imm k => k.toNat + 1
  | .reg r => (s.sv r).toNat
/-- Address of the item after the bundle being issued. -/
def bodyStart (s : State) : Nat := s.ct.seq.pc + s.cur.words
/-- No running loop's body that holds the bundle ends before `stop`. -/
def bodyFits (s : State) (stop : Nat) : Prop :=
  ∀ i, s.ct.inLoop = some i → stop ≤ (s.ct.regs.l.getD i LoopSt.reset).start + (s.ct.regs.l.getD i LoopSt.reset).len
/-- s after the bundle has asked m of the launch, with the tile as it stood before the bundle kept (17 R332). -/
def askedFor (s : State) (m : Meet) : State :=
  (s.modCt fun x => { x with meet := m }).modLaunch s.cur.coach fun l =>
    { l with saves := l.saves ++ [(s.cur.tile, match s.cur.save with | some (x, _) => x | none => s.ct)] }
/-- The trigger count of a timeline on the issuing tile, one higher. -/
def counted (s : State) (tl : BitVec 3) : State :=
  s.modCt fun t => { t with trigs := t.trigs.setIfInBounds tl.toNat (t.trigs.getD tl.toNat 0 + 1) }
/-- Is the trigger a replayed issue of one already accepted (02 R53)? -/
def replayedTrigger (s : State) (tl : BitVec 3) : Prop := s.ct.trigs.getD tl.toNat 0 + 1 ≤ s.ct.marks.getD tl.toNat 0
/-- Has the tile fewer than 32 accepted, uncompleted operations (06 R159)? -/
def mayTrigger (s : State) : Prop :=
  ¬ 32 ≤ ((s.coach s.cur.coach).ops.filter fun o => o.tile == s.cur.tile).length
/-- Timeline tl of the coach, and s with its next number issued. -/
def lineOfCoach (s : State) (tl : BitVec 3) : Timeline := (s.coach s.cur.coach).tls.getD tl.toNat Timeline.reset
def withTimeline (s : State) (tl : BitVec 3) (x : Timeline) : State :=
  s.modCoach s.cur.coach fun k => { k with tls := k.tls.setIfInBounds tl.toNat x }
/-- s with an operation of the next number of tl accepted under the tile's owner tag (06 R159, 20 R364). -/
def accepted (s : State) (tl : BitVec 3) (kind : OpKind) (host : Word) (va len : Nat) (desc : Vec) : State :=
  (withTimeline (counted s tl) tl { lineOfCoach s tl with issued := (lineOfCoach s tl).issued + 1 }).modCoach s.cur.coach fun k =>
    { k with ops := k.ops ++ [⟨tl.toNat, (lineOfCoach s tl).issued + 1, s.cur.tile, kind, host, va, len, desc, s.ct.own.owner, [], [],
      s.wall, none⟩] }
/-- Operands that `acopy` takes (06 R157). -/
def copyOk (s : State) (h v n : Word) : Prop :=
  h.toNat % 256 = 0 ∧ v.toNat < 2 ^ 22 ∧ 1 ≤ n.toNat ∧ n.toNat ≤ 131072 ∧
  v.toNat / 16 % 8192 * 16 + v.toNat % 16 + n.toNat ≤ 131072 ∧ v.toNat / 2 ^ 17 % 32 < s.ct.vault.n
/-- The far operations of R158: guard, timeline, descriptor register, kind and C-slot opcode. -/
def farShape : Instr → Option (Guard × BitVec 3 × BitVec 6 × OpKind × Word)
  | .farxSend g tl sd => some (g, tl, sd, .send, 0x0F#64)
  | .farxRecv g tl sd => some (g, tl, sd, .recv, 0x0F#64)
  | .farmSum g tl sd => some (g, tl, sd, .sum, 0x10#64)
  | .farmGather g tl sd => some (g, tl, sd, .gather, 0x10#64)
  | .farmBcast g tl sd => some (g, tl, sd, .bcast, 0x10#64)
  | _ => none
/-- The tile as its bundle issued, which `rdsys` reads. -/
def issueTile (s : State) : Tile := match s.cur.save with | some (x, _) => x | none => s.ct
/-- A bit of a word at its place, as a number. -/
def bitAt (b : Bool) (k : Nat) : Nat := if b then 2 ^ k else 0
/-- TILEID and PHASE, the words of a loop counter, STEERn and BANKb, by the fields of 04 Tables 4-2 and 4-5. -/
def tileIdWord (s : State) : Word :=
  wrapN (bitAt (s.cl.lrec.type == 2) 31 + s.cl.variant % 8 * 2 ^ 28 + s.cur.coach * 2 ^ 24 + s.cl.lrec.index % 64 * 2 ^ 16 + s.cur.tile)
def phaseWord (s : State) : Word :=
  wrapN (bitAt (issueTile s).h 40 + Launch.replaysOf s.cl s.cl.phase % 4 * 2 ^ 32 + s.cl.phase % 2 ^ 32)
def counterWord (l : LoopSt) (k : Nat) : Word :=
  if k = 0 then wrapN (bitAt l.running 63 + l.period.toNat * 2 ^ 32 + l.j % 2 ^ 32)
  else if k = 1 then wrapN (l.n % 2 ^ 32 * 2 ^ 32 + l.len % 2 ^ 14 * 2 ^ 17 + l.start % 2 ^ 17)
  else if k = 2 then wrapN l.b0 else 0#64
def steerWord (r : Steer) : Word := wrapN (bitAt r.cond 17 + r.target.toNat)
def bankWordOf (v : VaultSt) (b f : Nat) : Word :=
  let k := v.banks.getD b Bank.reset
  let st := match k.st with | .closed => 0 | .opened r => 2 ^ 16 + r | .refreshing => 2 * 2 ^ 16
  let row := match k.st with | .opened r => r | _ => 0
  wrapN (k.ptr * 2 ^ 20 + if grantedAt v b f then 3 * 2 ^ 16 + row else st)
/-- Word o of a carry snapshot slot (04 Table 4-6). -/
def snapWordOf (n : Snap) (o : Nat) : Word :=
  if o = 0 then wrapN (bitAt n.valid 63 + bitAt n.settled 62 + n.phase % 2 ^ 32)
  else if o = 1 then wrapN n.frc
  else if o = 2 then wrapN n.sb
  else if o = 3 then wrapN (bitAt n.h 17 + n.addr % 2 ^ 17)
  else if o = 4 then n.ftmask.zeroExtend 64
  else if o < 0x10 then 0#64
  else if o < 0x20 then n.s.getD (o - 0x10) 0#64
  else if o < 0x30 then (n.ft.getD (o - 0x20) 0#32).zeroExtend 64
  else if o < 0x38 then n.acq.getD (o - 0x30) 0#64
  else if o < 0x40 then 0#64
  else if o < 0x50 then counterWord (n.l.getD ((o - 0x40) / 4) LoopSt.reset) (o % 4)
  else 0#64
/-- Indices that 04 Table 4-5 leaves out. -/
def absentIndex (i : Nat) : Prop :=
  (4 ≤ i ∧ i < 8) ∨ (0xD ≤ i ∧ i < 0x10) ∨ (0x2C ≤ i ∧ i < 0x30) ∨ (0x41 ≤ i ∧ i < 0x48) ∨ (0x92 ≤ i ∧ i < 0x100) ∨ 0x200 ≤ i

/-! ## The sequencer and the launch (05 R113 to R121, 17, 18) -/

/-- Running loop i has its body's end where the sequencer stands; and it is the innermost that has, by the body that starts
last (06 R150). -/
def endsHere (t : Tile) (i : Nat) : Prop :=
  i < 4 ∧ (t.regs.l.getD i LoopSt.reset).running = true ∧
  (t.regs.l.getD i LoopSt.reset).start + (t.regs.l.getD i LoopSt.reset).len = t.seq.pc
def endsFirst (t : Tile) (i : Nat) : Prop :=
  endsHere t i ∧ ∀ j, endsHere t j → j ≠ i → (t.regs.l.getD j LoopSt.reset).start < (t.regs.l.getD i LoopSt.reset).start ∨
    ((t.regs.l.getD j LoopSt.reset).start = (t.regs.l.getD i LoopSt.reset).start ∧ i < j)
/-- t with the sequencer at an address, with some words of the new path usable; a commit of the last bundle would restart
there. -/
def wentOn (t : Tile) (a sb words : Nat) : Tile :=
  { t with seq := { t.seq with pc := a, sb := sb, buf := words, need := 0, markPc := a, markSb := sb } }
/-- The loop ends where the sequencer stands in frame cycle f, in no time: with iterations left the body begins again at B0 +
(j + 1) * P; else the loop is left at B0 + N * P, and the next loop that ends there follows (06 R150, 02 R42). -/
inductive Ends (f : Nat) : Tile → Tile → Prop
  | stay (t : Tile) : (∀ i, ¬ endsHere t i) → Ends f t t
  | again (t : Tile) (i : Nat) (l : LoopSt) : endsFirst t i → l = t.regs.l.getD i LoopSt.reset → l.j + 1 < l.n →
      Ends f t (wentOn (loopSet t i { l with j := l.j + 1 }) l.start (l.b0 + (l.j + 1) * l.period.toNat) 12)
  | leave (t t' : Tile) (i : Nat) (l : LoopSt) : endsFirst t i → l = t.regs.l.getD i LoopSt.reset → ¬ l.j + 1 < l.n →
      Ends f (wentOn (loopSet t i { l with running := false }) t.seq.pc (l.b0 + l.n * l.period.toNat) (4 * min 3 (f - l.fillAt))) t' →
      Ends f t t'
/-- t with the sequencer past an idle or seg word of d cycles, loop ends aside. -/
def pastWord (t : Tile) (d : Nat) : Tile :=
  { t with seq := { t.seq with sb := t.seq.sb + d, pc := t.seq.pc + 1, need := t.seq.need + 1 } }
/-- t with the sequencer past the bundle of some words that has just issued, loop ends aside; and the bundle's place marked. -/
def pastBundle (t : Tile) (words : Nat) : Tile :=
  if t.seq.redirected = true then t else { t with seq := { t.seq with pc := t.seq.pc + words } }
def marked (t : Tile) : Tile := { t with seq := { t.seq with redirected := false, markPc := t.seq.pc, markSb := t.seq.sb } }
/-- Bit range of a slot in the bundle, and its enable bit (05 R117, Table 5-3). -/
def slotLow : Slot → Nat
  | .DC => 0 | .DR => 40 | .X => 80 | .M => 120 | .VB => 160 | .VA => 200 | .L => 240 | .S => 280 | .C => 320
def slotEnable : Slot → Nat
  | .DC => 364 | .DR => 365 | .X => 366 | .M => 367 | .VB => 368 | .VA => 369 | .L => 370 | .S => 371 | .C => 372
/-- s' is s with bundle b of w words started: its enabled slots and the end of the bundle are the next work, the words are
consumed, and the tile and coach are kept as they stand. -/
def bundleStarted (s s' : State) (b : Bundle) (w : Nat) : Prop :=
  (∃ ts, s'.todo = ts ++ .endBundle :: s.todo ∧
    (∀ sl, Task.slot sl (b.extractLsb' 362 2) (b.extractLsb' (slotLow sl) 40) ∈ ts ↔ b.getLsbD (slotEnable sl) = true) ∧
    ∀ x ∈ ts, ∃ sl ftl wd, x = Task.slot sl ftl wd) ∧
  s'.ct = { s.ct with seq := { s.ct.seq with buf := s.ct.seq.buf - (s.ct.seq.need + w), need := 0, minIssue := s.frc + 1, redirected := false } } ∧
  s'.cur = { s.cur with src := ⟨s.ct.seq.pc, s.frc, 0⟩, save := some (s.ct, s.coach s.cur.coach), faults := [], words := w } ∧
  s'.coaches = s.coaches ∧ s'.pkg = s.pkg ∧ s'.wall = s.wall ∧ ∀ t, t ≠ s.cur.tile → s'.tile t = s.tile t
/-- The tile has reached its `end` with no bundle issued since its last `commit`, and so holds no cycle of a later phase (02 R54). -/
def endedAtCommit (t : Tile) : Prop := t.seq.ended = true ∧ ∃ f, t.seq.lastCommit = some f ∧ t.seq.minIssue = f + 1
/-- Does the tile's bundle ask the launch for a commit, a rendezvous or a relay? -/
def asksMeet (t : Tile) : Prop := (∃ rl os, t.meet = .commit rl os) ∨ (∃ id x, t.meet = .rdv id x) ∨ t.meet = .relay
/-- Class and code of a record as one number. -/
def rank (r : Record) : Nat := r.cls * 256 + r.code
/-- Order of the records of one frame cycle: tile, slot, then class and code. -/
def inOrder (a b : Record) : Prop :=
  a.tile < b.tile ∨ (a.tile = b.tile ∧ (a.slot < b.slot ∨ (a.slot = b.slot ∧ rank a ≤ rank b)))
/-- The fields of a record have their widths (17 Table 17-3). -/
def recordFits (r : Record) : Prop := r.cls < 256 ∧ r.code < 256 ∧ r.slot < 16 ∧ r.tile < 512


/-! ## Events (10, 12, 17, 19, 20) -/

/-- Only tile t of the machine has changed. -/
def onlyTile (s s' : State) (t : Nat) : Prop := ∃ x, s' = s.setTile t x
/-- The other coaches are as they were. -/
def otherCoaches (s s' : State) (c : Nat) : Prop := ∀ d, d ≠ c → s'.coach d = s.coach d
/-- A bank whose REFB has come outside the frame: the pointer moves to the next of the 1,032 groups and the bank's history
of such refreshes restarts (10 R236). -/
def pausedRefresh (v : VaultSt) (b wall : Nat) : VaultSt :=
  { v with
    banks := v.banks.setIfInBounds b { v.bank b with ptr := ((v.bank b).ptr + 1) % 1032 }
    lastRefWall := v.lastRefWall.setIfInBounds b wall
    eng := v.eng.setIfInBounds b { v.engBank b with row := none, refb := some wall } }
/-- The newest record of a coach's log, which stopped its launch: class, code, details, and the launch's last cycle. -/
def stoppedBy (s s' : State) (c cls code : Nat) (d1 d2 : Word) : Prop :=
  (s'.coach c).launch.mode = .finishing ∧ (s'.coach c).launch.status = 0x80 + cls ∧
  (s'.coach c).log.cls = cls ∧ (s'.coach c).log.code = code ∧ (s'.coach c).log.tag = (s.coach c).launch.lrec.tag ∧
  ∃ r, (s'.coach c).log.recs.head? = some r ∧ r.cls = cls ∧ r.code = code ∧ r.stopped = true ∧ r.tile = 0x1FF ∧ r.d1 = d1 ∧ r.d2 = d2
/-- Physical host address of a range of a coach's registers: n bytes from a, within one 256-byte piece (12 R273). -/
def inRange (k : Coach) (a n p : Nat) : Prop := k.ranges.findSome? (rangeHit a) = some p ∧ 1 ≤ n ∧ a % 256 + n ≤ 256
/-- Every bank is Closed, its pointer one group on, its deadline counted from frame cycle f (02 R57). -/
def closedBanks (v v' : VaultSt) (f : Nat) : Prop :=
  v'.cells = v.cells ∧ ∀ b, b < 32 → (v'.bank b).st = .closed ∧ (v'.bank b).ptr = ((v.bank b).ptr + 1) % 1032 ∧ (v'.bank b).due = f

/-! ## The host's view (12 R263, R272, R279; 14 R293, R302) -/

/-- Is s' s with queue q alone changed? -/
def onlyQueue (s s' : State) (q : Nat) : Prop := s' = s.setQueue q (s'.queue q)
/-- A queue entry after a write of its configuration word (12 R263, R264): of an enabled queue only the priority and the enable bit
change; a virtual function changes neither coach nor owner; one that is enabled starts empty at its tail. -/
def queueConfigured (x : Queue) (pf : Bool) (w : Nat) : Queue :=
  let on := decide (w / 2 ^ 49 % 2 = 1)
  if x.en then { x with prio := w / 2 ^ 50 % 4, en := on }
  else
    let y := { x with
      lsz := w / 2 ^ 44 % 32, prio := w / 2 ^ 50 % 4
      owner := if pf then w / 2 ^ 52 % 256 else x.owner, coach := if pf then w / 2 ^ 60 % 16 else x.coach }
    if on = true ∧ 4 ≤ y.lsz ∧ y.lsz ≤ 16 ∧ y.owner < 130 then { y with en := true, head := y.tail, status := 0, tails := [] } else y
/-- May a function reach a tile through its aperture: a physical one, or the owner of a queue bound to the tile's coach (12 R279)? -/
def reaches (s : State) (fn t : Nat) : Prop :=
  s.pkg.boot = 6 ∧ t < 384 ∧ s.inLaunch t = false ∧
  (128 ≤ fn ∨ ∃ c, (s.tile t).own.owner = some c ∧ s.bound fn c = true)
/-- Tile and space that APSEL of a function selects, and its segment of 64 MiB. -/
def selTile (s : State) (fn : Nat) : Nat := (getK 0#64 s.pkg.apsel fn).toNat % 2 ^ 9
def selSpace (s : State) (fn : Nat) : Nat := (getK 0#64 s.pkg.apsel fn).toNat / 2 ^ 9 % 4
def selSeg (s : State) (fn : Nat) : Nat := (getK 0#64 s.pkg.apsel fn).toNat / 2 ^ 32 % 2 ^ 8
/-- Vault storage address of a byte offset of the vault: bank, row, column and byte are its bits. -/
def vaultByte (v : VaultSt) (o : Nat) : Nat := v.addr ⟨o / 2 ^ 25, o / 2 ^ 12 % 2 ^ 13, o / 2 ^ 8 % 16⟩ + o % 256
/-- Is the bank of a byte offset of the vault in the tile's map? -/
def inMap (v : VaultSt) (o : Nat) : Bool := decide (o / 2 ^ 25 < 32 - retiredCount v.retired)
/-- BTST as a word (04 Table 4-5). -/
def btstOf (b : BlkSt) : Nat := b.head % 2 ^ 14 * 2 ^ 32 + b.free % 2 ^ 15 * 2 ^ 16 + b.ops % 2 ^ 11
/-- No repair of an idle coach's tile waits to be made. -/
def settledTile (s : State) (t : Nat) : Prop :=
  ∀ c, (s.tile t).own.owner = some c → (s.coach c).launch.mode = .idle → (s.tile t).own.weak = [] ∧ (s.tile t).own.bad = 0#32 ∧
    (s.tile t).vault.watermark = none ∧ (s.tile t).vault.n ≤ 32 - retiredCount (s.tile t).vault.retired
/-- A read of bytes through the aperture of a function: they go out, and nothing else changes, but for the counters of the codes
that it read. -/
def apertureGave (s s' : State) (fn t : Nat) (b : List Byte) : Prop :=
  (∀ k, s'.tile k = if k = t then { s.tile k with own := { (s.tile k).own with life := (s'.tile k).own.life } } else s.tile k) ∧
  s'.coaches = s.coaches ∧ s'.pkg = { s.pkg with out := s.pkg.out ++ [.readData fn b] }
/-- A restore of coach c by the record at an address has passed every check: the record, its image, the Hatbox image and its
segments (14 R302 steps 1 to 8). -/
def restoreAdmitted (s : State) (fn c : Nat) (rec : Word) (b : List Byte) (img : Image) (h : HatImage) (gs : List Segment) : Prop :=
  let s0 := s.modCoach c fun k => { k with hat := { k.hat with recAddr := rec &&& ~~~0x7F#64, busy := true } }
  let s1 := s0.modLaunch c fun _ => { Launch.reset with lrec := rawRecord b, fn := fn, tailWall := s.wall }
  let s2 := s1.modLaunch c fun l => { l with image := img }
  s.hread c (rec &&& ~~~0x7F#64).toNat 128 = .ok b ∧ recordOk s.pkg.index (s.msixSize fn) b = true ∧
  s1.loadChecks c (rawRecord b) = .ok img ∧ s2.readHat c = .ok h ∧ s2.restoreChecks c h = .ok gs

/-! ## Engines, far sessions and ports (12 R274 to R278, 19 R354, R355) -/

/-- The operation tl, num of coach c is o, on a tile of the package whose owner tag stands (20 R364). -/
def opIs (s : State) (c tl num : Nat) (o : AsyncOp) : Prop :=
  (s.coach c).op tl num = some o ∧ (s.tile o.tile).own.owner = o.owner
/-- A copy may move column k now: it has not moved, the host piece is in a range and readable, the host has kept its bytes since the
write of the launch's queue tail (11 R258), and the bank is granted with its row open and timing met (10 R245, R246). -/
def copyReady (s : State) (c : Nat) (o : AsyncOp) (k p : Nat) : Prop :=
  k < o.len ∧ o.has k = false ∧ (s.coach c).ranges.findSome? (rangeHit (o.host.toNat + 256 * k)) = some p ∧
  hostErr s.pkg.hostBad p = none ∧ s.portCol c o (o.kind == .copyIn) (colAfter o.va k) = true ∧
  (s.tile o.tile).columnErr (colAfter o.va k) = none ∧ ∀ x ∈ s.pkg.hostOld, x.1 < p ∨ p + 256 ≤ x.1 ∨ x.2.2 ≤ (s.coach c).launch.tailWall
/-- A far operation of tile t is at work, and no other coach has one of its number there. -/
def farIs (s : State) (t c tl num : Nat) (o : AsyncOp) : Prop :=
  opIs s c tl num o ∧ o.tile = t ∧ o.kind ≠ .copyIn ∧ o.kind ≠ .copyOut ∧ s.farFault o = none ∧
  ∀ d x, d < 16 → d ≠ c → (s.coach d).op tl num = some x → x.tile ≠ t
/-- The column that a far operation writes next for an index (12 R276, R278): of a `.recv` the column that has come, of a `farm` whose
present set stands and suffices a result. Its mark, its place, its value. -/
def farColumn (o : AsyncOp) (k mark : Nat) (a : VAddr) (x : Vec) : Prop :=
  k < 2 ^ 24 ∧ ((o.kind = .recv ∧ mark = k ∧ a = colAfter (farField o.desc 8 8) k ∧ o.piece 0 k = some x) ∨
    (o.kind.isFarm = true ∧ o.settled = true ∧ o.succeeds = true ∧ k < farResults o.kind o.desc ∧ mark = 2 ^ 25 + k ∧
      a = colAfter (farField o.desc 0x18 8) k ∧ x = o.result k))
/-- t' is t but for the engines' view of bank b. -/
def engineOn (t t' : Tile) (b : Nat) (f : EngBank → EngBank) : Prop :=
  t' = { t with vault := { t.vault with eng := t.vault.eng.setIfInBounds b (f (t.vault.engBank b)) } }
/-- Is a flit's sequence number the next, or one ahead of it, modulo 65,536? -/
def seqAhead (q : Port) (f : Flit) : Bool := decide ((f.seq - (q.got + 1)).toNat < 2 ^ 15)
/-- A flit that is no push of a running coach's port still awaited, or whose I is the next frame cycle. -/
def beforeI (s : State) (p : Nat) (f : Flit) : Prop :=
  f.kind = 0x01#8 → seqAhead (s.pkg.port p) f = true → ∀ c, s.portCoach p = some c →
    f.gen = (s.pkg.port p).gen ∧ f.inject.toNat = ((s.coach c).launch.frc + 1) % 2 ^ 32
/-- A port that has retrained owes or awaits the SYNC flit where this package or its peer is package 0 of the domain. -/
def owesSync (s : State) (q : Nat) : Bool :=
  match (s.pkg.port q).peer with
  | some (k, _) => decide (s.pkg.index = 0 ∨ k = 0)
  | none => false
/-- The operations of a coach other than tl, num are as they were. -/
def otherOps (s s' : State) (c tl num : Nat) : Prop :=
  ∀ a b, (a ≠ tl ∨ b ≠ num) → (s'.coach c).op a b = (s.coach c).op a b
/-! ## Relay points (13) -/

/-- Order of the forecast classes, 1 < 2 < 4 and 0 above them; the class published for a tile's stack (13 R287, Table 13-5). -/
def classOrder (k : Nat) : Nat := if k = 1 then 1 else if k = 2 then 2 else if k = 4 then 3 else 4
def forecastOf (s : State) (t : Nat) : Nat := (s.pkg.fcst.getD (t / 192 * 2 + t % 24 / 12) 0#64).toNat % 8
/-- The largest class over a coach's tiles. -/
def coachForecast (s : State) (c k : Nat) : Prop :=
  (∀ t ∈ s.tilesOf c, classOrder (forecastOf s t) ≤ classOrder k) ∧ (k = 1 ∨ ∃ t ∈ s.tilesOf c, k = forecastOf s t)
/-- A tile lies in a rectangle word (13 Table 13-6). -/
def inRect (w : Word) (t : Nat) : Prop :=
  w.getLsbD 31 = true ∧ w.toNat % 16 ≤ t / 24 ∧ t / 24 ≤ w.toNat / 2 ^ 12 % 16 ∧
  w.toNat / 2 ^ 16 % 32 ≤ t % 24 ∧ t % 24 ≤ w.toNat / 2 ^ 24 % 32
/-- A plan may be applied to an idle coach: its rectangle, if any, is one of the mesh, disjoint from every other coach's current and
planned one; what enters is unassigned, and what leaves has no outstanding operation (13 R291). -/
def planHolds (s : State) (c : Nat) (w : Word) : Prop :=
  (w.getLsbD 31 = true → w.toNat % 16 ≤ w.toNat / 2 ^ 12 % 16 ∧ w.toNat / 2 ^ 16 % 32 ≤ w.toNat / 2 ^ 24 % 32 ∧ w.toNat / 2 ^ 24 % 32 < 24) ∧
  ∀ t, t < 384 → (inRect w t → ∀ d, d < 16 → d ≠ c → ¬ inRect (s.coach d).crect t ∧ ¬ inRect (s.coach d).cplan t) ∧
    (inRect w t → ¬ inRect (s.coach c).crect t → (s.tile t).own.owner = none) ∧
    (inRect (s.coach c).crect t → ¬ inRect w t → ∀ o ∈ (s.coach c).ops, o.tile ≠ t)
/-- Banks that a requirement word asks for, and the requirements of a variant under a class (13 R283, Table 13-2). -/
def banksOf (v : VariantImg) : Nat := 32 - v.req.toNat / 16 % 4
def variantHolds (s : State) (c k : Nat) (v : VariantImg) : Prop :=
  classOrder k ≤ classOrder (v.req.toNat % 8) ∧
  (∀ g i, g < 4 → i < 4 → v.req.toNat / 2 ^ (8 + 2 * g) % 4 ≤ min 2 (s.pkg.port (4 * g + i)).rate) ∧
  ∀ t ∈ v.tiles, (s.tile t).own.enabled = true ∧ (s.tile t).own.failed = false ∧
    banksOf v + retiredCount (s.tile t).vault.retired ≤ 32 ∧ inRect (s.coach c).crect t
/-- The loader of coach c stands at a step of its relay work with nothing left to wait for: the clock has reached it and the
committed phase has settled (13 Table 13-3 step 1). -/
def relayAt (s : State) (c step : Nat) : Prop :=
  let l := (s.coach c).launch
  l.mode = .relaying false ∧ l.relayWall ≤ s.wall ∧ (∀ u ∈ l.unsettled, l.phase ≤ u.phase) ∧ l.relayStep = step
/-- No epoch boundary is named at which a domain's relay point ends (02 R64). -/
def noStart (s : State) (c : Nat) : Prop := (s.coach c).launch.lrec.type = 2 → (s.coach c).launch.startEpoch = none
/-- No code error or lane error keeps the moving of a tile's lines from reading them good. -/
def readsGood (t : Tile) : Prop := t.own.errs = [] ∧ t.own.lanes = 0#8
/-- No repair, migration or code error waits on a coach's tiles; no line of them is left to move; no retrain waits for them. -/
def tilesWhole (s : State) (c : Nat) : Prop :=
  ∀ t ∈ s.tilesOf c, (s.tile t).own.errs = [] ∧ (s.tile t).own.weak = [] ∧ (s.tile t).own.bad = 0#32 ∧
    (s.tile t).vault.watermark = none ∧ (s.tile t).vault.n + retiredCount (s.tile t).vault.retired ≤ 32
def noneMoves (s : State) (c : Nat) : Prop := ∀ t ∈ s.tilesOf c, (s.tile t).vault.watermark = none
def noRetrain (s : State) (c : Nat) : Prop :=
  ∀ p i, p < 16 → i < 4 → s.coachHasPort c p = true → (s.pkg.port p).hpend = false ∧ (s.pkg.port (4 * (p / 4) + i)).half = none
/-- The column of a line under a map of n banks (13 R290), as bytes. -/
def lineColumn (v : VaultSt) (n : Nat) (retired : BitVec 32) (g col j : Nat) : Nat := v.lineAddr n retired g col + j

/-- Whether number n of a timeline has completed: it is at most the live value, or completed above it (06 R157). -/
def completed (t : Timeline) (n : Nat) : Prop := n ≤ t.live ∨ n ∈ t.done
end Sys2Proof.Claims
open Sys2Proof Sys2Proof.Machine Sys2Proof.Claims
/-- 05 R122, R126: every well-formed slot operation, with every operand at every value its fields admit, decodes from the
word it encodes to. -/
def Obligations.SlotWordsRoundTrip : Prop :=
  ∀ (i : Instr) (sl : Slot), i.wf = true → slotOf i = some sl → decodeSlot sl (ftlOf i) (encodeSlot i) = .ok i

/-- 05 R111: a code word decodes only to the instruction that encodes to it, each of the five kinds decodes from its
word, and exactly the reserved ranges are refused. -/
def Obligations.CodeWordsBothWays : Prop :=
  (∀ (w : CodeWord) (i : Instr), decodeWord w = .ok i → encodeWord i = w) ∧
  (∀ n : BitVec 12, decodeWord (encodeWord (.issue n)) = .ok (.issue n)) ∧
  (∀ n : BitVec 10, decodeWord (encodeWord (.idle n)) = .ok (.idle n)) ∧
  (∀ n : BitVec 10, decodeWord (encodeWord (.seg n)) = .ok (.seg n)) ∧
  decodeWord (encodeWord .escape) = .ok .escape ∧ decodeWord (encodeWord .endStream) = .ok .endStream ∧
  ∀ w : CodeWord, decodeWord w = .error .reservedCodeWord ↔
    (0x1000 ≤ w.toNat ∧ w.toNat ≤ 0xEFFF) ∨ (0xF401 ≤ w.toNat ∧ w.toNat ≤ 0xF7FF) ∨ 0xFC01 ≤ w.toNat

/-- 05 R126: what the decoder gives for a slot word is an operation of that slot, well formed, and its word is the one
read, so that no unnamed bit is set. -/
def Obligations.DecodedSlotsAreWhole : Prop :=
  ∀ (sl : Slot) (ftl : BitVec 2) (w : SlotWord) (i : Instr), decodeSlot sl ftl w = .ok i →
    slotOf i = some sl ∧ i.wf = true ∧ encodeSlot i = w

/-- The manual's worked encodings decode to the operations the manual writes beside them. -/
def Obligations.WrittenWordsDecode : Prop := writtenWords

/-- The step runs the decoded instruction: an event of the work; an enabled slot of the bundle being issued; the code word
at a tile's stream address, where its bundle is due. The list of pieces of work, and the refusal of bits that do not decode,
which no launch holds, are the model's choices (notes/assumptions/2.md and 42.md). -/
def Obligations.StepRunsTheInstruction : Prop :=
  (∀ (s : State) (r : List Task) (i : Instr), s.todo = .ev i :: r → step s = exec i { s with todo := r }) ∧
  (∀ (s : State) (r : List Task) (sl : Slot) (ftl : BitVec 2) (w : SlotWord) (i : Instr),
    s.todo = .slot sl ftl w :: r → decodeSlot sl ftl w = .ok i → s.ct.own.errs = [] →
    step s = exec i { s with todo := r }) ∧
  (∀ (s : State) (r : List Task) (sl : Slot) (ftl : BitVec 2) (w : SlotWord) (e : DecodeErr),
    s.todo = .slot sl ftl w :: r → decodeSlot sl ftl w = .error e → step s = .refused (.undecodable e.code)) ∧
  (∀ (s : State) (r : List Task) (c t : Nat) (i : Instr) (need : Nat),
    s.todo = .tile c t :: r →
    decodeWord ((s.tile t).seq.code.getD (s.tile t).seq.pc 0xFC00#16) = .ok i →
    bundleDue (s.tile t) (s.coach c).launch.frc need → step s = exec i (onTile { s with todo := r } c t))

/-- 05 R120: a slot operation whose guard is false does nothing at all: no write, no fault, no trigger. -/
def Obligations.FalseGuardDoesNothing : Prop :=
  ∀ (i : Instr) (sl : Slot) (s : State), slotOf i = some sl → s.guard (guardOf (encodeSlot i)) = false → exec i s = .next s

/-- Queued writes change nothing but the list of writes not yet visible of the issuing tile, which they join in order. -/
def Obligations.QueuedWritesFrame : Prop :=
  ∀ (s : State) (ws : List (Nat × Nat × Write)) (t : Nat),
    (queue s ws).tile t = (if t = s.cur.tile then { s.tile t with pend := (s.tile t).pend ++ pends s ws } else s.tile t) ∧
    (queue s ws).coaches = s.coaches ∧ (queue s ws).pkg = s.pkg ∧ (queue s ws).wall = s.wall ∧ (queue s ws).cur = s.cur ∧
    (queue s ws).todo = s.todo ∧ (queue s ws).agenda = s.agenda ∧ (queue s ws).draws = s.draws

/-- 06 R139 to R141: each scalar operation answers a next state in which only its writes are queued, at its latency. -/
def Obligations.ScalarResults : Prop :=
  ∀ (i : Instr) (s : State) (g : Guard) (ws : List (Nat × Nat × Write)),
    scalarWrites s.sv s.pv i = some (g, ws) → s.guard g = true → exec i s = .next (queue s ws)

/-- 06 R142, R143: each compare and predicate operation likewise, at latency 1. -/
def Obligations.CompareAndPredicateResults : Prop :=
  ∀ (i : Instr) (s : State) (g : Guard) (ws : List (Nat × Nat × Write)),
    predicateWrites s.sv s.pv i = some (g, ws) → s.guard g = true → exec i s = .next (queue s ws)

/-- 06 R144, Table 6-4: `blkx` of a full list slot gives the result word of its block; a key that names no slot, and an
empty slot, are preconditions 1 and 2. -/
def Obligations.BlockLookup : Prop :=
  ∀ (s : State) (g : Guard) (sd sa : BitVec 6), s.guard g = true →
    (∀ x, keyNames s.ct.blk.mem (s.sv sa) x → num2 s.ct.blk.mem (slotAt x) < 2 ^ 14 →
      exec (.blkx g sd sa) s = .next (queue s (toS 1 6 sd (blockWord (num2 s.ct.blk.mem (slotAt x)))))) ∧
    (∀ x, keyNames s.ct.blk.mem (s.sv sa) x → num2 s.ct.blk.mem (slotAt x) = 0xFFFF →
      exec (.blkx g sd sa) s = .next (s.raise 1 ⟨1, 9, 2, s.sv sa, 2#64⟩)) ∧
    ((∀ x, ¬ keyNames s.ct.blk.mem (s.sv sa) x) → exec (.blkx g sd sa) s = .next (s.raise 1 ⟨1, 9, 2, s.sv sa, 1#64⟩))

/-- 06 Table 6-4, 04 R105, R106: what `blkalloc`, `blkref` and `blkfree` write, the bytes that they leave, what the journal
keeps, and their results at latency 6. -/
def Obligations.BlockOperations : Prop :=
  ∀ (s : State) (g : Guard) (sd sa sb : BitVec 6) (x : Nat), s.guard g = true → s.ct.blk.mem.wf = true → s.ct.blk.ops < 1024 →
    s.ct.blk.head < 2 ^ 14 → keyNames s.ct.blk.mem (s.sv sa) x →
    (num2 s.ct.blk.mem (slotAt x) = 0xFFFF → 0 < s.ct.blk.free →
      ∃ b, blockStep s.ct.blk b s.cl.phase x s.ct.blk.head s.ct.blk.head 1 (num2 s.ct.blk.mem (refAt s.ct.blk.head) % 2 ^ 14)
          (s.ct.blk.free - 1) ∧
        exec (.blkalloc g sd sa) s = .next (queue (withBlk s b) (toS 1 6 sd (blockWord s.ct.blk.head)))) ∧
    (num2 s.ct.blk.mem (slotAt x) = 0xFFFF → s.ct.blk.free = 0 →
      ∃ b, b.mem = s.ct.blk.mem ∧ b.head = s.ct.blk.head ∧ b.free = 0 ∧ b.ops = s.ct.blk.ops + 1 ∧
        exec (.blkalloc g sd sa) s = .next (queue (withBlk s b) (toS 1 6 sd (wrapN (2 ^ 63))))) ∧
    (num2 s.ct.blk.mem (slotAt x) = 0xFFFF → num2 s.ct.blk.mem (refAt ((s.sv sb).toNat / 2 ^ 32 % 2 ^ 14)) < 32767 →
      let id := (s.sv sb).toNat / 2 ^ 32 % 2 ^ 14
      ∃ b, blockStep s.ct.blk b s.cl.phase x id id (num2 s.ct.blk.mem (refAt id) + 1) s.ct.blk.head s.ct.blk.free ∧
        exec (.blkref g sd sa sb) s = .next (queue (withBlk s b) (toS 1 6 sd (blockWord id)))) ∧
    (num2 s.ct.blk.mem (slotAt x) < 2 ^ 14 → 0 < num2 s.ct.blk.mem (refAt (num2 s.ct.blk.mem (slotAt x))) →
      num2 s.ct.blk.mem (refAt (num2 s.ct.blk.mem (slotAt x))) < 2 ^ 15 →
      let id := num2 s.ct.blk.mem (slotAt x)
      let n := num2 s.ct.blk.mem (refAt id) - 1
      ∃ b, blockStep s.ct.blk b s.cl.phase x id 0xFFFF (if n = 0 then 2 ^ 15 + s.ct.blk.head else n)
          (if n = 0 then id else s.ct.blk.head) (if n = 0 then s.ct.blk.free + 1 else s.ct.blk.free) ∧
        exec (.blkfree g sd sa) s = .next (queue (withBlk s b) (toS 1 6 sd (wrapN n))))

/-- 08 R192, R193: the loads deliver the bytes at the effective address, byte by byte, under the vector predicate, at issue
+ 4, and post-increment their base. -/
def Obligations.LoadsDeliverTheBytes : Prop :=
  ∀ (s : State) (g : Guard) (base : BitVec 5) (off : BitVec 12) (pi : Bool), s.guard g = true →
    (∀ (vd : BitVec 6) (q : BitVec 3), accessOk (lmAddr s base off pi) 256 →
      ∃ x, hasBytes x (fun j => spByteAt s.ct (lmAddr s base off pi + j)) ∧
        exec (.ldV g vd base off pi q) s =
          .next (queue s ((4, 6, .v vd.toNat (s.qv (q.zeroExtend 4)) x) :: lmInc s base off pi))) ∧
    (∀ (vd : BitVec 6) (q : BitVec 3), accessOk (lmAddr s base off pi) 4 →
      ∃ x, hasBytes x (fun j => spByteAt s.ct (lmAddr s base off pi + j % 4)) ∧
        exec (.ldbV g vd base off pi q) s =
          .next (queue s ((4, 6, .v vd.toNat (s.qv (q.zeroExtend 4)) x) :: lmInc s base off pi))) ∧
    (∀ sd : BitVec 6, accessOk (lmAddr s base off pi) 8 →
      ∃ x : Word, (∀ j, j < 8 → x.extractLsb' (8 * j) 8 = spByteAt s.ct (lmAddr s base off pi + j)) ∧
        exec (.ldS g sd base off pi) s = .next (queue s (toS 6 4 sd x ++ lmInc s base off pi))) ∧
    (∀ qd : BitVec 4, accessOk (lmAddr s base off pi) 32 →
      ∃ x : Mask, (∀ j, j < 32 → x.extractLsb' (8 * j) 8 = spByteAt s.ct (lmAddr s base off pi + j)) ∧
        exec (.ldQ g qd base off pi) s = .next (queue s (toQ 6 4 qd (BitVec.allOnes 256) x ++ lmInc s base off pi)))

/-- 08 R191, R192: the stores write, at issue + 1, the line that holds the effective address, only at the bytes stored,
with the source's bytes in order. -/
def Obligations.StoresWriteTheBytes : Prop :=
  ∀ (s : State) (g : Guard) (base : BitVec 5) (off : BitVec 12) (pi : Bool), s.guard g = true →
    let ea := lmAddr s base off pi
    (∀ (vs : BitVec 6) (q : BitVec 3), accessOk ea 256 →
      exec (.stV g vs base off pi q) s = .next (queue s
        ((1, 6, .line (lineOf s.ct ea) (s.qv (q.zeroExtend 4)) (s.vv vs) 1) :: lmInc s base off pi))) ∧
    (∀ ss : BitVec 6, accessOk ea 8 →
      ∃ m x, lineBytes m x ea 8 (fun j => (s.sv ss).extractLsb' (8 * j) 8) ∧
        exec (.stS g ss base off pi) s = .next (queue s ((1, 6, .line (lineOf s.ct ea) m x 1) :: lmInc s base off pi))) ∧
    (∀ qs : BitVec 4, accessOk ea 32 →
      ∃ m x, lineBytes m x ea 32 (fun j => (s.qv qs).extractLsb' (8 * j) 8) ∧
        exec (.stQ g qs base off pi) s = .next (queue s ((1, 6, .line (lineOf s.ct ea) m x 1) :: lmInc s base off pi)))

/-- 08 R194, 18 Table 18-3 codes 0x01 and 0x02: an aligned access out of the scratchpad, and a misaligned one within it,
queue nothing and raise their record with the effective address. -/
def Obligations.BadAccessesAreRecorded : Prop :=
  ∀ (i : Instr) (s : State) (g : Guard) (b : BitVec 5) (o : BitVec 12) (p : Bool) (opc n : Nat),
    lmShape i = some (g, b, o, p, opc, n) → s.guard g = true →
    let ea := lmAddr s b o p
    (ea % n = 0 → 2 ^ 21 < ea + n → exec i s = .next (s.raise 6 ⟨1, 1, 2, wrapN ea, wrapN (0xFF00 + opc)⟩)) ∧
    (ea % n ≠ 0 → ea + n ≤ 2 ^ 21 → exec i s = .next (s.raise 6 ⟨1, 2, 2, wrapN ea, wrapN (0xFF00 + opc)⟩))

/-- 11 Table 11-1, 08 R197: a line write that becomes visible changes the bytes of its line that its mask selects, and no
other byte of the scratchpad. -/
def Obligations.LineWriteChangesItsBytes : Prop :=
  ∀ (t : Tile) (l kind at_ : Nat) (src : Src) (m : Mask) (x : Vec) (a : Nat), t.sp.wf = true →
    (t.apply ⟨at_, src, .line l m x kind⟩).sp.wf = true ∧
    (t.apply ⟨at_, src, .line l m x kind⟩).sp.get a =
      if a / 256 = l ∧ m.getLsbD (a % 256) = true then x.extractLsb' (8 * (a % 256)) 8 else t.sp.get a

/-- 08 R195: gather and scatter. A gather delivers at issue + 12 the bytes at each active lane's address, and 0 above lane
63; a scatter's writes become visible at issue + 1 and leave each byte with the last lane's value. -/
def Obligations.GatherAndScatter : Prop :=
  ∀ (s : State) (g : Guard) (vi : BitVec 6) (base : BitVec 5) (q : BitVec 4) (ty : Ty), s.guard g = true → ty.width ≤ 32 →
    gatherOk (s.sv (base.zeroExtend 6)) (s.vv vi) (s.qv q) (ty.width / 8) →
    let wb := ty.width / 8
    (∀ vd : BitVec 6, ∃ x : Vec,
      (∀ j, j < 256 → (s.qv q).getLsbD j = true → x.extractLsb' (8 * j) 8 =
        if j < 64 * wb then spByteAt s.ct (gatherAt (s.sv (base.zeroExtend 6)) (s.vv vi) wb (j / wb) + j % wb) else 0#8) ∧
      exec (.ldgV g vd vi base q ty) s = .next (queue s [(12, 6, .v vd.toNat (s.qv q) x)])) ∧
    (∀ vs : BitVec 6, s.ct.sp.wf = true → ∃ ws, ws.all isScatterLine = true ∧
      (∀ p, (afterLines s.ct ws).get p = scattered s.ct (s.sv (base.zeroExtend 6)) (s.vv vi) (s.vv vs) (s.qv q) wb p) ∧
      exec (.stgV g vs vi base q ty) s = .next (queue s ws))

/-- 08 R196, 18 Table 18-4 code 0x06: `lcopy` starts with its first line read at issue, and copies one line a cycle, each
visible one cycle after it is read; one that comes too early is refused. -/
def Obligations.LineCopy : Prop :=
  (∀ (s : State) (g : Guard) (sd ss : BitVec 6) (cnt : BitVec 12), s.guard g = true →
    (s.sv ss).toNat % 256 = 0 → (s.sv sd).toNat % 256 = 0 → (s.sv ss).toNat + 256 * (cnt.toNat + 1) ≤ 2 ^ 21 →
    (s.sv sd).toNat + 256 * (cnt.toNat + 1) ≤ 2 ^ 21 →
    ((∀ o, s.ct.lcopy = some o → 1 ≤ o.n ∧ o.c + o.n ≤ s.frc) → ∃ x, hasBytes x (fun j => spByteAt s.ct ((s.sv ss).toNat + j)) ∧
      exec (.lcopy g sd ss cnt) s = .next ((queue s [(1, 6, .line (lineOf s.ct (s.sv sd).toNat) (BitVec.allOnes 256) x 3)]).modCt
        fun t => { t with lcopy := some ⟨(s.sv ss).toNat, (s.sv sd).toNat, cnt.toNat + 1, s.ct.h, s.frc,
          ⟨s.cur.src.addr, s.cur.src.issued, 6⟩⟩ })) ∧
    ∀ o, s.ct.lcopy = some o → s.frc < o.c + o.n →
      exec (.lcopy g sd ss cnt) s = .next (s.raise 6 ⟨2, 6, 2, 1#64, wrapN (o.c + o.n)⟩)) ∧
  ∀ (t : Tile) (f : Nat) (o : LCopy), t.lcopy = some o → t.own.errs = [] → t.mtx.mldb = none → o.c < f → f < o.c + o.n →
    o.src + 256 * o.n ≤ 2 ^ 21 → o.dst + 256 * o.n ≤ 2 ^ 21 → o.src % 256 = 0 → o.dst % 256 = 0 →
    ∃ x, hasBytes x (fun j => spByteAt { t with h := o.h } (o.src + 256 * (f - o.c) + j)) ∧
      (t.units f).pend = t.pend ++
        [⟨f + 1, o.by_, .line (lineOf { t with h := o.h } (o.dst + 256 * (f - o.c))) (BitVec.allOnes 256) x 3⟩]

/-- 08 R198, R201, R202, 19 R353: a push that the checks admit carries its line, and arrives at the cycle that its hops, its
boundaries and the pad of its link give; an arriving push whose CRC-32 holds writes its whole line at the destination, visible
in its cycle; one whose CRC-32 does not hold writes nothing and is recorded with code 0x7/0x01. -/
def Obligations.PushesDeliverTheirLine : Prop :=
  (∀ (s : State) (g : Guard) (v dsc : BitVec 6), s.guard g = true → s.pushFail (s.sv dsc) = none → s.cur.tile < 384 →
    (∃ p, pushCarries s (s.sv dsc) (s.vv v) p ∧ pushArrives s (s.sv dsc) p ∧ exec (.pushV g v dsc) s = .next (sent s p)) ∧
    ((s.sv v).toNat % 256 = 0 → (s.sv v).toNat < 2 ^ 21 → ∃ p x, hasBytes x (fun j => spByteAt s.ct ((s.sv v).toNat + j)) ∧
      pushCarries s (s.sv dsc) x p ∧ pushArrives s (s.sv dsc) p ∧ exec (.pushl g v dsc) s = .next (sent s p))) ∧
  ∀ (s : State) (id c : Nat) (p : Push), s.pushCoach id = some (c, p) → p.addr < 2 ^ 21 →
    let s' := s.modCoach c fun k => { k with pushes := k.pushes.filter (fun q => q.id != id) }
    let l := lineOf (s.tile p.dst) p.addr
    exec (.pushArrival id) s = .next (if pushCrc (s.pushData p) p.desc = p.crc then
        s'.modTile p.dst fun t =>
          { t with pend := t.pend ++ [⟨(s.coach c).launch.frc, { p.src with slot := 6 }, .line l (BitVec.allOnes 256) (s.pushData p) 4⟩] }
      else s'.note c p.dst 11 0 ⟨7, 1, 5, wrapN l, wrapN p.tile⟩)

/-- 07 R166, R167, Table 7-1: every vector operation completes: it writes its destinations once each at issue + latency,
raises flags only in the set of its slot, and changes nothing else. -/
def Obligations.VectorOperationsComplete : Prop :=
  ∀ (i : Instr) (s : State) (g : Guard) (sc lat : Nat) (ds : List (Nat × Nat)) (fl : Bool),
    vectorShape i = some (g, sc, lat, ds, fl) → s.guard g = true →
    ∃ ws, exec i s = .next (queue s ws) ∧
      ((ws.filter fun x => !isFlags x.2.2).map fun x => (x.1, x.2.1, destOf x.2.2)) = ds.map (fun r => (lat, sc, r)) ∧
      (ws.filter (fun x => isFlags x.2.2) = [] ∨ (fl = true ∧ ∃ x, ws.filter (fun x => isFlags x.2.2) = [(lat, sc, .flags sc x)]))

/-- 07 Table 7-6, R173, R181, R184, Table 7-8: the integer, sign-bit, broadcast and cross-lane operations give in every
lane the number of their rule, modulo 2^w, under the predicate. -/
def Obligations.LaneResults : Prop :=
  ∀ (i : Instr) (s : State) (g : Guard) (sc lat : Nat) (d : BitVec 6) (q : BitVec 4) (w : Nat) (f : Nat → Int),
    laneResults s i = some (g, sc, lat, d, q, w, f) → i.wf = true → s.guard g = true →
    ∃ x, (∀ k, k < 2048 / w → laneBits x w k = BitVec.ofInt w (f k)) ∧
      exec i s = .next (queue s [(lat, sc, .v d.toNat (s.qv q) x)])

/-- 07 R182 to R184, R189: logic, selection, integer comparison, exchange with scalars and predicate operations; R172, R175: the
lesser and the greater float lane, and float comparison, with the flags of their NaNs. -/
def Obligations.LogicAndExchangeResults : Prop :=
  ∀ (s : State) (g : Guard) (u : VSlot) (d a b : BitVec 6) (q qs : BitVec 4), s.guard g = true →
    exec (.vand g u d a b q) s = .next (queue s [(2, vsc u, .v d.toNat (s.qv q) (s.vv a &&& s.vv b))]) ∧
    exec (.vor g u d a b q) s = .next (queue s [(2, vsc u, .v d.toNat (s.qv q) (s.vv a ||| s.vv b))]) ∧
    exec (.vxor g u d a b q) s = .next (queue s [(2, vsc u, .v d.toNat (s.qv q) (s.vv a ^^^ s.vv b))]) ∧
    exec (.vnot g u d a q) s = .next (queue s [(2, vsc u, .v d.toNat (s.qv q) (~~~s.vv a))]) ∧
    exec (.vmov g u d a q) s = .next (queue s [(2, vsc u, .v d.toNat (s.qv q) (s.vv a))]) ∧
    (∃ x, hasBytes x (fun j => if (s.qv qs).getLsbD j then (s.vv a).extractLsb' (8 * j) 8 else (s.vv b).extractLsb' (8 * j) 8) ∧
      exec (.vsel g u d a b q qs) s = .next (queue s [(2, vsc u, .v d.toNat (s.qv q) x)])) ∧
    (∀ (qd : BitVec 4) (c : Cond) (ty : Ty), ty.isI = true →
      ∃ m : Mask, (∀ j, j < 256 → m.getLsbD j = holds c (laneI ty (s.vv a) (8 * j / ty.width)) (laneI ty (s.vv b) (8 * j / ty.width))) ∧
        exec (.vicmp g u qd c a b q ty) s = .next (queue s (toQ (vsc u) 2 qd (s.qv q) m))) ∧
    (∀ (c : BitVec 2) (k : BitVec 8) (signed : Bool), k.toNat < 256 / 2 ^ c.toNat →
      exec (.vext g u d a c k signed) s = .next (queue s (toS (vsc u) 2 d
        (if signed then wrapI (laneBits (s.vv a) (8 * 2 ^ c.toNat) k.toNat).toInt else wrapN (laneN (s.vv a) (8 * 2 ^ c.toNat) k.toNat)))) ∧
      ∃ m x, (∀ j, j < 256 → m.getLsbD j = ((s.qv q).getLsbD j && 8 * j / (8 * 2 ^ c.toNat) == k.toNat)) ∧
        laneN x (8 * 2 ^ c.toNat) k.toNat = (s.sv b).toNat % 2 ^ (8 * 2 ^ c.toNat) ∧
        exec (.vins g u d b q c k) s = .next (queue s [(2, vsc u, .v d.toNat m x)])) ∧
    (∀ (ty : Ty) (num : Bool), ty.isF = true →
      (∃ x fs, (∀ k, k < 2048 / ty.width → Extreme ty false num (laneN (s.vv a) ty.width k) (laneN (s.vv b) ty.width k)
          (laneN x ty.width k) (fs k)) ∧
        exec (.vmin g u d a b q ty num) s = .next (queue s ((3, vsc u, .v d.toNat (s.qv q) x) ::
          toF (vsc u) 3 (laneFlags (s.qv q) ty.width fs (2048 / ty.width))))) ∧
      ∃ x fs, (∀ k, k < 2048 / ty.width → Extreme ty true num (laneN (s.vv a) ty.width k) (laneN (s.vv b) ty.width k)
          (laneN x ty.width k) (fs k)) ∧
        exec (.vmax g u d a b q ty num) s = .next (queue s ((3, vsc u, .v d.toNat (s.qv q) x) ::
          toF (vsc u) 3 (laneFlags (s.qv q) ty.width fs (2048 / ty.width))))) ∧
    (∀ (qd : BitVec 4) (c : FCond) (ty : Ty), ty.isF = true → ∃ (m : Mask) (fs : Nat → BitVec 6),
      (∀ j k, j < 256 → k = 8 * j / ty.width → Compares ty c (laneN (s.vv a) ty.width k) (laneN (s.vv b) ty.width k) (m.getLsbD j) (fs k)) ∧
      exec (.vcmp g u qd c a b q ty) s = .next (queue s (toQ (vsc u) 3 qd (s.qv q) m ++
        toF (vsc u) 3 (laneFlags (s.qv q) ty.width fs (2048 / ty.width))))) ∧
    ∀ qd qa qb : BitVec 4,
      exec (.vqand g u qd qa qb) s = .next (queue s (toQ (vsc u) 2 qd (BitVec.allOnes 256) (s.qv qa &&& s.qv qb))) ∧
      exec (.vqor g u qd qa qb) s = .next (queue s (toQ (vsc u) 2 qd (BitVec.allOnes 256) (s.qv qa ||| s.qv qb))) ∧
      exec (.vqxor g u qd qa qb) s = .next (queue s (toQ (vsc u) 2 qd (BitVec.allOnes 256) (s.qv qa ^^^ s.qv qb))) ∧
      exec (.vqnot g u qd qa) s = .next (queue s (toQ (vsc u) 2 qd (BitVec.allOnes 256) (~~~s.qv qa))) ∧
      exec (.vqcnt g u d qa) s = .next (queue s (toS (vsc u) 2 d (wrapN (onesN (s.qv qa).toNat 256))))

/-- 03 R70, R71, 07 R172, R190: a lane whose operand is a NaN gives the canonical NaN, and an enabled signalling NaN
raises IV in the set of the slot. 07 R190, Table 7-9: every special function gives in each lane its special case, or the exact value
rounded once to nearest; of `vexp2` and `vlog2` the real number 2^x or log2 x, wherever it is exact or keeps off the halfway points of
the rounding by 2^-80 of itself (that it always does is notes/assumptions/6.md). -/
def Obligations.NaNsAreCanonical : Prop :=
  (∀ (i : Instr) (s : State) (g : Guard) (lat : Nat) (d : BitVec 6) (q : BitVec 4) (rs : List (BitVec 6)),
    floatOp i = some (g, 3, lat, d, q, .f32, rs) → 16 ≤ lat → s.guard g = true →
    ∃ x fs, (∀ k, k < 64 → Special i (laneN (s.vv (rs.getD 0 0#6)) 32 k) (laneN (s.vv (rs.getD 1 0#6)) 32 k) (laneN x 32 k) (fs k)) ∧
      exec i s = .next (queue s ((lat, 3, .v d.toNat (s.qv q) x) :: toF 3 lat (laneFlags (s.qv q) 32 fs 64)))) ∧
  ∀ (i : Instr) (s : State) (g : Guard) (sc lat : Nat) (d : BitVec 6) (q : BitVec 4) (ty : Ty) (rs : List (BitVec 6)),
    floatOp i = some (g, sc, lat, d, q, ty, rs) → i.wf = true → s.guard g = true →
    ∃ x fl, exec i s = .next (queue s ((lat, sc, .v d.toNat (s.qv q) x) :: toF sc lat fl)) ∧
      ∀ k, k < 2048 / ty.width →
        ((∃ r ∈ rs, isNaNCode ty (laneN (s.vv r) ty.width k)) → laneN x ty.width k = Ty.canonNaN ty) ∧
        ((∃ r ∈ rs, isSigCode ty (laneN (s.vv r) ty.width k)) → (s.qv q).getLsbD (ty.width / 8 * k) = true → fl.getLsbD 0 = true)

/-- 03 R82, 07 R171: where the exact nonzero sum, or product, of two finite lanes has an encoding, `vadd` and `vmul` give
that encoding, in both rounding forms; where every lane is so, no flag is raised. 03 R82 to R85, 07 R171, R174, R177 to R179: the
arithmetic group and `vscale` round the exact value of each lane once, `vtwosum` also gives the exact error of its sum, and
`vcvt` rounds each lane in its mode, under error feedback with the residual of the lanes before it. The sign of a zero of
error feedback, and that a lane saturated to an integer type passes no residual on, are the model's choices
(notes/assumptions/7.md). -/
def Obligations.ExactResultsAreUnrounded : Prop :=
  (∀ (i : Instr) (s : State) (g : Guard) (sc lat : Nat) (d : BitVec 6) (q : BitVec 4) (ty : Ty) (rz : Bool) (e : Nat → Exact),
    arithOf s i = some (g, sc, lat, d, q, ty, rz, e) → i.wf = true → s.guard g = true →
    ∃ x fs, (∀ k, k < 2048 / ty.width → Rounds ty (if rz then .rtz else .rne) 0 (e k) (laneN x ty.width k) (fs k)) ∧
      exec i s = .next (queue s ((lat, sc, .v d.toNat (s.qv q) x) ::
        toF sc lat (laneFlags (s.qv q) ty.width fs (2048 / ty.width))))) ∧
  (∀ (s : State) (g : Guard) (u : VSlot) (d a b : BitVec 6) (q : BitVec 4) (ty : Ty), s.guard g = true → ty.isF = true →
    ∃ x y fs, (∀ k, k < 2048 / ty.width →
        let e := sumX (exactOf ty (laneN (s.vv a) ty.width k)) (exactOf ty (laneN (s.vv b) ty.width k))
        Rounds ty .rne 0 e (laneN x ty.width k) (fs k) ∧ ErrorOf ty e (laneN x ty.width k) (laneN y ty.width k)) ∧
      exec (.vtwosum g u d a b q ty) s = .next (queue s ((4, vsc u, .v d.toNat (s.qv q) x) ::
        (toF (vsc u) 4 (laneFlags (s.qv q) ty.width fs (2048 / ty.width)) ++ [(4, vsc u, .v (d + 1).toNat (s.qv q) y)])))) ∧
  (∀ (s : State) (g : Guard) (u : VSlot) (d a : BitVec 6) (q : BitVec 4) (dt st : Ty) (mode : RMode),
    (Instr.vcvt g u d a q dt st mode).wf = true → s.guard g = true →
    let n := 2048 / max dt.width st.width
    let lat := if mode = .ef then 8 else 4
    let m : Mask := if mode = .dith then BitVec.allOnes 256 else s.qv q
    ∃ x fs, (∀ k, n ≤ k → k < 2048 / dt.width → laneN x dt.width k = 0) ∧
      (mode = .ef → Feeds dt n (anyOn (s.qv q) dt.width) (fun k => exactOf st (laneN (s.vv a) st.width k)) (laneN x dt.width) fs) ∧
      (mode ≠ .ef → ∀ k, k < n → Rounds dt mode (if mode = .dith then cardAt ((s.sv (q.zeroExtend 6)).toNat % 16) (k % 16) else 0)
        (exactOf st (laneN (s.vv a) st.width k)) (laneN x dt.width k) (fs k)) ∧
      exec (.vcvt g u d a q dt st mode) s = .next (queue s ((lat, vsc u, .v d.toNat m x) :: toF (vsc u) lat (laneFlags m dt.width fs n)))) ∧
  ∀ (s : State) (g : Guard) (u : VSlot) (d a b : BitVec 6) (q : BitVec 4) (ty : Ty) (rz : Bool), s.guard g = true → ty.isF = true →
    (∃ x fl, exec (.vadd g u d a b q ty rz) s = .next (queue s ((3, vsc u, .v d.toNat (s.qv q) x) :: toF (vsc u) 3 fl)) ∧
      (∀ k c, k < 2048 / ty.width → exactly ty false (laneN (s.vv a) ty.width k) (laneN (s.vv b) ty.width k) c →
        laneN x ty.width k = c) ∧
      ((∀ k, k < 2048 / ty.width → ∃ c, exactly ty false (laneN (s.vv a) ty.width k) (laneN (s.vv b) ty.width k) c) →
        fl = 0#6)) ∧
    ∃ x fl, exec (.vmul g u d a b q ty rz) s = .next (queue s ((5, vsc u, .v d.toNat (s.qv q) x) :: toF (vsc u) 5 fl)) ∧
      (∀ k c, k < 2048 / ty.width → exactly ty true (laneN (s.vv a) ty.width k) (laneN (s.vv b) ty.width k) c →
        laneN x ty.width k = c) ∧
      ((∀ k, k < 2048 / ty.width → ∃ c, exactly ty true (laneN (s.vv a) ty.width k) (laneN (s.vv b) ty.width k) c) →
        fl = 0#6)

/-- 07 R186 to R188: an integer `vred.add` leaves in lane 0 the sum of the enabled lanes modulo 2^w and 0 in every other
bit; an integer `vscan.add` leaves in lane k the sum of the enabled lanes up to k, or before k under `.excl`. For every operation
and type `vred` combines halves and `vscan` lanes at doubling distances, each step rounded, with the flags of every step. -/
def Obligations.IntegerLaneSums : Prop :=
  (∀ (s : State) (g : Guard) (d a : BitVec 6) (q : BitVec 4) (ty : Ty) (op : COp), s.guard g = true →
    ((Instr.vred g d a q ty op).wf = true → ∃ r fl,
      Reduces ty op (Nat.log2 (2048 / ty.width)) (inputAt ty op (s.vv a) (s.qv q)) r fl ∧
      exec (.vred g d a q ty op) s = .next (queue s ((8, 2, .v d.toNat (BitVec.allOnes 256) (BitVec.ofNat 2048 r)) :: toF 2 8 fl))) ∧
    ∀ excl, (Instr.vscan g d a q ty op excl).wf = true → ∃ r fl x,
      Scans ty op (2048 / ty.width) (Nat.log2 (2048 / ty.width)) 1 (inputAt ty op (s.vv a) (s.qv q)) r fl ∧
      (∀ k, k < 2048 / ty.width → laneN x ty.width k = if excl then (if k = 0 then identity ty op else r (k - 1)) else r k) ∧
      exec (.vscan g d a q ty op excl) s = .next (queue s ((8, 2, .v d.toNat (s.qv q) x) :: toF 2 8 fl))) ∧
  ∀ (s : State) (g : Guard) (d a : BitVec 6) (q : BitVec 4) (ty : Ty), s.guard g = true → ty.isI = true →
    exec (.vred g d a q ty .add) s = .next (queue s [(8, 2, .v d.toNat (BitVec.allOnes 256)
      (BitVec.ofNat 2048 (sumLanes (s.vv a) (s.qv q) ty.width (2048 / ty.width) % 2 ^ ty.width)))]) ∧
    ∀ excl, ∃ x, (∀ k, k < 2048 / ty.width → laneN x ty.width k =
        sumLanes (s.vv a) (s.qv q) ty.width (if excl then k else k + 1) % 2 ^ ty.width) ∧
      exec (.vscan g d a q ty .add excl) s = .next (queue s [(8, 2, .v d.toNat (s.qv q) x)])

/-- 00 R10, 02 R41, 04 R95, 18 R338: a write queued alone shows the old value to a reader of an earlier cycle and the new one from
its cycle on, in its register alone (a steer register's condition or target, a loop's period, the rows of the format table that a
mask names, a chunk slot among them); s0, p0, p1 and q0 read as their constants whatever is held there; where two writes of one
register or line become visible in one cycle neither takes effect, and one record is written for the unit. -/
def Obligations.WritesAreVisibleAtTheirCycle : Prop :=
  ((∀ (t : Tile) (p : Pend) (f n : Nat), idleUnits t → t.pend = [p] → f < p.at_ →
    (landed t f n).regs = t.regs ∧ (landed t f n).sp = t.sp ∧ (landed t f n).flags = t.flags ∧ (landed t f n).pend = [p] ∧
      landedRecords t f n = []) ∧
  (∀ (t : Tile) (at_ f n : Nat) (src : Src), idleUnits t → at_ ≤ f →
    (∀ r x k, r < 64 → t.pend = [⟨at_, src, .s r x⟩] →
      (landed t f n).regs.sAt k = (if k = r ∧ k ≠ 0 then x else t.regs.sAt k) ∧ (landed t f n).pend = []) ∧
    (∀ r b k, r < 32 → t.pend = [⟨at_, src, .p r b⟩] →
      (landed t f n).regs.pAt k = (if k = r ∧ 2 ≤ k then b else t.regs.pAt k)) ∧
    (∀ r m x k, r < 64 → t.pend = [⟨at_, src, .v r m x⟩] → k < 64 → hasBytes ((landed t f n).regs.vAt k) fun j =>
      if k = r ∧ m.getLsbD j = true then x.extractLsb' (8 * j) 8 else (t.regs.vAt k).extractLsb' (8 * j) 8) ∧
    (∀ r m x k, r < 16 → t.pend = [⟨at_, src, .q r m x⟩] →
      (landed t f n).regs.qAt k = (if k = r ∧ k ≠ 0 then (x &&& m) ||| (t.regs.qAt k &&& ~~~m) else t.regs.qAt k)) ∧
    (∀ r x k, r < 8 → t.pend = [⟨at_, src, .acc r x⟩] →
      (landed t f n).regs.aAt k = if k = r then x else t.regs.aAt k) ∧
    (∀ r b k, r < 12 → t.pend = [⟨at_, src, .stCond r b⟩] →
      (landed t f n).regs.stAt k = if k = r then { t.regs.stAt k with cond := b } else t.regs.stAt k) ∧
    (∀ r a fill k, r < 12 → t.pend = [⟨at_, src, .stTgt r a fill⟩] →
      (landed t f n).regs.stAt k = if k = r then { t.regs.stAt k with target := a, fillAt := some fill } else t.regs.stAt k) ∧
    (∀ r per k, r < 4 → t.pend = [⟨at_, src, .lper r per⟩] →
      (landed t f n).regs.lAt k = if k = r then { t.regs.lAt k with period := per } else t.regs.lAt k) ∧
    (∀ mask rows, t.pend = [⟨at_, src, .ft mask rows⟩] → (landed t f n).ftmask = mask ∧ ∀ k, k < 16 →
      (landed t f n).ft.getD k 0#32 = if mask.getLsbD k = true then rows.getD k 0#32 else t.ft.getD k 0#32) ∧
    (∀ r x k, r < 16 → t.pend = [⟨at_, src, .chunk r x⟩] →
      (landed t f n).mtx.bs.getD k none = if k = r then some x else t.mtx.bs.getD k none) ∧
    (∀ set bits k, 1 ≤ set → set ≤ 4 → 1 ≤ k → k ≤ 4 → t.pend = [⟨at_, src, .flags set bits⟩] →
      flagBits (landed t f n) k = if k = set then flagBits t k ||| bits else flagBits t k)) ∧
  ∀ (r : Regs), r.sAt 0 = 0#64 ∧ r.pAt 0 = true ∧ r.pAt 1 = false ∧ r.qAt 0 = BitVec.allOnes 256) ∧
  ∀ (t : Tile) (p p' : Pend) (f n : Nat) (u : Nat × Nat), idleUnits t → t.pend = [p, p'] → p.at_ ≤ f → p'.at_ ≤ f →
    p.w.unit = some u → p'.w.unit = some u →
    (landed t f n).regs = t.regs ∧ (landed t f n).sp = t.sp ∧ (landed t f n).pend = [] ∧
      ∃ a d1 d2, landedRecords t f n = [(0, a, ⟨2, if u.1 = 10 then 4 else 3, 3, d1, d2⟩)]

/-- 09 R225, R226, R228, Table 9-10, 03 R82: the accumulator instructions complete at their latencies; the copying ones are bit for
bit, the integer sums wrap modulo 2^32, and each FP32 sum, and each product of `mscl` with 2^k for any 64-bit k, is its exact value
rounded once to nearest, with the flags of every rounding. -/
def Obligations.AccumulatorOperations : Prop :=
  ∀ (s : State) (g : Guard) (ad as : BitVec 3) (sa : BitVec 6), s.guard g = true →
    exec (.mzero g ad) s = .next (queue s [(2, 4, .acc ad.toNat (Vector.replicate 1024 0#32))]) ∧
    exec (.mmov g ad as) s = .next (queue s [(2, 4, .acc ad.toNat (s.av as))]) ∧
    (extentOk s sa 4096 → ∃ x : Acc,
      (∀ k, k < 1024 → (x.getD k 0#32).toNat = elemAt s.ct ((s.sv sa).toNat + 4 * k) 4 4) ∧
      exec (.mld g ad sa) s = .next (queue s [(4, 4, .acc ad.toNat x)])) ∧
    (∃ x : Acc, (∀ k, k < 1024 → x.getD k 0#32 = (s.av ad).getD k 0#32 + (s.av as).getD k 0#32) ∧
      exec (.macc g ad as true) s = .next (queue s [(4, 4, .acc ad.toNat x)])) ∧
    (∃ (x : Acc) (fs : Nat → BitVec 6), (∀ k, k < 1024 →
        Rounds .f32 .rne 0 (sumX (wordX (s.av ad) k) (wordX (s.av as) k)) (x.getD k 0#32).toNat (fs k)) ∧
      exec (.macc g ad as false) s = .next (queue s ((4, 4, .acc ad.toNat x) :: toF 4 4 (allFlags fs 1024)))) ∧
    (extentOk s sa 256 → ∃ x : Acc, (∀ k, k < 1024 → (x.getD k 0#32).toNat =
        (((s.av ad).getD k 0#32).toNat + elemAt s.ct ((s.sv sa).toNat + 4 * (k % 32)) 4 4) % 2 ^ 32) ∧
      exec (.mrowadd g ad sa true) s = .next (queue s [(4, 4, .acc ad.toNat x)])) ∧
    (extentOk s sa 256 → ∃ (x : Acc) (fs : Nat → BitVec 6), (∀ k, k < 1024 →
        Rounds .f32 .rne 0 (sumX (wordX (s.av ad) k) (exactOf .f32 (elemAt s.ct ((s.sv sa).toNat + 4 * (k % 32)) 4 4)))
          (x.getD k 0#32).toNat (fs k)) ∧
      exec (.mrowadd g ad sa false) s = .next (queue s ((4, 4, .acc ad.toNat x) :: toF 4 4 (allFlags fs 1024)))) ∧
    ∃ (x : Acc) (fs : Nat → BitVec 6), (∀ k, k < 1024 →
        ScaleRounds (s.sv sa).toInt (wordX (s.av ad) k) (x.getD k 0#32).toNat (fs k)) ∧
      exec (.mscl g ad sa) s = .next (queue s ((4, 4, .acc ad.toNat x) :: toF 4 4 (allFlags fs 1024)))

/-- 09 R227, 03 R82 to R86, R93: `mst` writes its block as whole lines, at issue + 4 or issue + 8 under EF. Its element (i, j) is the
value of word 32 i + j, as FP32 or INT32, rounded into the type in the mode, under DITH with the threshold of (i, j), under EF row
by row with the residual of the row's earlier elements; a format table's row supplies type, mode and reading. An FP32 block of
finite words is stored bit for bit. The sign of a zero of error feedback, and that a lane saturated to an integer type passes no
residual on, are the model's choices (notes/assumptions/7.md). -/
def Obligations.BlockStores : Prop :=
  ∀ (s : State) (g : Guard) (as : BitVec 3) (sa : BitVec 6), s.guard g = true →
    (∀ i32 ty mode, extentOk s sa (1024 * (ty.width / 8)) → ∃ ws fs,
      exec (.mst g as sa i32 ty mode) s = .next (queue s (ws ++ toF 4 (if mode = .ef then 8 else 4) (allFlags fs 1024))) ∧
      BlockStored s as sa i32 ty mode (if mode = .ef then 8 else 4) ws fs) ∧
    (extentOk s sa 4096 → (∀ k, k < 1024 → (valueOf .f32 ((s.av as).getD k 0#32).toNat).isFin = true) → ∃ ws,
      exec (.mst g as sa false .f32 .rne) s = .next (queue s ws) ∧ ws.length = 16 ∧
      ∀ k, k < 16 → ∃ x, ws[k]? = some (4, 4, .line (lineOf s.ct ((s.sv sa).toNat + 256 * k)) (BitVec.allOnes 256) x 6) ∧
        ∀ j, j < 64 → laneBits x 32 j = (s.av as).getD (64 * k + j) 0#32) ∧
    ∀ l r, s.ct.ftUse l = some r → extentOk s sa (1024 * (r.sfmt.width / 8)) → ∃ ws fs lat,
      exec (.mstTableMode g as sa l) s = .next (queue s (ws ++ toF 4 lat (allFlags fs 1024))) ∧ (lat = 4 ∨ lat = 8) ∧
      (lat = 8 ↔ ∃ r' ∈ s.ct.ftRows, r'.srnd = .ef) ∧ BlockStored s as sa r.i32 r.sfmt r.srnd lat ws fs

/-- 09 R212, R222, R223, 03 R93: `mldb` and `mmul` start where their extent, their unit and their slot allow it, with what
they read at issue, the types, the integer form and the scales of their fields or of their table row, their occupancy and their latency;
where the unit is busy they are refused. -/
def Obligations.MatrixStarts : Prop :=
  ∀ (s : State) (g : Guard) (x : BitVec 1) (sa : BitVec 6) (n : BitVec 4), s.guard g = true →
    (∀ (f : BitVec 3) (ty : Ty) (sb : Bool), extentOk s sa ((n.toNat + 1) * (1024 * (ty.width / 8)) + if sb then 256 else 0) →
      ((∀ o, s.ct.mtx.mldb = some o → o.c + o.n ≤ s.frc) → ∃ k : ChunkSlot, k.ty = ty ∧
        (∀ e, e < 1024 → k.blk.getD e 0 = elemAt s.ct ((s.sv sa).toNat + e * (ty.width / 8)) (ty.width / 8) (ty.width / 8)) ∧
        k.scale = (if sb then spByteAt s.ct ((s.sv sa).toNat + (n.toNat + 1) * (1024 * (ty.width / 8))) else 0x7F#8) ∧
        exec (.mldb g ty x f sa n sb) s = .next ((queue s [(4, 4, .chunk ((8 * x.toNat + f.toNat) % 16) k)]).modCt fun t =>
          { t with mtx := { t.mtx with mldb := some ⟨s.frc, 8 * x.toNat + f.toNat, (s.sv sa).toNat, n.toNat + 1, ty, sb, s.ct.h,
            ⟨s.cur.src.addr, s.cur.src.issued, 4⟩⟩ } })) ∧
      ∀ o, s.ct.mtx.mldb = some o → s.frc < o.c + o.n →
        exec (.mldb g ty x f sa n sb) s = .next (s.raise 4 ⟨2, 6, 2, 2#64, wrapN (o.c + o.n)⟩)) ∧
    (∀ (ad : BitVec 3) (c : Bool) (aty : Ty) (bsel scA scB : Bool), (Instr.mmul g ad x sa n c aty bsel scA scB).wf = true →
      extentOk s sa ((n.toNat + 1) * (1024 * (aty.width / 8)) + if scA then 256 else 0) →
      slotHolds s x (directPair aty bsel).1 →
      (cellsFree s → ∃ op,
        mmulStarts s op ad x sa (n.toNat + 1) c ⟨aty, (directPair aty bsel).1, (directPair aty bsel).2, aty == .s8, scA, scB⟩
          (occOf c (n.toNat + 1) (directPair aty bsel).2) ∧
        exec (.mmul g ad x sa n c aty bsel scA scB) s = .next (withMmul s op)) ∧
      ∀ e, cellsBusyTo s e → exec (.mmul g ad x sa n c aty bsel scA scB) s = .next (s.raise 4 ⟨2, 6, 2, 3#64, wrapN e⟩)) ∧
    ∀ (ad : BitVec 3) (c : Bool) (l : BitVec 2) (r : FtRow), s.ct.ftUse l = some r →
      extentOk s sa ((n.toNat + 1) * (1024 * (r.afmt.width / 8)) + if r.scA then 256 else 0) → slotHolds s x [r.bfmt] →
      (cellsFree s → ∃ op occ, mmulStarts s op ad x sa (n.toNat + 1) c ⟨r.afmt, [r.bfmt], r.b, r.i32, r.scA, r.scB⟩ occ ∧
        (∀ r' ∈ s.ct.ftRows, occOf c (n.toNat + 1) r'.b ≤ occ) ∧
        (∃ r' ∈ s.ct.ftRows, occ = occOf c (n.toNat + 1) r'.b) ∧
        exec (.mmulTableMode g ad x sa n c l) s = .next (withMmul s op)) ∧
      ∀ e, cellsBusyTo s e → exec (.mmulTableMode g ad x sa n c l) s = .next (s.raise 4 ⟨2, 6, 2, 3#64, wrapN e⟩)

/-- 09 R214 to R218, R222, R223, 03 R77, R79: an s8 `mmul`, recombined or classical, adds to every accumulator word the classical
integer product of its chunks, modulo 2^32, and raises nothing. A floating-point one adds chunk by chunk the exact chunk value,
recombined from guard-rounded terms or classical, times its scales, each sum rounded once, with RNF, IV and the flags of the
roundings. A running `mmul` reads each later chunk and the accumulator at their cycles; result and flags land at its start plus
its latency. -/
def Obligations.MatrixProducts : Prop :=
  (∀ (op : MmulOp) (acc : Acc) (cs : List Chunk), op.int = true → op.aty = .s8 → (∀ c ∈ cs, s8Chunk c) →
    (accAll op acc 0#6 cs).2 = 0#6 ∧
    ∀ i j, i < 32 → j < 32 → (accAll op acc 0#6 cs).1.getD (32 * i + j) 0#32 =
      acc.getD (32 * i + j) 0#32 + BitVec.ofInt 32 (intProduct cs i j)) ∧
  (∀ (op : MmulOp) (acc : Acc) (cs : List Chunk), op.int = false → (∀ c ∈ cs, floatChunk op c) →
    ChunksAdd op cs acc (accAll op acc 0#6 cs).1 (accAll op acc 0#6 cs).2) ∧
  ∀ (t : Tile) (op : MmulOp) (f n : Nat), soleMmul t op →
    (f < op.c + op.lat → ∃ o, (landed t f n).mtx.mmuls = [o] ∧ (landed t f n).regs = t.regs ∧ (landed t f n).flags = t.flags ∧
      (landed t f n).sp = t.sp ∧ o.acc0 = (if f = op.c + 12 then some (t.regs.aAt op.ad) else op.acc0) ∧
      (¬ chunkDue op f → o.chunks = op.chunks ∧ o.dead = false ∧ landedRecords t f n = []) ∧
      (chunkDue op f → ∀ k, k = op.chunks.length →
        (∀ ch, t.mtx.bs.getD ((op.g0 + k) % 16) none = some ch → ch.ty ∈ op.accept →
          (∃ c, o.chunks = op.chunks ++ [c] ∧ c.slot = ch ∧ chunkRead t op k c) ∧ o.dead = false ∧ landedRecords t f n = []) ∧
        (∀ ch, t.mtx.bs.getD ((op.g0 + k) % 16) none = some ch → ch.ty ∉ op.accept → o.dead = true ∧
          landedRecords t f n = [(4, op.src.addr, ⟨1, 0x0E, 2, wrapN ((op.g0 + k) % 16), wrapN ch.ty.code.toNat⟩)]) ∧
        (t.mtx.bs.getD ((op.g0 + k) % 16) none = none → o.dead = true ∧
          landedRecords t f n = [(4, op.src.addr, ⟨1, 0x0E, 2, wrapN ((op.g0 + k) % 16), 0xFF#64⟩)]))) ∧
    ∀ a, f = op.c + op.lat → op.chunks.length = op.n → op.acc0 = some a → op.ad < 8 →
      landedRecords t f n = [] ∧ (landed t f n).sp = t.sp ∧ (∀ k, (landed t f n).regs.sAt k = t.regs.sAt k ∧ (landed t f n).regs.vAt k = t.regs.vAt k) ∧
      (∀ k, (landed t f n).regs.aAt k = if k = op.ad then (accAll op a 0#6 op.chunks).1 else t.regs.aAt k) ∧
      ∀ set, 1 ≤ set → set ≤ 4 →
        flagBits (landed t f n) set = if set = 4 then flagBits t 4 ||| (accAll op a 0#6 op.chunks).2 else flagBits t set

/-- 08 R207, Table 8-5: `xin` takes a row, `xout` gives a column once the slot is full and ready, at issue + 2, `xclr` and
`xmode` empty the transposer; misuse is recorded. -/
def Obligations.TransposerOperations : Prop :=
  ∀ (s : State) (g : Guard), s.guard g = true →
    let x := s.ct.tx
    (∀ vs : BitVec 6, (txSlot x x.fill).rows.length < txSize x → ∃ x',
      exec (.xin g vs) s = .next (withTx s x' fun k r => k == x.fill.toNat && r == (txSlot x x.fill).rows.length) ∧ x'.b16 = x.b16 ∧ x'.drain = x.drain ∧
      txSlot x' x.fill = ⟨(txSlot x x.fill).rows ++ [s.vv vs],
        if (txSlot x x.fill).rows.length + 1 = txSize x then s.frc + 8 else 0, 0⟩ ∧
      txSlot x' (!x.fill) = txSlot x (!x.fill) ∧
      x'.fill = if (txSlot x x.fill).rows.length + 1 = txSize x ∧ x.b16 = false then !x.fill else x.fill) ∧
    (∀ vs : BitVec 6, txSize x ≤ (txSlot x x.fill).rows.length →
      exec (.xin g vs) s = .next (s.raise 7 ⟨2, 8, 2, 1#64, wrapN (txSlot x x.fill).ready⟩)) ∧
    (∀ vd : BitVec 6, (txSlot x x.drain).rows.length = txSize x → (txSlot x x.drain).ready ≤ s.frc →
      (txSlot x x.drain).taken < txSize x → ∃ x' v,
      exec (.xout g vd) s = .next (queue (withTx s x' fun _ _ => false) [(2, 7, .v vd.toNat (BitVec.allOnes 256) v)]) ∧
      (∀ i, i < txSize x → laneBits v (2048 / txSize x) i =
        laneBits ((txSlot x x.drain).rows.getD i 0#2048) (2048 / txSize x) (txSlot x x.drain).taken) ∧
      x'.b16 = x.b16 ∧ x'.fill = x.fill ∧ txSlot x' (!x.drain) = txSlot x (!x.drain) ∧
      (if (txSlot x x.drain).taken + 1 = txSize x then txSlot x' x.drain = ⟨[], 0, 0⟩ ∧ (x'.drain = if x.b16 then x.drain else !x.drain)
        else txSlot x' x.drain = { txSlot x x.drain with taken := (txSlot x x.drain).taken + 1 } ∧ x'.drain = x.drain)) ∧
    (∀ vd : BitVec 6, (txSlot x x.drain).rows.length < txSize x →
      exec (.xout g vd) s = .next (s.raise 7 ⟨2, 8, 2, 2#64, 0#64⟩)) ∧
    (∀ vd : BitVec 6, txSize x ≤ (txSlot x x.drain).rows.length → s.frc < (txSlot x x.drain).ready →
      exec (.xout g vd) s = .next (s.raise 7 ⟨2, 8, 2, 3#64, wrapN (txSlot x x.drain).ready⟩)) ∧
    exec (.xclr g) s = .next (withTx s ⟨x.b16, ⟨[], 0, 0⟩, ⟨[], 0, 0⟩, false, false⟩ fun _ _ => true) ∧
    ∀ b16, exec (.xmode g b16) s = .next (withTx s ⟨b16, ⟨[], 0, 0⟩, ⟨[], 0, 0⟩, false, false⟩ fun _ _ => true)

/-- 10 R230, R231, R235, R236, R244: a row command whose timing is met has its effect on its bank, its history and nothing
else. That a stop's mask bits at or above N name no bank is the model's reading (notes/assumptions/32.md). -/
def Obligations.RowCommandsAdmitted : Prop :=
  ∀ (s : State) (g : Guard), s.guard g = true →
    (∀ (bank : BitVec 5) (row : BitVec 13), mayActivate s bank.toNat →
      exec (.act g bank row) s = .next (afterRow s bank.toNat fun k => { k with st := .opened row.toNat, act := some s.frc })) ∧
    (∀ (k : BitVec 5) (sn : BitVec 6), mayActivate s (vBank (s.sv sn) + k.toNat) →
      exec (.acti g k sn) s = .next (afterRow s (vBank (s.sv sn) + k.toNat)
        fun b => { b with st := .opened (vRow (s.sv sn)), act := some s.frc })) ∧
    (∀ bank : BitVec 5, bank.toNat < s.ct.vault.n → mayClose s bank.toNat →
      exec (.pre g bank) s = .next (afterRow s bank.toNat fun k => { k with st := .closed, pre := some s.frc })) ∧
    (∀ bank : BitVec 5, bank.toNat < s.ct.vault.n → (bankOf s bank.toNat).st = .closed → noWindow s bank.toNat →
      exec (.pre g bank) s = .next (afterRow s bank.toNat id)) ∧
    (∀ bank : BitVec 5, mayRefresh s bank.toNat →
      exec (.refb g bank) s = .next (s.modCt fun t => { t with vault := { t.vault with
        banks := t.vault.banks.setIfInBounds bank.toNat { bankOf s bank.toNat with
          st := .refreshing, refb := some s.frc, ptr := ((bankOf s bank.toNat).ptr + 1) % 1032, due := s.frc }
        lastRefWall := t.vault.lastRefWall.setIfInBounds bank.toNat s.wall
        drWall := some s.wall } })) ∧
    (s.ct.vault.n ≤ 32 → (∀ b, b < s.ct.vault.n → (∃ r, (bankOf s b).st = .opened r) → noWindow s b → mayClose s b) → ∃ v : VaultSt,
      exec (.prea g) s = .next (s.modCt fun t => { t with vault := { t.vault with banks := v.banks, drWall := some s.wall } }) ∧
      ∀ b, b < s.ct.vault.n → v.banks.getD b Bank.reset = match (bankOf s b).st with
        | .opened _ => if s.ct.vault.inWindowLayer b s.frc then bankOf s b else { bankOf s b with st := .closed, pre := some s.frc }
        | _ => bankOf s b) ∧
    ∀ (sm : BitVec 6) (len : BitVec 16), (s.sv sm).toNat ≠ 0 → (s.sv sm).toNat < 2 ^ 32 → s.ct.vault.window = none →
      (∀ b, namedLayer s ((s.sv sm).truncate 32) b →
        (bankOf s b).st = .closed ∧ elapsed (bankOf s b).pre 12 s.frc ∧ elapsed (bankOf s b).refb 96 s.frc) →
      exec (.stop g sm len) s = .next (s.modCt fun t => { t with vault := { t.vault with
        window := some ⟨(s.sv sm).truncate 32, s.frc, len.toNat, s.wall⟩, eng := Vector.replicate 32 EngBank.reset, drWall := some s.wall } })

/-- 10 R232, 18 R345, Table 18-5: a command that breaks one parameter changes no bank and is recorded with its code: a
second ACT before tRC, an ACT to an open bank, any column command before tRCD, to a closed bank, to a granted bank, or to
another row. -/
def Obligations.EarlyCommandsAreRefused : Prop :=
  ∀ (s : State) (g : Guard), s.guard g = true →
    (∀ (bank : BitVec 5) (row : BitVec 13) (x : Nat), mayRefresh s bank.toNat → (bankOf s bank.toNat).act = some x → s.frc < x + 40 →
      ∃ d1, exec (.act g bank row) s = .next (s.raise 8 ⟨3, 4, 4, d1, wrapN (x + 40)⟩)) ∧
    (∀ (bank : BitVec 5) (row : BitVec 13) (r : Nat), bank.toNat < s.ct.vault.n → (bankOf s bank.toNat).st = .opened r →
      elapsed (bankOf s bank.toNat).pre 12 s.frc → elapsed (bankOf s bank.toNat).act 40 s.frc →
      elapsed (bankOf s bank.toNat).refb 96 s.frc → spaced s bank.toNat → noWindow s bank.toNat →
      ∃ d1 d2, exec (.act g bank row) s = .next (s.raise 8 ⟨3, 0x12, 4, d1, d2⟩)) ∧
    ∀ (i : Instr) (r sv : BitVec 6) (line : Bool), columnCmd i = some (g, r, sv, line) → vBank (s.sv sv) < s.ct.vault.n →
      (line = true → (s.sv r).toNat % 256 = 0 ∧ (s.sv r).toNat < 2 ^ 21) →
      (∀ x, (bankOf s (vBank (s.sv sv))).act = some x → s.frc < x + 12 →
        ∃ d1, exec i s = .next (s.raise 9 ⟨3, 1, 4, d1, wrapN (x + 12)⟩)) ∧
      ((∀ k, inLayer s (vBank (s.sv sv)) k ∨ k = vBank (s.sv sv) → elapsed (bankOf s k).act 12 s.frc ∧
          elapsed (bankOf s k).rd 2 s.frc ∧ elapsed (bankOf s k).wr 6 s.frc) →
        ((bankOf s (vBank (s.sv sv))).st = .closed → grantedBank s (vBank (s.sv sv)) = false →
          ∃ d1 d2, exec i s = .next (s.raise 9 ⟨3, 0x10, 4, d1, d2⟩)) ∧
        (∀ x, (bankOf s (vBank (s.sv sv))).st = .opened x → x ≠ vRow (s.sv sv) →
          ∃ d1 d2, exec i s = .next (s.raise 9 ⟨3, 0x11, 4, d1, d2⟩)) ∧
        ((bankOf s (vBank (s.sv sv))).st = .closed → grantedBank s (vBank (s.sv sv)) = true →
          ∃ d1 d2, exec i s = .next (s.raise 9 ⟨3, 0x14, 4, d1, d2⟩)))

/-- 10 R239, R240, R243, 11 R261: an admitted column command reads or writes its 256 bytes, a read delivers them at issue +
14, a write is in the vault at once and folded into the digest; the `.i` forms step their scalars. -/
def Obligations.ColumnCommandsMoveColumns : Prop :=
  ∀ (s : State) (g : Guard) (r sv : BitVec 6) (ai : Bool), s.guard g = true → s.ct.own.errs = [] →
    (mayColumn s true (vBank (s.sv sv)) (vRow (s.sv sv)) → ∃ x,
      hasBytes x (fun j => s.ct.vault.cells.get (columnAt s (s.sv sv) + j)) ∧
      exec (.rd g r sv ai) s = .next (queue (afterColumn s false (vBank (s.sv sv)))
        ((14, 9, .v r.toNat (BitVec.allOnes 256) x) :: colInc s ai sv)) ∧
      ((s.sv r).toNat % 256 = 0 → (s.sv r).toNat < 2 ^ 21 →
        exec (.rds g r sv ai) s = .next (queue (afterColumn s false (vBank (s.sv sv)))
          ((14, 9, .line (lineOf s.ct (s.sv r).toNat) (BitVec.allOnes 256) x 5) :: (colInc s ai sv ++ lineInc s ai r))))) ∧
    (mayColumn s false (vBank (s.sv sv)) (vRow (s.sv sv)) → mayWrite s (vBank (s.sv sv)) (vRow (s.sv sv)) →
      s.ct.vault.cells.wf = true →
      (∃ t', columnWritten (afterColumn s true (vBank (s.sv sv))).ct t' (columnAt s (s.sv sv)) (s.vv r)
          ⟨vBank (s.sv sv), vRow (s.sv sv), vCol (s.sv sv)⟩ ∧
        exec (.wr g r sv ai) s = .next (queue ((afterColumn s true (vBank (s.sv sv))).modCt fun _ => t') (colInc s ai sv))) ∧
      ((s.sv r).toNat % 256 = 0 → (s.sv r).toNat < 2 ^ 21 → ∃ t' x,
        hasBytes x (fun j => spByteAt s.ct ((s.sv r).toNat + j)) ∧
        columnWritten (afterColumn s true (vBank (s.sv sv))).ct t' (columnAt s (s.sv sv)) x
          ⟨vBank (s.sv sv), vRow (s.sv sv), vCol (s.sv sv)⟩ ∧
        exec (.wrs g r sv ai) s = .next (queue ((afterColumn s true (vBank (s.sv sv))).modCt fun _ => t')
          (colInc s ai sv ++ lineInc s ai r))))

/-- 06 R147, R152, 05 R115: `prep` and `prepr` set the target of their steer register; `br`, `brn` and `jmp` go to it, with
the words that its buffer holds, or go on; a redirect out of the body of a running loop is recorded with code 0x1/0x06. The words of a target buffer that is filled in part rest on notes/assumptions/33.md. -/
def Obligations.SteeringGoesToItsTarget : Prop :=
  ∀ (s : State) (g : Guard) (st : BitVec 4), s.guard g = true →
    (∀ target, exec (.prep g st target) s = .next (queue s [(1, 5, .stTgt st.toNat target s.frc)])) ∧
    (∀ sa, (s.sv sa).toNat < 131072 → itemAt s.ct.seq.code 0 (s.sv sa).toNat = true →
      exec (.prepr g st sa) s = .next (queue s [(1, 5, .stTgt st.toNat ((s.sv sa).truncate 17) s.frc)])) ∧
    (∀ sa, ¬ (s.sv sa).toNat < 131072 ∨ itemAt s.ct.seq.code 0 (s.sv sa).toNat = false →
      exec (.prepr g st sa) s = .next (s.raise 5 ⟨1, 3, 2, s.sv sa, wrapN st.toNat⟩)) ∧
    (steerAllowed s st →
      exec (.jmp g st) s = .next (wentTo s (steerOf s st).target.toNat (targetWords s st)) ∧
      exec (.br g st) s = .next (if (steerOf s st).cond then wentTo s (steerOf s st).target.toNat (targetWords s st) else s) ∧
      exec (.brn g st) s = .next (if (steerOf s st).cond then s else wentTo s (steerOf s st).target.toNat (targetWords s st))) ∧
    ∀ i, s.ct.inLoop = some i → (s.ct.regs.l.getD i LoopSt.reset).holds (steerOf s st).target.toNat = false →
      let out : State := s.raise 5 ⟨1, 6, 2, wrapN (steerOf s st).target.toNat, wrapN i⟩
      exec (.jmp g st) s = .next out ∧ exec (.br g st) s = .next (if (steerOf s st).cond then out else s) ∧
      exec (.brn g st) s = .next (if (steerOf s st).cond then s else out)

/-- 06 R148 to R151, 02 R42: `lper` sets a period; `loop` starts its body at the next item, or goes past it where its
count is 0; `lbrk` leaves the innermost loop, with SB at B0 + N * P. That a count of 0 leaves every field of the counter as it
was, and that of several misuses a running counter is recorded before a period of 0 and that before the others, are the model's choices
(notes/assumptions/48.md and 53.md). -/
def Obligations.LoopsStartAndBreak : Prop :=
  ∀ (s : State) (g : Guard) (l : BitVec 2), s.guard g = true →
    (∀ per, (loopOf s l).running = false → exec (.lper g l per) s = .next (queue s [(1, 5, .lper l.toNat per)])) ∧
    (∀ per, (loopOf s l).running = true → exec (.lper g l per) s = .next (s.raise 5 ⟨1, 4, 2, wrapN per.toNat, 1#64⟩)) ∧
    (∀ count len, (loopOf s l).running = false → (loopOf s l).period ≠ 0#16 → loopCount s count < 2 ^ 32 →
      bodyFits s (bodyStart s + len.toNat) →
      exec (.loop g l count len) s = .next (if loopCount s count = 0 then wentTo s (bodyStart s + len.toNat) 0
        else withLoop s l ⟨true, (loopOf s l).period, 0, loopCount s count, s.ct.seq.sb, bodyStart s, len.toNat, s.frc⟩)) ∧
    (∀ count len, (loopOf s l).running = true →
      exec (.loop g l count len) s = .next (s.raise 5 ⟨1, 4, 2, wrapN (loopCount s count), 2#64⟩)) ∧
    (∀ count len, (loopOf s l).running = false → (loopOf s l).period = 0#16 →
      exec (.loop g l count len) s = .next (s.raise 5 ⟨1, 4, 2, 0#64, 3#64⟩)) ∧
    (s.ct.inLoop = some l.toNat → ∃ words,
      exec (.lbrk g l) s = .next ((withLoop (wentTo s ((loopOf s l).start + (loopOf s l).len) words) l
        { loopOf s l with running := false }).modCt fun t =>
          { t with seq := { t.seq with sb := (loopOf s l).b0 + (loopOf s l).n * (loopOf s l).period.toNat } })) ∧
    (s.ct.inLoop ≠ some l.toNat → ∃ d2, exec (.lbrk g l) s = .next (s.raise 5 ⟨1, 5, 2, wrapN l.toNat, d2⟩))

/-- 06 R153 to R155, 02 R56: `commit`, `relay` and `rdv` ask the launch for their meeting where nothing is in flight and
every bank is closed; a `relay` not at the cycle after a commit, or beyond NR, is recorded. -/
def Obligations.MeetingsAreAskedFor : Prop :=
  ∀ (s : State) (g : Guard), s.guard g = true →
    (∀ rl os, (∀ o, s.ct.lcopy = some o → o.c + o.n ≤ s.frc + 1) →
      exec (.commit g rl os) s = .next (askedFor s (.commit rl.toNat os.toNat))) ∧
    (∀ rl os o, s.ct.lcopy = some o → s.frc + 1 < o.c + o.n →
      exec (.commit g rl os) s = .next (s.raise 5 ⟨2, 9, 2, 3#64, wrapN (o.c + o.n)⟩)) ∧
    ((∀ p ∈ s.ct.pend, p.src.slot = 9 → p.at_ ≤ s.frc) → (∀ p ∈ (s.coach s.cur.coach).pushes, p.tile = s.cur.tile → p.src.slot = 6 → p.arrival ≤ s.frc) →
      (∀ o, s.ct.lcopy = some o → o.c + o.n ≤ s.frc + 1) →
      (∀ b, b < s.ct.vault.n → (bankOf s b).st = .closed ∧ elapsed (bankOf s b).pre 12 s.frc) →
      (∀ id, exec (.rdv g id .always) s = .next (askedFor s (.rdv id.toNat none))) ∧
      (∀ id tl r, exec (.rdv g id (.level tl r)) s = .next (askedFor s (.rdv id.toNat (some (tl.toNat, s.sv r))))) ∧
      (s.ct.seq.lastCommit = some (s.frc - 1) → 0 < s.frc → s.cl.relayNo < s.cl.nr → exec (.relay g) s = .next (askedFor s .relay))) ∧
    (s.ct.seq.lastCommit ≠ some (s.frc - 1) → ∃ d1, exec (.relay g) s = .next (s.raise 5 ⟨1, 7, 2, d1, 0#64⟩)) ∧
    (s.ct.seq.lastCommit = some (s.frc - 1) → 0 < s.frc → s.cl.nr ≤ s.cl.relayNo →
      exec (.relay g) s = .next (s.raise 5 ⟨1, 0x10, 2, wrapN s.cl.relayNo, wrapN s.cl.nr⟩))

/-- 04 R101, 06 R156 to R159, 02 R53, 20 Table 20-1: a trigger takes the next number of its timeline and is accepted with its
operands as read at issue; its replayed issue is only counted; one beyond 32 uncompleted operations of its tile is recorded;
`tlsig` completes at once; `tlrd` reads the acquired level. -/
def Obligations.TriggersTakeNumbers : Prop :=
  ∀ (s : State) (g : Guard) (tl : BitVec 3), s.guard g = true →
    (∀ sd, exec (.tlrd g sd tl) s = .next (queue s (toS 5 1 sd (s.ct.acq.getD tl.toNat 0#64)))) ∧
    (replayedTrigger s tl → exec (.tlsig g tl) s = .next (counted s tl)) ∧
    (¬ replayedTrigger s tl → mayTrigger s → ∃ x : Timeline,
      exec (.tlsig g tl) s = .next (withTimeline (counted s tl) tl x) ∧ x.issued = (lineOfCoach s tl).issued + 1 ∧
      ((lineOfCoach s tl).done = [] → (lineOfCoach s tl).live = (lineOfCoach s tl).issued →
        x.live = (lineOfCoach s tl).issued + 1 ∧ x.done = [])) ∧
    (¬ replayedTrigger s tl → ¬ mayTrigger s → exec (.tlsig g tl) s = .next (s.raise 5 ⟨8, 4, 2, 0x0C#64, 32#64⟩)) ∧
    (∀ sh sv sn, copyOk s (s.sv sh) (s.sv sv) (s.sv sn) →
      (replayedTrigger s tl → exec (.acopyIn g tl sh sv sn) s = .next (counted s tl) ∧
        exec (.acopyOut g tl sh sv sn) s = .next (counted s tl)) ∧
      (¬ replayedTrigger s tl → ¬ mayTrigger s → exec (.acopyIn g tl sh sv sn) s = .next (s.raise 5 ⟨8, 4, 2, 0x0E#64, 32#64⟩) ∧
        exec (.acopyOut g tl sh sv sn) s = .next (s.raise 5 ⟨8, 4, 2, 0x0E#64, 32#64⟩)) ∧
      (¬ replayedTrigger s tl → mayTrigger s →
        exec (.acopyIn g tl sh sv sn) s = .next (accepted s tl .copyIn (s.sv sh) (s.sv sv).toNat (s.sv sn).toNat 0#2048) ∧
        exec (.acopyOut g tl sh sv sn) s = .next (accepted s tl .copyOut (s.sv sh) (s.sv sv).toNat (s.sv sn).toNat 0#2048))) ∧
    ∀ i sd kind opc, farShape i = some (g, tl, sd, kind, opc) → (s.sv sd).toNat % 256 = 0 → (s.sv sd).toNat < 2 ^ 21 →
      (replayedTrigger s tl → exec i s = .next (counted s tl)) ∧
      (¬ replayedTrigger s tl → ¬ mayTrigger s → exec i s = .next (s.raise 5 ⟨8, 4, 2, opc, 32#64⟩)) ∧
      (¬ replayedTrigger s tl → mayTrigger s → ∃ d va len, hasBytes d (fun j => spByteAt s.ct ((s.sv sd).toNat + j)) ∧
        exec i s = .next (accepted s tl kind 0#64 va len d))

/-- 06 R160 to R163, 03 R89, 04 R107, Table 4-5: the format table is loaded only with legal rows; `fclr` and `wrsys` clear flags, when
they become visible, the named sets and the bits written as 1 alone, and the first-event record with what it names; that record
takes the first event while it is clear, of two in one cycle the lower slot's, then the lower flag's (of two equal ones it takes the
one issued first, notes/assumptions/44.md); `rdsys` reads each register of Tables 4-5 and 4-6 as its bundle issued; `trap` is recorded with its number
(source 0x02 and a Detail 2 of 0 are the model's choice, notes/assumptions/48.md). -/
def Obligations.SystemRegistersAndFlags : Prop :=
  (∀ (s : State) (g : Guard), s.guard g = true →
    (∀ sa mask, (s.sv sa).toNat % 256 = 0 → (s.sv sa).toNat < 2 ^ 21 →
      (∀ m, m < 16 → mask.getLsbD m = true → ftOk (BitVec.ofNat 32 (elemAt s.ct ((s.sv sa).toNat + 4 * m) 4 4)) = true) →
      ∃ rows : Vector W32 16, (∀ m, m < 16 → (rows.getD m 0#32).toNat = elemAt s.ct ((s.sv sa).toNat + 4 * m) 4 4) ∧
        exec (.ftload g sa mask) s = .next (queue s [(1, 5, .ft mask rows)])) ∧
    (∀ fs, exec (.fclr g fs) s = .next (queue s [(1, 5, .fclr fs)])) ∧
    (∀ (sa : BitVec 6) (idx : BitVec 10), exec (.wrsys g sa idx) s =
      .next (if 8 ≤ idx.toNat ∧ idx.toNat ≤ 12 then queue s [(1, 5, .sys idx.toNat (s.sv sa))] else s)) ∧
    (∀ k, exec (.trap g k) s = .next (s.note s.cur.coach s.cur.tile 5 s.cur.src.addr ⟨11, 1, 2, k.zeroExtend 64, 0#64⟩)) ∧
    ∀ (sd : BitVec 6) (idx : BitVec 10), ∃ x, exec (.rdsys g sd idx) s = .next (queue s (toS 5 1 sd x)) ∧
      (idx = 0#10 → x = wrapN s.frc) ∧ (idx = 1#10 → x = wrapN (issueTile s).seq.sb) ∧
      (idx = 2#10 → x = tileIdWord s) ∧ (idx = 3#10 → x = phaseWord s) ∧
      (∀ n k, n < 4 → k < 4 → idx.toNat = 0x10 + 4 * n + k → x = counterWord ((issueTile s).regs.l.getD n LoopSt.reset) k) ∧
      (∀ n, n < 12 → idx.toNat = 0x20 + n → x = steerWord ((issueTile s).regs.st.getD n Steer.reset)) ∧
      (idx = 0x40#10 → x = (issueTile s).ftmask.zeroExtend 64) ∧
      (∀ b, b < 32 → idx.toNat = 0x70 + b → x = bankWordOf (issueTile s).vault b s.frc) ∧
      (idx = 0x90#10 → x = wrapN (btstOf (issueTile s).blk)) ∧ (idx = 0x91#10 → x = wrapN ((issueTile s).vault.rfclass % 8)) ∧
      (∀ i o, i < 2 → o < 128 → idx.toNat = 0x100 + 128 * i + o → x = snapWordOf ((issueTile s).snaps.getD i Snap.reset) o) ∧
      (∀ k, 1 ≤ k → k ≤ 4 → idx.toNat = 7 + k → x = (flagBits (issueTile s) k).zeroExtend 64) ∧
      (idx = 12#10 → x = ferWordOf (issueTile s)) ∧
      (∀ k, k < 16 → idx.toNat = 0x30 + k → x = ((issueTile s).ft.getD k 0#32).zeroExtend 64) ∧
      (∀ k, k < 8 → idx.toNat = 0x48 + k → x = (issueTile s).acq.getD k 0#64) ∧
      (∀ e, e < 16 → idx.toNat = 0x50 + 2 * e → x = (issueTile s).vault.vttA.getD e 0#64) ∧
      (∀ e, e < 16 → idx.toNat = 0x51 + 2 * e → x = (issueTile s).vault.vttB.getD e 0#64) ∧
      (absentIndex idx.toNat → x = 0#64)) ∧
  (∀ (t : Tile) (src : Src) (at_ : Nat),
    (∀ (fs : BitVec 4) (k : Nat), 1 ≤ k → k ≤ 4 →
      flagBits (t.apply ⟨at_, src, .fclr fs⟩) k = (if fs.getLsbD (4 - k) then 0#6 else flagBits t k) ∧
      (t.apply ⟨at_, src, .fclr fs⟩).regs = t.regs ∧
      ∀ r, t.flags.fer = some r → r.slot.toNat = k →
        (t.apply ⟨at_, src, .fclr fs⟩).flags.fer = if fs.getLsbD (4 - k) then none else some r) ∧
    (∀ (x : Word) (i k : Nat), 1 ≤ k → k ≤ 4 → 1 ≤ i → i ≤ 4 →
      flagBits (t.apply ⟨at_, src, .sys (7 + i) x⟩) k = (if k = i then flagBits t k &&& ~~~(x.truncate 6) else flagBits t k) ∧
      (t.apply ⟨at_, src, .sys (7 + i) x⟩).regs = t.regs ∧
      ∀ r, t.flags.fer = some r → r.slot.toNat = k → r.bit.toNat < 6 →
        (t.apply ⟨at_, src, .sys (7 + i) x⟩).flags.fer = if k = i ∧ x.getLsbD r.bit.toNat = true then none else some r) ∧
    ∀ x : Word, (t.apply ⟨at_, src, .sys 12 x⟩).flags = { t.flags with fer := if x.getLsbD 63 then none else t.flags.fer }) ∧
  ∀ (t : Tile) (f n at1 set1 : Nat) (src1 : Src) (b1 : BitVec 6), idleUnits t → at1 ≤ f → 1 ≤ set1 → set1 ≤ 4 → src1.slot = set1 → b1 ≠ 0#6 →
    (t.pend = [⟨at1, src1, .flags set1 b1⟩] →
      (∀ r, t.flags.fer = some r → (landed t f n).flags.fer = some r) ∧
      (t.flags.fer = none → ∃ r, (landed t f n).flags.fer = some r ∧ Names r src1 set1 b1)) ∧
    ∀ (at2 set2 k1 k2 : Nat) (src2 : Src) (b2 : BitVec 6), at2 ≤ f → 1 ≤ set2 → set2 ≤ 4 → src2.slot = set2 → lowestFlag b1 k1 → lowestFlag b2 k2 →
      (set1 < set2 ∨ (set1 = set2 ∧ k1 < k2)) → t.flags.fer = none →
      (t.pend = [⟨at1, src1, .flags set1 b1⟩, ⟨at2, src2, .flags set2 b2⟩] ∨ t.pend = [⟨at2, src2, .flags set2 b2⟩, ⟨at1, src1, .flags set1 b1⟩]) →
      ∃ r, (landed t f n).flags.fer = some r ∧ Names r src1 set1 b1

/-- 05 R111 to R121, 06 R150, 02 R39, R42, 18 R344: `idle` and `seg` advance SB and pass the loop ends that follow; `end` ends the
stream; `nop` does nothing; `issue` starts the dictionary's bundle, an escape the literal of the next 24 words: each completes. The
words before the next bundle are applied as they are usable; a bundle due at or below the last one issued, or whose words are not
usable, is recorded. The buffer after a loop's last iteration rests on notes/assumptions/33.md. -/
def Obligations.CodeWordsMoveTheSequencer : Prop :=
  (∀ s : State,
    (∀ n : BitVec 10, ∃ t', Ends s.frc (pastWord s.ct (n.toNat + 1)) t' ∧ exec (.idle n) s = .next (s.modCt fun _ => t')) ∧
    (∀ n : BitVec 10, ∃ t', Ends s.frc (pastWord s.ct (64 * (n.toNat + 1))) t' ∧ exec (.seg n) s = .next (s.modCt fun _ => t')) ∧
    exec .endStream s = .next (s.modCt fun t =>
      { t with seq := { t.seq with ended := true, buf := t.seq.buf - (t.seq.need + 1), need := 0 } }) ∧
    ∀ sl, exec (.nop sl) s = .next s) ∧
  (∀ s : State,
    (∀ (n : BitVec 12) (b : Bundle), s.ct.seq.dict[n.toNat]? = some b →
      ∃ s', exec (.issue n) s = .next s' ∧ bundleStarted s s' b 1) ∧
    (s.ct.seq.pc + 24 < s.ct.seq.code.length → ∃ s' b, exec .escape s = .next s' ∧ bundleStarted s s' b 25 ∧
      ∀ k, k < 24 → b.extractLsb' (16 * (23 - k)) 16 = s.ct.seq.code.getD (s.ct.seq.pc + 1 + k) 0#16)) ∧
  ∀ (s : State) (r : List Task) (c t addr cycle need buf : Nat) (i : Instr), s.todo = .tile c t :: r →
    let x := s.tile t
    let f := (s.coach c).launch.frc
    x.seq.ended = false → x.own.errs = [] → decodeWord (x.seq.code.getD x.seq.pc 0xFC00#16) = .ok i →
    x.peek f codeMax = .bundle addr cycle need buf →
    (addr ≠ x.seq.pc → x.seq.need + 1 ≤ x.seq.buf → f < x.seq.minIssue ∨ (x.seq.minIssue ≤ cycle ∧ (cycle = f → need ≤ buf)) →
      step s = exec i (onTile s c t)) ∧
    (x.seq.minIssue ≤ f → cycle < x.seq.minIssue →
      step s = .next ((onTile { s with todo := r } c t).note c t 10 addr ⟨2, 1, 1, wrapN cycle, wrapN (x.seq.minIssue - 1)⟩)) ∧
    (x.seq.minIssue ≤ f → cycle = f → buf < need →
      step s = .next ((onTile { s with todo := r } c t).note c t 10 addr ⟨2, 2, 1, wrapN need, wrapN buf⟩))

/-- 18 R337, 05 R113, 06 R150: a bundle with a faulting slot is suppressed whole, as if every guard were false: its tile stands as it
stood before it and asks for no meeting, and so does its coach, but for the records; a bundle without one moves the sequencer on, past
the loop ends that follow it, and is the last issued; the words behind it are looked at next. Behind a `relay` the sequencer stands. What
a bundle that asks for a meeting has noted stands apart until the meeting is decided, so that it is void where the meeting suppresses the
bundle. -/
def Obligations.FaultingBundleIsSuppressed : Prop :=
  (∀ (s : State) (ts : List Task) (t : Tile) (k : Coach), s.todo = .endBundle :: ts → s.cur.save = some (t, k) → s.cur.faults ≠ [] →
    s.cur.coach < 16 → ∃ s', step s = .next s' ∧ s'.ct = { t with meet := .none } ∧
      s'.coach s.cur.coach = { k with faults := k.faults ++ s.cur.faults } ∧
      s'.todo = ts ∧ s'.pkg = s.pkg ∧ (∀ x, x ≠ s.cur.tile → s'.tile x = s.tile x)) ∧
  ∀ (s : State) (ts : List Task), s.todo = .endBundle :: ts → s.cur.faults = [] → s.cur.coach < 16 → s.ct.own.errs = [] →
    ∃ s' t', step s = .next s' ∧ s'.ct = marked t' ∧ (∀ x, x ≠ s.cur.tile → s'.tile x = s.tile x) ∧ s'.pkg = s.pkg ∧
      (¬ asksMeet s.ct ∨ s.cur.save = none →
        s'.coach s.cur.coach = { s.coach s.cur.coach with launch := { s.cl with lastIssued := s.frc } }) ∧
      (∀ t0 k fs, asksMeet s.ct → s.cur.save = some (t0, k) → (s.coach s.cur.coach).faults = k.faults ++ fs →
        s'.coach s.cur.coach = { s.coach s.cur.coach with
          faults := k.faults, launch := { s.cl with lastIssued := s.frc, meetFaults := s.cl.meetFaults ++ fs } }) ∧
      (s.ct.meet = .relay → t' = s.ct ∧ s'.todo = ts) ∧
      (s.ct.meet ≠ .relay → Ends s.frc (pastBundle s.ct s.cur.words) t' ∧ s'.todo = .tile s.cur.coach s.cur.tile :: ts)

/-- 02 R45, 04 R98, R108, Table 4-6: the `commit` of a launch swaps the scratchpad halves of its tiles, takes the restart point of
the next phase (SB, stream address, H, loop stack, fetch table, banks, trigger counts), puts the named lists in force and
begins the next phase one cycle later; while the slot's own phase is unsettled the snapshot waits for it (the model's choice,
notes/assumptions/48.md). The next frame cycle completes it with s1 to s16, the fetch table and the acquired levels as a reader of
that cycle sees them; that it reads the carried words then is the model's choice (notes/assumptions/17.md). -/
def Obligations.CommitBeginsThePhase : Prop :=
  (∀ (s : State) (c t rl os : Nat), c < 16 → (s.coach c).launch.tiles.Nodup → t ∈ (s.coach c).launch.tiles →
    (s.tile t).meet = .commit rl os →
    let l := (s.coach c).launch
    let y := s.tile t
    let x := (s.commitLaunch c).tile t
    x.h = !y.h ∧ x.seq.rl = rl ∧ x.seq.os = os ∧ x.seq.lastCommit = some l.frc ∧ x.blk.ops = 0 ∧ x.digD = 0#128 ∧ x.digW = 0 ∧
    x.regs = y.regs ∧ x.sp = y.sp ∧ x.vault = y.vault ∧ x.pend = y.pend ∧
    (∃ n, n.valid = true ∧ n.settled = false ∧ n.phase = l.phase + 1 ∧ n.frc = l.frc + 1 ∧ n.h = !y.h ∧ n.sb = y.seq.markSb ∧
      n.addr = y.seq.markPc ∧ n.l = y.regs.l ∧ n.ft = y.ft ∧ n.ftmask = y.ftmask ∧ n.acq = y.acq ∧ n.banks = y.vault.banks ∧
      n.trigs = y.trigs ∧ n.rl = rl ∧ n.os = os ∧
      ((∃ u ∈ l.unsettled, u.phase + 1 = l.phase) → x.snaps = y.snaps ∧ x.nextSnap = some n) ∧
      ((∀ u ∈ l.unsettled, u.phase + 1 ≠ l.phase) → x.nextSnap = y.nextSnap ∧ x.snaps.getD ((l.phase + 1) % 2) Snap.reset = n ∧
        x.snaps.getD (l.phase % 2) Snap.reset = y.snaps.getD (l.phase % 2) Snap.reset)) ∧
    ((s.commitLaunch c).coach c).launch.phase = l.phase + 1 ∧ ((s.commitLaunch c).coach c).launch.phaseStart = l.frc + 1 ∧
    ∃ u, ((s.commitLaunch c).coach c).launch.unsettled = l.unsettled ++ [u] ∧ u.phase = l.phase ∧ u.start = l.phaseStart ∧
      u.commit = l.frc ∧ u.wall = s.wall) ∧
  ∀ (t : Tile) (f d i : Nat), t.seq.lastCommit = some f → i < 2 →
    let x := landed t (f + 1) d
    let n := t.snaps.getD i Snap.reset
    let m := x.snaps.getD i Snap.reset
    (n.valid = true → n.frc = f + 1 → (∀ k, k < 16 → m.s.getD k 0#64 = x.regs.sAt (k + 1)) ∧
      m = { n with s := m.s, ft := x.ft, ftmask := x.ftmask, acq := x.acq }) ∧
    (n.frc ≠ f + 1 → m = n)

/-- 18 R339, 17 R326: the records of one frame cycle are logged in order of tile, slot and code, the one that stops the launch
has the lowest class and code, and the coach fault log keeps the last 127 records, newest first, and counts each. -/
def Obligations.FaultRecordsAreOrderedAndKept : Prop :=
  (∀ rs : List Record, (∀ r ∈ rs, recordFits r) →
    (sortRecs rs).Perm rs ∧ (sortRecs rs).Pairwise inOrder ∧
    (rs ≠ [] → ∃ r, stopRec rs = some r) ∧
    ∀ r, stopRec rs = some r → r ∈ rs ∧ ∀ x ∈ rs, rank r < rank x ∨ (rank r = rank x ∧ (r.tile < x.tile ∨ (r.tile = x.tile ∧ r.slot ≤ x.slot)))) ∧
  ∀ (s : State) (c : Nat) (r : Record), c < 16 → ∃ r', ((s.log c r).coach c).log.recs = (r' :: (s.coach c).log.recs).take 127 ∧
    r' = { r with first := !(s.coach c).launch.logged } ∧
    ((s.log c r).coach c).log.widx = (s.coach c).log.widx + 1 ∧
    ∀ d, d ≠ c → (s.log c r).coach d = s.coach d

/-- 17 R328, R329, R331, R334: a stopping fault of classes 0x1 to 0x4, 0x6, 0x7 and 0xB is held with the frame at its
cycle; one of 0x5 and 0x8 to 0xA stops the launch at once, with status 0x80 + class; a cancel enters HALT for the phase of
its event, but where that phase has been replayed three times it stops the launch with 0x5/0x02. -/
def Obligations.FaultsStopOrHoldOrReplay : Prop :=
  ∀ (s : State) (c : Nat), c < 16 → (s.coach c).launch.mode = .running →
    (∀ r, faultKind r.cls r.code = .stopping → r.cls ∈ [1, 2, 3, 4, 6, 7, 11] →
      let l := ((s.takeFaults c [] [r]).coach c).launch
      l.mode = .held ∧ l.hold = some r ∧ l.sinceWall = s.wall ∧ l.frc = (s.coach c).launch.frc ∧ l.phase = (s.coach c).launch.phase) ∧
    (∀ r, faultKind r.cls r.code = .stopping → r.cls ∈ [5, 8, 9, 10] →
      let l := ((s.takeFaults c [] [r]).coach c).launch
      l.mode = .finishing ∧ l.status = 0x80 + r.cls ∧ ((s.takeFaults c [] [r]).coach c).log.cls = r.cls ∧
        ((s.takeFaults c [] [r]).coach c).log.code = r.code) ∧
    ∀ tile source t strike, (s.coach c).launch.pending = none → Launch.settledAt (s.coach c).launch t = false →
      (Launch.replaysOf (s.coach c).launch (phaseAt (s.coach c).launch t) < 3 →
        let k := (s.cancelAt c tile source t strike []).coach c
        k.launch.mode = .closing ∧ k.launch.pending = some (phaseAt (s.coach c).launch t) ∧ k.pushes = [] ∧
          k.launch.frc = (s.coach c).launch.frc) ∧
      (3 ≤ Launch.replaysOf (s.coach c).launch (phaseAt (s.coach c).launch t) →
        let l := ((s.cancelAt c tile source t strike []).coach c)
        l.launch.mode = .finishing ∧ l.launch.status = 0x85 ∧ l.log.cls = 5 ∧ l.log.code = 2)

/-- 17 R333, 02 R52: the reload of a tile for phase k restores the carry set, SB, the stream address and H from snapshot
slot k mod 2, clears flags, transposer and stationary buffers, and keeps the other registers and the vault's cells. That the transposer,
made empty, keeps its mode and fills and drains slot 0 first (notes/assumptions/17.md), and that no snapshot waits any more (48.md), are
the model's choices. -/
def Obligations.ReloadRestoresTheTile : Prop :=
  ∀ (t : Tile) (k wall : Nat),
    let n := t.snaps.getD (k % 2) Snap.reset
    let x := t.restore k wall
    (∀ i, 1 ≤ i → i ≤ 16 → x.regs.sAt i = n.s.getD (i - 1) 0#64) ∧ (∀ i, 17 ≤ i → x.regs.sAt i = t.regs.sAt i) ∧
    x.regs.l = n.l ∧ x.ft = n.ft ∧ x.ftmask = n.ftmask ∧ x.acq = n.acq ∧ x.h = n.h ∧ x.seq.sb = n.sb ∧ x.seq.pc = n.addr ∧
    x.seq.rl = n.rl ∧ x.seq.os = n.os ∧ x.seq.ended = false ∧ x.flags = FlagState.reset ∧ x.tx = { Tx.reset with b16 := t.tx.b16 } ∧ x.nextSnap = none ∧
    (∀ g, g < 16 → x.mtx.bs.getD g none = none) ∧ x.mtx.mmuls = [] ∧ x.mtx.mldb = none ∧
    x.regs.p = t.regs.p ∧ x.regs.v = t.regs.v ∧ x.regs.q = t.regs.q ∧ x.regs.a = t.regs.a ∧ x.vault.cells = t.vault.cells ∧
    x.sp = t.sp ∧ x.snaps = t.snaps ∧
    (∀ p, p ∈ x.pend ↔ p ∈ t.pend ∧ p.src.issued < n.frc) ∧
    (∀ i, i < 8 → x.trigs.getD i 0 = n.trigs.getD i 0 ∧ x.marks.getD i 0 = max (t.marks.getD i 0) (t.trigs.getD i 0))


/-- 04 R94 to R97, notes/assumptions/5.md: after reset every memory is in canonical form, every tile is Tile.reset and the next
work is the bring-up. -/
def Obligations.ResetMemoriesCanonical : Prop :=
  State.reset.memOk ∧ (∀ t, State.reset.tile t = Tile.reset) ∧ (∀ c, (State.reset.coach c).launch.mode = .idle) ∧
  State.reset.todo = [.ev .bringUp] ∧ State.reset.pkg.boot = 0

/-- notes/assumptions/5.md: every step keeps the canonical form of every memory of the machine. -/
def Obligations.StepKeepsMemoriesCanonical : Prop :=
  ∀ s s' : State, s.memOk → step s = .next s' → s'.memOk

/-- 10 R230, R236, R244, 18 R346, R347, 02 R57: the events of the banks change one tile: a refresh ends, a window ends, a REFB of a
pause or of an idle tile moves the pointer on, on a tile that has ended in a running launch its deadline too; a missed deadline
writes the record 0x3/0x16 and changes no tile. That such refreshes are events of their own, and what they do to the engines' view
of a bank, rest on notes/assumptions/12.md and 41.md. -/
def Obligations.BankEvents : Prop :=
  ∀ (s : State) (t b : Nat), t < 384 → b < 32 →
    let v := (s.tile t).vault
    (∃ s', exec (.bankRefreshDone t b) s = .next s' ∧ onlyTile s s' t ∧
      s'.tile t = { s.tile t with vault := { v with banks := (s'.tile t).vault.banks } } ∧
      (s'.tile t).vault.bank b = (if (v.bank b).st = .refreshing then { v.bank b with st := .closed } else v.bank b) ∧
      ∀ a, a ≠ b → (s'.tile t).vault.bank a = v.bank a) ∧
    (∃ s', exec (.stopWindowEnd t) s = .next s' ∧ onlyTile s s' t ∧
      s'.tile t = { s.tile t with vault := { v with window := none, eng := Vector.replicate 32 EngBank.reset } }) ∧
    ((s.tile t).seq.ended = false ∨ (∀ c, c < 16 → (s.coach c).launch.mode = .running → t ∉ (s.coach c).launch.tiles) →
      ∃ s', exec (.pauseRefb t b) s = .next s' ∧ onlyTile s s' t ∧ s'.tile t = { s.tile t with vault := pausedRefresh v b s.wall }) ∧
    (∀ c, c < 16 → (s.tile t).seq.ended = true → (s.coach c).launch.mode = .running → t ∈ (s.coach c).launch.tiles →
      (∀ d, d < 16 → d ≠ c → t ∉ (s.coach d).launch.tiles) →
      ∃ s', exec (.pauseRefb t b) s = .next s' ∧ onlyTile s s' t ∧ s'.tile t = { s.tile t with vault :=
        let w := pausedRefresh v b s.wall
        { w with banks := w.banks.setIfInBounds b { w.bank b with due := (s.coach c).launch.frc } } }) ∧
    (∃ s', exec (.idleTileRefb t b) s = .next s' ∧ onlyTile s s' t ∧
      s'.tile t = { s.tile t with vault := pausedRefresh v b s.wall }) ∧
    (∀ c, (s.tile t).own.owner = some c → c < 16 → ∃ s' r, exec (.refreshDeadlineMiss t b) s = .next s' ∧
      s'.coach c = { s.coach c with faults := (s.coach c).faults ++ [r] } ∧ otherCoaches s s' c ∧ s'.tiles = s.tiles ∧ s'.pkg = s.pkg ∧
      r.cls = 3 ∧ r.code = 0x16 ∧ r.slot = 8 ∧ r.tile = t ∧ r.frame = (s.coach c).launch.frc ∧ r.d2 = wrapN (v.bank b).due) ∧
    ((s.tile t).own.owner = none → exec (.refreshDeadlineMiss t b) s = .next s)

/-- 02 R55, R57, R58, 20 R366: a pause whose conditions hold ends with its closing refreshes, the acquired levels and the next
frame cycle; at its timeout a condition that does not hold stops the launch with 0x8/0x01. 13 R283, R285 to R291, 20 R367: the loader
takes the forecast class, saves the lifetime blocks and selects the first variant that holds under it, or none, which refreshes at
class 4 until the launch stops with 0xA/0x03; a retrain at half rate holds the selection back; the plan is applied; each tile whose map
changes moves its lines one by one; a requested image waits for the coach's operations; the new variant's streams and dictionaries
take 1,800 cycles; the closing refreshes of the coach's tiles come at the selection's class, and the variant's tiles go on at their
relay entries. That the moving of a line takes 32 cycles, the selection exactly 63 or 64, the load exactly 1,800 (R286 says at most) and the closing 128,
and what is done at a boundary that package 0 has named already, are the model's choices (notes/assumptions/14.md and 36.md), and so is
the timeout of a relay point without a variant (notes/assumptions/49.md). -/
def Obligations.PausesEnd : Prop :=
  ∀ (s : State) (c : Nat), c < 16 → (s.coach c).launch.tiles.Nodup →
    let l := (s.coach c).launch
    (l.mode = .paused → (∀ x ∈ l.conds, x.2.2.toNat ≤ ((s.coach c).tl x.2.1).live) → ∃ s', exec (.pauseResume c) s = .next s' ∧
      (s'.coach c).launch.mode = .running ∧ (s'.coach c).launch.frc = l.frc + 1 ∧ (s'.coach c).launch.conds = [] ∧
      otherCoaches s s' c ∧ s'.pkg = s.pkg ∧ s'.wall = s.wall ∧
      (l.closingDone = none → ∀ t, t ∈ l.tiles → closedBanks (s.tile t).vault (s'.tile t).vault l.frc) ∧
      (l.closingDone ≠ none → ∀ t, (s'.tile t).vault = (s.tile t).vault) ∧
      (∀ t, let x := s.tile t
        s'.tile t = { x with acq := (s'.tile t).acq, vault := (s'.tile t).vault } ∧ (t ∉ l.tiles → (s'.tile t).vault = x.vault) ∧
        ((∀ y ∈ l.conds, y.1 ≠ t) → (s'.tile t).acq = x.acq)) ∧
      ∀ x ∈ l.conds, (∀ y ∈ l.conds, y.1 = x.1 → y = x) → x.2.1 < 8 → (s'.tile x.1).acq.getD x.2.1 0#64 = x.2.2) ∧
    (l.mode = .paused → (∃ x ∈ l.conds, ((s.coach c).tl x.2.1).live < x.2.2.toNat) → ∃ s' x, exec (.rdvTimeout c) s = .next s' ∧
      x ∈ l.conds ∧ ((s.coach c).tl x.2.1).live < x.2.2.toNat ∧ otherCoaches s s' c ∧
      stoppedBy s s' c 8 1 (wrapN (2 ^ 11 + x.2.1 * 2 ^ 8 + l.rdvId)) x.2.2) ∧
    (l.mode = .relaying true → ∃ s' n, exec (.noVariantTimeout c) s = .next s' ∧ n < 8 ∧ otherCoaches s s' c ∧
      stoppedBy s s' c 10 3 (wrapN l.relayNo) (wrapN n)) ∧
    (relayAt s c 0 → noStart s c → l.restoring = false → (s.coach c).cplan = (s.coach c).crect → tilesWhole s c → noRetrain s c →
      ∃ s' k, exec (.relayLoaderWork c) s = .next s' ∧ coachForecast s c k ∧ (s'.coach c).launch.relayClass = k ∧ otherCoaches s s' c ∧
      s'.pkg.flash.lives = s.tiles.map (fun x => (x.1, x.2.own.life)) ∧
      s'.pkg.flash.ports = (List.range 16).map (fun p => (p, s.pkg.port p)) ∧ (∀ t, t ∉ s.tilesOf c → s'.tile t = s.tile t) ∧
      (∀ n v, l.image.variants[n]? = some v → variantHolds s c k v →
        (∀ m w, m < n → l.image.variants[m]? = some w → ¬ variantHolds s c k w) →
        (s'.coach c).launch.mode = .relaying false ∧ (s'.coach c).launch.relayStep = 1 ∧ (s'.coach c).launch.chosen = n ∧
        (s'.coach c).launch.relayWall = s.wall + (if s.wall = l.sinceWall + 4096 then 63 else 64) ∧
        ∀ t ∈ s.tilesOf c, let x := s.tile t
          let b := min (banksOf v) (32 - retiredCount x.vault.retired)
          b ≤ x.vault.n → s'.tile t = { x with own := { x.own with lost := 0#32, groups := 0#8 }, vault := { x.vault with
            n := b, watermark := if b = x.vault.n then none else some (b * 8192, x.vault.n, x.vault.retired) } }) ∧
      ((∀ v ∈ l.image.variants, ¬ variantHolds s c k v) → (s'.coach c).launch.mode = .relaying true ∧
        ∀ t ∈ s.tilesOf c, let x := s.tile t
          s'.tile t = { x with own := { x.own with lost := 0#32, groups := 0#8 }, vault := { x.vault with rfclass := 4 } })) ∧
    (relayAt s c 7 → (∃ p i, p < 16 ∧ i < 4 ∧ s.coachHasPort c p = true ∧ (s.pkg.port (4 * (p / 4) + i)).half ≠ none) →
      exec (.relayLoaderWork c) s = .next s) ∧
    (relayAt s c 7 → ¬ (∃ p i, p < 16 ∧ i < 4 ∧ s.coachHasPort c p = true ∧ (s.pkg.port (4 * (p / 4) + i)).half ≠ none) →
      ∀ n r, s.relayHolding c = n :: r → l.restoring = false → l.isDomain = false → s.planReady c (l.variantImg n).tiles = true →
      (∀ x ∈ l.relayMaps, (s.tile x.1).own.owner = some c ∧ readsGood (s.tile x.1)) →
      ∃ s', exec (.relayLoaderWork c) s = .next s' ∧ (s'.coach c).crect = (s.coach c).cplan ∧ (s'.coach c).launch.chosen = n ∧
        (∀ t, inRect (s.coach c).crect t → ¬ inRect (s.coach c).cplan t → t < 384 → (s'.tile t).own.owner = none) ∧
        ∀ t, inRect (s.coach c).cplan t → ¬ inRect (s.coach c).crect t → t < 384 → (s.tile t).own.enabled = true →
          (s.tile t).own.failed = false → (s'.tile t).own.owner = some c ∧ (s'.tile t).vault.cells = []) ∧
    (relayAt s c 1 → noStart s c → ¬ noneMoves s c → (∀ t ∈ s.tilesOf c, readsGood (s.tile t) ∧ (s.tile t).vault.cells.wf = true) →
      ∃ s', exec (.relayLoaderWork c) s = .next s' ∧ (s'.coach c).launch = { l with relayWall := s.wall + 32 } ∧
        otherCoaches s s' c ∧ s'.pkg = s.pkg ∧ (∀ t, t ∉ s.tilesOf c → s'.tile t = s.tile t) ∧
        ∀ t ∈ s.tilesOf c, let v := (s.tile t).vault
          let v' := (s'.tile t).vault
          (v.watermark = none → s'.tile t = s.tile t) ∧
          ∀ w no ro, v.watermark = some (w + 1, no, ro) → v'.watermark = (if w = 0 then none else some (w, no, ro)) ∧
            s'.tile t = { s.tile t with vault := { v with cells := v'.cells, watermark := v'.watermark } } ∧
            (∀ col j, col < 16 → j < 256 →
              v'.cells.get (lineColumn v v.n v.retired w col j) = v.cells.get (lineColumn v no ro w col j)) ∧
            ∀ a, (∀ col j, col < 16 → j < 256 → a ≠ lineColumn v v.n v.retired w col j) → v'.cells.get a = v.cells.get a) ∧
    (relayAt s c 1 → noStart s c → noneMoves s c → (s.coach c).hat.go = true → l.restoring = false → (s.coach c).ops ≠ [] →
      exec (.relayLoaderWork c) s = .next (s.modCoach c fun k =>
        { k with hat := { k.hat with busy := true }, launch := { k.launch with relayStep := 2 } })) ∧
    (relayAt s c 1 → noStart s c → noneMoves s c → (s.coach c).hat.go = true → l.restoring = false → (s.coach c).ops = [] →
      s.pkg.flash.storeGood = false → ∃ s', exec (.relayLoaderWork c) s = .next s' ∧ (s'.coach c).hat.go = false ∧
        (s'.coach c).hat.busy = false ∧ (s'.coach c).hat.code = 0x3B) ∧
    (relayAt s c 1 → noStart s c → noneMoves s c → (s.coach c).hat.go = false → l.chosen ≠ l.variant → ∀ vi, l.image.variants[l.chosen]? = some vi →
      vi.tiles.Nodup → ∃ s', exec (.relayLoaderWork c) s = .next s' ∧ (s'.coach c).launch.variant = l.chosen ∧
        (s'.coach c).launch.relayStep = 4 ∧ (s'.coach c).launch.relayWall = s.wall + 1800 ∧ otherCoaches s s' c ∧ s'.pkg = s.pkg ∧
        (∀ t, t ∉ vi.tiles → s'.tile t = s.tile t) ∧ ∀ t ∈ vi.tiles,
          (s'.tile t).seq.code = look [] vi.code t ∧ (s'.tile t).seq.dict = look [] vi.dict t ∧
          (t ∈ l.tiles → s'.tile t = { s.tile t with
            seq := { (s.tile t).seq with code := look [] vi.code t, dict := look [] vi.dict t }
            own := { (s.tile t).own with errs := (s.tile t).own.errs.filter fun e => e.store != 5 } })) ∧
    (relayAt s c 4 ∨ (relayAt s c 1 ∧ noneMoves s c ∧ (s.coach c).hat.go = false ∧ l.chosen = l.variant ∧
        ∀ t ∈ (l.variantImg l.chosen).tiles, t ∈ l.tiles) → noStart s c → l.closingDone = none →
      ∃ s', exec (.relayLoaderWork c) s = .next s' ∧
      (s'.coach c).launch.relayStep = 5 ∧ (s'.coach c).launch.relayWall = s.wall + 128 ∧ otherCoaches s s' c ∧ s'.pkg = s.pkg ∧
      (∀ t, t ∈ s.tilesOf c → closedBanks (s.tile t).vault (s'.tile t).vault l.frc ∧ (s'.tile t).vault.rfclass = l.relayClass ∧
        s'.tile t = { s.tile t with vault := (s'.tile t).vault }) ∧ ∀ t, t ∉ s.tilesOf c → s'.tile t = s.tile t) ∧
    (relayAt s c 5 → l.lrec.type ≠ 2 →
      let ts := (l.variantImg l.chosen).tiles
      ∃ s', exec (.relayLoaderWork c) s = .next s' ∧ (s'.coach c).launch.mode = .running ∧ (s'.coach c).launch.frc = l.frc + 1 ∧
        (s'.coach c).launch.relayNo = l.relayNo + 1 ∧ (s'.coach c).launch.tiles = ts ∧ (s'.coach c).launch.lastRelay = some l.frc ∧
        (s'.coach c).launch.ranVariant = l.variant ∧ otherCoaches s s' c ∧ (l.variant = l.ranVariant → s'.pkg = s.pkg) ∧
        (l.variant ≠ l.ranVariant → ∃ e r, s'.pkg.flash.events = e :: r ∧ e.code = 2 ∧ e.d2 = wrapN (l.ranVariant * 2 ^ 8 + l.variant)) ∧
        ∀ t, s'.tile t = if t ∈ ts then { s.tile t with seq := { (s.tile t).seq with
            pc := (l.entry t).addr, sb := (l.entry t).sb, buf := 64, need := 0 } }
          else if t ∈ l.tiles ∨ t ∈ l.entered then { s.tile t with seq := SeqSt.reset } else s.tile t) ∧
    ∀ e, relayAt s c 1 → noneMoves s c → l.lrec.type = 2 → l.startEpoch = some e → e * 192 ≤ s.pkg.epoch →
      ∃ s', exec (.relayLoaderWork c) s = .next s' ∧ (s'.coach c).launch.mode = .running ∧ (s'.coach c).launch.frc = l.frc + 1 ∧
        (s'.coach c).launch.relayNo = l.relayNo + 1 ∧ (s'.coach c).launch.variant = l.chosen ∧
        (s'.coach c).launch.tiles = (l.variantImg l.chosen).tiles ∧ otherCoaches s s' c

/-- 02 R51, 04 R108, 11 R262, 17 R331, 19 R349, R358: the earliest committed phase settles on each tile (its snapshot slot is marked, or
takes the snapshot that waits for it), and the record of a tile whose place lies in a range is written; one whose commit the packages
do not share settles nowhere; a strike report is counted on its tile and, in a running launch, cancels the phase of its frame cycle,
or is recorded where that has settled, also once the launch is over; a package that is not up takes none. Where every tile has ended at
its last commit a later cycle is of no phase and it cancels nothing (notes/assumptions/50.md). How packages share a commit, `commits` and
`barred`, is the model's choice (notes/assumptions/27.md). The snapshot that waits is the model's choice (notes/assumptions/48.md), the settled bit of a slot its
reading (notes/assumptions/17.md). -/
def Obligations.SettlingAndStrikes : Prop :=
  (∀ (s : State) (c : Nat) (u : Unsettled) (us : List Unsettled), c < 16 → (s.coach c).launch.unsettled = u :: us →
    (s.coach c).launch.mode ≠ .finishing → ((s.coach c).launch.lrec.type ≠ 2 ∨ (s.coach c).launch.lrec.index ≠ 0 ∨
      ∀ p, 0 < p → p < (s.coach c).launch.lrec.count → (p, u.phase) ∈ (s.coach c).launch.commits) →
    ((∃ b, (s.coach c).launch.barred = some b ∧ b ≤ u.phase) → exec (.phaseSettle c) s = .next s) ∧
    ((∀ b, (s.coach c).launch.barred = some b → u.phase < b) → ∃ s', exec (.phaseSettle c) s = .next s' ∧ (s'.coach c).log.settled = ((s.coach c).log.settled + 1) % 2 ^ 32 ∧
      (∀ x ∈ (s'.coach c).launch.unsettled, x.phase ≠ u.phase) ∧
      (s'.coach c).launch.spans = (u.phase, u.start) :: (s.coach c).launch.spans ∧ otherCoaches s s' c ∧
      (∀ t ∈ (s.coach c).launch.tiles,
        (∀ n, (s.tile t).nextSnap = some n → n.phase = u.phase + 2 →
          (s'.tile t).snaps.getD (u.phase % 2) Snap.reset = n ∧ (s'.tile t).nextSnap = none) ∧
        ((∀ n, (s.tile t).nextSnap = some n → n.phase ≠ u.phase + 2) → (s'.tile t).nextSnap = (s.tile t).nextSnap ∧
          ∀ i, i < 2 → let n := (s.tile t).snaps.getD i Snap.reset
            (s'.tile t).snaps.getD i Snap.reset = if n.valid = true ∧ n.phase = u.phase then { n with settled := true } else n) ∧
        (s'.tile t).blk.journal = (s.tile t).blk.journal.filter (fun j => decide (u.phase < j.phase)) ∧
        (s'.tile t).regs = (s.tile t).regs ∧ (s'.tile t).sp = (s.tile t).sp ∧ (s'.tile t).blk.mem = (s.tile t).blk.mem) ∧
      ∀ (t w p : Nat) (d : BitVec 128), s.pkg.host.wf = true → u.digests = [(t, d, w)] →
        inRange (s.coach c) ((s.coach c).launch.lrec.ring.toNat +
          32 * (u.phase % (s.coach c).launch.lrec.np * (s.coach c).launch.tiles.length)) 32 p →
        let h := s'.pkg.host
        h.getN p 4 = u.phase % 2 ^ 32 ∧ h.getN (p + 4) 2 = t % 2 ^ 16 ∧ h.getN (p + 6) 1 = (s.coach c).launch.lrec.index % 256 ∧
        h.getN (p + 7) 1 = Launch.replaysOf (s.coach c).launch u.phase % 256 ∧ h.getN (p + 8) 16 = d.toNat ∧ h.getN (p + 24) 8 = w % 2 ^ 64 ∧
        ∀ a, (a < p ∨ p + 32 ≤ a) → h.get a = s.pkg.host.get a)) ∧
  ∀ (s : State) (t f k : Nat), t < 384 → (s.pkg.boot ≠ 6 → exec (.strikeReport t f k) s = .next s) ∧
    (s.pkg.boot = 6 → ∃ s', exec (.strikeReport t f k) s = .next s' ∧
    (s'.tile t).own.life.strikes = min ((s.tile t).own.life.strikes + 1) (2 ^ 32 - 1) ∧
    (s.rectCoach t = none → ∀ c, s'.coach c = s.coach c) ∧
    (∀ c, s.rectCoach t = some c → (s.coach c).launch.mode = .idle → otherCoaches s s' c ∧ (s'.coach c).launch = (s.coach c).launch ∧
      ((s.coach c).past.spans = [] ∨ Launch.settledAt (s.coach c).past f = false → s'.coach c = s.coach c) ∧
      ((s.coach c).past.spans ≠ [] → Launch.settledAt (s.coach c).past f = true → ∃ r, (s'.coach c).log.recs.head? = some r ∧
        r.cls = 6 ∧ r.code = 9 ∧ r.tile = t ∧ r.d2 = wrapN k)) ∧
    ∀ c, s.rectCoach t = some c → (s.coach c).launch.mode = .running → (s.coach c).launch.pending = none → otherCoaches s s' c ∧
      (s'.coach c).log.strikes = ((s.coach c).log.strikes + 1) % 2 ^ 32 ∧
      (Launch.settledAt (s.coach c).launch f = true → (s'.coach c).launch.mode = .running ∧ ∃ r, (s'.coach c).log.recs.head? = some r ∧
        r.cls = 6 ∧ r.code = 9 ∧ r.tile = t ∧ r.d2 = wrapN k) ∧
      (Launch.settledAt (s.coach c).launch f = false → (s.coach c).launch.phaseStart ≤ f →
        (∀ x ∈ (s.coach c).launch.tiles, endedAtCommit (s.tile x)) → (s'.coach c).launch = (s.coach c).launch) ∧
      (Launch.settledAt (s.coach c).launch f = false →
        (f < (s.coach c).launch.phaseStart ∨ ∃ x ∈ (s.coach c).launch.tiles, ¬ endedAtCommit (s.tile x)) →
        Launch.replaysOf (s.coach c).launch (phaseAt (s.coach c).launch f) < 3 →
        (s'.coach c).launch.mode = .closing ∧ (s'.coach c).launch.pending = some (phaseAt (s.coach c).launch f) ∧
        (s'.coach c).log.cancels = ((s.coach c).log.cancels + 1) % 2 ^ 32 ∧ ∃ r, (s'.coach c).log.recs.head? = some r ∧
          r.cls = 5 ∧ r.code = 1 ∧ r.tile = t ∧ r.d2 = wrapN f))

/-- 17 R331 to R334, Table 17-6: CLOSE leaves every bank Closed and begins RELOAD; RELOAD restores each tile and begins WAIT, or
stops the launch with 0x5/0x03 where a tile cannot be reloaded (the details of its record, phase and tile, are the model's reading,
notes/assumptions/19.md); RESTART waits for the ports of a domain's coach to retrain and take the epoch count (19 R357; which ports await
a SYNC flit is the model's choice, notes/assumptions/3.md), and runs the target phase from its first frame cycle. -/
def Obligations.ReplayProceeds : Prop :=
  ∀ (s : State) (c : Nat), c < 16 → (s.coach c).launch.tiles.Nodup →
    let l := (s.coach c).launch
    (l.mode = .closing → ∃ s', exec (.replayCloseDone c) s = .next s' ∧ (s'.coach c).launch.mode = .reloading ∧
      (s'.coach c).launch.sinceWall = s.wall ∧ (s'.coach c).launch.pending = l.pending ∧ otherCoaches s s' c ∧ s'.pkg = s.pkg ∧
      ∀ t, (s'.tile t).vault.cells = (s.tile t).vault.cells ∧ (s'.tile t).regs = (s.tile t).regs ∧
        (t ∈ l.tiles → ∀ b, b < 32 → ((s'.tile t).vault.bank b).st = .closed) ∧ (t ∉ l.tiles → s'.tile t = s.tile t)) ∧
    (∀ k, l.mode = .reloading → l.pending = some k → (∀ t ∈ l.tiles, (s.tile t).snapErrs k = []) →
      ((∀ t ∈ l.tiles, ((s.tile t).reload (l.dataOf t) k s.wall).good = true) → ∃ s', exec (.reloadDone c) s = .next s' ∧
        (s'.coach c).launch.mode = .waiting ∧ (s'.coach c).launch.pending = some k ∧ otherCoaches s s' c ∧
        ∀ t, (t ∈ l.tiles → s'.tile t = { ((s.tile t).reload (l.dataOf t) k s.wall).tile with own := (s'.tile t).own }) ∧
          (t ∉ l.tiles → s'.tile t = s.tile t)) ∧
      ((∃ t ∈ l.tiles, ((s.tile t).reload (l.dataOf t) k s.wall).good = false) → ∃ s' t, exec (.reloadDone c) s = .next s' ∧ t ∈ l.tiles ∧
        (s'.coach c).launch.mode = .finishing ∧ (s'.coach c).launch.status = 0x85 ∧ (s'.coach c).log.cls = 5 ∧ (s'.coach c).log.code = 3 ∧
        ((∀ x ∈ l.tiles, ((s.tile x).reload (l.dataOf x) k s.wall).lost = []) → stoppedBy s s' c 5 3 (wrapN k) (wrapN t)))) ∧
    (∀ k, l.mode = .waiting → l.pending = some k → s.portsReady c = false → exec (.replayRestart c) s = .next s) ∧
    ∀ k, l.mode = .waiting → l.pending = some k → (∀ u ∈ l.unsettled, k ≤ u.phase) → s.portsReady c = true → ∃ s', exec (.replayRestart c) s = .next s' ∧
      (s'.coach c).launch.mode = .running ∧ (s'.coach c).launch.frc = l.startOf k ∧ (s'.coach c).launch.phase = k ∧
      (s'.coach c).launch.pending = none ∧ (s'.coach c).launch.unsettled = [] ∧ otherCoaches s s' c ∧ s'.pkg = s.pkg ∧
      (s'.coach c).log.restarts = ((s.coach c).log.restarts + 1) % 2 ^ 32 ∧
      (l.replays.any (fun x => x.1 == k) = true → Launch.replaysOf (s'.coach c).launch k = l.replaysOf k + 1) ∧
      ∀ t, (t ∉ l.tiles → s'.tile t = s.tile t) ∧ (t ∈ l.tiles →
        s'.tile t = { s.tile t with seq := { (s.tile t).seq with buf := 64, need := 0 } })

/-- 17 R328, R329, 12 R268, R271, 02 R36: a hold that ends stops the launch; a launch whose work is done ends with its completion
record (where its address lies in a range) and its interrupt, and leaves the coach idle; another package's stop message holds or stops the launch with its class and code, and writes
no record here. What else a stop leaves of the pushes in flight, and how packages hear of each other, rest on
notes/assumptions/4.md and 31.md. -/
def Obligations.LaunchesEnd : Prop :=
  ∀ (s : State) (c : Nat), c < 16 →
    let l := (s.coach c).launch
    (∀ r, l.mode = .held → l.hold = some r → ∃ s', exec (.faultHoldExpiry c) s = .next s' ∧ otherCoaches s s' c ∧
      (s'.coach c).launch.mode = .finishing ∧ (s'.coach c).launch.status = 0x80 + r.cls ∧ (s'.coach c).launch.frc = l.frc + 1 ∧
      (s'.coach c).log.cls = r.cls ∧ (s'.coach c).log.code = r.code ∧ (s'.coach c).log.tag = l.lrec.tag) ∧
    (l.mode = .finishing → s.workDone c = true → ∃ s', exec (.launchCompletion c) s = .next s' ∧
      (s'.coach c).launch.mode = .idle ∧ (s'.coach c).launch.tiles = [] ∧ (s'.coach c).hat.busy = false ∧
      ((∀ t, t ∈ l.tiles ∨ t ∈ s.tilesOf c → readsGood (s.tile t)) → otherCoaches s s' c) ∧
      (∀ t ∈ l.tiles, (s'.tile t).seq = SeqSt.reset ∧ (s'.tile t).regs = (s.tile t).regs ∧ (s'.tile t).sp = (s.tile t).sp) ∧
      (l.lrec.irq = true → Output.msix l.fn l.lrec.msix ∈ s'.pkg.out) ∧
      ∀ p, s.pkg.host.wf = true → inRange (s.coach c) l.lrec.completion.toNat 16 p →
        s'.pkg.host.getN p 1 = l.status % 256 ∧ s'.pkg.host.getN (p + 1) 1 = l.variant % 256 ∧ s'.pkg.host.getN (p + 2) 2 = 0 ∧
        s'.pkg.host.getN (p + 4) 4 = l.lrec.tag.toNat ∧ s'.pkg.host.getN (p + 8) 8 = l.lastIssued % 2 ^ 64) ∧
    (∀ cls code frame, s.pkg.boot ≠ 6 → exec (.stopMessage ⟨c, cls, code, frame⟩) s = .next s) ∧
    ∀ cls code frame, s.pkg.boot = 6 → l.mode = .running →
      (cls ∈ [1, 2, 3, 4, 6, 7, 11] → ∃ s' r, exec (.stopMessage ⟨c, cls, code, frame⟩) s = .next s' ∧
        (s'.coach c).launch = { l with
          mode := .held, hold := some r, sinceWall := s.wall
          barred := if cls = 4 ∧ code = 2 then some (match l.barred with | some b => min b (phaseAt l frame) | none => phaseAt l frame)
            else l.barred } ∧ r.cls = cls ∧ r.code = code ∧ r.frame = frame ∧
        otherCoaches s s' c ∧ s'.pkg = s.pkg ∧ s'.tiles = s.tiles) ∧
      (cls ∈ [5, 8, 9, 10] → ∃ s', exec (.stopMessage ⟨c, cls, code, frame⟩) s = .next s' ∧ (s'.coach c).launch.mode = .finishing ∧
        (s'.coach c).launch.status = 0x80 + cls ∧ (s'.coach c).launch.frc = l.frc ∧ (s'.coach c).log.cls = cls ∧
        (s'.coach c).log.code = code ∧ (s'.coach c).log.recs.length = (s.coach c).log.recs.length ∧ otherCoaches s s' c ∧
        s'.pkg = s.pkg ∧ ∀ t, s'.tile t = { s.tile t with vault := (s'.tile t).vault })

/-- 12 R263 to R265, R268: a tail write, enabling and disabling a queue change that entry alone, and only for a function that may
reach it; the lap rule stops a queue that holds more records than its ring. A decision serves one record of the queue it picks. -/
def Obligations.QueueEventsAndDispatch : Prop :=
  (∀ (s : State) (fn q : Nat), q < 32768 → fn < 130 →
    let x := s.queue q
    (s.pkg.boot = 6 → (128 ≤ fn ∨ x.owner = fn) →
      (∀ tail, ∃ s', exec (.queueTailWrite fn q tail) s = .next s' ∧ s' = s.setQueue q (s'.queue q) ∧
        let tails := if tail = x.tail then x.tails else x.tails ++ [(tail, s.wall)]
        s'.queue q = (if 2 ^ x.lsz < (tail - x.head).toNat then { x with tail := tail, tails := tails, status := 1, en := false }
          else { x with tail := tail, tails := tails })) ∧
      (∃ s', exec (.queueEnable fn q) s = .next s' ∧ s' = s.setQueue q (s'.queue q) ∧
        s'.queue q = (if x.en = false ∧ 4 ≤ x.lsz ∧ x.lsz ≤ 16 ∧ x.owner < 130 then { x with en := true, head := x.tail, status := 0, tails := [] } else x)) ∧
      ∃ s', exec (.queueDisable fn q) s = .next s' ∧ s' = s.setQueue q (s'.queue q) ∧ s'.queue q = { x with en := false }) ∧
    ((s.pkg.boot ≠ 6 ∨ (fn < 128 ∧ x.owner ≠ fn)) → (∀ tail, exec (.queueTailWrite fn q tail) s = .next s) ∧
      exec (.queueEnable fn q) s = .next s ∧ exec (.queueDisable fn q) s = .next s)) ∧
  ∀ (s : State) (c q : Nat) (x : Queue) (b : List Byte), c < 16 → (s.coach c).launch.mode = .idle → s.pkg.boot = 6 →
    s.halfTraining c = false → (∀ p ∈ s.eligible c, p.2.lapped = false) → pick (s.coach c).rr (s.eligible c) = some (q, x) →
    s.hread c (x.base.toNat + 128 * (x.head.toNat % 2 ^ x.lsz)) 128 = .ok b → ∃ s', exec (.dispatchDecision c) s = .next s' ∧
      otherCoaches s s' c ∧ (s'.queue q).head = x.head + 1 ∧ (s'.queue q).started = x.started + 1 ∧
      (∀ k, k ≠ q → s'.queue k = s.queue k) ∧
      (recordOk s.pkg.index (s.msixSize x.owner) b = false → (s.coach c).cplan = (s.coach c).crect →
        (s'.coach c).launch.mode = .idle ∧ s'.tiles = s.tiles) ∧
      ∀ img v vs, recordOk s.pkg.index (s.msixSize x.owner) b = true → s.loadChecks c (rawRecord b) = .ok img →
        s.holding c (s.coachClass c) img.variants = v :: vs →
        (∀ w ∈ img.variants, ∀ t ∈ w.tiles, (s.tile t).vault.tableOk = true) →
        (s'.coach c).launch.mode ≠ .idle ∧ (s'.coach c).launch.lrec = rawRecord b ∧ (s'.coach c).launch.fn = x.owner ∧
        (s'.coach c).launch.image = img ∧ (s'.coach c).launch.variant = v ∧
        (s'.coach c).launch.tiles = (Launch.variantImg { Launch.reset with image := img } v).tiles

/-- 12 R263 to R265, R272, R279, 13 R291, 14 R293, 12 R275, 01 R31: what a register write changes: the fields of a queue entry, which are
fixed while it is enabled, its owner and coach by a physical function alone, with a new configuration image; a physical function's
plan, which an idle coach takes at once where it holds, Hatbox requests and addresses, translation registers and far sessions, a
function's own APSEL; an HBREQ written while busy is ignored. -/
def Obligations.HostRegisterWrites : Prop :=
  ∀ (s : State) (fn c : Nat), c < 16 → s.pkg.boot = 6 →
    (∀ x, fn < 130 → ∃ s', exec (.registerWrite fn 0x200000 x) s = .next s' ∧ s'.tiles = s.tiles ∧ s'.coaches = s.coaches ∧
      s'.pkg = { s.pkg with apsel := s'.pkg.apsel } ∧ getK 0#64 s'.pkg.apsel fn = x &&& 0x000000FF000007FF#64 ∧
      ∀ g, g ≠ fn → getK 0#64 s'.pkg.apsel g = getK 0#64 s.pkg.apsel g) ∧
    (∀ q x, q < 32768 → fn < 130 → (128 ≤ fn ∨ (s.queue q).owner = fn) →
      (∃ s', exec (.registerWrite fn (32 * q) x) s = .next s' ∧ onlyQueue s s' q ∧
        s'.queue q = if (s.queue q).en then s.queue q else { s.queue q with base := x &&& 0xFFFFFFFFFFFFFF80#64 }) ∧
      ∃ s', exec (.registerWrite fn (32 * q + 16) x) s = .next s' ∧ s'.tiles = s.tiles ∧ s'.coaches = s.coaches ∧
        s'.queue q = queueConfigured (s.queue q) (decide (128 ≤ fn)) x.toNat ∧ (∀ k, k ≠ q → s'.queue k = s.queue k) ∧
        ((s'.queue q).owner = (s.queue q).owner → (s'.queue q).coach = (s.queue q).coach → onlyQueue s s' q) ∧
        ((s'.queue q).owner ≠ (s.queue q).owner ∨ (s'.queue q).coach ≠ (s.queue q).coach →
          getK (0, 0) s'.pkg.flash.cfg.queues q = ((s'.queue q).owner, (s'.queue q).coach) ∧
          s'.pkg.flash.cfg.version = s.pkg.flash.cfg.version + 1)) ∧
    (∀ q x k, q < 32768 → fn < 128 → k < 4 → (s.queue q).owner ≠ fn → exec (.registerWrite fn (32 * q + 8 * k) x) s = .next s) ∧
    (128 ≤ fn → fn < 130 →
      (∀ x, exec (.registerWrite fn (0x100000 + c * 0x1000) x) s =
        .next (s.modCoach c fun k => { k with root := x &&& 0x000FFFFFFFFFF001#64 })) ∧
      (∀ e x, e < 64 → ∃ s', exec (.registerWrite fn (0x100000 + c * 0x1000 + 0x100 + 0x20 * e) x) s = .next s' ∧ otherCoaches s s' c ∧
        s'.coach c = { s.coach c with ranges := (s'.coach c).ranges } ∧ s'.pkg = s.pkg ∧ s'.tiles = s.tiles ∧
        (getK (0#64, 0#64, 0#64) (s'.coach c).ranges e) =
          (x &&& 0xFFFFFFFFFFFFF001#64, (getK (0#64, 0#64, 0#64) (s.coach c).ranges e).2) ∧
        ∀ d, d ≠ e → getK (0#64, 0#64, 0#64) (s'.coach c).ranges d = getK (0#64, 0#64, 0#64) (s.coach c).ranges d) ∧
      (∀ e x i, e < 64 → i < 2 → ∃ s', exec (.registerWrite fn (0x100000 + c * 0x1000 + 0x108 + 0x20 * e + 8 * i) x) s = .next s' ∧
        otherCoaches s s' c ∧ s'.coach c = { s.coach c with ranges := (s'.coach c).ranges } ∧ s'.pkg = s.pkg ∧ s'.tiles = s.tiles ∧
        (∀ r y, r = getK (0#64, 0#64, 0#64) (s.coach c).ranges e → y = x &&& 0xFFFFFFFFFFFFF000#64 →
          getK (0#64, 0#64, 0#64) (s'.coach c).ranges e = if i = 0 then (r.1, y, r.2.2) else (r.1, r.2.1, y)) ∧
        ∀ d, d ≠ e → getK (0#64, 0#64, 0#64) (s'.coach c).ranges d = getK (0#64, 0#64, 0#64) (s.coach c).ranges d) ∧
      (∀ x, exec (.registerWrite fn (0x100000 + c * 0x1000 + 0x58) x) s =
        .next (s.modCoach c fun k => { k with hat := { k.hat with dst := x &&& 0xFFFFFFFFFFFFF000#64 } })) ∧
      (∀ x, exec (.registerWrite fn (0x100000 + c * 0x1000 + 0x60) x) s =
        .next (s.modCoach c fun k => { k with hat := { k.hat with peer := x &&& 0xFFFFFFFFFFFFF000#64 } })) ∧
      (∀ x w, w = x &&& 0x000000009F1FF00F#64 →
        ((s.coach c).launch.mode ≠ .idle ∨ w = (s.coach c).crect ∨ ¬ planHolds s c w → exec (.cplanWrite fn c x) s =
          .next (s.modCoach c fun k => { k with cplan := w })) ∧
        ((s.coach c).launch.mode = .idle → w ≠ (s.coach c).crect → planHolds s c w → ∃ s', exec (.cplanWrite fn c x) s = .next s' ∧
          otherCoaches s s' c ∧ s'.coach c = { s.coach c with cplan := w, crect := w } ∧
          getK 0#64 s'.pkg.flash.cfg.rects c = w ∧ s'.pkg.flash.cfg.version = s.pkg.flash.cfg.version + 1 ∧
          ∀ t, t < 384 →
            (inRect (s.coach c).crect t → ¬ inRect w t → s'.tile t = { s.tile t with own := { (s.tile t).own with owner := none } }) ∧
            (inRect w t → ¬ inRect (s.coach c).crect t → (s.tile t).own.enabled = true → (s.tile t).own.failed = false →
              (s'.tile t).own.owner = some c ∧ (s'.tile t).vault.cells = []) ∧
            ((inRect w t ↔ inRect (s.coach c).crect t) → s'.tile t = s.tile t))) ∧
      ((s.coach c).hat.busy = false →
        exec (.hatboxKeepRequest fn c) s = .next (s.modCoach c fun k => { k with hat := { k.hat with disp := 0#2, go := true } }) ∧
        exec (.hatboxHandoffRequest fn c) s = .next (s.modCoach c fun k => { k with hat := { k.hat with disp := 1#2, go := true } })) ∧
      ((s.coach c).hat.busy = true → ∃ s', exec (.hatboxKeepRequest fn c) s = .next s' ∧ exec (.hatboxHandoffRequest fn c) s = .next s' ∧
        s'.tiles = s.tiles ∧ s'.pkg = s.pkg ∧ ∀ d, s'.coach d = s.coach d) ∧
      ∀ row peer cert attested keyed ends, row < 1024 → ∃ s', exec (.farSessionProgram fn row peer ⟨cert, attested, keyed⟩ ends) s = .next s' ∧
        s'.tiles = s.tiles ∧ s'.coaches = s.coaches ∧ s'.pkg = { s.pkg with sessions := s'.pkg.sessions } ∧
        (∃ key, s'.session row = ⟨peer, cert, key, ends, if attested = false then 2 else if keyed = false then 1 else 0, 0, 0⟩) ∧
        ∀ r, r ≠ row → s'.session r = s.session r) ∧
    (fn < 128 → (∀ x, exec (.cplanWrite fn c x) s = .next s) ∧ exec (.hatboxKeepRequest fn c) s = .next s ∧
      exec (.hatboxHandoffRequest fn c) s = .next s ∧ (∀ x, exec (.hatboxRestore fn c x) s = .next s) ∧
      ∀ row peer cert attested keyed ends, row < 1024 → exec (.farSessionProgram fn row peer ⟨cert, attested, keyed⟩ ends) s = .next s)

/-- 12 R279: through its aperture a function reads and writes bytes of the vault, scratchpad or block table (with BTST after it) of
the tile that its APSEL selects, of no tile in a launch; elsewhere, and in a bank that is not in the tile's map, a read gives ones
and a write has no effect; a package that is not up answers no read (01 R33). BTST behind the 65,536 bytes of the block table, and ones
for a bank that is not in the map, are the model's reading (notes/assumptions/40.md). -/
def Obligations.ApertureMovesBytes : Prop :=
  ∀ (s : State) (fn off : Nat), fn < 130 →
    let t := selTile s fn
    let x := s.tile t
    let o := (if selSpace s fn = 0 then selSeg s fn * 2 ^ 26 else 0) + off
    (∀ n, reaches s fn t → settledTile s t → off + n ≤ 2 ^ 26 → selSpace s fn = 1 → off + n ≤ 2 ^ 21 → x.own.errs = [] →
      ∃ s', exec (.apertureRead fn off n) s = .next s' ∧ apertureGave s s' fn t ((List.range n).map fun i => x.sp.get (o + i))) ∧
    (∀ n, reaches s fn t → settledTile s t → off + n ≤ 2 ^ 26 → selSpace s fn = 0 → o + n ≤ 2 ^ 30 → x.own.errs = [] → x.own.lanes = 0#8 →
      ∃ s', exec (.apertureRead fn off n) s = .next s' ∧ apertureGave s s' fn t ((List.range n).map fun i =>
        if inMap x.vault (o + i) then x.vault.cells.get (vaultByte x.vault (o + i)) else 0xFF#8)) ∧
    (∀ n, reaches s fn t → settledTile s t → selSpace s fn = 2 → off + n ≤ 65544 → x.own.errs = [] →
      ∃ s', exec (.apertureRead fn off n) s = .next s' ∧ apertureGave s s' fn t ((List.range n).map fun i =>
        if o + i < 65536 then x.blk.mem.get (o + i) else BitVec.ofNat 8 (btstOf x.blk / 2 ^ (8 * (o + i - 65536))))) ∧
    (∀ n, s.pkg.boot ≠ 6 → exec (.apertureRead fn off n) s = .next s) ∧
    (∀ n, s.pkg.boot = 6 → ¬ reaches s fn t → ∃ s', exec (.apertureRead fn off n) s = .next s' ∧ s'.tiles = s.tiles ∧ s'.coaches = s.coaches ∧
      s'.pkg = { s.pkg with out := s.pkg.out ++ [.readData fn (List.replicate n 0xFF#8)] }) ∧
    (∀ b : List Byte, reaches s fn t → selSpace s fn = 1 → off + b.length ≤ 2 ^ 21 → x.memOk →
      ∃ s', exec (.apertureWrite fn off b) s = .next s' ∧ onlyTile s s' t ∧ (s'.tile t).memOk ∧
        s'.tile t = { x with sp := (s'.tile t).sp, own := { x.own with errs := (s'.tile t).own.errs } } ∧
        ∀ a, (s'.tile t).sp.get a = if off ≤ a then b.getD (a - off) (x.sp.get a) else x.sp.get a) ∧
    (∀ b : List Byte, reaches s fn t → selSpace s fn = 0 → off + b.length ≤ 2 ^ 26 → o + b.length ≤ 2 ^ 30 → x.memOk →
      (∀ i j, i < b.length → j < b.length → vaultByte x.vault (o + i) = vaultByte x.vault (o + j) → i = j) →
      (∀ i, i < b.length → inMap x.vault (o + i) = true) →
      ∃ s', exec (.apertureWrite fn off b) s = .next s' ∧ onlyTile s s' t ∧ (s'.tile t).memOk ∧
        s'.tile t = { x with
          vault := { x.vault with cells := (s'.tile t).vault.cells }, own := { x.own with errs := (s'.tile t).own.errs } } ∧
        (∀ i, i < b.length → (s'.tile t).vault.cells.get (vaultByte x.vault (o + i)) = b.getD i 0#8) ∧
        ∀ a, (∀ i, i < b.length → a ≠ vaultByte x.vault (o + i)) → (s'.tile t).vault.cells.get a = x.vault.cells.get a) ∧
    (∀ b : Byte, reaches s fn t → selSpace s fn = 0 → off < 2 ^ 26 → o < 2 ^ 30 → inMap x.vault o = false →
      ∃ s', exec (.apertureWrite fn off [b]) s = .next s' ∧ ∀ k, s'.tile k = s.tile k) ∧
    (∀ b : List Byte, reaches s fn t → selSpace s fn = 2 → off + b.length ≤ 65536 → x.memOk →
      ∃ s', exec (.apertureWrite fn off b) s = .next s' ∧ onlyTile s s' t ∧ (s'.tile t).memOk ∧
        s'.tile t = { x with blk := { x.blk with mem := (s'.tile t).blk.mem }, own := { x.own with errs := (s'.tile t).own.errs } } ∧
        ∀ a, (s'.tile t).blk.mem.get a = if off ≤ a then b.getD (a - off) (x.blk.mem.get a) else x.blk.mem.get a) ∧
    (∀ b : List Byte, reaches s fn t → selSpace s fn = 2 → off = 65536 → b.length = 8 →
      ∃ s', exec (.apertureWrite fn off b) s = .next s' ∧ onlyTile s s' t ∧ (s'.tile t).blk.mem = x.blk.mem ∧
        (s'.tile t).blk.head = natOf b / 2 ^ 32 % 2 ^ 14 ∧ (s'.tile t).blk.free = natOf b / 2 ^ 16 % 2 ^ 15 ∧
        (s'.tile t).blk.ops = natOf b % 2 ^ 11) ∧
    (∀ b : List Byte, ¬ reaches s fn t → exec (.apertureWrite fn off b) s = .next s)

/-- 14 R302, R304, R305: a restore whose checks all pass places the image: its phase, relay number, variant and lineage, its tiles'
scratchpad, table and block table from the segments; a restore of one package then stands at a relay point with the lineage in the
counter store, one of a domain waits until its packages agree, with the store and HBSTAT as they were (that START is the word for it is the
model's choice, notes/assumptions/27.md); it is in progress until then.
One whose record cannot be read leaves an idle coach with code 0x04 and empty vaults; where the counter store is bad every one so
ends with 0x3B (20 R369). -/
def Obligations.RestoresPlaceTheImage : Prop :=
  ∀ (s : State) (fn c : Nat) (rec : Word), c < 16 → 128 ≤ fn → fn < 130 → s.pkg.boot = 6 → (s.coach c).launch.mode = .idle →
    rec.getLsbD 0 = true →
    (∀ b img h gs, restoreAdmitted s fn c rec b img h gs → ∃ s', exec (.hatboxRestore fn c rec) s = .next s' ∧ otherCoaches s s' c ∧
      let k := s'.coach c
      let l := k.launch
      let vi := Launch.variantImg { Launch.reset with image := img } (h.bytes.num 0x84 1)
      (l.restored = true ∧ l.restoring = true ∧ l.image = img ∧ l.fn = fn ∧ l.lrec = rawRecord b ∧ l.variant = h.bytes.num 0x84 1 ∧
        l.tiles = vi.tiles ∧ l.relayNo = h.bytes.num 0x80 4 ∧ l.lineage = h.lineage ∧ k.hat.busy = true ∧ l.hatCtr = h.k ∧
        l.hatMoved = h.handoff ∧ k.ops = []) ∧
      (∀ t ts, vi.tiles = t :: ts → l.phase = (segOf gs t 1 0).num 0 8 % 2 ^ 32 ∧ l.frc = (segOf gs t 1 0).num 8 8) ∧
      ((rawRecord b).type ≠ 2 → (∀ i, i < 8 → ∃ p, inRange (s.coach c) ((rawRecord b).mirror.toNat + 8 * i) 8 p) →
        l.mode = .relaying false ∧ k.hat.code = 0 ∧ k.hat.relay = h.bytes.num 0x80 4 ∧ k.hat.moved = h.handoff ∧
        k.hat.ctr = BitVec.ofNat 64 h.k ∧ s'.lineageOf h.lineage = some ⟨h.lineage, h.k, false⟩) ∧
      ((rawRecord b).type = 2 → (∀ i, i < 8 → ∃ p, inRange (s.coach c) ((rawRecord b).mirror.toNat + 8 * i) 8 p) →
        l.mode = .starting ∧ s'.pkg.flash.store = s.pkg.flash.store ∧ k.hat.relay = (s.coach c).hat.relay ∧
        k.hat.moved = (s.coach c).hat.moved ∧ k.hat.ctr = (s.coach c).hat.ctr) ∧
      ∀ t ∈ s.tilesOf c,
        (s'.tile t).sp = Mem.putL [] 0 (segOf gs t 2 0).toList ∧ (s'.tile t).h = ((segOf gs t 1 0).num 0x505 1 == 1) ∧
        (s'.tile t).seq.sb = (segOf gs t 1 0).num 16 8 ∧
        (s'.tile t).blk = BlkSt.ofImage (Mem.putL [] 0 ((segOf gs t 3 0).toList.take 65536)) (BitVec.ofNat 64 ((segOf gs t 3 0).num 65536 8)) ∧
        (s'.tile t).vault.vttA = hatTable s.pkg.flash.cfg gs t h.handoff false ∧
        (s'.tile t).vault.vttB = hatTable s.pkg.flash.cfg gs t h.handoff true ∧
        ∀ i, i < 32 → ((s'.tile t).vault.bank i).ptr = ((s.tile t).vault.bank i).ptr) ∧
    ((s.coach c).cplan = (s.coach c).crect → s.pkg.flash.storeGood = false ∨
        (∃ e, s.hread c (rec &&& ~~~0x7F#64).toNat 128 = .error e) → ∃ s', exec (.hatboxRestore fn c rec) s = .next s' ∧
      (s'.coach c).launch.mode = .idle ∧ (s'.coach c).hat.code = (if s.pkg.flash.storeGood then 4 else 0x3B) ∧ (s'.coach c).hat.busy = false ∧ otherCoaches s s' c ∧
      ∀ t, (s'.tile t).vault.cells = (if (s.tile t).own.owner = some c ∧ t < 384 then [] else (s.tile t).vault.cells) ∧
        (s'.tile t).regs = (s.tile t).regs ∧ (s'.tile t).sp = (s.tile t).sp)

/-- 12 R274, 10 R245, R246, 11 R254: a column of a copy whose host piece and bank are ready moves whole, and a copy all of whose
columns have moved is complete on its timeline; an engine's ACT or precharge of a bank it may command opens or closes the row. 12 R276
to R278: an engine's column read for a `.send` stages the column and sends it as a frame under the session's next nonce, and its column
write puts the column that has come, or a result, in its place. The order of a column's checks and the translation in force when it moves
(notes/assumptions/15.md), what of a grant a command must fit (16.md) and the frame of each column with its nonce (24.md) are the model's
choices. -/
def Obligations.CopiesMoveColumns : Prop :=
  (∀ (s : State) (c tl num k p : Nat) (o : AsyncOp), c < 16 → o.tl = tl → o.num = num → opIs s c tl num o → copyReady s c o k p →
    let a := colAfter o.va k
    (o.kind = .copyIn → ∃ s', exec (.copyEngineColumn c tl num k) s = .next s' ∧ s'.pkg = s.pkg ∧ otherCoaches s s' c ∧
      (s'.tile o.tile).vault.cells = ((s.tile o.tile).vault.setColumn a (s.pkg.host.vec p)).cells ∧
      ((s'.tile o.tile).vault.engBank a.bank).wr = (if a.bank < 32 then some s.wall else none) ∧
      (s'.tile o.tile).regs = (s.tile o.tile).regs ∧ (s'.tile o.tile).sp = (s.tile o.tile).sp ∧
      (∀ t, t ≠ o.tile → s'.tile t = s.tile t) ∧ (s'.coach c).op tl num = some { o with moved := k :: o.moved }) ∧
    (o.kind = .copyOut → ∃ s', exec (.copyEngineColumn c tl num k) s = .next s' ∧ otherCoaches s s' c ∧
      s'.pkg = { s.pkg with host := s.pkg.host.putL p (bytesOf ((s.tile o.tile).vault.column a).toNat 256) } ∧
      (s'.tile o.tile).vault.cells = (s.tile o.tile).vault.cells ∧ (s'.tile o.tile).regs = (s.tile o.tile).regs ∧
      (∀ t, t ≠ o.tile → s'.tile t = s.tile t) ∧ (s'.coach c).op tl num = some { o with moved := k :: o.moved })) ∧
  (∀ (s : State) (c tl num : Nat) (o : AsyncOp), c < 16 → tl < 8 → o.tl = tl → o.num = num → opIs s c tl num o →
    (o.kind = .copyIn ∨ o.kind = .copyOut) → o.len ≤ o.moved.length → ∃ s', exec (.acopyComplete c tl num) s = .next s' ∧
      (s'.coach c).op tl num = none ∧ completed ((s'.coach c).tl tl) num ∧ otherOps s s' c tl num ∧ otherCoaches s s' c) ∧
  (∀ (s : State) (t c tl num k : Nat) (o : AsyncOp), t < 384 → c < 16 → o.tl = tl → o.num = num → farIs s t c tl num o →
    let a := colAfter (farField o.desc 8 8) k
    let col := (s.tile t).vault.column a
    let n := farSession o.desc
    (o.kind = .send → k < o.cols → o.piece 64 k = none → s.portCol c o false a = true → (s.tile t).columnErr a = none →
      (farFormat o.desc ≠ 4 → ∃ s' text tag, exec (.engineVaultCommand t (.rdCol tl num k)) s = .next s' ∧
        engineOn (s.tile t) (s'.tile t) a.bank (fun e => { e with rd := some s.wall }) ∧ (∀ x, x ≠ t → s'.tile x = s.tile x) ∧
        otherCoaches s s' c ∧ otherOps s s' c tl num ∧
        (s'.coach c).op tl num = some { o with
          moved := k :: o.moved
          staged := (farOwn o.desc, k, colOf64 (farDecode (farFormat o.desc) (farEncode (farFormat o.desc) (laneList col 32)))) ::
            (64, k, col) :: o.staged } ∧
        s'.session n = { s.session n with nonce := (s.session n).nonce + 1 } ∧ (∀ x, x ≠ n → s'.session x = s.session x) ∧
        s'.pkg.out = s.pkg.out ++ [.farFrame n (farNonce n (s.session n).nonce) text tag]) ∧
      (farFormat o.desc = 4 → o.piece 65 k = none → ∃ s', exec (.engineVaultCommand t (.rdCol tl num k)) s = .next s' ∧
        engineOn (s.tile t) (s'.tile t) a.bank (fun e => { e with rd := some s.wall }) ∧ (∀ x, x ≠ t → s'.tile x = s.tile x) ∧
        otherCoaches s s' c ∧ otherOps s s' c tl num ∧ s'.pkg = s.pkg ∧
        (s'.coach c).op tl num = some { o with staged := (64, k, col) :: o.staged })) ∧
    ∀ mark v x, farColumn o k mark v x → o.has mark = false → s.portCol c o true v = true → ∃ s',
      exec (.engineVaultCommand t (.wrCol tl num k)) s = .next s' ∧ s'.pkg = s.pkg ∧ otherCoaches s s' c ∧ otherOps s s' c tl num ∧
      (s'.tile t).vault.cells = ((s.tile t).vault.setColumn v x).cells ∧
      ((s'.tile t).vault.engBank v.bank).wr = (if v.bank < 32 then some s.wall else none) ∧
      (s'.tile t).regs = (s.tile t).regs ∧ (s'.tile t).sp = (s.tile t).sp ∧ (∀ y, y ≠ t → s'.tile y = s.tile y) ∧
      (s'.coach c).op tl num = some { o with moved := mark :: o.moved }) ∧
  ∀ (s : State) (t b row c : Nat) (o : AsyncOp) (left : Option Nat), t < 384 → s.tileOp t = some (c, o) → (s.tile o.tile).own.owner = o.owner →
    s.grant c t b = some left →
    ((s.tile t).vault.engActOk b s.wall left = true → row < 8192 → ∃ s', exec (.engineVaultCommand t (.act b row)) s = .next s' ∧
      onlyTile s s' t ∧ s'.tile t = { s.tile t with vault := { (s.tile t).vault with
        eng := (s.tile t).vault.eng.setIfInBounds b { (s.tile t).vault.engBank b with row := some row, act := some s.wall } } }) ∧
    ((s.tile t).vault.engPreOk b s.wall left = true → ∃ s', exec (.engineVaultCommand t (.pre b)) s = .next s' ∧
      onlyTile s s' t ∧ s'.tile t = { s.tile t with vault := { (s.tile t).vault with
        eng := (s.tile t).vault.eng.setIfInBounds b { (s.tile t).vault.engBank b with row := none, pre := some s.wall } } })

/-- 12 R275 to R278, 20 R363, R365: when the member wait of a farm ends its root fixes the present set for good and tells the members, and
where no member has come it is empty; another member takes the root's word, and where the root named by a `farm.bcast` has not come its S
is what has; a far operation that is done completes; a frame that fails
its tag is counted and the sixteenth in a row closes the session; a good one delivers its column once. The frame that carries the
present set is the model's choice (notes/assumptions/24.md). -/
def Obligations.FarOperationsProceed : Prop :=
  (∀ (s : State) (c tl num : Nat) (o : AsyncOp), c < 16 → (s.coach c).op tl num = some o → o.kind.isFarm = true →
    let n := farSession o.desc
    let wait := Instr.farmMemberWaitExpiry c tl num
    (∀ m, o.present = some m → exec wait s = .next s) ∧
    (o.present = none → (if o.kind = .bcast then some (farRoot o.desc) else o.come.head?) = some (farOwn o.desc) →
      ∃ s' text tag, exec wait s = .next s' ∧ s'.tiles = s.tiles ∧ otherCoaches s s' c ∧ otherOps s s' c tl num ∧
        (s'.coach c).op tl num = some { o with present := some o.come } ∧
        s'.session n = { s.session n with nonce := (s.session n).nonce + 1 } ∧
        s'.pkg.out = s.pkg.out ++ [.farFrame n (farNonce n (s.session n).nonce) text tag]) ∧
    (o.present = none → o.kind ≠ .bcast → o.come = [] → ∃ s', exec wait s = .next s' ∧ s'.tiles = s.tiles ∧ s'.pkg = s.pkg ∧
      otherCoaches s s' c ∧ otherOps s s' c tl num ∧ (s'.coach c).op tl num = some { o with present := some [] }) ∧
    (∀ r, o.present = none → o.kind ≠ .bcast → o.come.head? = some r → r ≠ farOwn o.desc → exec wait s = .next s) ∧
    (o.present = none → o.kind = .bcast → farRoot o.desc ≠ farOwn o.desc → (farRoot o.desc ∈ o.come → exec wait s = .next s) ∧
      (farRoot o.desc ∉ o.come → ∃ s', exec wait s = .next s' ∧ s'.tiles = s.tiles ∧ s'.pkg = s.pkg ∧
        otherCoaches s s' c ∧ otherOps s s' c tl num ∧ (s'.coach c).op tl num = some { o with present := some o.come }))) ∧
  (∀ (s : State) (c tl num : Nat) (o : AsyncOp), c < 16 → tl < 8 → o.tl = tl → o.num = num → (s.coach c).op tl num = some o →
    o.kind ≠ .copyIn → o.kind ≠ .copyOut → s.farFault o = none → o.farDone = true → ∃ s', exec (.farOpComplete c tl num) s = .next s' ∧
      (s'.coach c).op tl num = none ∧ completed ((s'.coach c).tl tl) num ∧ otherOps s s' c tl num ∧ otherCoaches s s' c) ∧
  (∀ (s : State) (c tl num : Nat) (o : AsyncOp), c < 16 → o.tl = tl → o.num = num → (s.coach c).op tl num = some o →
    o.kind ≠ .copyIn → o.kind ≠ .copyOut → (s.farFault o).isSome = true → (s.coach c).launch.mode = .running →
    (∀ i, i < 8 → ∃ p, inRange (s.coach c) ((s.coach c).launch.lrec.mirror.toNat + 8 * i) 8 p) →
    ∃ s' code d1 d2, exec (.farOpComplete c tl num) s = .next s' ∧ s.farFault o = some (code, d1, d2) ∧
      (s'.coach c).op tl num = none ∧ stoppedBy s s' c 8 code (wrapN d1) (wrapN d2)) ∧
  ∀ (s : State) (f : FarFrame), f.session < 1024 → (s.session f.session).state = 0 →
    let x := s.session f.session
    (f.good = false → ∃ s', exec (.farFrameReceive f) s = .next s' ∧ s'.tiles = s.tiles ∧ s'.coaches = s.coaches ∧
      s'.session f.session = { x with failed := x.failed + 1, state := if 15 ≤ x.failed then 3 else 0 } ∧
      ∀ r, r ≠ f.session → s'.session r = s.session r) ∧
    (∀ c o m ms, f.good = true → f.ack = false → f.set = some m → c < 16 → s.farMatch f = some (c, o) →
      (s.coach c).op o.tl o.num = some o → o.kind = .sum ∨ o.kind = .gather → o.present = none →
      members (m &&& farMask o.desc) = f.member :: ms → ∃ s', exec (.farFrameReceive f) s = .next s' ∧ s'.tiles = s.tiles ∧
        otherCoaches s s' c ∧ s'.session f.session = { x with failed := 0 } ∧
        (s'.coach c).op o.tl o.num = some { o with present := some (f.member :: ms) }) ∧
    ∀ c o, f.good = true → f.ack = false → f.set = none → c < 16 → s.farMatch f = some (c, o) → (s.coach c).op o.tl o.num = some o →
      o.kind = .recv → f.len = o.cols →
      f.col < o.cols → o.piece 0 f.col = none → ∃ s', exec (.farFrameReceive f) s = .next s' ∧ s'.tiles = s.tiles ∧ otherCoaches s s' c ∧
        s'.session f.session = { x with failed := 0 } ∧
        (s'.coach c).op o.tl o.num = some { o with staged := (0, f.col, colOf64 (farDecode (farFormat o.desc) f.data)) :: o.staged }

/-- 19 R354, R355, R357, R361, Table 19-4, Table 19-5, 08 R202, R204: an acknowledgement frees the replay buffer; a good flit in sequence
is held to its cycle I and acknowledged, and counted by the copies of it that were discarded; a bad one is counted and asked for
again, and is late unless a good copy comes before the injections of I; so is one out of sequence, which is discarded; one whose first
copy comes bad at I is late at once; a control flit received in sequence is what its payload says; at I the flit of a running coach's port is injected, and a late one is the record 0x7/0x02 and a retrain
flit; a retrain at half rate takes the whole group down to it, and one that fails there takes its port down, with the record 0x7/0x04 for a
coach whose variant needs the group. Where the copies of a flit are waited for, what a flit carries beside its
276 bytes, the fields of a control flit's payload and the SYNC that a retrained port awaits rest on notes/assumptions/3.md, 26.md,
27.md, 28.md and 32.md. -/
def Obligations.TandemPortsReceive : Prop :=
  (∀ (s : State) (p : Nat) (f : Flit), p < 16 → s.pkg.boot ≠ 6 → exec (.idleFlit p f) s = .next s ∧ exec (.tandemPushFlit p f) s = .next s) ∧
  (∀ (s : State) (p : Nat) (f : Flit), p < 16 → s.pkg.boot = 6 → flitGood f = true → f.kind = 0x00#8 → f.nak = false →
    ∃ s', exec (.idleFlit p f) s = .next s' ∧ s'.tiles = s.tiles ∧ s'.coaches = s.coaches ∧
    s'.pkg.port p = { s.pkg.port p with
      fecc := min ((s.pkg.port p).fecc + f.fec) (2 ^ 64 - 1)
      replay := (s.pkg.port p).replay.filter fun x => decide (2 ^ 15 ≤ (f.ack - BitVec.ofNat 16 x.1).toNat) } ∧
    ∀ q, q ≠ p → s'.pkg.port q = s.pkg.port q) ∧
  (∀ (s : State) (p : Nat) (f : Flit), p < 16 → s.pkg.boot = 6 → flitGood f = false → beforeI s p f → ∃ s', exec (.tandemPushFlit p f) s = .next s' ∧
    s'.tiles = s.tiles ∧ s'.coaches = s.coaches ∧ (s'.pkg.port p).crcf = min ((s.pkg.port p).crcf + 1) (2 ^ 64 - 1) ∧
    (s'.pkg.port p).got = (s.pkg.port p).got ∧
    getK 0 (s'.pkg.port p).copies f.seq.toNat = getK 0 (s.pkg.port p).copies f.seq.toNat + (if seqAhead (s.pkg.port p) f then 1 else 0) ∧
    (∀ c, f.kind = 0x01#8 → seqAhead (s.pkg.port p) f = true → s.portCoach p = some c →
      ((s.coach c).launch.frc + 1, f.seq.toNat) ∈ (s'.pkg.port p).lost) ∧
    ∃ i, s'.pkg.out = s.pkg.out ++ [.idle p i] ∧ i.nak = true ∧ i.ack = (s.pkg.port p).got) ∧
  (∀ (s : State) (p c : Nat) (f : Flit), p < 16 → c < 16 → s.pkg.boot = 6 → flitGood f = false → f.kind = 0x01#8 →
    seqAhead (s.pkg.port p) f = true → f.gen = (s.pkg.port p).gen → s.portCoach p = some c →
    f.inject.toNat = (s.coach c).launch.frc % 2 ^ 32 → ((s.coach c).launch.frc, f.seq.toNat) ∉ (s.pkg.port p).lost →
    ∃ s' r, exec (.tandemPushFlit p f) s = .next s' ∧ s'.tiles = s.tiles ∧ otherCoaches s s' c ∧
      s'.coach c = { s.coach c with faults := (s.coach c).faults ++ [r] } ∧ r.cls = 7 ∧ r.code = 2 ∧ r.frame = (s.coach c).launch.frc ∧
      r.d1 = wrapN p ∧ r.d2 = wrapN f.seq.toNat ∧ ((s.coach c).launch.frc, f.seq.toNat) ∈ (s'.pkg.port p).lost ∧
      (s'.pkg.port p).training = some s.wall) ∧
  (∀ (s : State) (p c : Nat) (f : Flit), p < 16 → s.pkg.boot = 6 → flitGood f = true → f.kind = 0x01#8 → f.nak = false →
    f.seq = (s.pkg.port p).got + 1 → f.gen = (s.pkg.port p).gen →
    s.portCoach p = some c → f.inject.toNat = ((s.coach c).launch.frc + 1) % 2 ^ 32 → ∃ s', exec (.tandemPushFlit p f) s = .next s' ∧
      s'.tiles = s.tiles ∧ s'.coaches = s.coaches ∧ (s'.pkg.port p).got = f.seq ∧ f ∈ (s'.pkg.port p).holding ∧
      (s'.pkg.port p).lost = (s.pkg.port p).lost.erase ((s.coach c).launch.frc + 1, f.seq.toNat) ∧
      getK 0 (s'.pkg.port p).copies f.seq.toNat = 0 ∧
      (∀ k, k = getK 0 (s.pkg.port p).copies f.seq.toNat →
        (s'.pkg.port p).r1 = (if k = 1 then min ((s.pkg.port p).r1 + 1) 65535 else (s.pkg.port p).r1) ∧
        (s'.pkg.port p).r2 = (if k = 2 then min ((s.pkg.port p).r2 + 1) 65535 else (s.pkg.port p).r2) ∧
        (s'.pkg.port p).r3 = (if 3 ≤ k then min ((s.pkg.port p).r3 + 1) 65535 else (s.pkg.port p).r3)) ∧
      (∀ q, q ≠ p → s'.pkg.port q = s.pkg.port q) ∧ ∃ i, s'.pkg.out = s.pkg.out ++ [.idle p i] ∧ i.nak = false ∧ i.ack = f.seq) ∧
  (∀ (s : State) (p c : Nat) (f : Flit), p < 16 → c < 16 → s.pkg.boot = 6 → flitGood f = true → f.kind = 0x01#8 → f.nak = false →
    f.seq = (s.pkg.port p).got + 1 → f.gen = (s.pkg.port p).gen →
    s.portCoach p = some c → f.inject.toNat = (s.coach c).launch.frc % 2 ^ 32 →
    ((s.coach c).launch.frc, f.seq.toNat) ∉ (s.pkg.port p).lost → ∃ s' r, exec (.tandemPushFlit p f) s = .next s' ∧
      s'.tiles = s.tiles ∧ otherCoaches s s' c ∧ s'.coach c = { s.coach c with faults := (s.coach c).faults ++ [r] } ∧
      r.cls = 7 ∧ r.code = 2 ∧ r.frame = (s.coach c).launch.frc ∧ r.d1 = wrapN p ∧ r.d2 = wrapN f.seq.toNat ∧
      (s'.pkg.port p).got = f.seq ∧ (s'.pkg.port p).holding = (s.pkg.port p).holding ∧ (s'.pkg.port p).training = some s.wall) ∧
  (∀ (s : State) (p : Nat) (f : Flit), p < 16 → s.pkg.boot = 6 → flitGood f = true → f.kind ≠ 0x00#8 → f.kind.toNat ≤ 5 → f.nak = false →
    f.seq ≠ (s.pkg.port p).got + 1 → beforeI s p f → ∃ s', exec (.tandemPushFlit p f) s = .next s' ∧ s'.tiles = s.tiles ∧
      s'.coaches = s.coaches ∧ s'.todo = s.todo ∧ s'.pkg.out = s.pkg.out ∧ (s'.pkg.port p).got = (s.pkg.port p).got ∧ (s'.pkg.port p).holding = (s.pkg.port p).holding ∧
      getK 0 (s'.pkg.port p).copies f.seq.toNat = getK 0 (s.pkg.port p).copies f.seq.toNat + if seqAhead (s.pkg.port p) f then 1 else 0) ∧
  (∀ (s : State) (p : Nat) (f : Flit), p < 16 → s.pkg.boot = 6 → flitGood f = true → f.seq = (s.pkg.port p).got + 1 →
    (f.kind = 0x02#8 → ∃ s', exec (.tandemPushFlit p f) s = .next s' ∧ s'.tiles = s.tiles ∧ s'.coaches = s.coaches ∧
      s'.todo = .ev (.epochSync p (laneN f.data 64 0)) :: s.todo) ∧
    (∀ c, f.kind = 0x03#8 → c < 16 → (s.coach c).launch.lrec.type = 2 → (s.coach c).launch.mode ≠ .idle →
      (s.coach c).launch.sentTag.toNat = laneN f.data 64 0 → (∀ d, d < c → (s.coach d).launch.lrec.type ≠ 2) →
      ∃ s', exec (.tandemPushFlit p f) s = .next s' ∧ s'.tiles = s.tiles ∧ s'.coaches = s.coaches ∧
        s'.todo = .ev (.startSync p c (laneN f.data 64 1) (laneN f.data 64 2)) :: s.todo) ∧
    (f.kind = 0x05#8 → ∃ s', exec (.tandemPushFlit p f) s = .next s' ∧ s'.tiles = s.tiles ∧ s'.coaches = s.coaches ∧
      s'.todo = .ev (.retrainFlit p (laneN f.data 64 0 == 1) true) :: s.todo) ∧
    (5 < f.kind.toNat → ∃ s', exec (.tandemPushFlit p f) s = .next s' ∧ s'.tiles = s.tiles ∧ s'.coaches = s.coaches ∧
      s'.todo = s.todo ∧ s'.pkg.out = s.pkg.out ∧ (s'.pkg.port p).got = (s.pkg.port p).got)) ∧
  (∀ (s : State) (p c : Nat) (f : Flit), p < 16 → c < 16 → s.portCoach p = some c → s.coachHasPort c p = true → (s.pkg.port p).holding = [f] →
    (s.pkg.port p).lost = [] → f.inject.toNat = (s.coach c).launch.frc % 2 ^ 32 → f.tile.toNat < 384 →
    (s.tile f.tile.toNat).own.owner = some c → ∃ s' x, exec (.flitInject p) s = .next s' ∧ s'.tiles = s.tiles ∧ otherCoaches s s' c ∧
      (s'.pkg.port p).holding = [] ∧ s'.coach c = { s.coach c with pushes := (s.coach c).pushes ++ [x] } ∧ x.dst = f.tile.toNat ∧
      x.addr = f.addr.toNat ∧ x.data = f.data ∧ x.crc = f.pushCrc ∧ x.desc = f.desc ∧ x.leaves = none ∧
      x.arrival = (s.coach c).launch.frc + 2 + (pathXY (portTile p) f.tile.toNat).length + 24 * crossings (pathXY (portTile p) f.tile.toNat)) ∧
  (∀ (s : State) (p c q : Nat), p < 16 → c < 16 → s.portCoach p = some c → (s.pkg.port p).holding = [] →
    (s.pkg.port p).lost = [((s.coach c).launch.frc, q)] → ∃ s' r, exec (.flitInject p) s = .next s' ∧ s'.tiles = s.tiles ∧ otherCoaches s s' c ∧
      s'.coach c = { s.coach c with faults := (s.coach c).faults ++ [r] } ∧ r.cls = 7 ∧ r.code = 2 ∧ r.slot = 11 ∧ r.tile = portTile p ∧
      r.frame = (s.coach c).launch.frc ∧ r.d1 = wrapN p ∧ r.d2 = wrapN q ∧ (s'.pkg.port p).training = some s.wall ∧
      ∃ x, s'.pkg.out = s.pkg.out ++ [.flit p x] ∧ x.kind = 0x05#8 ∧ flitGood x = true) ∧
  ∀ (s : State) (p : Nat), p < 16 → s.pkg.boot = 6 →
    ((s.pkg.port p).half.isSome = true → ∃ s', exec (.retrainFlit p true true) s = .next s' ∧ s'.tiles = s.tiles ∧ s'.coaches = s.coaches ∧
      ∀ q, q < 16 → s'.pkg.port q = if q = p then { s.pkg.port q with
          rate := min (s.pkg.port q).rate 1, hpend := false, training := none, half := none, unsynced := owesSync s q
          retrains := min ((s.pkg.port q).retrains + 1) 255 }
        else if q / 4 = p / 4 then { s.pkg.port q with rate := min (s.pkg.port q).rate 1, hpend := false } else s.pkg.port q) ∧
    ((s.pkg.port p).half.isSome = true → ∃ s', exec (.retrainFlit p true false) s = .next s' ∧
      (∀ t, s'.tile t = { s.tile t with vault := (s'.tile t).vault }) ∧
      (∀ q, q < 16 → s'.pkg.port q = if q = p then { s.pkg.port q with
          rate := 0, hpend := false, training := none, half := none, retrains := min ((s.pkg.port q).retrains + 1) 255 }
        else if q / 4 = p / 4 then { s.pkg.port q with rate := min (s.pkg.port q).rate 1, hpend := false } else s.pkg.port q) ∧
      ∀ c, c < 16 → let l := (s.coach c).launch
        let needs : Prop := s.coachHasPort c p = true ∧ (l.variantImg l.variant).req.toNat / 2 ^ (8 + 2 * (p / 4)) % 4 ≠ 0
        (l.mode = .idle ∨ ¬ needs → s'.coach c = s.coach c) ∧
        (l.mode = .running → needs → ∃ r, (s'.coach c).launch.mode = .held ∧ (s'.coach c).launch.hold = some r ∧
          r.cls = 7 ∧ r.code = 4 ∧ r.d1 = wrapN p ∧ r.d2 = 5#64)) ∧
    ((s.pkg.port p).training.isSome = true → ∃ s', exec (.retrainFlit p false true) s = .next s' ∧ s'.tiles = s.tiles ∧
      (∀ q, q < 16 → s'.pkg.port q = if q = p then { s.pkg.port q with
        training := none, unsynced := owesSync s q, retrains := min ((s.pkg.port q).retrains + 1) 255 } else s.pkg.port q) ∧
      (s.portCoach p = none → s'.coaches = s.coaches) ∧
      ∀ c, c < 16 → s.portCoach p = some c → otherCoaches s s' c ∧ ∃ r, (s'.coach c).log.recs.head? = some r ∧ r.cls = 7 ∧ r.code = 6 ∧
        r.d1 = wrapN p ∧ r.d2 = wrapN (s.pkg.port p).rate) ∧
    ((s.pkg.port p).training.isSome = true → ∃ s', exec (.retrainFlit p false false) s = .next s' ∧ s'.tiles = s.tiles ∧
      s'.coaches = s.coaches ∧ ∀ q, q < 16 → s'.pkg.port q = if q / 4 = p / 4 then { s.pkg.port q with
        hpend := true, training := if q = p then none else (s.pkg.port q).training
        retrains := if q = p then min ((s.pkg.port q).retrains + 1) 255 else (s.pkg.port q).retrains } else s.pkg.port q) ∧
    ((s.pkg.port p).training = none → exec (.retrainFlit p false false) s = .next s)

/-- 02 R63, R64, 12 R270, 14 R305, 20 R366, R367: a SYNC flit sets the epoch count; a START flit names the epoch at which a waiting launch
goes on, or lets a restore of a domain go on to its relay point, with its image as the last one restored; package 0 keeps the reports
of its launch, of RELOAD done those that name as many cancels as it has counted, while earlier ones are void and later ones wait; a launch or restore that waits too long for START is refused with 0x0C, which the other packages hear, and its coach is
idle. START as the word for a restore and the fields of a report are the model's choice (notes/assumptions/27.md), and so is the
count that a SYNC flit names and when one is sent (notes/assumptions/3.md). -/
def Obligations.DomainLaunchesAgree : Prop :=
  (∀ (s : State) (p n : Nat), p < 16 → s.pkg.boot = 6 → s.domains = [] → ∃ s', exec (.epochSync p n) s = .next s' ∧
    s'.tiles = s.tiles ∧ s'.coaches = s.coaches ∧ s'.pkg = { s.pkg with epoch := n * 192 + (s.pkg.port p).pad, ports := s'.pkg.ports } ∧
    ∀ q, q < 16 → s'.pkg.port q = if q = p then { s.pkg.port q with unsynced := false } else s.pkg.port q) ∧
  (∀ (s : State) (p c e v : Nat), p < 16 → c < 16 → s.pkg.boot = 6 → (s.coach c).launch.lrec.type = 2 → s.pkg.epoch ≤ e * 192 →
    ((s.coach c).launch.mode = .waiting → exec (.startSync p c e v) s = .next (s.modLaunch c fun l => { l with startEpoch := some e })) ∧
    ((s.coach c).launch.mode = .starting → (s.coach c).launch.restoring = true → ∃ s', exec (.startSync p c e v) s = .next s' ∧
      s'.tiles = s.tiles ∧ otherCoaches s s' c ∧ (s'.coach c).launch.mode = .relaying false ∧ (s'.coach c).launch.restoring = true ∧
      (s'.coach c).hat.relay = (s.coach c).launch.relayNo ∧ (s'.coach c).hat.moved = (s.coach c).launch.hatMoved ∧
      (s'.coach c).hat.ctr = wrapN (s.coach c).launch.hatCtr ∧
      s'.lineageOf (s.coach c).launch.lineage = some ⟨(s.coach c).launch.lineage, (s.coach c).launch.hatCtr, false⟩)) ∧
  (∀ (s : State) (c n : Nat) (r : Report), c < 16 → s.pkg.boot = 6 → (s.coach c).launch.lrec.type = 2 → (s.coach c).launch.lrec.index = 0 →
    (s.coach c).launch.mode = .waiting → r.kind = .reloadDone n →
    (n < (s.coach c).log.cancels → exec (.conditionReport c r) s = .next s) ∧
    ((s.coach c).log.cancels < n → exec (.conditionReport c r) s =
      .next { s with agenda := s.agenda ++ [(s.wall + 1, .conditionReport c r)] }) ∧
    (n = (s.coach c).log.cancels → r.tag = (s.coach c).launch.sentTag → r.count = (s.coach c).launch.lrec.count → r.pkg < r.count →
    (∀ x ∈ (s.coach c).launch.reported, x.pkg ≠ r.pkg) → (s.coach c).launch.reported.length + 1 < r.count →
    exec (.conditionReport c r) s = .next (s.modLaunch c fun l => { l with reported := l.reported ++ [r] }))) ∧
  ∀ (s : State) (c : Nat), c < 16 → (s.coach c).launch.mode = .starting → (s.coach c).launch.lrec.type = 2 → (s.coach c).launch.startEpoch = none →
    ∃ s', exec (.startWaitTimeout c) s = .next s' ∧ (s'.coach c).launch.mode = .idle ∧ otherCoaches s s' c ∧
      (∀ t, (s'.tile t).regs = (s.tile t).regs) ∧ (∃ r ∈ (s'.coach c).log.recs, r.cls = 8 ∧ r.code = 0x40 ∧ r.d1 = wrapN 0x0C) ∧
      (∀ p ∈ s.pkg.treePorts, ∃ f, .flit p f ∈ s'.pkg.out ∧ f.kind = 0x04#8 ∧ flitGood f = true) ∧
      ((s.coach c).launch.restored = true → (s'.coach c).hat.code = 0x0C ∧ (s'.coach c).hat.busy = false)

/-- 01 R32, R33, 13 R287, 19 R361, 20 R368, R370, R371: bring-up clears the package and enables its host ports, or stops at the step
that fails; a forecast moves its sequence number on; the thermal model stops a coach whose stack is above the limit of its class, and
at 115 degrees (920 eighths) the package trips; counters are saved; field records are signed; a failed health test stops every
running launch. The moment of the first epoch SYNC and of the link records (notes/assumptions/3.md), the values that bring-up
leaves where the spec gives none (29.md) and what a trip leaves (30.md) are the model's choices. -/
def Obligations.ManagementEvents : Prop :=
  (∀ s : State, s.pkg.boot = 0 → s.pkg.flash.cfg.firmwareGood = true → s.pkg.flash.cfg.good = true → ∃ s' outs, exec .bringUp s = .next s' ∧
    s'.pkg.boot = 6 ∧ s'.wall = 0 ∧ s'.pkg.epoch = 0 ∧ s'.pkg.sessions = [] ∧ s'.pkg.apsel = [] ∧
    s'.pkg.flash.storeGood = !s.pkg.flash.storeFails ∧ s'.pkg.out = s.pkg.out ++ outs ++ [.ready] ∧
    (∀ p x, p < 16 → s.pkg.flash.cfg.peers.find? (fun y => y.1 == p) = some x → .linkRecord p x.2.1 x.2.2 ∈ outs ∧
      (s.pkg.index = 0 → ∃ f, .flit p f ∈ outs ∧ f.kind = 0x02#8 ∧ laneN f.data 64 0 = 0 ∧ flitGood f = true)) ∧
    (s.pkg.flash.storeFails = true → ∃ e, s'.pkg.flash.events.head? = some e ∧ e.code = 8 ∧ e.sev = 3) ∧
    (∀ c, (s'.coach c).launch.mode = .idle) ∧ ∀ t, t < 384 → (s'.tile t).vault.cells = [] ∧ (s'.tile t).sp = [] ∧ (s'.tile t).blk = BlkSt.reset ∧
      (s'.tile t).regs = Regs.reset ∧ (s'.tile t).own.enabled = !s.pkg.flash.cfg.disabled.contains t ∧
      (s'.tile t).own.failed = s.pkg.flash.cfg.failed.contains t) ∧
  (∀ s : State, s.pkg.boot = 0 → s.pkg.flash.cfg.firmwareGood = true → s.pkg.flash.cfg.good = false → ∃ s', exec .bringUp s = .next s' ∧
    s'.pkg.boot = 3 ∧ s'.tiles = s.tiles ∧ s'.coaches = s.coaches ∧ ∃ e, s'.pkg.flash.events.head? = some e ∧ e.code = 1 ∧ e.d1 = wrapN 3) ∧
  (∀ s : State, s.pkg.boot = 0 → s.pkg.flash.cfg.firmwareGood = false → ∃ s', exec .bringUp s = .next s' ∧
    s'.pkg.boot = 2 ∧ s'.tiles = s.tiles ∧ s'.coaches = s.coaches ∧ ∃ e, s'.pkg.flash.events.head? = some e ∧ e.code = 1 ∧ e.d1 = wrapN 2) ∧
  (∀ (s : State) (xs : List (Nat × Nat × Nat)), s.pkg.boot ≠ 6 → exec (.forecastPublish xs) s = .next s) ∧
  (∀ (s : State) (xs : List (Nat × Nat × Nat)) (i : Nat) (x : Nat × Nat × Nat), s.pkg.boot = 6 → (∀ c, (s.coach c).launch.mode = .idle) → i < 4 → xs[i]? = some x →
    x.1 < 2 ^ 12 → x.2.1 < 2 ^ 12 → x.2.2 < 2 ^ 12 → ∃ s', exec (.forecastPublish xs) s = .next s' ∧ s'.tiles = s.tiles ∧ s'.coaches = s.coaches ∧
      let w := (s'.pkg.fcst.getD i 0#64).toNat
      w / 2 ^ 48 = ((s.pkg.fcst.getD i 0#64).toNat / 2 ^ 48 + 1) % 2 ^ 16 ∧ w / 2 ^ 36 % 2 ^ 12 = x.1 ∧ w / 2 ^ 24 % 2 ^ 12 = x.2.1 ∧
      w / 2 ^ 12 % 2 ^ 12 = x.2.2 ∧
      w % 2 ^ 12 = if x.1 ≤ 664 then 1 else if x.1 ≤ 744 then 2 else if x.1 ≤ 824 then 4 else 0) ∧
  (∀ (s : State) (a b : Nat), s.pkg.boot = 6 → a < 920 → b < 920 → (∀ c, (s.coach c).launch.mode = .idle) →
    ∃ s', exec (.thermalModelRun [(a, b)]) s = .next s' ∧ s'.pkg.temps.getD 0 (0, 0) = (a, b) ∧ s'.tiles = s.tiles ∧ s'.coaches = s.coaches) ∧
  (∀ (s : State) (a b c t : Nat) (ts : List Nat), s.pkg.boot = 6 → a < 920 → b < 920 → c < 16 → (s.coach c).launch.mode = .running →
    (s.coach c).launch.tiles = t :: ts → (∃ x ∈ s.tilesOf c, stackOf x = 0) →
    ((s.tile t).vault.rfclass = 1 ∧ 680 < a ∨ (s.tile t).vault.rfclass = 2 ∧ 760 < a ∨ (s.tile t).vault.rfclass = 4 ∧ 840 < a) →
    ∃ s', exec (.thermalModelRun [(a, b)]) s = .next s' ∧ stoppedBy s s' c 10 1 0#64 (wrapN a) ∧ (s'.coach c).hot = true) ∧
  (∀ (s : State) (a b : Nat), s.pkg.boot = 6 → 920 ≤ a → ∃ s', exec (.thermalModelRun [(a, b)]) s = .next s' ∧ s'.pkg.boot = 0 ∧ s'.tiles = [] ∧
    s'.todo = [] ∧ ∃ e, s'.pkg.flash.events.head? = some e ∧ e.code = 7 ∧ e.sev = 3 ∧ e.d2 = wrapN a) ∧
  (∀ s : State, s.pkg.boot = 6 → ∃ s', exec .lifetimeCounterSave s = .next s' ∧ s'.tiles = s.tiles ∧ s'.coaches = s.coaches ∧
    (∀ t x, (t, x) ∈ s.tiles → (t, x.own.life) ∈ s'.pkg.flash.lives) ∧ ∀ p, p < 16 → (p, s.pkg.port p) ∈ s'.pkg.flash.ports) ∧
  (∀ (s : State) (n : Nat), ∃ s', exec (.fieldRecordRequest n) s = .next s' ∧ s'.tiles = s.tiles ∧ s'.coaches = s.coaches ∧
    s'.pkg = { s.pkg with out := s.pkg.out ++ [.fieldRecord (s.fieldBytes n ++ dsaSign (sha3_512 (s.fieldBytes n)))] }) ∧
  ∀ s : State, ∃ s', exec .healthTestFailure s = .next s' ∧ s'.pkg.flash = s.pkg.flash ∧
    ∀ c, c < 16 → ((s.coach c).launch.mode = .running → stoppedBy s s' c 9 2 0#64 0#64) ∧ ((s.coach c).launch.mode = .idle → s'.coach c = s.coach c)
end

