-- ==== Sys2Proof/Laws/Encoding.lean ====
section
/-! SUPPORT. Fields of a packed slot word, codes of the enumerated fields, and the one lemma by which a slot word decodes to
the operation that it encodes (05 R120, R122). -/
namespace Sys2Proof.Laws

theorem Ty.ofCode_code (t : Ty) : Ty.ofCode t.code = some t := by cases t <;> rfl
theorem ext_lo {n m : Nat} (x : BitVec n) (y : BitVec m) (lo k : Nat) (h : lo + k ≤ m) :
    BitVec.extractLsb' lo k (x ++ y) = y.extractLsb' lo k := BitVec.extractLsb'_append_eq_of_add_le h
theorem ext_hi {n m : Nat} (x : BitVec n) (y : BitVec m) (lo k : Nat) (h : m ≤ lo) :
    BitVec.extractLsb' lo k (x ++ y) = x.extractLsb' (lo - m) k := BitVec.extractLsb'_append_eq_of_le h
theorem ext_set {n : Nat} (x : BitVec n) (lo k : Nat) (h : lo + k ≤ 40) :
    BitVec.extractLsb' lo k (x.setWidth 40) = x.extractLsb' lo k := by
  ext i hi; simp; omega
theorem ext_all {n : Nat} (x : BitVec n) : BitVec.extractLsb' 0 n x = x := BitVec.extractLsb'_eq_self
theorem bit_eq (b : Bool) : (bit b).getLsbD 0 = b := by cases b <;> rfl
theorem fld_pack {n : Nat} (g : Guard) (op : BitVec 7) (x : BitVec n) (lo k : Nat) (hn : n = 27) (h : lo + k ≤ 27) :
    fld (g.pack op x) lo k = x.extractLsb' lo k := by
  subst hn
  simp only [fld, Guard.pack]
  rw [ext_set _ _ _ (by omega), ext_lo _ _ _ _ (by omega), ext_lo _ _ _ _ (by omega), ext_lo _ _ _ _ (by omega)]
theorem op_pack {n : Nat} (g : Guard) (op : BitVec 7) (x : BitVec n) (hn : n = 27) : fld (g.pack op x) 27 7 = op := by
  subst hn
  simp only [fld, Guard.pack]
  rw [ext_set _ _ _ (by omega), ext_lo _ _ _ _ (by omega), ext_lo _ _ _ _ (by omega), ext_hi _ _ _ _ (by omega)]
  exact ext_all _
theorem flag_fld (w : SlotWord) (k : Nat) : flag w k = (fld w k 1).getLsbD 0 := by
  simp [flag, fld]
theorem flag_pack {n : Nat} (g : Guard) (op : BitVec 7) (x : BitVec n) (lo : Nat) (hn : n = 27) (h : lo + 1 ≤ 27) :
    flag (g.pack op x) lo = (x.extractLsb' lo 1).getLsbD 0 := by
  rw [flag_fld, fld_pack _ _ _ _ _ hn h]
theorem guard_pack {n : Nat} (g : Guard) (op : BitVec 7) (x : BitVec n) (hn : n = 27) : guardOf (g.pack op x) = g := by
  subst hn
  cases g with | mk neg p => 
  simp only [guardOf, flag_fld, Guard.mk.injEq]
  simp only [fld, Guard.pack]
  constructor
  · rw [ext_set _ _ _ (by omega), ext_hi _ _ _ _ (by omega)]
    rw [show 39 - (5 + (7 + 27)) = 0 from rfl, ext_all]; exact bit_eq neg
  · rw [ext_set _ _ _ (by omega), ext_lo _ _ _ _ (by omega), ext_hi _ _ _ _ (by omega)]
    exact ext_all _

theorem decodeSlot_encode {n : Nat} (sl : Slot) (ftl : BitVec 2) (g : Guard) (op : BitVec 7) (x : BitVec n) (i : Instr) (hn : n = 27)
  (h0 : op.toNat ≠ 0) (hk : opcodeKnown sl op.toNat = some true) (he : encodeSlot i = g.pack op x)
  (hc : candidate sl ftl (g.pack op x) = some i) (hw : i.wf = true) : decodeSlot sl ftl (encodeSlot i) = .ok i := by
  rw [he]
  simp only [decodeSlot, op_pack g op x hn, if_neg h0, hk, hc, he, hw, if_true]

theorem ext_top {n m : Nat} (x : BitVec n) (y : BitVec m) (lo : Nat) (h : lo = m) :
    BitVec.extractLsb' lo n (x ++ y) = x := by
  subst h; rw [ext_hi _ _ _ _ (Nat.le_refl _), Nat.sub_self]; exact ext_all x
theorem RMode.ofCode_code (m : RMode) : RMode.ofCode m.code = some m := by cases m <;> rfl
theorem RMode.ofCode_split (m : RMode) : RMode.ofCode (hi2 m.code ++ lo1 m.code) = some m := by cases m <;> rfl
theorem Cond.ofCode_code (c : Cond) : Cond.ofCode c.code = some c := by cases c <;> rfl
theorem Cond.ofCode_split (c : Cond) : Cond.ofCode (hi2 c.code ++ lo1 c.code) = some c := by cases c <;> rfl
theorem FCond.ofCode_split (c : FCond) : FCond.ofCode (hi2 c.code ++ lo1 c.code) = some c := by cases c <;> rfl
theorem COp.ofCode_code (c : COp) : COp.ofCode c.code = some c := by cases c <;> rfl
theorem CmpDest.ofCode_code (d : CmpDest) : CmpDest.ofCode d.code = some d := by
  cases d with
  | pair k => revert k; decide
  | steer n => revert n; decide
theorem LoopCount.ofCode_imm {c : BitVec 11} {n : BitVec 10} (h1 : c.extractLsb' 10 1 = 0#1)
    (h2 : c.extractLsb' 0 10 = n) : LoopCount.ofCode c = .imm n := by
  unfold LoopCount.ofCode; rw [h1, h2]; rfl
theorem LoopCount.ofCode_reg {c : BitVec 11} {n : BitVec 6} (h1 : c.extractLsb' 10 1 = 1#1)
    (h2 : c.extractLsb' 0 6 = n) : LoopCount.ofCode c = .reg n := by
  unfold LoopCount.ofCode; rw [h1, h2]; rfl
theorem LoopCount.ofCode_code (d : LoopCount) : LoopCount.ofCode d.code = d := by
  cases d with
  | imm k => exact LoopCount.ofCode_imm (ext_top 0#1 k 10 rfl) ((ext_lo 0#1 k 0 10 (by decide)).trans (ext_all k))
  | reg s =>
    exact LoopCount.ofCode_reg (ext_top 1#1 (0#4 ++ s) 10 rfl)
      (((ext_lo 1#1 (0#4 ++ s) 0 6 (by decide)).trans (ext_lo 0#4 s 0 6 (by decide))).trans (ext_all s))
theorem RdvCond.ofCode_level {c : BitVec 10} {tl : BitVec 3} {sv : BitVec 6} (h1 : c.extractLsb' 0 1 = 1#1)
    (h2 : c.extractLsb' 7 3 = tl) (h3 : c.extractLsb' 1 6 = sv) : RdvCond.ofCode c = .level tl sv := by
  unfold RdvCond.ofCode; rw [h1, h2, h3]; rfl
theorem RdvCond.ofCode_code (d : RdvCond) : RdvCond.ofCode d.code = d := by
  cases d with
  | always => rfl
  | level tl sv =>
    exact RdvCond.ofCode_level ((ext_lo tl (sv ++ 1#1) 0 1 (by decide)).trans (ext_lo sv 1#1 0 1 (by decide)))
      (ext_top tl (sv ++ 1#1) 7 rfl) ((ext_lo tl (sv ++ 1#1) 1 6 (by decide)).trans (ext_top sv 1#1 1 rfl))
theorem decodeWord_issue (n : BitVec 12) : decodeWord (encodeWord (.issue n)) = .ok (.issue n) := by
  have h : (0#4 ++ n).toNat < 0x1000 := by
    rw [BitVec.toNat_append]; have := n.isLt; simp; omega
  have f : BitVec.extractLsb' 0 12 (0#4 ++ n) = n := (ext_lo 0#4 n 0 12 (by decide)).trans (ext_all n)
  show (if (0#4 ++ n).toNat < 0x1000 then _ else _) = _
  rw [if_pos h]
  exact congrArg (fun y => Except.ok (Instr.issue y)) f
theorem decodeWord_idle (n : BitVec 10) : decodeWord (encodeWord (.idle n)) = .ok (.idle n) := by
  have e : (0x3C#6 ++ n).toNat = 0xF000 + n.toNat := by
    rw [BitVec.toNat_append, ← Nat.shiftLeft_add_eq_or_of_lt n.isLt]; rfl
  have := n.isLt
  have f : BitVec.extractLsb' 0 10 (0x3C#6 ++ n) = n := (ext_lo 0x3C#6 n 0 10 (by decide)).trans (ext_all n)
  show (if (0x3C#6 ++ n).toNat < 0x1000 then _ else if (0x3C#6 ++ n).toNat < 0xF000 then _
    else if (0x3C#6 ++ n).toNat < 0xF400 then _ else _) = _
  rw [if_neg (by omega), if_neg (by omega), if_pos (by omega)]
  exact congrArg (fun y => Except.ok (Instr.idle y)) f
theorem decodeWord_seg (n : BitVec 10) : decodeWord (encodeWord (.seg n)) = .ok (.seg n) := by
  have e : (0x3E#6 ++ n).toNat = 0xF800 + n.toNat := by
    rw [BitVec.toNat_append, ← Nat.shiftLeft_add_eq_or_of_lt n.isLt]; rfl
  have := n.isLt
  have f : BitVec.extractLsb' 0 10 (0x3E#6 ++ n) = n := (ext_lo 0x3E#6 n 0 10 (by decide)).trans (ext_all n)
  show (if (0x3E#6 ++ n).toNat < 0x1000 then _ else if (0x3E#6 ++ n).toNat < 0xF000 then _
    else if (0x3E#6 ++ n).toNat < 0xF400 then _ else if (0x3E#6 ++ n).toNat = 0xF400 then _
    else if (0x3E#6 ++ n).toNat < 0xF800 then _ else if (0x3E#6 ++ n).toNat < 0xFC00 then _ else _) = _
  rw [if_neg (by omega), if_neg (by omega), if_neg (by omega), if_neg (by omega), if_neg (by omega), if_pos (by omega)]
  exact congrArg (fun y => Except.ok (Instr.seg y)) f
theorem one_ne_zero1 : (1#1 = 0#1) = False := by decide
theorem candidate_C {n : Nat} (ftl : BitVec 2) (g : Guard) (op : BitVec 7) (x : BitVec n) (hn : n = 27) :
    candidate .C ftl (g.pack op x) = candC g (g.pack op x) op.toNat := by
  simp only [candidate, guard_pack _ _ _ hn, op_pack _ _ _ hn]
theorem candidate_S {n : Nat} (ftl : BitVec 2) (g : Guard) (op : BitVec 7) (x : BitVec n) (hn : n = 27) :
    candidate .S ftl (g.pack op x) = candS g (g.pack op x) op.toNat := by
  simp only [candidate, guard_pack _ _ _ hn, op_pack _ _ _ hn]
theorem candidate_L {n : Nat} (ftl : BitVec 2) (g : Guard) (op : BitVec 7) (x : BitVec n) (hn : n = 27) :
    candidate .L ftl (g.pack op x) = candL g (g.pack op x) op.toNat := by
  simp only [candidate, guard_pack _ _ _ hn, op_pack _ _ _ hn]
theorem candidate_X {n : Nat} (ftl : BitVec 2) (g : Guard) (op : BitVec 7) (x : BitVec n) (hn : n = 27) :
    candidate .X ftl (g.pack op x) = candX g (g.pack op x) op.toNat := by
  simp only [candidate, guard_pack _ _ _ hn, op_pack _ _ _ hn]
theorem candidate_DR {n : Nat} (ftl : BitVec 2) (g : Guard) (op : BitVec 7) (x : BitVec n) (hn : n = 27) :
    candidate .DR ftl (g.pack op x) = candDR g (g.pack op x) op.toNat := by
  simp only [candidate, guard_pack _ _ _ hn, op_pack _ _ _ hn]
theorem candidate_DC {n : Nat} (ftl : BitVec 2) (g : Guard) (op : BitVec 7) (x : BitVec n) (hn : n = 27) :
    candidate .DC ftl (g.pack op x) = candDC g (g.pack op x) op.toNat := by
  simp only [candidate, guard_pack _ _ _ hn, op_pack _ _ _ hn]
theorem candidate_M {n : Nat} (ftl : BitVec 2) (g : Guard) (op : BitVec 7) (x : BitVec n) (hn : n = 27) :
    candidate .M ftl (g.pack op x) = candM ftl g (g.pack op x) op.toNat := by
  simp only [candidate, guard_pack _ _ _ hn, op_pack _ _ _ hn]
theorem candidate_VA {n : Nat} (ftl : BitVec 2) (g : Guard) (op : BitVec 7) (x : BitVec n) (hn : n = 27)
    (h : vaOnly op.toNat = false) : candidate .VA ftl (g.pack op x) = candVec .va g (g.pack op x) op.toNat := by
  simp only [candidate, guard_pack _ _ _ hn, op_pack _ _ _ hn, h]; rfl
theorem candidate_VA_only {n : Nat} (ftl : BitVec 2) (g : Guard) (op : BitVec 7) (x : BitVec n) (hn : n = 27)
    (h : vaOnly op.toNat = true) : candidate .VA ftl (g.pack op x) = candVA g (g.pack op x) op.toNat := by
  simp only [candidate, guard_pack _ _ _ hn, op_pack _ _ _ hn, h, if_true]
theorem candidate_VB {n : Nat} (ftl : BitVec 2) (g : Guard) (op : BitVec 7) (x : BitVec n) (hn : n = 27)
    (h : vbOnly op.toNat = false) : candidate .VB ftl (g.pack op x) = candVec .vb g (g.pack op x) op.toNat := by
  simp only [candidate, guard_pack _ _ _ hn, op_pack _ _ _ hn, h]; rfl
theorem candidate_VB_only {n : Nat} (ftl : BitVec 2) (g : Guard) (op : BitVec 7) (x : BitVec n) (hn : n = 27)
    (h : vbOnly op.toNat = true) : candidate .VB ftl (g.pack op x) = candVB g (g.pack op x) op.toNat := by
  simp only [candidate, guard_pack _ _ _ hn, op_pack _ _ _ hn, h, if_true]

end Sys2Proof.Laws
end

