-- ==== Sys2Proof/Laws/Memory.lean ====
section
/-! SUPPORT. Laws of the sparse maps and of the memories: a read after a write, other places untouched, and the canonical
form kept by every memory operation (notes/assumptions/5.md). -/
namespace Sys2Proof.Machine

/-! ## Sparse maps -/

@[simp] theorem getK_setK_self {α : Type} (d : α) (m : List (Nat × α)) (n : Nat) (y : α) : getK d (setK m n y) n = y := by
  induction m with
  | nil => simp [setK, getK]
  | cons p r ih =>
    obtain ⟨k, x⟩ := p
    unfold setK
    split
    · next h => subst h; simp [getK]
    · next h =>
      split
      · simp [getK]
      · simp [getK, Ne.symm h, ih]
theorem getK_setK_ne {α : Type} (d : α) (m : List (Nat × α)) {n k : Nat} (y : α) (h : k ≠ n) :
    getK d (setK m n y) k = getK d m k := by
  induction m with
  | nil => simp [setK, getK, Ne.symm h]
  | cons p r ih =>
    obtain ⟨j, x⟩ := p
    unfold setK
    split
    · next hj => subst hj; simp [getK, Ne.symm h]
    · split
      · simp [getK, Ne.symm h]
      · simp [getK, ih]
@[simp] theorem setK_setK {α : Type} (m : List (Nat × α)) (n : Nat) (y z : α) : setK (setK m n y) n z = setK m n z := by
  induction m with
  | nil => simp [setK]
  | cons p r ih =>
    obtain ⟨k, x⟩ := p
    by_cases h : n = k
    · simp [setK, h]
    · by_cases h' : n < k
      · simp [setK, h, h']
      · simp [setK, h, h', ih]
/-- An entry of a written map is the new one or an old one. -/
theorem mem_setK {α : Type} {m : List (Nat × α)} {n : Nat} {y : α} {p : Nat × α} (h : p ∈ setK m n y) :
    p = (n, y) ∨ p ∈ m := by
  induction m with
  | nil => simp [setK] at h; exact .inl h
  | cons q r ih =>
    obtain ⟨k, x⟩ := q
    unfold setK at h
    split at h
    · next hk =>
      subst hk
      rcases List.mem_cons.mp h with h | h
      · exact .inl h
      · exact .inr (List.mem_cons_of_mem _ h)
    · split at h
      · rcases List.mem_cons.mp h with h | h
        · exact .inl h
        · exact .inr h
      · rcases List.mem_cons.mp h with h | h
        · exact .inr (h ▸ List.mem_cons_self ..)
        · rcases ih h with h | h
          · exact .inl h
          · exact .inr (List.mem_cons_of_mem _ h)
/-- Looking up gives the default or an entry. -/
theorem getK_mem {α : Type} (d : α) (m : List (Nat × α)) (n : Nat) : getK d m n = d ∨ (n, getK d m n) ∈ m := by
  induction m with
  | nil => exact .inl rfl
  | cons p r ih =>
    obtain ⟨k, x⟩ := p
    unfold getK
    split
    · next h => subst h; exact .inr (List.mem_cons_self ..)
    · rcases ih with h | h
      · exact .inl h
      · exact .inr (List.mem_cons_of_mem _ h)

/-! ## The canonical form -/

theorem Mem.above_mono {lo lo' : Nat} {m : Mem} (h : lo' ≤ lo) (hm : above lo m = true) : above lo' m = true := by
  cases m with
  | nil => rfl
  | cons p r =>
    obtain ⟨k, x⟩ := p
    simp [above] at hm ⊢
    exact ⟨⟨by omega, hm.1.2⟩, hm.2⟩
theorem Mem.put_above {lo : Nat} {m : Mem} {a : Nat} (b : Byte) (ha : lo ≤ a) (hm : above lo m = true) :
    above lo (m.put a b) = true := by
  induction m generalizing lo with
  | nil =>
    unfold put
    split
    · rfl
    · next h => simp [above, ha, h]
  | cons p r ih =>
    obtain ⟨k, x⟩ := p
    simp [above] at hm
    obtain ⟨⟨h1, h2⟩, h3⟩ := hm
    unfold put
    split
    · next hk =>
      subst hk
      split
      · exact above_mono (by omega) h3
      · next hb => simp [above, h1, hb, h3]
    · next hk =>
      split
      · next hlt =>
        split
        · simp [above, h1, h2, h3]
        · next hb => simp [above, ha, hb, h2, h3]; omega
      · next hlt =>
        simp [above, h1, h2]
        exact ih (by omega) h3
/-- A byte written keeps the canonical form. -/
theorem Mem.put_wf {m : Mem} (a : Nat) (b : Byte) (h : m.wf = true) : (m.put a b).wf = true := put_above b (Nat.zero_le _) h
theorem Mem.putN_wf (n : Nat) {m : Mem} (a x : Nat) (h : m.wf = true) : (m.putN a n x).wf = true := by
  induction n generalizing m a x with
  | zero => exact h
  | succ n ih => exact ih _ _ (put_wf _ _ h)
theorem Mem.putL_wf (bs : List Byte) {m : Mem} (a : Nat) (h : m.wf = true) : (m.putL a bs).wf = true := by
  induction bs generalizing m a with
  | nil => exact h
  | cons b r ih => exact ih _ (put_wf _ _ h)
theorem Mem.putVec_wf (n : Nat) {m : Mem} (a : Nat) (mask : Mask) (x : Vec) (j : Nat) (h : m.wf = true) :
    (m.putVec a mask x j n).wf = true := by
  induction n generalizing m j with
  | zero => exact h
  | succ n ih =>
    unfold putVec
    apply ih
    split
    · exact put_wf _ _ h
    · exact h
theorem Mem.filter_above {lo : Nat} {m : Mem} (p : Host.Cell → Bool) (h : above lo m = true) : above lo (m.filter p) = true := by
  induction m generalizing lo with
  | nil => rfl
  | cons q r ih =>
    obtain ⟨k, x⟩ := q
    simp [above] at h
    simp only [List.filter_cons]
    split
    · simp [above, h.1, ih h.2]
    · exact above_mono (by omega) (ih h.2)
theorem Mem.filter_wf {m : Mem} (p : Host.Cell → Bool) (h : m.wf = true) : Mem.wf (m.filter p) = true := filter_above p h

/-! ## Read after write -/

theorem Mem.get_below {lo a : Nat} {m : Mem} (hm : above lo m = true) (ha : a < lo) : m.get a = 0#8 := by
  cases m with
  | nil => rfl
  | cons p r =>
    obtain ⟨k, x⟩ := p
    simp [above] at hm
    simp only [get]
    rw [if_neg (by omega), if_pos (by omega)]
theorem Mem.get_put_above {lo : Nat} {m : Mem} (a c : Nat) (b : Byte) (hm : above lo m = true) :
    (m.put a b).get c = if c = a then b else m.get c := by
  induction m generalizing lo with
  | nil =>
    unfold put
    split
    · next h => subst h; simp [get]
    · next h =>
      simp only [get]
      by_cases e : c = a
      · simp [e]
      · rw [if_neg (Ne.symm e), if_neg e]; split <;> rfl
  | cons p r ih =>
    obtain ⟨k, x⟩ := p
    have hm0 := hm
    simp [above] at hm
    obtain ⟨⟨h1, h2⟩, h3⟩ := hm
    unfold put
    split
    · next hk =>
      subst hk
      split
      · next hb =>
        subst hb
        by_cases e : c = k
        · subst e; simp [get_below h3 (Nat.lt_succ_self c)]
        · simp only [get, if_neg (Ne.symm e), if_neg e]
          split
          · next hc => exact get_below h3 (by omega)
          · rfl
      · next hb =>
        by_cases e : c = k
        · subst e; simp [get]
        · simp [get, Ne.symm e, e]
    · next hk =>
      split
      · next hlt =>
        split
        · next hb =>
          subst hb
          by_cases e : c = a
          · subst e; simp [get, hk, hlt]
          · simp [e]
        · next hb =>
          by_cases e : c = a
          · subst e; simp [get]
          · by_cases hc : c < a
            · have hck : c < k := by omega
              have : k ≠ c := by omega
              simp [get, Ne.symm e, e, hc, hck, this]
            · simp only [get, if_neg (Ne.symm e), if_neg hc, if_neg e]
      · next hlt =>
        by_cases e : k = c
        · subst e
          have : ¬ k = a := hk
          simp [get, this]
        · by_cases hc : c < k
          · have : c ≠ a := by omega
            simp [get, e, hc, this]
          · simp only [get, if_neg e, if_neg hc]
            exact ih h3
/-- A read after a byte written gives that byte at its address, and what was there elsewhere. -/
theorem Mem.get_put {m : Mem} (a c : Nat) (b : Byte) (h : m.wf = true) : (m.put a b).get c = if c = a then b else m.get c :=
  get_put_above a c b h
theorem Mem.get_putL (bs : List Byte) {m : Mem} (a c : Nat) (h : m.wf = true) :
    (m.putL a bs).get c = if a ≤ c ∧ c < a + bs.length then bs.getD (c - a) 0#8 else m.get c := by
  induction bs generalizing m a with
  | nil => simp [putL]
  | cons b r ih =>
    simp only [putL]
    rw [ih (a + 1) (put_wf a b h), get_put a c b h]
    by_cases e : c = a
    · subst e; simp
    · by_cases h1 : a + 1 ≤ c ∧ c < a + 1 + r.length
      · have h2 : a ≤ c ∧ c < a + (b :: r).length := by simp; omega
        rw [if_pos h1, if_pos h2]
        have : c - a = (c - (a + 1)) + 1 := by omega
        rw [this, List.getD_cons_succ]
      · have h2 : ¬ (a ≤ c ∧ c < a + (b :: r).length) := by simp; omega
        rw [if_neg h1, if_neg h2, if_neg e]
/-- A read after the bytes of a vector written under a mask. -/
theorem Mem.get_putVec (n : Nat) {m : Mem} (a c : Nat) (mask : Mask) (x : Vec) (j : Nat) (h : m.wf = true) :
    (m.putVec a mask x j n).get c =
      if a + j ≤ c ∧ c < a + j + n ∧ mask.getLsbD (c - a) = true then byteAt x (c - a) else m.get c := by
  induction n generalizing m j with
  | zero => simp [putVec]; omega
  | succ n ih =>
    unfold putVec
    by_cases hj : mask.getLsbD j = true
    · rw [if_pos hj, ih (j + 1) (put_wf _ _ h), get_put _ _ _ h]
      by_cases e : c = a + j
      · subst e
        rw [if_neg (by omega), if_pos rfl, if_pos ⟨by omega, by omega, by simpa using hj⟩]
        simp
      · rw [if_neg e]
        by_cases hc : a + (j + 1) ≤ c ∧ c < a + (j + 1) + n ∧ mask.getLsbD (c - a) = true
        · rw [if_pos hc, if_pos ⟨by omega, by omega, hc.2.2⟩]
        · rw [if_neg hc, if_neg fun k => hc ⟨by omega, by omega, k.2.2⟩]
    · rw [if_neg hj, ih (j + 1) h]
      by_cases hc : a + (j + 1) ≤ c ∧ c < a + (j + 1) + n ∧ mask.getLsbD (c - a) = true
      · rw [if_pos hc, if_pos ⟨by omega, by omega, hc.2.2⟩]
      · rw [if_neg hc, if_neg fun k => hc ⟨by
          rcases Nat.lt_or_ge c (a + (j + 1)) with h1 | h1
          · have : c = a + j := by omega
            subst this
            simp at k
            exact absurd k (by simpa using hj)
          · exact h1, by omega, k.2.2⟩]

end Sys2Proof.Machine
end

