-- ==== Sys2Proof/Laws/State.lean ====
section
/-! SUPPORT. One lemma for each field under each update of the state, and the lookups after an update. -/
namespace Sys2Proof.Machine

@[simp] theorem State.setTile_wall (s : State) (t : Nat) (x : Tile) : (s.setTile t x).wall = s.wall := rfl
@[simp] theorem State.setTile_todo (s : State) (t : Nat) (x : Tile) : (s.setTile t x).todo = s.todo := rfl
@[simp] theorem State.setTile_agenda (s : State) (t : Nat) (x : Tile) : (s.setTile t x).agenda = s.agenda := rfl
@[simp] theorem State.setTile_draws (s : State) (t : Nat) (x : Tile) : (s.setTile t x).draws = s.draws := rfl
@[simp] theorem State.setTile_cur (s : State) (t : Nat) (x : Tile) : (s.setTile t x).cur = s.cur := rfl
@[simp] theorem State.setTile_coaches (s : State) (t : Nat) (x : Tile) : (s.setTile t x).coaches = s.coaches := rfl
@[simp] theorem State.setTile_pkg (s : State) (t : Nat) (x : Tile) : (s.setTile t x).pkg = s.pkg := rfl

@[simp] theorem State.modTile_wall (s : State) (t : Nat) (f : Tile → Tile) : (s.modTile t f).wall = s.wall := rfl
@[simp] theorem State.modTile_todo (s : State) (t : Nat) (f : Tile → Tile) : (s.modTile t f).todo = s.todo := rfl
@[simp] theorem State.modTile_agenda (s : State) (t : Nat) (f : Tile → Tile) : (s.modTile t f).agenda = s.agenda := rfl
@[simp] theorem State.modTile_draws (s : State) (t : Nat) (f : Tile → Tile) : (s.modTile t f).draws = s.draws := rfl
@[simp] theorem State.modTile_cur (s : State) (t : Nat) (f : Tile → Tile) : (s.modTile t f).cur = s.cur := rfl
@[simp] theorem State.modTile_coaches (s : State) (t : Nat) (f : Tile → Tile) : (s.modTile t f).coaches = s.coaches := rfl
@[simp] theorem State.modTile_pkg (s : State) (t : Nat) (f : Tile → Tile) : (s.modTile t f).pkg = s.pkg := rfl

@[simp] theorem State.modCt_wall (s : State) (f : Tile → Tile) : (s.modCt f).wall = s.wall := rfl
@[simp] theorem State.modCt_todo (s : State) (f : Tile → Tile) : (s.modCt f).todo = s.todo := rfl
@[simp] theorem State.modCt_agenda (s : State) (f : Tile → Tile) : (s.modCt f).agenda = s.agenda := rfl
@[simp] theorem State.modCt_draws (s : State) (f : Tile → Tile) : (s.modCt f).draws = s.draws := rfl
@[simp] theorem State.modCt_cur (s : State) (f : Tile → Tile) : (s.modCt f).cur = s.cur := rfl
@[simp] theorem State.modCt_coaches (s : State) (f : Tile → Tile) : (s.modCt f).coaches = s.coaches := rfl
@[simp] theorem State.modCt_pkg (s : State) (f : Tile → Tile) : (s.modCt f).pkg = s.pkg := rfl

@[simp] theorem State.setCoach_wall (s : State) (c : Nat) (x : Coach) : (s.setCoach c x).wall = s.wall := rfl
@[simp] theorem State.setCoach_todo (s : State) (c : Nat) (x : Coach) : (s.setCoach c x).todo = s.todo := rfl
@[simp] theorem State.setCoach_agenda (s : State) (c : Nat) (x : Coach) : (s.setCoach c x).agenda = s.agenda := rfl
@[simp] theorem State.setCoach_draws (s : State) (c : Nat) (x : Coach) : (s.setCoach c x).draws = s.draws := rfl
@[simp] theorem State.setCoach_cur (s : State) (c : Nat) (x : Coach) : (s.setCoach c x).cur = s.cur := rfl
@[simp] theorem State.setCoach_tiles (s : State) (c : Nat) (x : Coach) : (s.setCoach c x).tiles = s.tiles := rfl
@[simp] theorem State.setCoach_pkg (s : State) (c : Nat) (x : Coach) : (s.setCoach c x).pkg = s.pkg := rfl

@[simp] theorem State.modCoach_wall (s : State) (c : Nat) (f : Coach → Coach) : (s.modCoach c f).wall = s.wall := rfl
@[simp] theorem State.modCoach_todo (s : State) (c : Nat) (f : Coach → Coach) : (s.modCoach c f).todo = s.todo := rfl
@[simp] theorem State.modCoach_agenda (s : State) (c : Nat) (f : Coach → Coach) : (s.modCoach c f).agenda = s.agenda := rfl
@[simp] theorem State.modCoach_draws (s : State) (c : Nat) (f : Coach → Coach) : (s.modCoach c f).draws = s.draws := rfl
@[simp] theorem State.modCoach_cur (s : State) (c : Nat) (f : Coach → Coach) : (s.modCoach c f).cur = s.cur := rfl
@[simp] theorem State.modCoach_tiles (s : State) (c : Nat) (f : Coach → Coach) : (s.modCoach c f).tiles = s.tiles := rfl
@[simp] theorem State.modCoach_pkg (s : State) (c : Nat) (f : Coach → Coach) : (s.modCoach c f).pkg = s.pkg := rfl

@[simp] theorem State.modLaunch_wall (s : State) (c : Nat) (f : Launch → Launch) : (s.modLaunch c f).wall = s.wall := rfl
@[simp] theorem State.modLaunch_todo (s : State) (c : Nat) (f : Launch → Launch) : (s.modLaunch c f).todo = s.todo := rfl
@[simp] theorem State.modLaunch_agenda (s : State) (c : Nat) (f : Launch → Launch) : (s.modLaunch c f).agenda = s.agenda := rfl
@[simp] theorem State.modLaunch_draws (s : State) (c : Nat) (f : Launch → Launch) : (s.modLaunch c f).draws = s.draws := rfl
@[simp] theorem State.modLaunch_cur (s : State) (c : Nat) (f : Launch → Launch) : (s.modLaunch c f).cur = s.cur := rfl
@[simp] theorem State.modLaunch_tiles (s : State) (c : Nat) (f : Launch → Launch) : (s.modLaunch c f).tiles = s.tiles := rfl
@[simp] theorem State.modLaunch_pkg (s : State) (c : Nat) (f : Launch → Launch) : (s.modLaunch c f).pkg = s.pkg := rfl

@[simp] theorem State.modPkg_wall (s : State) (f : Pkg → Pkg) : (s.modPkg f).wall = s.wall := rfl
@[simp] theorem State.modPkg_todo (s : State) (f : Pkg → Pkg) : (s.modPkg f).todo = s.todo := rfl
@[simp] theorem State.modPkg_agenda (s : State) (f : Pkg → Pkg) : (s.modPkg f).agenda = s.agenda := rfl
@[simp] theorem State.modPkg_draws (s : State) (f : Pkg → Pkg) : (s.modPkg f).draws = s.draws := rfl
@[simp] theorem State.modPkg_cur (s : State) (f : Pkg → Pkg) : (s.modPkg f).cur = s.cur := rfl
@[simp] theorem State.modPkg_tiles (s : State) (f : Pkg → Pkg) : (s.modPkg f).tiles = s.tiles := rfl
@[simp] theorem State.modPkg_coaches (s : State) (f : Pkg → Pkg) : (s.modPkg f).coaches = s.coaches := rfl

@[simp] theorem State.modPort_wall (s : State) (p : Nat) (f : Port → Port) : (s.modPort p f).wall = s.wall := rfl
@[simp] theorem State.modPort_todo (s : State) (p : Nat) (f : Port → Port) : (s.modPort p f).todo = s.todo := rfl
@[simp] theorem State.modPort_agenda (s : State) (p : Nat) (f : Port → Port) : (s.modPort p f).agenda = s.agenda := rfl
@[simp] theorem State.modPort_draws (s : State) (p : Nat) (f : Port → Port) : (s.modPort p f).draws = s.draws := rfl
@[simp] theorem State.modPort_cur (s : State) (p : Nat) (f : Port → Port) : (s.modPort p f).cur = s.cur := rfl
@[simp] theorem State.modPort_tiles (s : State) (p : Nat) (f : Port → Port) : (s.modPort p f).tiles = s.tiles := rfl
@[simp] theorem State.modPort_coaches (s : State) (p : Nat) (f : Port → Port) : (s.modPort p f).coaches = s.coaches := rfl

@[simp] theorem State.sendCtl_wall (s : State) (p : Nat) (x : Flit) : (s.sendCtl p x).wall = s.wall := rfl
@[simp] theorem State.sendCtl_todo (s : State) (p : Nat) (x : Flit) : (s.sendCtl p x).todo = s.todo := rfl
@[simp] theorem State.sendCtl_agenda (s : State) (p : Nat) (x : Flit) : (s.sendCtl p x).agenda = s.agenda := rfl
@[simp] theorem State.sendCtl_draws (s : State) (p : Nat) (x : Flit) : (s.sendCtl p x).draws = s.draws := rfl
@[simp] theorem State.sendCtl_cur (s : State) (p : Nat) (x : Flit) : (s.sendCtl p x).cur = s.cur := rfl
@[simp] theorem State.sendCtl_tiles (s : State) (p : Nat) (x : Flit) : (s.sendCtl p x).tiles = s.tiles := rfl
@[simp] theorem State.sendCtl_coaches (s : State) (p : Nat) (x : Flit) : (s.sendCtl p x).coaches = s.coaches := rfl
/-- A flit into the domain tree touches ports and outputs alone. -/
theorem State.sendTree_frame (s : State) (f : Port → Flit) :
    (s.sendTree f).tiles = s.tiles ∧ (s.sendTree f).coaches = s.coaches ∧ (s.sendTree f).todo = s.todo ∧ (s.sendTree f).wall = s.wall := by
  unfold State.sendTree
  generalize s.pkg.treePorts = ps
  induction ps generalizing s with
  | nil => exact ⟨rfl, rfl, rfl, rfl⟩
  | cons p ps ih => exact ih _

@[simp] theorem State.out_wall (s : State) (o : Output) : (s.out o).wall = s.wall := rfl
@[simp] theorem State.out_todo (s : State) (o : Output) : (s.out o).todo = s.todo := rfl
@[simp] theorem State.out_agenda (s : State) (o : Output) : (s.out o).agenda = s.agenda := rfl
@[simp] theorem State.out_draws (s : State) (o : Output) : (s.out o).draws = s.draws := rfl
@[simp] theorem State.out_cur (s : State) (o : Output) : (s.out o).cur = s.cur := rfl
@[simp] theorem State.out_tiles (s : State) (o : Output) : (s.out o).tiles = s.tiles := rfl
@[simp] theorem State.out_coaches (s : State) (o : Output) : (s.out o).coaches = s.coaches := rfl

@[simp] theorem State.raise_wall (s : State) (slot : Nat) (x : Fail) : (s.raise slot x).wall = s.wall := rfl
@[simp] theorem State.raise_todo (s : State) (slot : Nat) (x : Fail) : (s.raise slot x).todo = s.todo := rfl
@[simp] theorem State.raise_agenda (s : State) (slot : Nat) (x : Fail) : (s.raise slot x).agenda = s.agenda := rfl
@[simp] theorem State.raise_draws (s : State) (slot : Nat) (x : Fail) : (s.raise slot x).draws = s.draws := rfl
@[simp] theorem State.raise_tiles (s : State) (slot : Nat) (x : Fail) : (s.raise slot x).tiles = s.tiles := rfl
@[simp] theorem State.raise_coaches (s : State) (slot : Nat) (x : Fail) : (s.raise slot x).coaches = s.coaches := rfl
@[simp] theorem State.raise_pkg (s : State) (slot : Nat) (x : Fail) : (s.raise slot x).pkg = s.pkg := rfl

@[simp] theorem State.note_wall (s : State) (c t slot addr : Nat) (x : Fail) : (s.note c t slot addr x).wall = s.wall := rfl
@[simp] theorem State.note_todo (s : State) (c t slot addr : Nat) (x : Fail) : (s.note c t slot addr x).todo = s.todo := rfl
@[simp] theorem State.note_agenda (s : State) (c t slot addr : Nat) (x : Fail) : (s.note c t slot addr x).agenda = s.agenda := rfl
@[simp] theorem State.note_draws (s : State) (c t slot addr : Nat) (x : Fail) : (s.note c t slot addr x).draws = s.draws := rfl
@[simp] theorem State.note_cur (s : State) (c t slot addr : Nat) (x : Fail) : (s.note c t slot addr x).cur = s.cur := rfl
@[simp] theorem State.note_tiles (s : State) (c t slot addr : Nat) (x : Fail) : (s.note c t slot addr x).tiles = s.tiles := rfl
@[simp] theorem State.note_pkg (s : State) (c t slot addr : Nat) (x : Fail) : (s.note c t slot addr x).pkg = s.pkg := rfl

@[simp] theorem State.log_wall (s : State) (c : Nat) (r : Record) : (s.log c r).wall = s.wall := rfl
@[simp] theorem State.log_todo (s : State) (c : Nat) (r : Record) : (s.log c r).todo = s.todo := rfl
@[simp] theorem State.log_agenda (s : State) (c : Nat) (r : Record) : (s.log c r).agenda = s.agenda := rfl
@[simp] theorem State.log_draws (s : State) (c : Nat) (r : Record) : (s.log c r).draws = s.draws := rfl
@[simp] theorem State.log_cur (s : State) (c : Nat) (r : Record) : (s.log c r).cur = s.cur := rfl
@[simp] theorem State.log_tiles (s : State) (c : Nat) (r : Record) : (s.log c r).tiles = s.tiles := rfl
@[simp] theorem State.log_pkg (s : State) (c : Nat) (r : Record) : (s.log c r).pkg = s.pkg := rfl

@[simp] theorem State.post_wall (s : State) (sc lat : Nat) (w : Write) : (s.post sc lat w).wall = s.wall := rfl
@[simp] theorem State.post_todo (s : State) (sc lat : Nat) (w : Write) : (s.post sc lat w).todo = s.todo := rfl
@[simp] theorem State.post_agenda (s : State) (sc lat : Nat) (w : Write) : (s.post sc lat w).agenda = s.agenda := rfl
@[simp] theorem State.post_draws (s : State) (sc lat : Nat) (w : Write) : (s.post sc lat w).draws = s.draws := rfl
@[simp] theorem State.post_cur (s : State) (sc lat : Nat) (w : Write) : (s.post sc lat w).cur = s.cur := rfl
@[simp] theorem State.post_coaches (s : State) (sc lat : Nat) (w : Write) : (s.post sc lat w).coaches = s.coaches := rfl
@[simp] theorem State.post_pkg (s : State) (sc lat : Nat) (w : Write) : (s.post sc lat w).pkg = s.pkg := rfl

@[simp] theorem State.postS_wall (s : State) (sc lat : Nat) (d : BitVec 6) (x : Word) : (s.postS sc lat d x).wall = s.wall := by
  unfold State.postS; split <;> rfl
@[simp] theorem State.postS_todo (s : State) (sc lat : Nat) (d : BitVec 6) (x : Word) : (s.postS sc lat d x).todo = s.todo := by
  unfold State.postS; split <;> rfl
@[simp] theorem State.postS_agenda (s : State) (sc lat : Nat) (d : BitVec 6) (x : Word) : (s.postS sc lat d x).agenda = s.agenda := by
  unfold State.postS; split <;> rfl
@[simp] theorem State.postS_draws (s : State) (sc lat : Nat) (d : BitVec 6) (x : Word) : (s.postS sc lat d x).draws = s.draws := by
  unfold State.postS; split <;> rfl
@[simp] theorem State.postS_cur (s : State) (sc lat : Nat) (d : BitVec 6) (x : Word) : (s.postS sc lat d x).cur = s.cur := by
  unfold State.postS; split <;> rfl
@[simp] theorem State.postS_coaches (s : State) (sc lat : Nat) (d : BitVec 6) (x : Word) : (s.postS sc lat d x).coaches = s.coaches := by
  unfold State.postS; split <;> rfl
@[simp] theorem State.postS_pkg (s : State) (sc lat : Nat) (d : BitVec 6) (x : Word) : (s.postS sc lat d x).pkg = s.pkg := by
  unfold State.postS; split <;> rfl

@[simp] theorem State.postP_wall (s : State) (sc lat d : Nat) (x : Bool) : (s.postP sc lat d x).wall = s.wall := by
  unfold State.postP; split <;> rfl
@[simp] theorem State.postP_todo (s : State) (sc lat d : Nat) (x : Bool) : (s.postP sc lat d x).todo = s.todo := by
  unfold State.postP; split <;> rfl
@[simp] theorem State.postP_agenda (s : State) (sc lat d : Nat) (x : Bool) : (s.postP sc lat d x).agenda = s.agenda := by
  unfold State.postP; split <;> rfl
@[simp] theorem State.postP_draws (s : State) (sc lat d : Nat) (x : Bool) : (s.postP sc lat d x).draws = s.draws := by
  unfold State.postP; split <;> rfl
@[simp] theorem State.postP_cur (s : State) (sc lat d : Nat) (x : Bool) : (s.postP sc lat d x).cur = s.cur := by
  unfold State.postP; split <;> rfl
@[simp] theorem State.postP_coaches (s : State) (sc lat d : Nat) (x : Bool) : (s.postP sc lat d x).coaches = s.coaches := by
  unfold State.postP; split <;> rfl
@[simp] theorem State.postP_pkg (s : State) (sc lat d : Nat) (x : Bool) : (s.postP sc lat d x).pkg = s.pkg := by
  unfold State.postP; split <;> rfl

@[simp] theorem State.postQ_wall (s : State) (sc lat : Nat) (d : BitVec 4) (m x : Mask) : (s.postQ sc lat d m x).wall = s.wall := by
  unfold State.postQ; split <;> rfl
@[simp] theorem State.postQ_todo (s : State) (sc lat : Nat) (d : BitVec 4) (m x : Mask) : (s.postQ sc lat d m x).todo = s.todo := by
  unfold State.postQ; split <;> rfl
@[simp] theorem State.postQ_agenda (s : State) (sc lat : Nat) (d : BitVec 4) (m x : Mask) : (s.postQ sc lat d m x).agenda = s.agenda := by
  unfold State.postQ; split <;> rfl
@[simp] theorem State.postQ_draws (s : State) (sc lat : Nat) (d : BitVec 4) (m x : Mask) : (s.postQ sc lat d m x).draws = s.draws := by
  unfold State.postQ; split <;> rfl
@[simp] theorem State.postQ_cur (s : State) (sc lat : Nat) (d : BitVec 4) (m x : Mask) : (s.postQ sc lat d m x).cur = s.cur := by
  unfold State.postQ; split <;> rfl
@[simp] theorem State.postQ_coaches (s : State) (sc lat : Nat) (d : BitVec 4) (m x : Mask) : (s.postQ sc lat d m x).coaches = s.coaches := by
  unfold State.postQ; split <;> rfl
@[simp] theorem State.postQ_pkg (s : State) (sc lat : Nat) (d : BitVec 4) (m x : Mask) : (s.postQ sc lat d m x).pkg = s.pkg := by
  unfold State.postQ; split <;> rfl

@[simp] theorem State.postF_wall (s : State) (sc lat : Nat) (f : Fl) : (s.postF sc lat f).wall = s.wall := by
  unfold State.postF; split <;> rfl
@[simp] theorem State.postF_todo (s : State) (sc lat : Nat) (f : Fl) : (s.postF sc lat f).todo = s.todo := by
  unfold State.postF; split <;> rfl
@[simp] theorem State.postF_agenda (s : State) (sc lat : Nat) (f : Fl) : (s.postF sc lat f).agenda = s.agenda := by
  unfold State.postF; split <;> rfl
@[simp] theorem State.postF_draws (s : State) (sc lat : Nat) (f : Fl) : (s.postF sc lat f).draws = s.draws := by
  unfold State.postF; split <;> rfl
@[simp] theorem State.postF_cur (s : State) (sc lat : Nat) (f : Fl) : (s.postF sc lat f).cur = s.cur := by
  unfold State.postF; split <;> rfl
@[simp] theorem State.postF_coaches (s : State) (sc lat : Nat) (f : Fl) : (s.postF sc lat f).coaches = s.coaches := by
  unfold State.postF; split <;> rfl
@[simp] theorem State.postF_pkg (s : State) (sc lat : Nat) (f : Fl) : (s.postF sc lat f).pkg = s.pkg := by
  unfold State.postF; split <;> rfl

@[simp] theorem State.postV_wall (s : State) (sc lat : Nat) (d : BitVec 6) (m : Mask) (x : Vec) : (s.postV sc lat d m x).wall = s.wall := rfl
@[simp] theorem State.postV_todo (s : State) (sc lat : Nat) (d : BitVec 6) (m : Mask) (x : Vec) : (s.postV sc lat d m x).todo = s.todo := rfl
@[simp] theorem State.postV_agenda (s : State) (sc lat : Nat) (d : BitVec 6) (m : Mask) (x : Vec) : (s.postV sc lat d m x).agenda = s.agenda := rfl
@[simp] theorem State.postV_draws (s : State) (sc lat : Nat) (d : BitVec 6) (m : Mask) (x : Vec) : (s.postV sc lat d m x).draws = s.draws := rfl
@[simp] theorem State.postV_cur (s : State) (sc lat : Nat) (d : BitVec 6) (m : Mask) (x : Vec) : (s.postV sc lat d m x).cur = s.cur := rfl
@[simp] theorem State.postV_coaches (s : State) (sc lat : Nat) (d : BitVec 6) (m : Mask) (x : Vec) : (s.postV sc lat d m x).coaches = s.coaches := rfl
@[simp] theorem State.postV_pkg (s : State) (sc lat : Nat) (d : BitVec 6) (m : Mask) (x : Vec) : (s.postV sc lat d m x).pkg = s.pkg := rfl

/-! ## Lookups -/

@[simp] theorem State.tile_setTile (s : State) (t : Nat) (x : Tile) : (s.setTile t x).tile t = x := getK_setK_self _ _ _ _
theorem State.tile_setTile_ne (s : State) {t u : Nat} (x : Tile) (h : u ≠ t) : (s.setTile t x).tile u = s.tile u :=
  getK_setK_ne _ _ _ h
@[simp] theorem State.tile_modTile (s : State) (t : Nat) (f : Tile → Tile) : (s.modTile t f).tile t = f (s.tile t) :=
  s.tile_setTile t _
theorem State.tile_modTile_ne (s : State) {t u : Nat} (f : Tile → Tile) (h : u ≠ t) : (s.modTile t f).tile u = s.tile u :=
  s.tile_setTile_ne _ h
@[simp] theorem State.ct_modCt (s : State) (f : Tile → Tile) : (s.modCt f).ct = f s.ct := s.tile_modTile _ f
@[simp] theorem State.setTile_setTile (s : State) (t : Nat) (x y : Tile) : (s.setTile t x).setTile t y = s.setTile t y := by
  simp [State.setTile]
@[simp] theorem State.modTile_modTile (s : State) (t : Nat) (f g : Tile → Tile) :
    (s.modTile t f).modTile t g = s.modTile t fun x => g (f x) := by
  simp [State.modTile]
@[simp] theorem State.modCt_modCt (s : State) (f g : Tile → Tile) : (s.modCt f).modCt g = s.modCt fun x => g (f x) :=
  s.modTile_modTile _ f g
@[simp] theorem State.tile_setCoach (s : State) (c t : Nat) (x : Coach) : (s.setCoach c x).tile t = s.tile t := rfl
@[simp] theorem State.tile_modCoach (s : State) (c t : Nat) (f : Coach → Coach) : (s.modCoach c f).tile t = s.tile t := rfl
@[simp] theorem State.tile_modLaunch (s : State) (c t : Nat) (f : Launch → Launch) : (s.modLaunch c f).tile t = s.tile t := rfl
@[simp] theorem State.tile_modPkg (s : State) (t : Nat) (f : Pkg → Pkg) : (s.modPkg f).tile t = s.tile t := rfl
@[simp] theorem State.coach_setTile (s : State) (t c : Nat) (x : Tile) : (s.setTile t x).coach c = s.coach c := rfl
@[simp] theorem State.coach_modTile (s : State) (t c : Nat) (f : Tile → Tile) : (s.modTile t f).coach c = s.coach c := rfl
@[simp] theorem State.coach_modCt (s : State) (c : Nat) (f : Tile → Tile) : (s.modCt f).coach c = s.coach c := rfl
@[simp] theorem State.coach_modPkg (s : State) (c : Nat) (f : Pkg → Pkg) : (s.modPkg f).coach c = s.coach c := rfl
theorem State.coach_setCoach (s : State) {c : Nat} (x : Coach) (h : c < 16) : (s.setCoach c x).coach c = x := by
  simp [State.coach, State.setCoach, Vector.getD, h]
theorem State.coach_setCoach_ne (s : State) {c d : Nat} (x : Coach) (h : d ≠ c) : (s.setCoach c x).coach d = s.coach d := by
  by_cases hd : d < 16
  · simp [State.coach, State.setCoach, Vector.getD, hd, Ne.symm h]
  · simp [State.coach, State.setCoach, Vector.getD, hd]
/-- The coach after a write of coach c: the new value where c is one of the 16. -/
theorem State.coach_setCoach_or (s : State) (c d : Nat) (x : Coach) :
    (s.setCoach c x).coach d = x ∨ (s.setCoach c x).coach d = s.coach d := by
  by_cases h : d = c
  · subst h
    by_cases hd : d < 16
    · exact .inl (s.coach_setCoach x hd)
    · right; simp [State.coach, State.setCoach, Vector.getD, hd]
  · exact .inr (s.coach_setCoach_ne x h)

/-! ## What an instruction of a slot reads is not changed by writes that are not visible yet -/

@[simp] theorem State.post_ct_regs (s : State) (sc lat : Nat) (w : Write) : (s.post sc lat w).ct.regs = s.ct.regs := by
  simp [State.post]
@[simp] theorem State.post_ct (s : State) (sc lat : Nat) (w : Write) :
    (s.post sc lat w).ct = { s.ct with pend := s.ct.pend ++ [⟨s.frc + lat, s.srcOf sc, w⟩] } := by
  simp [State.post]
@[simp] theorem State.post_sv (s : State) (sc lat : Nat) (w : Write) (n : BitVec 6) : (s.post sc lat w).sv n = s.sv n := by
  simp [State.sv]
@[simp] theorem State.post_pv (s : State) (sc lat : Nat) (w : Write) (n : BitVec 5) : (s.post sc lat w).pv n = s.pv n := by
  simp [State.pv]
@[simp] theorem State.post_frc (s : State) (sc lat : Nat) (w : Write) : (s.post sc lat w).frc = s.frc := rfl

end Sys2Proof.Machine
end

