-- ==== Sys2Proof/Laws/Invariant.lean ====
section
/-! SUPPORT. What keeps every memory in canonical form: the updates of the state, the taking of a fault, the host's posted
writes, and the operations over the memories of a tile (notes/assumptions/5.md). -/
namespace Sys2Proof.Machine

/-! ## Updates of the state -/

/-- Only tiles, coaches, the bundle being issued and host memory matter. -/
theorem State.memOk_of_eq {s s' : State} (h : s.memOk) (ht : s'.tiles = s.tiles) (hc : s'.coaches = s.coaches)
    (hk : s'.cur = s.cur) (hp : s'.pkg.host = s.pkg.host) : s'.memOk := by
  obtain ⟨h1, h2, h3, h4⟩ := h
  refine ⟨fun t => ?_, fun c => ?_, ?_, ?_⟩
  · have : s'.tile t = s.tile t := by simp only [State.tile, ht]
    rw [this]; exact h1 t
  · have : s'.coach c = s.coach c := by simp only [State.coach, hc]
    rw [this]; exact h2 c
  · rw [hk]; exact h3
  · rw [hp]; exact h4
theorem State.memOk_setTile {s : State} {t : Nat} {x : Tile} (h : s.memOk) (hx : x.memOk) : (s.setTile t x).memOk := by
  refine ⟨fun u => ?_, h.2.1, h.2.2.1, h.2.2.2⟩
  by_cases e : u = t
  · subst e; rw [s.tile_setTile]; exact hx
  · rw [s.tile_setTile_ne x e]; exact h.1 u
theorem State.memOk_modTile {s : State} {t : Nat} {f : Tile → Tile} (h : s.memOk) (hf : ∀ y : Tile, y.memOk → (f y).memOk) :
    (s.modTile t f).memOk := memOk_setTile h (hf _ (h.1 t))
theorem State.memOk_modCt {s : State} {f : Tile → Tile} (h : s.memOk) (hf : ∀ y : Tile, y.memOk → (f y).memOk) :
    (s.modCt f).memOk := memOk_modTile h hf
theorem State.memOk_modTiles {f : Tile → Tile} (hf : ∀ y : Tile, y.memOk → (f y).memOk) (ts : List Nat) {s : State} (h : s.memOk) :
    (s.modTiles f ts).memOk := by
  induction ts generalizing s with
  | nil => exact h
  | cons t r ih => exact ih (memOk_modTile h hf)
theorem State.memOk_setCoach {s : State} {c : Nat} {x : Coach} (h : s.memOk) (hx : x.launch.memOk) : (s.setCoach c x).memOk := by
  refine ⟨h.1, fun d => ?_, h.2.2.1, h.2.2.2⟩
  rcases s.coach_setCoach_or c d x with e | e <;> rw [e]
  · exact hx
  · exact h.2.1 d
theorem State.memOk_modCoach {s : State} {c : Nat} {f : Coach → Coach} (h : s.memOk)
    (hf : ∀ k : Coach, k.launch.memOk → (f k).launch.memOk) : (s.modCoach c f).memOk := memOk_setCoach h (hf _ (h.2.1 c))
theorem State.memOk_modLaunch {s : State} {c : Nat} {f : Launch → Launch} (h : s.memOk) (hf : ∀ l : Launch, l.memOk → (f l).memOk) :
    (s.modLaunch c f).memOk := memOk_modCoach h fun k hk => hf k.launch hk
theorem State.memOk_modPkg {s : State} {f : Pkg → Pkg} (h : s.memOk) (hf : ∀ p : Pkg, p.host.wf = true → (f p).host.wf = true) :
    (s.modPkg f).memOk := ⟨h.1, h.2.1, h.2.2.1, hf _ h.2.2.2⟩
theorem State.memOk_out {s : State} (o : Output) (h : s.memOk) : (s.out o).memOk := memOk_modPkg h fun _ hp => hp
theorem State.memOk_draw {s : State} (h : s.memOk) : s.draw.2.memOk := memOk_of_eq h rfl rfl rfl rfl
theorem State.memOk_todo {s : State} (ts : List Task) (h : s.memOk) : ({ s with todo := ts } : State).memOk := memOk_of_eq h rfl rfl rfl rfl
/-- A fold of updates that each keep the form keeps it. -/
theorem State.memOk_foldl {α : Type} {f : State → α → State} (hf : ∀ (s : State) (a : α), s.memOk → (f s a).memOk) (l : List α)
    {s : State} (h : s.memOk) : (l.foldl f s).memOk := by
  induction l generalizing s with
  | nil => exact h
  | cons a r ih => exact ih (hf s a h)

/-! ## Writes not yet visible, records -/

theorem State.memOk_post {s : State} (sc lat : Nat) (w : Write) (h : s.memOk) : (s.post sc lat w).memOk := memOk_modCt h fun _ hy => hy
theorem State.memOk_postS {s : State} (sc lat : Nat) (d : BitVec 6) (x : Word) (h : s.memOk) : (s.postS sc lat d x).memOk := by
  unfold State.postS; split
  · exact h
  · exact memOk_post _ _ _ h
theorem State.memOk_postP {s : State} (sc lat d : Nat) (b : Bool) (h : s.memOk) : (s.postP sc lat d b).memOk := by
  unfold State.postP; split
  · exact h
  · exact memOk_post _ _ _ h
theorem State.memOk_postQ {s : State} (sc lat : Nat) (d : BitVec 4) (m x : Mask) (h : s.memOk) : (s.postQ sc lat d m x).memOk := by
  unfold State.postQ; split
  · exact h
  · exact memOk_post _ _ _ h
theorem State.memOk_postV {s : State} (sc lat : Nat) (d : BitVec 6) (m : Mask) (x : Vec) (h : s.memOk) : (s.postV sc lat d m x).memOk :=
  memOk_post _ _ _ h
theorem State.memOk_postF {s : State} (sc lat : Nat) (f : Fl) (h : s.memOk) : (s.postF sc lat f).memOk := by
  unfold State.postF; split
  · exact h
  · exact memOk_post _ _ _ h
theorem State.memOk_raise {s : State} (slot : Nat) (x : Fail) (h : s.memOk) : (s.raise slot x).memOk := ⟨h.1, h.2.1, h.2.2.1, h.2.2.2⟩
theorem State.memOk_note {s : State} (c t slot addr : Nat) (x : Fail) (h : s.memOk) : (s.note c t slot addr x).memOk :=
  memOk_modCoach h fun _ hk => hk
theorem State.memOk_log {s : State} (c : Nat) (r : Record) (h : s.memOk) : (s.log c r).memOk := memOk_modCoach h fun _ hk => hk
theorem State.memOk_event {s : State} (code sev source : Nat) (d1 d2 : Word) (h : s.memOk) : (s.event code sev source d1 d2).memOk := by
  have h1 : ∀ e : Pkg → Pkg, (∀ p, (e p).host = p.host) → (s.modPkg e).memOk := fun e he => memOk_modPkg h fun p hp => by rw [he]; exact hp
  unfold State.event
  dsimp only
  split
  · exact memOk_out _ (h1 _ fun _ => rfl)
  · exact h1 _ fun _ => rfl
/-- A slot operation answers a next state that keeps the form, if what it does under its guard does. -/
theorem slotOp_memOk {g : Guard} {s s' : State} {f : State → State} (h : s.memOk) (hf : (f s).memOk) (e : slotOp g s f = .next s') :
    s'.memOk := by
  simp only [slotOp, Host.Outcome.next.injEq] at e
  subst e
  split
  · exact hf
  · exact h

/-! ## Taking a fault -/

theorem Tile.memOk_closeAll {t : Tile} (h : t.memOk) : ({ t with vault := t.vault.closeAll } : Tile).memOk := h
theorem Launch.memOk_finish {l : Launch} (status wall : Nat) (h : l.memOk) : (l.finish status wall).memOk := h
theorem State.memOk_stopLaunch {s : State} (c : Nat) (r : Record) (h : s.memOk) : (s.stopLaunch c r).memOk := by
  have h1 : ∀ n ts, (State.modTiles { s with draws := n } (fun t => { t with vault := t.vault.closeAll }) ts).memOk := fun n ts =>
    memOk_modTiles (f := fun t => { t with vault := t.vault.closeAll }) (fun _ hy => hy) ts (memOk_of_eq h rfl rfl rfl rfl)
  unfold State.stopLaunch
  dsimp only
  exact memOk_modCoach (h1 _ _) fun _ hk => hk
theorem State.memOk_announce {s : State} (c : Nat) (r : Record) (h : s.memOk) : (s.announce c r).memOk := by
  unfold State.announce
  split
  · exact memOk_out _ h
  · exact h
theorem State.memOk_stopNow {s : State} (c : Nat) (r : Record) (h : s.memOk) : (s.stopNow c r).memOk :=
  memOk_stopLaunch c r (memOk_announce c r (memOk_log c r h))
theorem State.memOk_halt {s : State} (c target : Nat) (ports : List Nat) (h : s.memOk) : (s.halt c target ports).memOk := by
  unfold State.halt
  dsimp only
  refine memOk_modCoach (memOk_modPkg ?_ fun _ hp => hp) fun _ hk => hk
  exact memOk_modTiles (f := fun t => t.discard ((s.coach c).launch.startOf target)) (fun _ hy => hy) _ h
theorem State.memOk_cancelAt {s : State} (c tile source t : Nat) (strike : Bool) (ports : List Nat) (h : s.memOk) :
    (s.cancelAt c tile source t strike ports).memOk := by
  unfold State.cancelAt
  extract_lets l k target entry struck go run
  have he : entry.memOk := memOk_log c _ h
  have hgo : go.memOk := memOk_modCoach he fun _ hk => hk
  have hl : ∀ (ts : List Nat) (f : Launch → Launch), (∀ l : Launch, l.memOk → (f l).memOk) →
      ((go.modTiles (fun t => { t with vault := t.vault.closeAll }) ts).modLaunch c f).memOk := fun ts f hf =>
    memOk_modLaunch (memOk_modTiles (f := fun t => { t with vault := t.vault.closeAll }) (fun _ hy => hy) ts hgo) hf
  have hr : run.memOk := by
    clear_value go
    unfold run
    split
    · exact memOk_stopNow _ _ hgo
    · split
      · exact hl _ _ fun _ hk => hk
      · exact hl _ _ fun _ hk => hk
      · exact hl _ _ fun _ hk => hk
      · split
        · split
          · exact memOk_halt _ _ _ hgo
          · exact hgo
        · exact hgo
      · exact memOk_halt _ _ _ hgo
  clear_value run entry
  split
  · exact h
  · exact h
  · exact he
  · split
    · exact he
    · exact hr
theorem State.memOk_modPort {s : State} (p : Nat) (f : Port → Port) (h : s.memOk) : (s.modPort p f).memOk := memOk_modPkg h fun _ hp => hp
theorem State.memOk_sendCtl {s : State} (p : Nat) (x : Flit) (h : s.memOk) : (s.sendCtl p x).memOk := memOk_modPort p _ (memOk_out _ h)
theorem State.memOk_sendTree {s : State} (f : Port → Flit) (h : s.memOk) : (s.sendTree f).memOk :=
  memOk_foldl (fun _ p hs => memOk_sendCtl p _ hs) _ h
theorem State.memOk_tell {s : State} (r : Report) (h : s.memOk) : (s.tell r).memOk := memOk_sendTree _ h
theorem State.memOk_cancel {s : State} (c tile source t : Nat) (strike : Bool) (ports : List Nat) (h : s.memOk) :
    (s.cancel c tile source t strike ports).memOk := by
  unfold State.cancel
  extract_lets l live s1
  refine memOk_cancelAt c tile source t strike ports ?_
  clear_value live
  unfold s1
  split
  · exact memOk_tell _ h
  · exact h
theorem State.memOk_takeFaults {s : State} (c : Nat) (ports : List Nat) (rs : List Record) (h : s.memOk) : (s.takeFaults c ports rs).memOk := by
  have h1 : ((sortRecs rs).foldl (fun s r => s.log c r) s).memOk := memOk_foldl (fun _ r hs => memOk_log c r hs) _ h
  unfold State.takeFaults
  dsimp only
  refine memOk_foldl (fun s r hs => memOk_cancel _ _ _ _ _ _ hs) _ ?_
  split
  · exact h1
  · split
    · exact h1
    · exact h1
    · split
      · exact memOk_modLaunch (memOk_announce _ _ h1) fun _ hk => hk
      · exact memOk_stopLaunch _ _ (memOk_announce _ _ h1)
theorem State.memOk_stopEvent {s : State} (c slot : Nat) (x : Fail) (h : s.memOk) : (s.stopEvent c slot x).memOk :=
  memOk_takeFaults _ _ _ h

/-! ## Host memory -/

theorem Coach.hostWrite_wf (k : Coach) (n : Nat) {m : Mem} (a : Nat) (x : List Byte) (h : m.wf = true) :
    (k.hostWrite m a x n).1.wf = true := by
  induction n generalizing m a x with
  | zero => exact h
  | succ n ih =>
    unfold Coach.hostWrite
    dsimp only
    split
    · exact h
    · split
      · exact h
      · exact ih _ _ (Mem.putL_wf _ _ h)
theorem State.memOk_hpost {s : State} (c a : Nat) (x : List Byte) (h : s.memOk) : (s.hpost c a x).memOk := by
  have hw := (s.coach c).hostWrite_wf (x.length / 256 + 2) a x h.2.2.2
  unfold State.hpost
  split
  · rename_i m e
    rw [e] at hw
    exact memOk_modPkg h fun _ _ => hw
  · rename_i m b d e
    rw [e] at hw
    exact memOk_stopEvent _ _ _ (memOk_modPkg h fun _ _ => hw)
theorem State.memOk_mirror {s : State} (c i : Nat) (h : s.memOk) : (s.mirror c i).memOk := by
  unfold State.mirror
  dsimp only
  split
  · exact h
  · exact memOk_hpost _ _ _ (memOk_modCoach h fun _ hk => hk)
theorem State.memOk_syncMirrors {s : State} (c : Nat) (h : s.memOk) : (s.syncMirrors c).memOk := by
  unfold State.syncMirrors
  exact memOk_foldl (fun _ i hs => memOk_mirror c i hs) _ h
theorem State.memOk_writeMirrors {s : State} (c : Nat) (h : s.memOk) : (s.writeMirrors c).memOk := by
  unfold State.writeMirrors
  refine memOk_foldl ?_ _ h
  intro s i hs
  refine memOk_hpost _ _ _ ?_
  exact memOk_modCoach hs fun _ hk => hk
theorem State.memOk_writeDigests {s : State} (c : Nat) (u : Unsettled) (h : s.memOk) : (s.writeDigests c u).memOk := by
  unfold State.writeDigests
  exact memOk_foldl (fun _ _ hs => memOk_hpost _ _ _ hs) _ h
theorem State.memOk_ite {p : Prop} [Decidable p] {a b : State} (ha : a.memOk) (hb : b.memOk) : (if p then a else b).memOk := by
  split
  · exact ha
  · exact hb
theorem State.memOk_complete {s : State} (c status : Nat) (h : s.memOk) : (s.complete c status).memOk := by
  have key : ∀ a x, (s.hpost c a x).memOk := fun a x => memOk_hpost c a x h
  unfold State.complete
  extract_lets l before s1 s2
  have h2 : s2.memOk := memOk_ite (key _ _) (memOk_modCoach (key _ _) fun _ hk => hk)
  clear_value s2
  exact memOk_ite (memOk_out _ h2) h2

/-! ## Memories of a tile -/

/-- A fold of updates of a memory that each keep the form keeps it. -/
theorem Mem.foldl_wf {α : Type} {f : Mem → α → Mem} (hf : ∀ (m : Mem) (a : α), m.wf = true → (f m a).wf = true) (l : List α) {m : Mem}
    (h : m.wf = true) : (l.foldl f m).wf = true := by
  induction l generalizing m with
  | nil => exact h
  | cons a r ih => exact ih (hf m a h)
theorem VaultSt.setColumn_wf {v : VaultSt} (a : VAddr) (x : Vec) (h : v.cells.wf = true) : (v.setColumn a x).cells.wf = true := by
  unfold VaultSt.setColumn
  dsimp only
  exact Mem.putVec_wf 256 _ _ _ _ h
theorem Tile.memOk_setColumn {t : Tile} (a : VAddr) (x : Vec) (h : t.memOk) : ({ t with vault := t.vault.setColumn a x } : Tile).memOk :=
  ⟨h.1, VaultSt.setColumn_wf a x h.2.1, h.2.2⟩
theorem Tile.memOk_restore {t : Tile} (k wall : Nat) (h : t.memOk) : (t.restore k wall).memOk := by
  unfold Tile.restore Tile.memOk
  exact h
theorem Tile.memOk_settle {t : Tile} (k : Nat) (h : t.memOk) : (t.settle k).memOk := h
theorem VaultSt.copyRow_wf {v : VaultSt} (pb src dst : Nat) (h : v.cells.wf = true) : (v.copyRow pb src dst).cells.wf = true := by
  unfold VaultSt.copyRow
  dsimp only
  refine Mem.foldl_wf ?_ _ h
  intro m c hm
  exact Mem.putVec_wf 256 _ _ _ _ hm
theorem VaultSt.moveLine_wf {v : VaultSt} (no : Nat) (ro : BitVec 32) (g : Nat) (h : v.cells.wf = true) :
    (v.moveLine no ro g).cells.wf = true := by
  unfold VaultSt.moveLine
  split
  · exact h
  · dsimp only
    refine Mem.foldl_wf ?_ _ h
    intro m c hm
    exact Mem.putVec_wf 256 _ _ _ _ hm
theorem VaultSt.moveDown_wf (g : Nat) {v : VaultSt} (no : Nat) (ro : BitVec 32) (h : v.cells.wf = true) :
    (v.moveDown no ro g).cells.wf = true := by
  induction g generalizing v with
  | zero => exact h
  | succ g ih => exact ih (moveLine_wf no ro g h)
theorem VaultSt.moveUp_wf (k : Nat) {v : VaultSt} (no : Nat) (ro : BitVec 32) (g : Nat) (h : v.cells.wf = true) :
    (v.moveUp no ro g k).cells.wf = true := by
  induction k generalizing v g with
  | zero => exact h
  | succ k ih => exact ih _ (moveLine_wf no ro g h)
theorem VaultSt.finishMigration_wf {v : VaultSt} (h : v.cells.wf = true) : v.finishMigration.cells.wf = true := by
  unfold VaultSt.finishMigration
  split
  · exact moveDown_wf _ _ _ h
  · exact h
theorem VaultSt.migrateLine_wf {v : VaultSt} (h : v.cells.wf = true) : v.migrateLine.cells.wf = true := by
  unfold VaultSt.migrateLine
  split
  · exact moveLine_wf _ _ _ h
  · exact h
theorem BlkSt.undo_wf (k : Nat) (js : List JEntry) {b : BlkSt} (h : b.mem.wf = true) : (b.undo k js).mem.wf = true := by
  induction js generalizing b with
  | nil => exact h
  | cons j r ih =>
    unfold BlkSt.undo
    split
    · refine ih ?_
      exact Mem.foldl_wf (fun m _ hm => Mem.put_wf _ _ hm) _ h
    · exact h

end Sys2Proof.Machine
end

