-- ==== Sys2Proof/Laws/PerInstr.lean ====
section
/-! SUPPORT. The family RoundTrip: every well-formed slot operation decodes from the word it encodes to, and so does every
code word; one lemma for each constructor of Instr. -/
namespace Sys2Proof.Laws.RoundTrip

/-- Is the instruction a code word of 05 Table 5-1? -/
def isWord : Instr → Bool
  | .issue _ | .escape | .idle _ | .seg _ | .endStream => true
  | _ => false

/-- The words of i decode to i: as a slot operation if it has a slot, as a code word if it is one. -/
def Statement (i : Instr) : Prop :=
  (∀ sl, slotOf i = some sl → i.wf = true → decodeSlot sl (ftlOf i) (encodeSlot i) = .ok i) ∧
  (isWord i = true → decodeWord (encodeWord i) = .ok i)

set_option simprocs false
set_option linter.unusedSimpArgs false

theorem issue (n : BitVec 12) : Statement (.issue n) :=
  ⟨fun _ h => (nomatch h), fun _ => decodeWord_issue n⟩
theorem escape : Statement .escape := ⟨fun _ h => (nomatch h), fun _ => rfl⟩
theorem idle (n : BitVec 10) : Statement (.idle n) :=
  ⟨fun _ h => (nomatch h), fun _ => decodeWord_idle n⟩
theorem seg (n : BitVec 10) : Statement (.seg n) :=
  ⟨fun _ h => (nomatch h), fun _ => decodeWord_seg n⟩
theorem endStream : Statement .endStream := ⟨fun _ h => (nomatch h), fun _ => rfl⟩
theorem nop (sl : Slot) : Statement (.nop sl) := by
  refine ⟨?_, fun h => nomatch h⟩
  rintro sl ⟨⟩ -
  cases sl <;> rfl
theorem prep (g : Guard) (st : BitVec 4) (target : BitVec 17) : Statement (.prep g st target) := by
  refine ⟨?_, fun h => nomatch h⟩
  rintro sl ⟨⟩ hw
  refine decodeSlot_encode .C _ g 1#7 ((st ++ (0#6 ++ target))) _ rfl (by decide) (by decide) rfl ?_ hw
  refine (candidate_C _ _ _ _ rfl).trans ?_
  show (some (Instr.prep g (fld _ 23 4) (fld _ 0 17))) = _
  simp (disch := decide) only [fld_pack, flag_pack, ext_lo, ext_top, ext_all, bit_eq, Option.bind_some, one_ne_zero1, if_true, if_false]
theorem prepr (g : Guard) (st : BitVec 4) (sa : BitVec 6) : Statement (.prepr g st sa) := by
  refine ⟨?_, fun h => nomatch h⟩
  rintro sl ⟨⟩ hw
  refine decodeSlot_encode .C _ g 2#7 ((st ++ (0#2 ++ (sa ++ 0#15)))) _ rfl (by decide) (by decide) rfl ?_ hw
  refine (candidate_C _ _ _ _ rfl).trans ?_
  show (some (Instr.prepr g (fld _ 23 4) (fld _ 15 6))) = _
  simp (disch := decide) only [fld_pack, flag_pack, ext_lo, ext_top, ext_all, bit_eq, Option.bind_some, one_ne_zero1, if_true, if_false]
theorem br (g : Guard) (st : BitVec 4) : Statement (.br g st) := by
  refine ⟨?_, fun h => nomatch h⟩
  rintro sl ⟨⟩ hw
  refine decodeSlot_encode .C _ g 3#7 ((st ++ 0#23)) _ rfl (by decide) (by decide) rfl ?_ hw
  refine (candidate_C _ _ _ _ rfl).trans ?_
  show (some (Instr.br g (fld _ 23 4))) = _
  simp (disch := decide) only [fld_pack, flag_pack, ext_lo, ext_top, ext_all, bit_eq, Option.bind_some, one_ne_zero1, if_true, if_false]
theorem brn (g : Guard) (st : BitVec 4) : Statement (.brn g st) := by
  refine ⟨?_, fun h => nomatch h⟩
  rintro sl ⟨⟩ hw
  refine decodeSlot_encode .C _ g 4#7 ((st ++ 0#23)) _ rfl (by decide) (by decide) rfl ?_ hw
  refine (candidate_C _ _ _ _ rfl).trans ?_
  show (some (Instr.brn g (fld _ 23 4))) = _
  simp (disch := decide) only [fld_pack, flag_pack, ext_lo, ext_top, ext_all, bit_eq, Option.bind_some, one_ne_zero1, if_true, if_false]
theorem jmp (g : Guard) (st : BitVec 4) : Statement (.jmp g st) := by
  refine ⟨?_, fun h => nomatch h⟩
  rintro sl ⟨⟩ hw
  refine decodeSlot_encode .C _ g 5#7 ((st ++ 0#23)) _ rfl (by decide) (by decide) rfl ?_ hw
  refine (candidate_C _ _ _ _ rfl).trans ?_
  show (some (Instr.jmp g (fld _ 23 4))) = _
  simp (disch := decide) only [fld_pack, flag_pack, ext_lo, ext_top, ext_all, bit_eq, Option.bind_some, one_ne_zero1, if_true, if_false]
theorem loop (g : Guard) (l : BitVec 2) (count : LoopCount) (len : BitVec 14) : Statement (.loop g l count len) := by
  refine ⟨?_, fun h => nomatch h⟩
  rintro sl ⟨⟩ hw
  refine decodeSlot_encode .C _ g 6#7 ((l ++ (count.code ++ len))) _ rfl (by decide) (by decide) rfl ?_ hw
  refine (candidate_C _ _ _ _ rfl).trans ?_
  show (some (Instr.loop g (fld _ 25 2) (LoopCount.ofCode (fld _ 14 11)) (fld _ 0 14))) = _
  simp (disch := decide) only [fld_pack, flag_pack, ext_lo, ext_top, ext_all, bit_eq, Option.bind_some, one_ne_zero1, if_true, if_false, LoopCount.ofCode_code]
theorem lper (g : Guard) (l : BitVec 2) (per : BitVec 16) : Statement (.lper g l per) := by
  refine ⟨?_, fun h => nomatch h⟩
  rintro sl ⟨⟩ hw
  refine decodeSlot_encode .C _ g 7#7 ((l ++ (0#9 ++ per))) _ rfl (by decide) (by decide) rfl ?_ hw
  refine (candidate_C _ _ _ _ rfl).trans ?_
  show (some (Instr.lper g (fld _ 25 2) (fld _ 0 16))) = _
  simp (disch := decide) only [fld_pack, flag_pack, ext_lo, ext_top, ext_all, bit_eq, Option.bind_some, one_ne_zero1, if_true, if_false]
theorem lbrk (g : Guard) (l : BitVec 2) : Statement (.lbrk g l) := by
  refine ⟨?_, fun h => nomatch h⟩
  rintro sl ⟨⟩ hw
  refine decodeSlot_encode .C _ g 8#7 ((l ++ 0#25)) _ rfl (by decide) (by decide) rfl ?_ hw
  refine (candidate_C _ _ _ _ rfl).trans ?_
  show (some (Instr.lbrk g (fld _ 25 2))) = _
  simp (disch := decide) only [fld_pack, flag_pack, ext_lo, ext_top, ext_all, bit_eq, Option.bind_some, one_ne_zero1, if_true, if_false]
theorem commit (g : Guard) (rl : BitVec 8) (os : BitVec 4) : Statement (.commit g rl os) := by
  refine ⟨?_, fun h => nomatch h⟩
  rintro sl ⟨⟩ hw
  refine decodeSlot_encode .C _ g 9#7 ((rl ++ (os ++ 0#15))) _ rfl (by decide) (by decide) rfl ?_ hw
  refine (candidate_C _ _ _ _ rfl).trans ?_
  show (some (Instr.commit g (fld _ 19 8) (fld _ 15 4))) = _
  simp (disch := decide) only [fld_pack, flag_pack, ext_lo, ext_top, ext_all, bit_eq, Option.bind_some, one_ne_zero1, if_true, if_false]
theorem relay (g : Guard) : Statement (.relay g) := by
  refine ⟨?_, fun h => nomatch h⟩
  rintro sl ⟨⟩ hw
  refine decodeSlot_encode .C _ g 10#7 ((0#27)) _ rfl (by decide) (by decide) rfl ?_ hw
  refine (candidate_C _ _ _ _ rfl).trans ?_
  show (some (Instr.relay g)) = _
  simp (disch := decide) only [fld_pack, flag_pack, ext_lo, ext_top, ext_all, bit_eq, Option.bind_some, one_ne_zero1, if_true, if_false]
theorem rdv (g : Guard) (id : BitVec 8) (cond : RdvCond) : Statement (.rdv g id cond) := by
  refine ⟨?_, fun h => nomatch h⟩
  rintro sl ⟨⟩ hw
  refine decodeSlot_encode .C _ g 11#7 ((id ++ (cond.code ++ 0#9))) _ rfl (by decide) (by decide) rfl ?_ hw
  refine (candidate_C _ _ _ _ rfl).trans ?_
  show (some (Instr.rdv g (fld _ 19 8) (RdvCond.ofCode (fld _ 9 10)))) = _
  simp (disch := decide) only [fld_pack, flag_pack, ext_lo, ext_top, ext_all, bit_eq, Option.bind_some, one_ne_zero1, if_true, if_false, RdvCond.ofCode_code]
theorem tlsig (g : Guard) (tl : BitVec 3) : Statement (.tlsig g tl) := by
  refine ⟨?_, fun h => nomatch h⟩
  rintro sl ⟨⟩ hw
  refine decodeSlot_encode .C _ g 12#7 ((tl ++ 0#24)) _ rfl (by decide) (by decide) rfl ?_ hw
  refine (candidate_C _ _ _ _ rfl).trans ?_
  show (some (Instr.tlsig g (fld _ 24 3))) = _
  simp (disch := decide) only [fld_pack, flag_pack, ext_lo, ext_top, ext_all, bit_eq, Option.bind_some, one_ne_zero1, if_true, if_false]
theorem tlrd (g : Guard) (sd : BitVec 6) (tl : BitVec 3) : Statement (.tlrd g sd tl) := by
  refine ⟨?_, fun h => nomatch h⟩
  rintro sl ⟨⟩ hw
  refine decodeSlot_encode .C _ g 13#7 ((sd ++ (tl ++ 0#18))) _ rfl (by decide) (by decide) rfl ?_ hw
  refine (candidate_C _ _ _ _ rfl).trans ?_
  show (some (Instr.tlrd g (fld _ 21 6) (fld _ 18 3))) = _
  simp (disch := decide) only [fld_pack, flag_pack, ext_lo, ext_top, ext_all, bit_eq, Option.bind_some, one_ne_zero1, if_true, if_false]
theorem acopyIn (g : Guard) (tl : BitVec 3) (sh : BitVec 6) (sv : BitVec 6) (sn : BitVec 6) : Statement (.acopyIn g tl sh sv sn) := by
  refine ⟨?_, fun h => nomatch h⟩
  rintro sl ⟨⟩ hw
  refine decodeSlot_encode .C _ g 14#7 ((0#1 ++ (sh ++ (sv ++ (sn ++ (tl ++ 0#5)))))) _ rfl (by decide) (by decide) rfl ?_ hw
  refine (candidate_C _ _ _ _ rfl).trans ?_
  show (if fld _ 26 1 = 0#1 then some (Instr.acopyIn g (fld _ 5 3) (fld _ 20 6) (fld _ 14 6) (fld _ 8 6))
          else if fld _ 26 1 = 1#1 then some (Instr.acopyOut g (fld _ 5 3) (fld _ 20 6) (fld _ 14 6) (fld _ 8 6))
          else none) = _
  simp (disch := decide) only [fld_pack, flag_pack, ext_lo, ext_top, ext_all, bit_eq, Option.bind_some, one_ne_zero1, if_true, if_false]
theorem acopyOut (g : Guard) (tl : BitVec 3) (sh : BitVec 6) (sv : BitVec 6) (sn : BitVec 6) : Statement (.acopyOut g tl sh sv sn) := by
  refine ⟨?_, fun h => nomatch h⟩
  rintro sl ⟨⟩ hw
  refine decodeSlot_encode .C _ g 14#7 ((1#1 ++ (sh ++ (sv ++ (sn ++ (tl ++ 0#5)))))) _ rfl (by decide) (by decide) rfl ?_ hw
  refine (candidate_C _ _ _ _ rfl).trans ?_
  show (if fld _ 26 1 = 0#1 then some (Instr.acopyIn g (fld _ 5 3) (fld _ 20 6) (fld _ 14 6) (fld _ 8 6))
          else if fld _ 26 1 = 1#1 then some (Instr.acopyOut g (fld _ 5 3) (fld _ 20 6) (fld _ 14 6) (fld _ 8 6))
          else none) = _
  simp (disch := decide) only [fld_pack, flag_pack, ext_lo, ext_top, ext_all, bit_eq, Option.bind_some, one_ne_zero1, if_true, if_false]
theorem farxSend (g : Guard) (tl : BitVec 3) (sd : BitVec 6) : Statement (.farxSend g tl sd) := by
  refine ⟨?_, fun h => nomatch h⟩
  rintro sl ⟨⟩ hw
  refine decodeSlot_encode .C _ g 15#7 ((0#3 ++ (sd ++ (tl ++ 0#15)))) _ rfl (by decide) (by decide) rfl ?_ hw
  refine (candidate_C _ _ _ _ rfl).trans ?_
  show (if fld _ 24 3 = 0#3 then some (Instr.farxSend g (fld _ 15 3) (fld _ 18 6))
          else if fld _ 24 3 = 1#3 then some (Instr.farxRecv g (fld _ 15 3) (fld _ 18 6))
          else none) = _
  simp (disch := decide) only [fld_pack, flag_pack, ext_lo, ext_top, ext_all, bit_eq, Option.bind_some, one_ne_zero1, if_true, if_false]
theorem farxRecv (g : Guard) (tl : BitVec 3) (sd : BitVec 6) : Statement (.farxRecv g tl sd) := by
  refine ⟨?_, fun h => nomatch h⟩
  rintro sl ⟨⟩ hw
  refine decodeSlot_encode .C _ g 15#7 ((1#3 ++ (sd ++ (tl ++ 0#15)))) _ rfl (by decide) (by decide) rfl ?_ hw
  refine (candidate_C _ _ _ _ rfl).trans ?_
  show (if fld _ 24 3 = 0#3 then some (Instr.farxSend g (fld _ 15 3) (fld _ 18 6))
          else if fld _ 24 3 = 1#3 then some (Instr.farxRecv g (fld _ 15 3) (fld _ 18 6))
          else none) = _
  simp (disch := decide) only [fld_pack, flag_pack, ext_lo, ext_top, ext_all, bit_eq, Option.bind_some, one_ne_zero1, if_true, if_false]
  rfl
theorem farmSum (g : Guard) (tl : BitVec 3) (sd : BitVec 6) : Statement (.farmSum g tl sd) := by
  refine ⟨?_, fun h => nomatch h⟩
  rintro sl ⟨⟩ hw
  refine decodeSlot_encode .C _ g 16#7 ((0#3 ++ (sd ++ (tl ++ 0#15)))) _ rfl (by decide) (by decide) rfl ?_ hw
  refine (candidate_C _ _ _ _ rfl).trans ?_
  show (if fld _ 24 3 = 0#3 then some (Instr.farmSum g (fld _ 15 3) (fld _ 18 6))
          else if fld _ 24 3 = 1#3 then some (Instr.farmGather g (fld _ 15 3) (fld _ 18 6))
          else if fld _ 24 3 = 2#3 then some (Instr.farmBcast g (fld _ 15 3) (fld _ 18 6))
          else none) = _
  simp (disch := decide) only [fld_pack, flag_pack, ext_lo, ext_top, ext_all, bit_eq, Option.bind_some, one_ne_zero1, if_true, if_false]
theorem farmGather (g : Guard) (tl : BitVec 3) (sd : BitVec 6) : Statement (.farmGather g tl sd) := by
  refine ⟨?_, fun h => nomatch h⟩
  rintro sl ⟨⟩ hw
  refine decodeSlot_encode .C _ g 16#7 ((1#3 ++ (sd ++ (tl ++ 0#15)))) _ rfl (by decide) (by decide) rfl ?_ hw
  refine (candidate_C _ _ _ _ rfl).trans ?_
  show (if fld _ 24 3 = 0#3 then some (Instr.farmSum g (fld _ 15 3) (fld _ 18 6))
          else if fld _ 24 3 = 1#3 then some (Instr.farmGather g (fld _ 15 3) (fld _ 18 6))
          else if fld _ 24 3 = 2#3 then some (Instr.farmBcast g (fld _ 15 3) (fld _ 18 6))
          else none) = _
  simp (disch := decide) only [fld_pack, flag_pack, ext_lo, ext_top, ext_all, bit_eq, Option.bind_some, one_ne_zero1, if_true, if_false]
  rfl
theorem farmBcast (g : Guard) (tl : BitVec 3) (sd : BitVec 6) : Statement (.farmBcast g tl sd) := by
  refine ⟨?_, fun h => nomatch h⟩
  rintro sl ⟨⟩ hw
  refine decodeSlot_encode .C _ g 16#7 ((2#3 ++ (sd ++ (tl ++ 0#15)))) _ rfl (by decide) (by decide) rfl ?_ hw
  refine (candidate_C _ _ _ _ rfl).trans ?_
  show (if fld _ 24 3 = 0#3 then some (Instr.farmSum g (fld _ 15 3) (fld _ 18 6))
          else if fld _ 24 3 = 1#3 then some (Instr.farmGather g (fld _ 15 3) (fld _ 18 6))
          else if fld _ 24 3 = 2#3 then some (Instr.farmBcast g (fld _ 15 3) (fld _ 18 6))
          else none) = _
  simp (disch := decide) only [fld_pack, flag_pack, ext_lo, ext_top, ext_all, bit_eq, Option.bind_some, one_ne_zero1, if_true, if_false]
  rfl
theorem ftload (g : Guard) (sa : BitVec 6) (mask : BitVec 16) : Statement (.ftload g sa mask) := by
  refine ⟨?_, fun h => nomatch h⟩
  rintro sl ⟨⟩ hw
  refine decodeSlot_encode .C _ g 17#7 ((sa ++ (0#5 ++ mask))) _ rfl (by decide) (by decide) rfl ?_ hw
  refine (candidate_C _ _ _ _ rfl).trans ?_
  show (some (Instr.ftload g (fld _ 21 6) (fld _ 0 16))) = _
  simp (disch := decide) only [fld_pack, flag_pack, ext_lo, ext_top, ext_all, bit_eq, Option.bind_some, one_ne_zero1, if_true, if_false]
theorem fclr (g : Guard) (fs : BitVec 4) : Statement (.fclr g fs) := by
  refine ⟨?_, fun h => nomatch h⟩
  rintro sl ⟨⟩ hw
  refine decodeSlot_encode .C _ g 18#7 ((fs ++ 0#23)) _ rfl (by decide) (by decide) rfl ?_ hw
  refine (candidate_C _ _ _ _ rfl).trans ?_
  show (some (Instr.fclr g (fld _ 23 4))) = _
  simp (disch := decide) only [fld_pack, flag_pack, ext_lo, ext_top, ext_all, bit_eq, Option.bind_some, one_ne_zero1, if_true, if_false]
theorem rdsys (g : Guard) (sd : BitVec 6) (idx : BitVec 10) : Statement (.rdsys g sd idx) := by
  refine ⟨?_, fun h => nomatch h⟩
  rintro sl ⟨⟩ hw
  refine decodeSlot_encode .C _ g 19#7 ((sd ++ (0#11 ++ idx))) _ rfl (by decide) (by decide) rfl ?_ hw
  refine (candidate_C _ _ _ _ rfl).trans ?_
  show (some (Instr.rdsys g (fld _ 21 6) (fld _ 0 10))) = _
  simp (disch := decide) only [fld_pack, flag_pack, ext_lo, ext_top, ext_all, bit_eq, Option.bind_some, one_ne_zero1, if_true, if_false]
theorem wrsys (g : Guard) (sa : BitVec 6) (idx : BitVec 10) : Statement (.wrsys g sa idx) := by
  refine ⟨?_, fun h => nomatch h⟩
  rintro sl ⟨⟩ hw
  refine decodeSlot_encode .C _ g 20#7 ((0#6 ++ (sa ++ (0#5 ++ idx)))) _ rfl (by decide) (by decide) rfl ?_ hw
  refine (candidate_C _ _ _ _ rfl).trans ?_
  show (some (Instr.wrsys g (fld _ 15 6) (fld _ 0 10))) = _
  simp (disch := decide) only [fld_pack, flag_pack, ext_lo, ext_top, ext_all, bit_eq, Option.bind_some, one_ne_zero1, if_true, if_false]
theorem trap (g : Guard) (k : BitVec 16) : Statement (.trap g k) := by
  refine ⟨?_, fun h => nomatch h⟩
  rintro sl ⟨⟩ hw
  refine decodeSlot_encode .C _ g 21#7 ((0#11 ++ k)) _ rfl (by decide) (by decide) rfl ?_ hw
  refine (candidate_C _ _ _ _ rfl).trans ?_
  show (some (Instr.trap g (fld _ 0 16))) = _
  simp (disch := decide) only [fld_pack, flag_pack, ext_lo, ext_top, ext_all, bit_eq, Option.bind_some, one_ne_zero1, if_true, if_false]
theorem add (g : Guard) (sd : BitVec 6) (sa : BitVec 6) (sb : BitVec 6) : Statement (.add g sd sa sb) := by
  refine ⟨?_, fun h => nomatch h⟩
  rintro sl ⟨⟩ hw
  refine decodeSlot_encode .S _ g 1#7 ((sd ++ (sa ++ (sb ++ 0#9)))) _ rfl (by decide) (by decide) rfl ?_ hw
  refine (candidate_S _ _ _ _ rfl).trans ?_
  show (some (Instr.add g (fld _ 21 6) (fld _ 15 6) (fld _ 9 6))) = _
  simp (disch := decide) only [fld_pack, flag_pack, ext_lo, ext_top, ext_all, bit_eq, Option.bind_some, one_ne_zero1, if_true, if_false]
theorem sub (g : Guard) (sd : BitVec 6) (sa : BitVec 6) (sb : BitVec 6) : Statement (.sub g sd sa sb) := by
  refine ⟨?_, fun h => nomatch h⟩
  rintro sl ⟨⟩ hw
  refine decodeSlot_encode .S _ g 2#7 ((sd ++ (sa ++ (sb ++ 0#9)))) _ rfl (by decide) (by decide) rfl ?_ hw
  refine (candidate_S _ _ _ _ rfl).trans ?_
  show (some (Instr.sub g (fld _ 21 6) (fld _ 15 6) (fld _ 9 6))) = _
  simp (disch := decide) only [fld_pack, flag_pack, ext_lo, ext_top, ext_all, bit_eq, Option.bind_some, one_ne_zero1, if_true, if_false]
theorem mul (g : Guard) (sd : BitVec 6) (sa : BitVec 6) (sb : BitVec 6) : Statement (.mul g sd sa sb) := by
  refine ⟨?_, fun h => nomatch h⟩
  rintro sl ⟨⟩ hw
  refine decodeSlot_encode .S _ g 3#7 ((sd ++ (sa ++ (sb ++ 0#9)))) _ rfl (by decide) (by decide) rfl ?_ hw
  refine (candidate_S _ _ _ _ rfl).trans ?_
  show (some (Instr.mul g (fld _ 21 6) (fld _ 15 6) (fld _ 9 6))) = _
  simp (disch := decide) only [fld_pack, flag_pack, ext_lo, ext_top, ext_all, bit_eq, Option.bind_some, one_ne_zero1, if_true, if_false]
theorem mulh (g : Guard) (sd : BitVec 6) (sa : BitVec 6) (sb : BitVec 6) : Statement (.mulh g sd sa sb) := by
  refine ⟨?_, fun h => nomatch h⟩
  rintro sl ⟨⟩ hw
  refine decodeSlot_encode .S _ g 4#7 ((sd ++ (sa ++ (sb ++ 0#9)))) _ rfl (by decide) (by decide) rfl ?_ hw
  refine (candidate_S _ _ _ _ rfl).trans ?_
  show (some (Instr.mulh g (fld _ 21 6) (fld _ 15 6) (fld _ 9 6))) = _
  simp (disch := decide) only [fld_pack, flag_pack, ext_lo, ext_top, ext_all, bit_eq, Option.bind_some, one_ne_zero1, if_true, if_false]
theorem mulhn (g : Guard) (sd : BitVec 6) (sa : BitVec 6) (sb : BitVec 6) : Statement (.mulhn g sd sa sb) := by
  refine ⟨?_, fun h => nomatch h⟩
  rintro sl ⟨⟩ hw
  refine decodeSlot_encode .S _ g 5#7 ((sd ++ (sa ++ (sb ++ 0#9)))) _ rfl (by decide) (by decide) rfl ?_ hw
  refine (candidate_S _ _ _ _ rfl).trans ?_
  show (some (Instr.mulhn g (fld _ 21 6) (fld _ 15 6) (fld _ 9 6))) = _
  simp (disch := decide) only [fld_pack, flag_pack, ext_lo, ext_top, ext_all, bit_eq, Option.bind_some, one_ne_zero1, if_true, if_false]
theorem divs (g : Guard) (sd : BitVec 6) (sa : BitVec 6) (sb : BitVec 6) : Statement (.divs g sd sa sb) := by
  refine ⟨?_, fun h => nomatch h⟩
  rintro sl ⟨⟩ hw
  refine decodeSlot_encode .S _ g 6#7 ((sd ++ (sa ++ (sb ++ 0#9)))) _ rfl (by decide) (by decide) rfl ?_ hw
  refine (candidate_S _ _ _ _ rfl).trans ?_
  show (some (Instr.divs g (fld _ 21 6) (fld _ 15 6) (fld _ 9 6))) = _
  simp (disch := decide) only [fld_pack, flag_pack, ext_lo, ext_top, ext_all, bit_eq, Option.bind_some, one_ne_zero1, if_true, if_false]
theorem divn (g : Guard) (sd : BitVec 6) (sa : BitVec 6) (sb : BitVec 6) : Statement (.divn g sd sa sb) := by
  refine ⟨?_, fun h => nomatch h⟩
  rintro sl ⟨⟩ hw
  refine decodeSlot_encode .S _ g 7#7 ((sd ++ (sa ++ (sb ++ 0#9)))) _ rfl (by decide) (by decide) rfl ?_ hw
  refine (candidate_S _ _ _ _ rfl).trans ?_
  show (some (Instr.divn g (fld _ 21 6) (fld _ 15 6) (fld _ 9 6))) = _
  simp (disch := decide) only [fld_pack, flag_pack, ext_lo, ext_top, ext_all, bit_eq, Option.bind_some, one_ne_zero1, if_true, if_false]
theorem rems (g : Guard) (sd : BitVec 6) (sa : BitVec 6) (sb : BitVec 6) : Statement (.rems g sd sa sb) := by
  refine ⟨?_, fun h => nomatch h⟩
  rintro sl ⟨⟩ hw
  refine decodeSlot_encode .S _ g 8#7 ((sd ++ (sa ++ (sb ++ 0#9)))) _ rfl (by decide) (by decide) rfl ?_ hw
  refine (candidate_S _ _ _ _ rfl).trans ?_
  show (some (Instr.rems g (fld _ 21 6) (fld _ 15 6) (fld _ 9 6))) = _
  simp (disch := decide) only [fld_pack, flag_pack, ext_lo, ext_top, ext_all, bit_eq, Option.bind_some, one_ne_zero1, if_true, if_false]
theorem remn (g : Guard) (sd : BitVec 6) (sa : BitVec 6) (sb : BitVec 6) : Statement (.remn g sd sa sb) := by
  refine ⟨?_, fun h => nomatch h⟩
  rintro sl ⟨⟩ hw
  refine decodeSlot_encode .S _ g 9#7 ((sd ++ (sa ++ (sb ++ 0#9)))) _ rfl (by decide) (by decide) rfl ?_ hw
  refine (candidate_S _ _ _ _ rfl).trans ?_
  show (some (Instr.remn g (fld _ 21 6) (fld _ 15 6) (fld _ 9 6))) = _
  simp (disch := decide) only [fld_pack, flag_pack, ext_lo, ext_top, ext_all, bit_eq, Option.bind_some, one_ne_zero1, if_true, if_false]
theorem and (g : Guard) (sd : BitVec 6) (sa : BitVec 6) (sb : BitVec 6) : Statement (.and g sd sa sb) := by
  refine ⟨?_, fun h => nomatch h⟩
  rintro sl ⟨⟩ hw
  refine decodeSlot_encode .S _ g 10#7 ((sd ++ (sa ++ (sb ++ 0#9)))) _ rfl (by decide) (by decide) rfl ?_ hw
  refine (candidate_S _ _ _ _ rfl).trans ?_
  show (some (Instr.and g (fld _ 21 6) (fld _ 15 6) (fld _ 9 6))) = _
  simp (disch := decide) only [fld_pack, flag_pack, ext_lo, ext_top, ext_all, bit_eq, Option.bind_some, one_ne_zero1, if_true, if_false]
theorem or (g : Guard) (sd : BitVec 6) (sa : BitVec 6) (sb : BitVec 6) : Statement (.or g sd sa sb) := by
  refine ⟨?_, fun h => nomatch h⟩
  rintro sl ⟨⟩ hw
  refine decodeSlot_encode .S _ g 11#7 ((sd ++ (sa ++ (sb ++ 0#9)))) _ rfl (by decide) (by decide) rfl ?_ hw
  refine (candidate_S _ _ _ _ rfl).trans ?_
  show (some (Instr.or g (fld _ 21 6) (fld _ 15 6) (fld _ 9 6))) = _
  simp (disch := decide) only [fld_pack, flag_pack, ext_lo, ext_top, ext_all, bit_eq, Option.bind_some, one_ne_zero1, if_true, if_false]
theorem xor (g : Guard) (sd : BitVec 6) (sa : BitVec 6) (sb : BitVec 6) : Statement (.xor g sd sa sb) := by
  refine ⟨?_, fun h => nomatch h⟩
  rintro sl ⟨⟩ hw
  refine decodeSlot_encode .S _ g 12#7 ((sd ++ (sa ++ (sb ++ 0#9)))) _ rfl (by decide) (by decide) rfl ?_ hw
  refine (candidate_S _ _ _ _ rfl).trans ?_
  show (some (Instr.xor g (fld _ 21 6) (fld _ 15 6) (fld _ 9 6))) = _
  simp (disch := decide) only [fld_pack, flag_pack, ext_lo, ext_top, ext_all, bit_eq, Option.bind_some, one_ne_zero1, if_true, if_false]
theorem andn (g : Guard) (sd : BitVec 6) (sa : BitVec 6) (sb : BitVec 6) : Statement (.andn g sd sa sb) := by
  refine ⟨?_, fun h => nomatch h⟩
  rintro sl ⟨⟩ hw
  refine decodeSlot_encode .S _ g 13#7 ((sd ++ (sa ++ (sb ++ 0#9)))) _ rfl (by decide) (by decide) rfl ?_ hw
  refine (candidate_S _ _ _ _ rfl).trans ?_
  show (some (Instr.andn g (fld _ 21 6) (fld _ 15 6) (fld _ 9 6))) = _
  simp (disch := decide) only [fld_pack, flag_pack, ext_lo, ext_top, ext_all, bit_eq, Option.bind_some, one_ne_zero1, if_true, if_false]
theorem shl (g : Guard) (sd : BitVec 6) (sa : BitVec 6) (sb : BitVec 6) : Statement (.shl g sd sa sb) := by
  refine ⟨?_, fun h => nomatch h⟩
  rintro sl ⟨⟩ hw
  refine decodeSlot_encode .S _ g 14#7 ((sd ++ (sa ++ (sb ++ 0#9)))) _ rfl (by decide) (by decide) rfl ?_ hw
  refine (candidate_S _ _ _ _ rfl).trans ?_
  show (some (Instr.shl g (fld _ 21 6) (fld _ 15 6) (fld _ 9 6))) = _
  simp (disch := decide) only [fld_pack, flag_pack, ext_lo, ext_top, ext_all, bit_eq, Option.bind_some, one_ne_zero1, if_true, if_false]
theorem shr (g : Guard) (sd : BitVec 6) (sa : BitVec 6) (sb : BitVec 6) : Statement (.shr g sd sa sb) := by
  refine ⟨?_, fun h => nomatch h⟩
  rintro sl ⟨⟩ hw
  refine decodeSlot_encode .S _ g 15#7 ((sd ++ (sa ++ (sb ++ 0#9)))) _ rfl (by decide) (by decide) rfl ?_ hw
  refine (candidate_S _ _ _ _ rfl).trans ?_
  show (some (Instr.shr g (fld _ 21 6) (fld _ 15 6) (fld _ 9 6))) = _
  simp (disch := decide) only [fld_pack, flag_pack, ext_lo, ext_top, ext_all, bit_eq, Option.bind_some, one_ne_zero1, if_true, if_false]
theorem sra (g : Guard) (sd : BitVec 6) (sa : BitVec 6) (sb : BitVec 6) : Statement (.sra g sd sa sb) := by
  refine ⟨?_, fun h => nomatch h⟩
  rintro sl ⟨⟩ hw
  refine decodeSlot_encode .S _ g 16#7 ((sd ++ (sa ++ (sb ++ 0#9)))) _ rfl (by decide) (by decide) rfl ?_ hw
  refine (candidate_S _ _ _ _ rfl).trans ?_
  show (some (Instr.sra g (fld _ 21 6) (fld _ 15 6) (fld _ 9 6))) = _
  simp (disch := decide) only [fld_pack, flag_pack, ext_lo, ext_top, ext_all, bit_eq, Option.bind_some, one_ne_zero1, if_true, if_false]
theorem rotl (g : Guard) (sd : BitVec 6) (sa : BitVec 6) (sb : BitVec 6) : Statement (.rotl g sd sa sb) := by
  refine ⟨?_, fun h => nomatch h⟩
  rintro sl ⟨⟩ hw
  refine decodeSlot_encode .S _ g 17#7 ((sd ++ (sa ++ (sb ++ 0#9)))) _ rfl (by decide) (by decide) rfl ?_ hw
  refine (candidate_S _ _ _ _ rfl).trans ?_
  show (some (Instr.rotl g (fld _ 21 6) (fld _ 15 6) (fld _ 9 6))) = _
  simp (disch := decide) only [fld_pack, flag_pack, ext_lo, ext_top, ext_all, bit_eq, Option.bind_some, one_ne_zero1, if_true, if_false]
theorem min (g : Guard) (sd : BitVec 6) (sa : BitVec 6) (sb : BitVec 6) : Statement (.min g sd sa sb) := by
  refine ⟨?_, fun h => nomatch h⟩
  rintro sl ⟨⟩ hw
  refine decodeSlot_encode .S _ g 18#7 ((sd ++ (sa ++ (sb ++ 0#9)))) _ rfl (by decide) (by decide) rfl ?_ hw
  refine (candidate_S _ _ _ _ rfl).trans ?_
  show (some (Instr.min g (fld _ 21 6) (fld _ 15 6) (fld _ 9 6))) = _
  simp (disch := decide) only [fld_pack, flag_pack, ext_lo, ext_top, ext_all, bit_eq, Option.bind_some, one_ne_zero1, if_true, if_false]
theorem max (g : Guard) (sd : BitVec 6) (sa : BitVec 6) (sb : BitVec 6) : Statement (.max g sd sa sb) := by
  refine ⟨?_, fun h => nomatch h⟩
  rintro sl ⟨⟩ hw
  refine decodeSlot_encode .S _ g 19#7 ((sd ++ (sa ++ (sb ++ 0#9)))) _ rfl (by decide) (by decide) rfl ?_ hw
  refine (candidate_S _ _ _ _ rfl).trans ?_
  show (some (Instr.max g (fld _ 21 6) (fld _ 15 6) (fld _ 9 6))) = _
  simp (disch := decide) only [fld_pack, flag_pack, ext_lo, ext_top, ext_all, bit_eq, Option.bind_some, one_ne_zero1, if_true, if_false]
theorem minn (g : Guard) (sd : BitVec 6) (sa : BitVec 6) (sb : BitVec 6) : Statement (.minn g sd sa sb) := by
  refine ⟨?_, fun h => nomatch h⟩
  rintro sl ⟨⟩ hw
  refine decodeSlot_encode .S _ g 20#7 ((sd ++ (sa ++ (sb ++ 0#9)))) _ rfl (by decide) (by decide) rfl ?_ hw
  refine (candidate_S _ _ _ _ rfl).trans ?_
  show (some (Instr.minn g (fld _ 21 6) (fld _ 15 6) (fld _ 9 6))) = _
  simp (disch := decide) only [fld_pack, flag_pack, ext_lo, ext_top, ext_all, bit_eq, Option.bind_some, one_ne_zero1, if_true, if_false]
theorem maxn (g : Guard) (sd : BitVec 6) (sa : BitVec 6) (sb : BitVec 6) : Statement (.maxn g sd sa sb) := by
  refine ⟨?_, fun h => nomatch h⟩
  rintro sl ⟨⟩ hw
  refine decodeSlot_encode .S _ g 21#7 ((sd ++ (sa ++ (sb ++ 0#9)))) _ rfl (by decide) (by decide) rfl ?_ hw
  refine (candidate_S _ _ _ _ rfl).trans ?_
  show (some (Instr.maxn g (fld _ 21 6) (fld _ 15 6) (fld _ 9 6))) = _
  simp (disch := decide) only [fld_pack, flag_pack, ext_lo, ext_top, ext_all, bit_eq, Option.bind_some, one_ne_zero1, if_true, if_false]
theorem clz (g : Guard) (sd : BitVec 6) (sa : BitVec 6) : Statement (.clz g sd sa) := by
  refine ⟨?_, fun h => nomatch h⟩
  rintro sl ⟨⟩ hw
  refine decodeSlot_encode .S _ g 22#7 ((sd ++ (sa ++ 0#15))) _ rfl (by decide) (by decide) rfl ?_ hw
  refine (candidate_S _ _ _ _ rfl).trans ?_
  show (some (Instr.clz g (fld _ 21 6) (fld _ 15 6))) = _
  simp (disch := decide) only [fld_pack, flag_pack, ext_lo, ext_top, ext_all, bit_eq, Option.bind_some, one_ne_zero1, if_true, if_false]
theorem ctz (g : Guard) (sd : BitVec 6) (sa : BitVec 6) : Statement (.ctz g sd sa) := by
  refine ⟨?_, fun h => nomatch h⟩
  rintro sl ⟨⟩ hw
  refine decodeSlot_encode .S _ g 23#7 ((sd ++ (sa ++ 0#15))) _ rfl (by decide) (by decide) rfl ?_ hw
  refine (candidate_S _ _ _ _ rfl).trans ?_
  show (some (Instr.ctz g (fld _ 21 6) (fld _ 15 6))) = _
  simp (disch := decide) only [fld_pack, flag_pack, ext_lo, ext_top, ext_all, bit_eq, Option.bind_some, one_ne_zero1, if_true, if_false]
theorem popc (g : Guard) (sd : BitVec 6) (sa : BitVec 6) : Statement (.popc g sd sa) := by
  refine ⟨?_, fun h => nomatch h⟩
  rintro sl ⟨⟩ hw
  refine decodeSlot_encode .S _ g 24#7 ((sd ++ (sa ++ 0#15))) _ rfl (by decide) (by decide) rfl ?_ hw
  refine (candidate_S _ _ _ _ rfl).trans ?_
  show (some (Instr.popc g (fld _ 21 6) (fld _ 15 6))) = _
  simp (disch := decide) only [fld_pack, flag_pack, ext_lo, ext_top, ext_all, bit_eq, Option.bind_some, one_ne_zero1, if_true, if_false]
theorem sext (g : Guard) (sd : BitVec 6) (sa : BitVec 6) (n : BitVec 6) : Statement (.sext g sd sa n) := by
  refine ⟨?_, fun h => nomatch h⟩
  rintro sl ⟨⟩ hw
  refine decodeSlot_encode .S _ g 25#7 ((sd ++ (sa ++ (0#6 ++ (0#3 ++ n))))) _ rfl (by decide) (by decide) rfl ?_ hw
  refine (candidate_S _ _ _ _ rfl).trans ?_
  show (some (Instr.sext g (fld _ 21 6) (fld _ 15 6) (fld _ 0 6))) = _
  simp (disch := decide) only [fld_pack, flag_pack, ext_lo, ext_top, ext_all, bit_eq, Option.bind_some, one_ne_zero1, if_true, if_false]
theorem zext (g : Guard) (sd : BitVec 6) (sa : BitVec 6) (n : BitVec 6) : Statement (.zext g sd sa n) := by
  refine ⟨?_, fun h => nomatch h⟩
  rintro sl ⟨⟩ hw
  refine decodeSlot_encode .S _ g 26#7 ((sd ++ (sa ++ (0#6 ++ (0#3 ++ n))))) _ rfl (by decide) (by decide) rfl ?_ hw
  refine (candidate_S _ _ _ _ rfl).trans ?_
  show (some (Instr.zext g (fld _ 21 6) (fld _ 15 6) (fld _ 0 6))) = _
  simp (disch := decide) only [fld_pack, flag_pack, ext_lo, ext_top, ext_all, bit_eq, Option.bind_some, one_ne_zero1, if_true, if_false]
theorem sel (g : Guard) (sd : BitVec 6) (sa : BitVec 6) (sb : BitVec 6) (inv : Bool) (k : BitVec 5) : Statement (.sel g sd sa sb inv k) := by
  refine ⟨?_, fun h => nomatch h⟩
  rintro sl ⟨⟩ hw
  refine decodeSlot_encode .S _ g 27#7 ((sd ++ (sa ++ (sb ++ (0#3 ++ ((bit inv) ++ k)))))) _ rfl (by decide) (by decide) rfl ?_ hw
  refine (candidate_S _ _ _ _ rfl).trans ?_
  show (some (Instr.sel g (fld _ 21 6) (fld _ 15 6) (fld _ 9 6) (flag _ 5) (fld _ 0 5))) = _
  simp (disch := decide) only [fld_pack, flag_pack, ext_lo, ext_top, ext_all, bit_eq, Option.bind_some, one_ne_zero1, if_true, if_false]
theorem mov (g : Guard) (sd : BitVec 6) (sa : BitVec 6) : Statement (.mov g sd sa) := by
  refine ⟨?_, fun h => nomatch h⟩
  rintro sl ⟨⟩ hw
  refine decodeSlot_encode .S _ g 28#7 ((sd ++ (sa ++ 0#15))) _ rfl (by decide) (by decide) rfl ?_ hw
  refine (candidate_S _ _ _ _ rfl).trans ?_
  show (some (Instr.mov g (fld _ 21 6) (fld _ 15 6))) = _
  simp (disch := decide) only [fld_pack, flag_pack, ext_lo, ext_top, ext_all, bit_eq, Option.bind_some, one_ne_zero1, if_true, if_false]
theorem movi (g : Guard) (sd : BitVec 6) (imm : BitVec 21) : Statement (.movi g sd imm) := by
  refine ⟨?_, fun h => nomatch h⟩
  rintro sl ⟨⟩ hw
  refine decodeSlot_encode .S _ g 29#7 ((sd ++ imm)) _ rfl (by decide) (by decide) rfl ?_ hw
  refine (candidate_S _ _ _ _ rfl).trans ?_
  show (some (Instr.movi g (fld _ 21 6) (fld _ 0 21))) = _
  simp (disch := decide) only [fld_pack, flag_pack, ext_lo, ext_top, ext_all, bit_eq, Option.bind_some, one_ne_zero1, if_true, if_false]
theorem ins16 (g : Guard) (sd : BitVec 6) (imm : BitVec 16) (j : BitVec 2) : Statement (.ins16 g sd imm j) := by
  refine ⟨?_, fun h => nomatch h⟩
  rintro sl ⟨⟩ hw
  refine decodeSlot_encode .S _ g 30#7 ((sd ++ (imm ++ (j ++ 0#3)))) _ rfl (by decide) (by decide) rfl ?_ hw
  refine (candidate_S _ _ _ _ rfl).trans ?_
  show (some (Instr.ins16 g (fld _ 21 6) (fld _ 5 16) (fld _ 3 2))) = _
  simp (disch := decide) only [fld_pack, flag_pack, ext_lo, ext_top, ext_all, bit_eq, Option.bind_some, one_ne_zero1, if_true, if_false]
theorem addi (g : Guard) (sd : BitVec 6) (sa : BitVec 6) (imm : BitVec 15) : Statement (.addi g sd sa imm) := by
  refine ⟨?_, fun h => nomatch h⟩
  rintro sl ⟨⟩ hw
  refine decodeSlot_encode .S _ g 31#7 ((sd ++ (sa ++ imm))) _ rfl (by decide) (by decide) rfl ?_ hw
  refine (candidate_S _ _ _ _ rfl).trans ?_
  show (some (Instr.addi g (fld _ 21 6) (fld _ 15 6) (fld _ 0 15))) = _
  simp (disch := decide) only [fld_pack, flag_pack, ext_lo, ext_top, ext_all, bit_eq, Option.bind_some, one_ne_zero1, if_true, if_false]
theorem andi (g : Guard) (sd : BitVec 6) (sa : BitVec 6) (imm : BitVec 15) : Statement (.andi g sd sa imm) := by
  refine ⟨?_, fun h => nomatch h⟩
  rintro sl ⟨⟩ hw
  refine decodeSlot_encode .S _ g 32#7 ((sd ++ (sa ++ imm))) _ rfl (by decide) (by decide) rfl ?_ hw
  refine (candidate_S _ _ _ _ rfl).trans ?_
  show (some (Instr.andi g (fld _ 21 6) (fld _ 15 6) (fld _ 0 15))) = _
  simp (disch := decide) only [fld_pack, flag_pack, ext_lo, ext_top, ext_all, bit_eq, Option.bind_some, one_ne_zero1, if_true, if_false]
theorem ori (g : Guard) (sd : BitVec 6) (sa : BitVec 6) (imm : BitVec 15) : Statement (.ori g sd sa imm) := by
  refine ⟨?_, fun h => nomatch h⟩
  rintro sl ⟨⟩ hw
  refine decodeSlot_encode .S _ g 33#7 ((sd ++ (sa ++ imm))) _ rfl (by decide) (by decide) rfl ?_ hw
  refine (candidate_S _ _ _ _ rfl).trans ?_
  show (some (Instr.ori g (fld _ 21 6) (fld _ 15 6) (fld _ 0 15))) = _
  simp (disch := decide) only [fld_pack, flag_pack, ext_lo, ext_top, ext_all, bit_eq, Option.bind_some, one_ne_zero1, if_true, if_false]
theorem xori (g : Guard) (sd : BitVec 6) (sa : BitVec 6) (imm : BitVec 15) : Statement (.xori g sd sa imm) := by
  refine ⟨?_, fun h => nomatch h⟩
  rintro sl ⟨⟩ hw
  refine decodeSlot_encode .S _ g 34#7 ((sd ++ (sa ++ imm))) _ rfl (by decide) (by decide) rfl ?_ hw
  refine (candidate_S _ _ _ _ rfl).trans ?_
  show (some (Instr.xori g (fld _ 21 6) (fld _ 15 6) (fld _ 0 15))) = _
  simp (disch := decide) only [fld_pack, flag_pack, ext_lo, ext_top, ext_all, bit_eq, Option.bind_some, one_ne_zero1, if_true, if_false]
theorem shli (g : Guard) (sd : BitVec 6) (sa : BitVec 6) (k : BitVec 6) : Statement (.shli g sd sa k) := by
  refine ⟨?_, fun h => nomatch h⟩
  rintro sl ⟨⟩ hw
  refine decodeSlot_encode .S _ g 35#7 ((sd ++ (sa ++ (0#9 ++ k)))) _ rfl (by decide) (by decide) rfl ?_ hw
  refine (candidate_S _ _ _ _ rfl).trans ?_
  show (some (Instr.shli g (fld _ 21 6) (fld _ 15 6) (fld _ 0 6))) = _
  simp (disch := decide) only [fld_pack, flag_pack, ext_lo, ext_top, ext_all, bit_eq, Option.bind_some, one_ne_zero1, if_true, if_false]
theorem shri (g : Guard) (sd : BitVec 6) (sa : BitVec 6) (k : BitVec 6) : Statement (.shri g sd sa k) := by
  refine ⟨?_, fun h => nomatch h⟩
  rintro sl ⟨⟩ hw
  refine decodeSlot_encode .S _ g 36#7 ((sd ++ (sa ++ (0#9 ++ k)))) _ rfl (by decide) (by decide) rfl ?_ hw
  refine (candidate_S _ _ _ _ rfl).trans ?_
  show (some (Instr.shri g (fld _ 21 6) (fld _ 15 6) (fld _ 0 6))) = _
  simp (disch := decide) only [fld_pack, flag_pack, ext_lo, ext_top, ext_all, bit_eq, Option.bind_some, one_ne_zero1, if_true, if_false]
theorem srai (g : Guard) (sd : BitVec 6) (sa : BitVec 6) (k : BitVec 6) : Statement (.srai g sd sa k) := by
  refine ⟨?_, fun h => nomatch h⟩
  rintro sl ⟨⟩ hw
  refine decodeSlot_encode .S _ g 37#7 ((sd ++ (sa ++ (0#9 ++ k)))) _ rfl (by decide) (by decide) rfl ?_ hw
  refine (candidate_S _ _ _ _ rfl).trans ?_
  show (some (Instr.srai g (fld _ 21 6) (fld _ 15 6) (fld _ 0 6))) = _
  simp (disch := decide) only [fld_pack, flag_pack, ext_lo, ext_top, ext_all, bit_eq, Option.bind_some, one_ne_zero1, if_true, if_false]
theorem cmp (g : Guard) (d : CmpDest) (c : Cond) (sa : BitVec 6) (sb : BitVec 6) : Statement (.cmp g d c sa sb) := by
  refine ⟨?_, fun h => nomatch h⟩
  rintro sl ⟨⟩ hw
  refine decodeSlot_encode .S _ g 38#7 ((d.code ++ (sa ++ (sb ++ (0#6 ++ c.code))))) _ rfl (by decide) (by decide) rfl ?_ hw
  refine (candidate_S _ _ _ _ rfl).trans ?_
  show ((CmpDest.ofCode (fld _ 21 6)).bind fun d => (Cond.ofCode (fld _ 0 3)).bind fun c => (some (Instr.cmp g d c (fld _ 15 6) (fld _ 9 6)))) = _
  simp (disch := decide) only [fld_pack, flag_pack, ext_lo, ext_top, ext_all, bit_eq, Option.bind_some, one_ne_zero1, if_true, if_false, CmpDest.ofCode_code, Cond.ofCode_code]
theorem cmpi (g : Guard) (d : CmpDest) (c : Cond) (sa : BitVec 6) (imm : BitVec 12) : Statement (.cmpi g d c sa imm) := by
  refine ⟨?_, fun h => nomatch h⟩
  rintro sl ⟨⟩ hw
  refine decodeSlot_encode .S _ g 39#7 ((d.code ++ (sa ++ (c.code ++ imm)))) _ rfl (by decide) (by decide) rfl ?_ hw
  refine (candidate_S _ _ _ _ rfl).trans ?_
  show ((CmpDest.ofCode (fld _ 21 6)).bind fun d => (Cond.ofCode (fld _ 12 3)).bind fun c => (some (Instr.cmpi g d c (fld _ 15 6) (fld _ 0 12)))) = _
  simp (disch := decide) only [fld_pack, flag_pack, ext_lo, ext_top, ext_all, bit_eq, Option.bind_some, one_ne_zero1, if_true, if_false, CmpDest.ofCode_code, Cond.ofCode_code]
theorem scmp (g : Guard) (d : CmpDest) (c : Cond) (sa : BitVec 6) (sb : BitVec 6) : Statement (.scmp g d c sa sb) := by
  refine ⟨?_, fun h => nomatch h⟩
  rintro sl ⟨⟩ hw
  refine decodeSlot_encode .S _ g 40#7 ((d.code ++ (sa ++ (sb ++ (0#6 ++ c.code))))) _ rfl (by decide) (by decide) rfl ?_ hw
  refine (candidate_S _ _ _ _ rfl).trans ?_
  show ((CmpDest.ofCode (fld _ 21 6)).bind fun d => (Cond.ofCode (fld _ 0 3)).bind fun c => (some (Instr.scmp g d c (fld _ 15 6) (fld _ 9 6)))) = _
  simp (disch := decide) only [fld_pack, flag_pack, ext_lo, ext_top, ext_all, bit_eq, Option.bind_some, one_ne_zero1, if_true, if_false, CmpDest.ofCode_code, Cond.ofCode_code]
theorem scmpi (g : Guard) (d : CmpDest) (c : Cond) (sa : BitVec 6) (imm : BitVec 12) : Statement (.scmpi g d c sa imm) := by
  refine ⟨?_, fun h => nomatch h⟩
  rintro sl ⟨⟩ hw
  refine decodeSlot_encode .S _ g 41#7 ((d.code ++ (sa ++ (c.code ++ imm)))) _ rfl (by decide) (by decide) rfl ?_ hw
  refine (candidate_S _ _ _ _ rfl).trans ?_
  show ((CmpDest.ofCode (fld _ 21 6)).bind fun d => (Cond.ofCode (fld _ 12 3)).bind fun c => (some (Instr.scmpi g d c (fld _ 15 6) (fld _ 0 12)))) = _
  simp (disch := decide) only [fld_pack, flag_pack, ext_lo, ext_top, ext_all, bit_eq, Option.bind_some, one_ne_zero1, if_true, if_false, CmpDest.ofCode_code, Cond.ofCode_code]
theorem pand (g : Guard) (pd : BitVec 5) (pa : BitVec 5) (pb : BitVec 5) (na : Bool) (nb : Bool) : Statement (.pand g pd pa pb na nb) := by
  refine ⟨?_, fun h => nomatch h⟩
  rintro sl ⟨⟩ hw
  refine decodeSlot_encode .S _ g 42#7 ((pd ++ (pa ++ (pb ++ ((bit na) ++ ((bit nb) ++ 0#10)))))) _ rfl (by decide) (by decide) rfl ?_ hw
  refine (candidate_S _ _ _ _ rfl).trans ?_
  show (some (Instr.pand g (fld _ 22 5) (fld _ 17 5) (fld _ 12 5) (flag _ 11) (flag _ 10))) = _
  simp (disch := decide) only [fld_pack, flag_pack, ext_lo, ext_top, ext_all, bit_eq, Option.bind_some, one_ne_zero1, if_true, if_false]
theorem por (g : Guard) (pd : BitVec 5) (pa : BitVec 5) (pb : BitVec 5) (na : Bool) (nb : Bool) : Statement (.por g pd pa pb na nb) := by
  refine ⟨?_, fun h => nomatch h⟩
  rintro sl ⟨⟩ hw
  refine decodeSlot_encode .S _ g 43#7 ((pd ++ (pa ++ (pb ++ ((bit na) ++ ((bit nb) ++ 0#10)))))) _ rfl (by decide) (by decide) rfl ?_ hw
  refine (candidate_S _ _ _ _ rfl).trans ?_
  show (some (Instr.por g (fld _ 22 5) (fld _ 17 5) (fld _ 12 5) (flag _ 11) (flag _ 10))) = _
  simp (disch := decide) only [fld_pack, flag_pack, ext_lo, ext_top, ext_all, bit_eq, Option.bind_some, one_ne_zero1, if_true, if_false]
theorem pxor (g : Guard) (pd : BitVec 5) (pa : BitVec 5) (pb : BitVec 5) (na : Bool) (nb : Bool) : Statement (.pxor g pd pa pb na nb) := by
  refine ⟨?_, fun h => nomatch h⟩
  rintro sl ⟨⟩ hw
  refine decodeSlot_encode .S _ g 44#7 ((pd ++ (pa ++ (pb ++ ((bit na) ++ ((bit nb) ++ 0#10)))))) _ rfl (by decide) (by decide) rfl ?_ hw
  refine (candidate_S _ _ _ _ rfl).trans ?_
  show (some (Instr.pxor g (fld _ 22 5) (fld _ 17 5) (fld _ 12 5) (flag _ 11) (flag _ 10))) = _
  simp (disch := decide) only [fld_pack, flag_pack, ext_lo, ext_top, ext_all, bit_eq, Option.bind_some, one_ne_zero1, if_true, if_false]
theorem pandn (g : Guard) (pd : BitVec 5) (pa : BitVec 5) (pb : BitVec 5) (na : Bool) (nb : Bool) : Statement (.pandn g pd pa pb na nb) := by
  refine ⟨?_, fun h => nomatch h⟩
  rintro sl ⟨⟩ hw
  refine decodeSlot_encode .S _ g 45#7 ((pd ++ (pa ++ (pb ++ ((bit na) ++ ((bit nb) ++ 0#10)))))) _ rfl (by decide) (by decide) rfl ?_ hw
  refine (candidate_S _ _ _ _ rfl).trans ?_
  show (some (Instr.pandn g (fld _ 22 5) (fld _ 17 5) (fld _ 12 5) (flag _ 11) (flag _ 10))) = _
  simp (disch := decide) only [fld_pack, flag_pack, ext_lo, ext_top, ext_all, bit_eq, Option.bind_some, one_ne_zero1, if_true, if_false]
theorem blkx (g : Guard) (sd : BitVec 6) (sa : BitVec 6) : Statement (.blkx g sd sa) := by
  refine ⟨?_, fun h => nomatch h⟩
  rintro sl ⟨⟩ hw
  refine decodeSlot_encode .S _ g 46#7 ((sd ++ (sa ++ 0#15))) _ rfl (by decide) (by decide) rfl ?_ hw
  refine (candidate_S _ _ _ _ rfl).trans ?_
  show (some (Instr.blkx g (fld _ 21 6) (fld _ 15 6))) = _
  simp (disch := decide) only [fld_pack, flag_pack, ext_lo, ext_top, ext_all, bit_eq, Option.bind_some, one_ne_zero1, if_true, if_false]
theorem blkalloc (g : Guard) (sd : BitVec 6) (sa : BitVec 6) : Statement (.blkalloc g sd sa) := by
  refine ⟨?_, fun h => nomatch h⟩
  rintro sl ⟨⟩ hw
  refine decodeSlot_encode .S _ g 47#7 ((sd ++ (sa ++ 0#15))) _ rfl (by decide) (by decide) rfl ?_ hw
  refine (candidate_S _ _ _ _ rfl).trans ?_
  show (some (Instr.blkalloc g (fld _ 21 6) (fld _ 15 6))) = _
  simp (disch := decide) only [fld_pack, flag_pack, ext_lo, ext_top, ext_all, bit_eq, Option.bind_some, one_ne_zero1, if_true, if_false]
theorem blkfree (g : Guard) (sd : BitVec 6) (sa : BitVec 6) : Statement (.blkfree g sd sa) := by
  refine ⟨?_, fun h => nomatch h⟩
  rintro sl ⟨⟩ hw
  refine decodeSlot_encode .S _ g 48#7 ((sd ++ (sa ++ 0#15))) _ rfl (by decide) (by decide) rfl ?_ hw
  refine (candidate_S _ _ _ _ rfl).trans ?_
  show (some (Instr.blkfree g (fld _ 21 6) (fld _ 15 6))) = _
  simp (disch := decide) only [fld_pack, flag_pack, ext_lo, ext_top, ext_all, bit_eq, Option.bind_some, one_ne_zero1, if_true, if_false]
theorem blkref (g : Guard) (sd : BitVec 6) (sa : BitVec 6) (sb : BitVec 6) : Statement (.blkref g sd sa sb) := by
  refine ⟨?_, fun h => nomatch h⟩
  rintro sl ⟨⟩ hw
  refine decodeSlot_encode .S _ g 49#7 ((sd ++ (sa ++ (sb ++ 0#9)))) _ rfl (by decide) (by decide) rfl ?_ hw
  refine (candidate_S _ _ _ _ rfl).trans ?_
  show (some (Instr.blkref g (fld _ 21 6) (fld _ 15 6) (fld _ 9 6))) = _
  simp (disch := decide) only [fld_pack, flag_pack, ext_lo, ext_top, ext_all, bit_eq, Option.bind_some, one_ne_zero1, if_true, if_false]
theorem ldV (g : Guard) (vd : BitVec 6) (base : BitVec 5) (off : BitVec 12) (pi : Bool) (q : BitVec 3) : Statement (.ldV g vd base off pi q) := by
  refine ⟨?_, fun h => nomatch h⟩
  rintro sl ⟨⟩ hw
  refine decodeSlot_encode .L _ g 1#7 ((vd ++ (base ++ (off ++ ((bit pi) ++ q))))) _ rfl (by decide) (by decide) rfl ?_ hw
  refine (candidate_L _ _ _ _ rfl).trans ?_
  show (some (Instr.ldV g (fld _ 21 6) (fld _ 16 5) (fld _ 4 12) (flag _ 3) (fld _ 0 3))) = _
  simp (disch := decide) only [fld_pack, flag_pack, ext_lo, ext_top, ext_all, bit_eq, Option.bind_some, one_ne_zero1, if_true, if_false]
theorem stV (g : Guard) (vs : BitVec 6) (base : BitVec 5) (off : BitVec 12) (pi : Bool) (q : BitVec 3) : Statement (.stV g vs base off pi q) := by
  refine ⟨?_, fun h => nomatch h⟩
  rintro sl ⟨⟩ hw
  refine decodeSlot_encode .L _ g 2#7 ((vs ++ (base ++ (off ++ ((bit pi) ++ q))))) _ rfl (by decide) (by decide) rfl ?_ hw
  refine (candidate_L _ _ _ _ rfl).trans ?_
  show (some (Instr.stV g (fld _ 21 6) (fld _ 16 5) (fld _ 4 12) (flag _ 3) (fld _ 0 3))) = _
  simp (disch := decide) only [fld_pack, flag_pack, ext_lo, ext_top, ext_all, bit_eq, Option.bind_some, one_ne_zero1, if_true, if_false]
theorem ldbV (g : Guard) (vd : BitVec 6) (base : BitVec 5) (off : BitVec 12) (pi : Bool) (q : BitVec 3) : Statement (.ldbV g vd base off pi q) := by
  refine ⟨?_, fun h => nomatch h⟩
  rintro sl ⟨⟩ hw
  refine decodeSlot_encode .L _ g 3#7 ((vd ++ (base ++ (off ++ ((bit pi) ++ q))))) _ rfl (by decide) (by decide) rfl ?_ hw
  refine (candidate_L _ _ _ _ rfl).trans ?_
  show (some (Instr.ldbV g (fld _ 21 6) (fld _ 16 5) (fld _ 4 12) (flag _ 3) (fld _ 0 3))) = _
  simp (disch := decide) only [fld_pack, flag_pack, ext_lo, ext_top, ext_all, bit_eq, Option.bind_some, one_ne_zero1, if_true, if_false]
theorem ldS (g : Guard) (sd : BitVec 6) (base : BitVec 5) (off : BitVec 12) (pi : Bool) : Statement (.ldS g sd base off pi) := by
  refine ⟨?_, fun h => nomatch h⟩
  rintro sl ⟨⟩ hw
  refine decodeSlot_encode .L _ g 4#7 ((sd ++ (base ++ (off ++ ((bit pi) ++ 0#3))))) _ rfl (by decide) (by decide) rfl ?_ hw
  refine (candidate_L _ _ _ _ rfl).trans ?_
  show (some (Instr.ldS g (fld _ 21 6) (fld _ 16 5) (fld _ 4 12) (flag _ 3))) = _
  simp (disch := decide) only [fld_pack, flag_pack, ext_lo, ext_top, ext_all, bit_eq, Option.bind_some, one_ne_zero1, if_true, if_false]
theorem stS (g : Guard) (ss : BitVec 6) (base : BitVec 5) (off : BitVec 12) (pi : Bool) : Statement (.stS g ss base off pi) := by
  refine ⟨?_, fun h => nomatch h⟩
  rintro sl ⟨⟩ hw
  refine decodeSlot_encode .L _ g 5#7 ((ss ++ (base ++ (off ++ ((bit pi) ++ 0#3))))) _ rfl (by decide) (by decide) rfl ?_ hw
  refine (candidate_L _ _ _ _ rfl).trans ?_
  show (some (Instr.stS g (fld _ 21 6) (fld _ 16 5) (fld _ 4 12) (flag _ 3))) = _
  simp (disch := decide) only [fld_pack, flag_pack, ext_lo, ext_top, ext_all, bit_eq, Option.bind_some, one_ne_zero1, if_true, if_false]
theorem ldgV (g : Guard) (vd : BitVec 6) (vi : BitVec 6) (base : BitVec 5) (q : BitVec 4) (ty : Ty) : Statement (.ldgV g vd vi base q ty) := by
  refine ⟨?_, fun h => nomatch h⟩
  rintro sl ⟨⟩ hw
  refine decodeSlot_encode .L _ g 6#7 ((vd ++ (vi ++ (base ++ (q ++ (ty.code ++ 0#2)))))) _ rfl (by decide) (by decide) rfl ?_ hw
  refine (candidate_L _ _ _ _ rfl).trans ?_
  show ((Ty.ofCode (fld _ 2 4)).bind fun ty => (some (Instr.ldgV g (fld _ 21 6) (fld _ 15 6) (fld _ 10 5) (fld _ 6 4) ty))) = _
  simp (disch := decide) only [fld_pack, flag_pack, ext_lo, ext_top, ext_all, bit_eq, Option.bind_some, one_ne_zero1, if_true, if_false, Ty.ofCode_code]
theorem stgV (g : Guard) (vs : BitVec 6) (vi : BitVec 6) (base : BitVec 5) (q : BitVec 4) (ty : Ty) : Statement (.stgV g vs vi base q ty) := by
  refine ⟨?_, fun h => nomatch h⟩
  rintro sl ⟨⟩ hw
  refine decodeSlot_encode .L _ g 7#7 ((vs ++ (vi ++ (base ++ (q ++ (ty.code ++ 0#2)))))) _ rfl (by decide) (by decide) rfl ?_ hw
  refine (candidate_L _ _ _ _ rfl).trans ?_
  show ((Ty.ofCode (fld _ 2 4)).bind fun ty => (some (Instr.stgV g (fld _ 21 6) (fld _ 15 6) (fld _ 10 5) (fld _ 6 4) ty))) = _
  simp (disch := decide) only [fld_pack, flag_pack, ext_lo, ext_top, ext_all, bit_eq, Option.bind_some, one_ne_zero1, if_true, if_false, Ty.ofCode_code]
theorem ldQ (g : Guard) (qd : BitVec 4) (base : BitVec 5) (off : BitVec 12) (pi : Bool) : Statement (.ldQ g qd base off pi) := by
  refine ⟨?_, fun h => nomatch h⟩
  rintro sl ⟨⟩ hw
  refine decodeSlot_encode .L _ g 8#7 ((0#2 ++ (qd ++ (base ++ (off ++ ((bit pi) ++ 0#3)))))) _ rfl (by decide) (by decide) rfl ?_ hw
  refine (candidate_L _ _ _ _ rfl).trans ?_
  show (some (Instr.ldQ g (fld _ 21 4) (fld _ 16 5) (fld _ 4 12) (flag _ 3))) = _
  simp (disch := decide) only [fld_pack, flag_pack, ext_lo, ext_top, ext_all, bit_eq, Option.bind_some, one_ne_zero1, if_true, if_false]
theorem stQ (g : Guard) (qs : BitVec 4) (base : BitVec 5) (off : BitVec 12) (pi : Bool) : Statement (.stQ g qs base off pi) := by
  refine ⟨?_, fun h => nomatch h⟩
  rintro sl ⟨⟩ hw
  refine decodeSlot_encode .L _ g 9#7 ((0#2 ++ (qs ++ (base ++ (off ++ ((bit pi) ++ 0#3)))))) _ rfl (by decide) (by decide) rfl ?_ hw
  refine (candidate_L _ _ _ _ rfl).trans ?_
  show (some (Instr.stQ g (fld _ 21 4) (fld _ 16 5) (fld _ 4 12) (flag _ 3))) = _
  simp (disch := decide) only [fld_pack, flag_pack, ext_lo, ext_top, ext_all, bit_eq, Option.bind_some, one_ne_zero1, if_true, if_false]
theorem pushV (g : Guard) (vs : BitVec 6) (dsc : BitVec 6) : Statement (.pushV g vs dsc) := by
  refine ⟨?_, fun h => nomatch h⟩
  rintro sl ⟨⟩ hw
  refine decodeSlot_encode .L _ g 10#7 ((vs ++ (dsc ++ 0#15))) _ rfl (by decide) (by decide) rfl ?_ hw
  refine (candidate_L _ _ _ _ rfl).trans ?_
  show (some (Instr.pushV g (fld _ 21 6) (fld _ 15 6))) = _
  simp (disch := decide) only [fld_pack, flag_pack, ext_lo, ext_top, ext_all, bit_eq, Option.bind_some, one_ne_zero1, if_true, if_false]
theorem pushl (g : Guard) (sl : BitVec 6) (dsc : BitVec 6) : Statement (.pushl g sl dsc) := by
  refine ⟨?_, fun h => nomatch h⟩
  rintro sl ⟨⟩ hw
  refine decodeSlot_encode .L _ g 11#7 ((sl ++ (dsc ++ 0#15))) _ rfl (by decide) (by decide) rfl ?_ hw
  refine (candidate_L _ _ _ _ rfl).trans ?_
  show (some (Instr.pushl g (fld _ 21 6) (fld _ 15 6))) = _
  simp (disch := decide) only [fld_pack, flag_pack, ext_lo, ext_top, ext_all, bit_eq, Option.bind_some, one_ne_zero1, if_true, if_false]
theorem lcopy (g : Guard) (sd : BitVec 6) (ss : BitVec 6) (cnt : BitVec 12) : Statement (.lcopy g sd ss cnt) := by
  refine ⟨?_, fun h => nomatch h⟩
  rintro sl ⟨⟩ hw
  refine decodeSlot_encode .L _ g 12#7 ((sd ++ (ss ++ (cnt ++ 0#3)))) _ rfl (by decide) (by decide) rfl ?_ hw
  refine (candidate_L _ _ _ _ rfl).trans ?_
  show (some (Instr.lcopy g (fld _ 21 6) (fld _ 15 6) (fld _ 3 12))) = _
  simp (disch := decide) only [fld_pack, flag_pack, ext_lo, ext_top, ext_all, bit_eq, Option.bind_some, one_ne_zero1, if_true, if_false]
theorem pushArrival (id : Nat) : Statement (.pushArrival id) :=
  ⟨fun _ h => (nomatch h), fun h => (nomatch h)⟩
theorem mldb (g : Guard) (ty : Ty) (x : BitVec 1) (f : BitVec 3) (sa : BitVec 6) (n : BitVec 4) (sb : Bool) : Statement (.mldb g ty x f sa n sb) := by
  refine ⟨?_, fun h => nomatch h⟩
  rintro sl ⟨⟩ hw
  refine decodeSlot_encode .M _ g 1#7 ((f ++ (0#2 ++ (x ++ (sa ++ (n ++ (0#2 ++ (ty.code ++ (0#3 ++ ((bit sb) ++ 0#1)))))))))) _ rfl (by decide) (by decide) rfl ?_ hw
  refine (candidate_M _ _ _ _ rfl).trans ?_
  show ((Ty.ofCode (fld _ 5 4)).bind fun ty => (some (Instr.mldb g ty (fld _ 21 1) (fld _ 24 3) (fld _ 15 6) (fld _ 11 4) (flag _ 1)))) = _
  simp (disch := decide) only [fld_pack, flag_pack, ext_lo, ext_top, ext_all, bit_eq, Option.bind_some, one_ne_zero1, if_true, if_false, Ty.ofCode_code]
theorem mmul (g : Guard) (ad : BitVec 3) (x : BitVec 1) (sa : BitVec 6) (n : BitVec 4) (c : Bool) (aty : Ty) (bsel : Bool) (scA : Bool) (scB : Bool) : Statement (.mmul g ad x sa n c aty bsel scA scB) := by
  refine ⟨?_, fun h => nomatch h⟩
  rintro sl ⟨⟩ hw
  refine decodeSlot_encode .M _ g 2#7 ((ad ++ (0#2 ++ (x ++ (sa ++ (n ++ ((bit c) ++ (0#1 ++ (aty.code ++ (0#2 ++ ((bit bsel) ++ ((bit scB) ++ (bit scA))))))))))))) _ rfl (by decide) (by decide) rfl ?_ hw
  refine (candidate_M _ _ _ _ rfl).trans ?_
  show (if fld _ 9 1 = 0#1 then (Ty.ofCode (fld _ 5 4)).bind fun aty => (some (Instr.mmul g (fld _ 24 3) (fld _ 21 1) (fld _ 15 6) (fld _ 11 4) (flag _ 10) aty (flag _ 2) (flag _ 0) (flag _ 1)))
          else if fld _ 9 1 = 1#1 then some (Instr.mmulTableMode g (fld _ 24 3) (fld _ 21 1) (fld _ 15 6) (fld _ 11 4) (flag _ 10) _)
          else none) = _
  simp (disch := decide) only [fld_pack, flag_pack, ext_lo, ext_top, ext_all, bit_eq, Option.bind_some, one_ne_zero1, if_true, if_false, Ty.ofCode_code]
theorem mmulTableMode (g : Guard) (ad : BitVec 3) (x : BitVec 1) (sa : BitVec 6) (n : BitVec 4) (c : Bool) (l : BitVec 2) : Statement (.mmulTableMode g ad x sa n c l) := by
  refine ⟨?_, fun h => nomatch h⟩
  rintro sl ⟨⟩ hw
  refine decodeSlot_encode .M _ g 2#7 ((ad ++ (0#2 ++ (x ++ (sa ++ (n ++ ((bit c) ++ (1#1 ++ 0#9)))))))) _ rfl (by decide) (by decide) rfl ?_ hw
  refine (candidate_M _ _ _ _ rfl).trans ?_
  show (if fld _ 9 1 = 0#1 then (Ty.ofCode (fld _ 5 4)).bind fun aty => (some (Instr.mmul g (fld _ 24 3) (fld _ 21 1) (fld _ 15 6) (fld _ 11 4) (flag _ 10) aty (flag _ 2) (flag _ 0) (flag _ 1)))
          else if fld _ 9 1 = 1#1 then some (Instr.mmulTableMode g (fld _ 24 3) (fld _ 21 1) (fld _ 15 6) (fld _ 11 4) (flag _ 10) _)
          else none) = _
  simp (disch := decide) only [fld_pack, flag_pack, ext_lo, ext_top, ext_all, bit_eq, Option.bind_some, one_ne_zero1, if_true, if_false]
  rfl
theorem mzero (g : Guard) (ad : BitVec 3) : Statement (.mzero g ad) := by
  refine ⟨?_, fun h => nomatch h⟩
  rintro sl ⟨⟩ hw
  refine decodeSlot_encode .M _ g 3#7 ((ad ++ 0#24)) _ rfl (by decide) (by decide) rfl ?_ hw
  refine (candidate_M _ _ _ _ rfl).trans ?_
  show (some (Instr.mzero g (fld _ 24 3))) = _
  simp (disch := decide) only [fld_pack, flag_pack, ext_lo, ext_top, ext_all, bit_eq, Option.bind_some, one_ne_zero1, if_true, if_false]
theorem mld (g : Guard) (ad : BitVec 3) (sa : BitVec 6) : Statement (.mld g ad sa) := by
  refine ⟨?_, fun h => nomatch h⟩
  rintro sl ⟨⟩ hw
  refine decodeSlot_encode .M _ g 4#7 ((ad ++ (0#3 ++ (sa ++ 0#15)))) _ rfl (by decide) (by decide) rfl ?_ hw
  refine (candidate_M _ _ _ _ rfl).trans ?_
  show (some (Instr.mld g (fld _ 24 3) (fld _ 15 6))) = _
  simp (disch := decide) only [fld_pack, flag_pack, ext_lo, ext_top, ext_all, bit_eq, Option.bind_some, one_ne_zero1, if_true, if_false]
theorem mst (g : Guard) (as : BitVec 3) (sa : BitVec 6) (i32 : Bool) (ty : Ty) (mode : RMode) : Statement (.mst g as sa i32 ty mode) := by
  refine ⟨?_, fun h => nomatch h⟩
  rintro sl ⟨⟩ hw
  refine decodeSlot_encode .M _ g 5#7 ((as ++ (0#3 ++ (sa ++ (0#4 ++ ((bit i32) ++ (0#1 ++ (ty.code ++ (mode.code ++ 0#2))))))))) _ rfl (by decide) (by decide) rfl ?_ hw
  refine (candidate_M _ _ _ _ rfl).trans ?_
  show (if fld _ 9 1 = 0#1 then (Ty.ofCode (fld _ 5 4)).bind fun ty => (RMode.ofCode (fld _ 2 3)).bind fun mode => (some (Instr.mst g (fld _ 24 3) (fld _ 15 6) (flag _ 10) ty mode))
          else if fld _ 9 1 = 1#1 then some (Instr.mstTableMode g (fld _ 24 3) (fld _ 15 6) _)
          else none) = _
  simp (disch := decide) only [fld_pack, flag_pack, ext_lo, ext_top, ext_all, bit_eq, Option.bind_some, one_ne_zero1, if_true, if_false, Ty.ofCode_code, RMode.ofCode_code, RMode.ofCode_split]
theorem mstTableMode (g : Guard) (as : BitVec 3) (sa : BitVec 6) (l : BitVec 2) : Statement (.mstTableMode g as sa l) := by
  refine ⟨?_, fun h => nomatch h⟩
  rintro sl ⟨⟩ hw
  refine decodeSlot_encode .M _ g 5#7 ((as ++ (0#3 ++ (sa ++ (0#5 ++ (1#1 ++ 0#9)))))) _ rfl (by decide) (by decide) rfl ?_ hw
  refine (candidate_M _ _ _ _ rfl).trans ?_
  show (if fld _ 9 1 = 0#1 then (Ty.ofCode (fld _ 5 4)).bind fun ty => (RMode.ofCode (fld _ 2 3)).bind fun mode => (some (Instr.mst g (fld _ 24 3) (fld _ 15 6) (flag _ 10) ty mode))
          else if fld _ 9 1 = 1#1 then some (Instr.mstTableMode g (fld _ 24 3) (fld _ 15 6) _)
          else none) = _
  simp (disch := decide) only [fld_pack, flag_pack, ext_lo, ext_top, ext_all, bit_eq, Option.bind_some, one_ne_zero1, if_true, if_false]
  rfl
theorem mmov (g : Guard) (ad : BitVec 3) (as : BitVec 3) : Statement (.mmov g ad as) := by
  refine ⟨?_, fun h => nomatch h⟩
  rintro sl ⟨⟩ hw
  refine decodeSlot_encode .M _ g 6#7 ((ad ++ (as ++ 0#21))) _ rfl (by decide) (by decide) rfl ?_ hw
  refine (candidate_M _ _ _ _ rfl).trans ?_
  show (some (Instr.mmov g (fld _ 24 3) (fld _ 21 3))) = _
  simp (disch := decide) only [fld_pack, flag_pack, ext_lo, ext_top, ext_all, bit_eq, Option.bind_some, one_ne_zero1, if_true, if_false]
theorem macc (g : Guard) (ad : BitVec 3) (as : BitVec 3) (i32 : Bool) : Statement (.macc g ad as i32) := by
  refine ⟨?_, fun h => nomatch h⟩
  rintro sl ⟨⟩ hw
  refine decodeSlot_encode .M _ g 7#7 ((ad ++ (as ++ (0#10 ++ ((bit i32) ++ 0#10))))) _ rfl (by decide) (by decide) rfl ?_ hw
  refine (candidate_M _ _ _ _ rfl).trans ?_
  show (some (Instr.macc g (fld _ 24 3) (fld _ 21 3) (flag _ 10))) = _
  simp (disch := decide) only [fld_pack, flag_pack, ext_lo, ext_top, ext_all, bit_eq, Option.bind_some, one_ne_zero1, if_true, if_false]
theorem mrowadd (g : Guard) (ad : BitVec 3) (sa : BitVec 6) (i32 : Bool) : Statement (.mrowadd g ad sa i32) := by
  refine ⟨?_, fun h => nomatch h⟩
  rintro sl ⟨⟩ hw
  refine decodeSlot_encode .M _ g 8#7 ((ad ++ (0#3 ++ (sa ++ (0#4 ++ ((bit i32) ++ 0#10)))))) _ rfl (by decide) (by decide) rfl ?_ hw
  refine (candidate_M _ _ _ _ rfl).trans ?_
  show (some (Instr.mrowadd g (fld _ 24 3) (fld _ 15 6) (flag _ 10))) = _
  simp (disch := decide) only [fld_pack, flag_pack, ext_lo, ext_top, ext_all, bit_eq, Option.bind_some, one_ne_zero1, if_true, if_false]
theorem mscl (g : Guard) (ad : BitVec 3) (sk : BitVec 6) : Statement (.mscl g ad sk) := by
  refine ⟨?_, fun h => nomatch h⟩
  rintro sl ⟨⟩ hw
  refine decodeSlot_encode .M _ g 9#7 ((ad ++ (0#3 ++ (sk ++ 0#15)))) _ rfl (by decide) (by decide) rfl ?_ hw
  refine (candidate_M _ _ _ _ rfl).trans ?_
  show (some (Instr.mscl g (fld _ 24 3) (fld _ 15 6))) = _
  simp (disch := decide) only [fld_pack, flag_pack, ext_lo, ext_top, ext_all, bit_eq, Option.bind_some, one_ne_zero1, if_true, if_false]
theorem xin (g : Guard) (vs : BitVec 6) : Statement (.xin g vs) := by
  refine ⟨?_, fun h => nomatch h⟩
  rintro sl ⟨⟩ hw
  refine decodeSlot_encode .X _ g 1#7 ((vs ++ 0#21)) _ rfl (by decide) (by decide) rfl ?_ hw
  refine (candidate_X _ _ _ _ rfl).trans ?_
  show (some (Instr.xin g (fld _ 21 6))) = _
  simp (disch := decide) only [fld_pack, flag_pack, ext_lo, ext_top, ext_all, bit_eq, Option.bind_some, one_ne_zero1, if_true, if_false]
theorem xout (g : Guard) (vd : BitVec 6) : Statement (.xout g vd) := by
  refine ⟨?_, fun h => nomatch h⟩
  rintro sl ⟨⟩ hw
  refine decodeSlot_encode .X _ g 2#7 ((vd ++ 0#21)) _ rfl (by decide) (by decide) rfl ?_ hw
  refine (candidate_X _ _ _ _ rfl).trans ?_
  show (some (Instr.xout g (fld _ 21 6))) = _
  simp (disch := decide) only [fld_pack, flag_pack, ext_lo, ext_top, ext_all, bit_eq, Option.bind_some, one_ne_zero1, if_true, if_false]
theorem xclr (g : Guard) : Statement (.xclr g) := by
  refine ⟨?_, fun h => nomatch h⟩
  rintro sl ⟨⟩ hw
  refine decodeSlot_encode .X _ g 3#7 ((0#27)) _ rfl (by decide) (by decide) rfl ?_ hw
  refine (candidate_X _ _ _ _ rfl).trans ?_
  show (some (Instr.xclr g)) = _
  simp (disch := decide) only [fld_pack, flag_pack, ext_lo, ext_top, ext_all, bit_eq, Option.bind_some, one_ne_zero1, if_true, if_false]
theorem xmode (g : Guard) (b16 : Bool) : Statement (.xmode g b16) := by
  refine ⟨?_, fun h => nomatch h⟩
  rintro sl ⟨⟩ hw
  refine decodeSlot_encode .X _ g 4#7 ((0#6 ++ ((bit b16) ++ 0#20))) _ rfl (by decide) (by decide) rfl ?_ hw
  refine (candidate_X _ _ _ _ rfl).trans ?_
  show (some (Instr.xmode g (flag _ 20))) = _
  simp (disch := decide) only [fld_pack, flag_pack, ext_lo, ext_top, ext_all, bit_eq, Option.bind_some, one_ne_zero1, if_true, if_false]
theorem act (g : Guard) (bank : BitVec 5) (row : BitVec 13) : Statement (.act g bank row) := by
  refine ⟨?_, fun h => nomatch h⟩
  rintro sl ⟨⟩ hw
  refine decodeSlot_encode .DR _ g 1#7 ((bank ++ (row ++ 0#9))) _ rfl (by decide) (by decide) rfl ?_ hw
  refine (candidate_DR _ _ _ _ rfl).trans ?_
  show (some (Instr.act g (fld _ 22 5) (fld _ 9 13))) = _
  simp (disch := decide) only [fld_pack, flag_pack, ext_lo, ext_top, ext_all, bit_eq, Option.bind_some, one_ne_zero1, if_true, if_false]
theorem acti (g : Guard) (k : BitVec 5) (sn : BitVec 6) : Statement (.acti g k sn) := by
  refine ⟨?_, fun h => nomatch h⟩
  rintro sl ⟨⟩ hw
  refine decodeSlot_encode .DR _ g 2#7 ((k ++ (sn ++ 0#16))) _ rfl (by decide) (by decide) rfl ?_ hw
  refine (candidate_DR _ _ _ _ rfl).trans ?_
  show (some (Instr.acti g (fld _ 22 5) (fld _ 16 6))) = _
  simp (disch := decide) only [fld_pack, flag_pack, ext_lo, ext_top, ext_all, bit_eq, Option.bind_some, one_ne_zero1, if_true, if_false]
theorem pre (g : Guard) (bank : BitVec 5) : Statement (.pre g bank) := by
  refine ⟨?_, fun h => nomatch h⟩
  rintro sl ⟨⟩ hw
  refine decodeSlot_encode .DR _ g 3#7 ((bank ++ 0#22)) _ rfl (by decide) (by decide) rfl ?_ hw
  refine (candidate_DR _ _ _ _ rfl).trans ?_
  show (some (Instr.pre g (fld _ 22 5))) = _
  simp (disch := decide) only [fld_pack, flag_pack, ext_lo, ext_top, ext_all, bit_eq, Option.bind_some, one_ne_zero1, if_true, if_false]
theorem prea (g : Guard) : Statement (.prea g) := by
  refine ⟨?_, fun h => nomatch h⟩
  rintro sl ⟨⟩ hw
  refine decodeSlot_encode .DR _ g 4#7 ((0#27)) _ rfl (by decide) (by decide) rfl ?_ hw
  refine (candidate_DR _ _ _ _ rfl).trans ?_
  show (some (Instr.prea g)) = _
  simp (disch := decide) only [fld_pack, flag_pack, ext_lo, ext_top, ext_all, bit_eq, Option.bind_some, one_ne_zero1, if_true, if_false]
theorem refb (g : Guard) (bank : BitVec 5) : Statement (.refb g bank) := by
  refine ⟨?_, fun h => nomatch h⟩
  rintro sl ⟨⟩ hw
  refine decodeSlot_encode .DR _ g 5#7 ((bank ++ 0#22)) _ rfl (by decide) (by decide) rfl ?_ hw
  refine (candidate_DR _ _ _ _ rfl).trans ?_
  show (some (Instr.refb g (fld _ 22 5))) = _
  simp (disch := decide) only [fld_pack, flag_pack, ext_lo, ext_top, ext_all, bit_eq, Option.bind_some, one_ne_zero1, if_true, if_false]
theorem stop (g : Guard) (sm : BitVec 6) (len : BitVec 16) : Statement (.stop g sm len) := by
  refine ⟨?_, fun h => nomatch h⟩
  rintro sl ⟨⟩ hw
  refine decodeSlot_encode .DR _ g 6#7 ((sm ++ (0#5 ++ len))) _ rfl (by decide) (by decide) rfl ?_ hw
  refine (candidate_DR _ _ _ _ rfl).trans ?_
  show (some (Instr.stop g (fld _ 21 6) (fld _ 0 16))) = _
  simp (disch := decide) only [fld_pack, flag_pack, ext_lo, ext_top, ext_all, bit_eq, Option.bind_some, one_ne_zero1, if_true, if_false]
theorem rd (g : Guard) (vd : BitVec 6) (sv : BitVec 6) (ai : Bool) : Statement (.rd g vd sv ai) := by
  refine ⟨?_, fun h => nomatch h⟩
  rintro sl ⟨⟩ hw
  refine decodeSlot_encode .DC _ g 1#7 ((vd ++ (sv ++ ((bit ai) ++ 0#14)))) _ rfl (by decide) (by decide) rfl ?_ hw
  refine (candidate_DC _ _ _ _ rfl).trans ?_
  show (some (Instr.rd g (fld _ 21 6) (fld _ 15 6) (flag _ 14))) = _
  simp (disch := decide) only [fld_pack, flag_pack, ext_lo, ext_top, ext_all, bit_eq, Option.bind_some, one_ne_zero1, if_true, if_false]
theorem rds (g : Guard) (sl : BitVec 6) (sv : BitVec 6) (ai : Bool) : Statement (.rds g sl sv ai) := by
  refine ⟨?_, fun h => nomatch h⟩
  rintro sl ⟨⟩ hw
  refine decodeSlot_encode .DC _ g 2#7 ((sl ++ (sv ++ ((bit ai) ++ 0#14)))) _ rfl (by decide) (by decide) rfl ?_ hw
  refine (candidate_DC _ _ _ _ rfl).trans ?_
  show (some (Instr.rds g (fld _ 21 6) (fld _ 15 6) (flag _ 14))) = _
  simp (disch := decide) only [fld_pack, flag_pack, ext_lo, ext_top, ext_all, bit_eq, Option.bind_some, one_ne_zero1, if_true, if_false]
theorem wr (g : Guard) (vs : BitVec 6) (sv : BitVec 6) (ai : Bool) : Statement (.wr g vs sv ai) := by
  refine ⟨?_, fun h => nomatch h⟩
  rintro sl ⟨⟩ hw
  refine decodeSlot_encode .DC _ g 3#7 ((vs ++ (sv ++ ((bit ai) ++ 0#14)))) _ rfl (by decide) (by decide) rfl ?_ hw
  refine (candidate_DC _ _ _ _ rfl).trans ?_
  show (some (Instr.wr g (fld _ 21 6) (fld _ 15 6) (flag _ 14))) = _
  simp (disch := decide) only [fld_pack, flag_pack, ext_lo, ext_top, ext_all, bit_eq, Option.bind_some, one_ne_zero1, if_true, if_false]
theorem wrs (g : Guard) (sl : BitVec 6) (sv : BitVec 6) (ai : Bool) : Statement (.wrs g sl sv ai) := by
  refine ⟨?_, fun h => nomatch h⟩
  rintro sl ⟨⟩ hw
  refine decodeSlot_encode .DC _ g 4#7 ((sl ++ (sv ++ ((bit ai) ++ 0#14)))) _ rfl (by decide) (by decide) rfl ?_ hw
  refine (candidate_DC _ _ _ _ rfl).trans ?_
  show (some (Instr.wrs g (fld _ 21 6) (fld _ 15 6) (flag _ 14))) = _
  simp (disch := decide) only [fld_pack, flag_pack, ext_lo, ext_top, ext_all, bit_eq, Option.bind_some, one_ne_zero1, if_true, if_false]
theorem vadd (g : Guard) (u : VSlot) (vd : BitVec 6) (va : BitVec 6) (vb : BitVec 6) (q : BitVec 4) (ty : Ty) (rz : Bool) : Statement (.vadd g u vd va vb q ty rz) := by
  refine ⟨?_, fun h => nomatch h⟩
  cases u
  · rintro sl ⟨⟩ hw
    refine decodeSlot_encode .VA _ g 1#7 ((vd ++ (va ++ (vb ++ (q ++ (ty.code ++ (bit rz))))))) _ rfl (by decide) (by decide) rfl ?_ hw
    refine (candidate_VA _ _ _ _ rfl rfl).trans ?_
    show ((Ty.ofCode (fld _ 1 4)).bind fun ty => (some (Instr.vadd g .va (fld _ 21 6) (fld _ 15 6) (fld _ 9 6) (fld _ 5 4) ty (flag _ 0)))) = _
    simp (disch := decide) only [fld_pack, flag_pack, ext_lo, ext_top, ext_all, bit_eq, Option.bind_some, one_ne_zero1, if_true, if_false, Ty.ofCode_code]
  · rintro sl ⟨⟩ hw
    refine decodeSlot_encode .VB _ g 1#7 ((vd ++ (va ++ (vb ++ (q ++ (ty.code ++ (bit rz))))))) _ rfl (by decide) (by decide) rfl ?_ hw
    refine (candidate_VB _ _ _ _ rfl rfl).trans ?_
    show ((Ty.ofCode (fld _ 1 4)).bind fun ty => (some (Instr.vadd g .vb (fld _ 21 6) (fld _ 15 6) (fld _ 9 6) (fld _ 5 4) ty (flag _ 0)))) = _
    simp (disch := decide) only [fld_pack, flag_pack, ext_lo, ext_top, ext_all, bit_eq, Option.bind_some, one_ne_zero1, if_true, if_false, Ty.ofCode_code]
theorem vsub (g : Guard) (u : VSlot) (vd : BitVec 6) (va : BitVec 6) (vb : BitVec 6) (q : BitVec 4) (ty : Ty) (rz : Bool) : Statement (.vsub g u vd va vb q ty rz) := by
  refine ⟨?_, fun h => nomatch h⟩
  cases u
  · rintro sl ⟨⟩ hw
    refine decodeSlot_encode .VA _ g 2#7 ((vd ++ (va ++ (vb ++ (q ++ (ty.code ++ (bit rz))))))) _ rfl (by decide) (by decide) rfl ?_ hw
    refine (candidate_VA _ _ _ _ rfl rfl).trans ?_
    show ((Ty.ofCode (fld _ 1 4)).bind fun ty => (some (Instr.vsub g .va (fld _ 21 6) (fld _ 15 6) (fld _ 9 6) (fld _ 5 4) ty (flag _ 0)))) = _
    simp (disch := decide) only [fld_pack, flag_pack, ext_lo, ext_top, ext_all, bit_eq, Option.bind_some, one_ne_zero1, if_true, if_false, Ty.ofCode_code]
  · rintro sl ⟨⟩ hw
    refine decodeSlot_encode .VB _ g 2#7 ((vd ++ (va ++ (vb ++ (q ++ (ty.code ++ (bit rz))))))) _ rfl (by decide) (by decide) rfl ?_ hw
    refine (candidate_VB _ _ _ _ rfl rfl).trans ?_
    show ((Ty.ofCode (fld _ 1 4)).bind fun ty => (some (Instr.vsub g .vb (fld _ 21 6) (fld _ 15 6) (fld _ 9 6) (fld _ 5 4) ty (flag _ 0)))) = _
    simp (disch := decide) only [fld_pack, flag_pack, ext_lo, ext_top, ext_all, bit_eq, Option.bind_some, one_ne_zero1, if_true, if_false, Ty.ofCode_code]
theorem vmul (g : Guard) (u : VSlot) (vd : BitVec 6) (va : BitVec 6) (vb : BitVec 6) (q : BitVec 4) (ty : Ty) (rz : Bool) : Statement (.vmul g u vd va vb q ty rz) := by
  refine ⟨?_, fun h => nomatch h⟩
  cases u
  · rintro sl ⟨⟩ hw
    refine decodeSlot_encode .VA _ g 3#7 ((vd ++ (va ++ (vb ++ (q ++ (ty.code ++ (bit rz))))))) _ rfl (by decide) (by decide) rfl ?_ hw
    refine (candidate_VA _ _ _ _ rfl rfl).trans ?_
    show ((Ty.ofCode (fld _ 1 4)).bind fun ty => (some (Instr.vmul g .va (fld _ 21 6) (fld _ 15 6) (fld _ 9 6) (fld _ 5 4) ty (flag _ 0)))) = _
    simp (disch := decide) only [fld_pack, flag_pack, ext_lo, ext_top, ext_all, bit_eq, Option.bind_some, one_ne_zero1, if_true, if_false, Ty.ofCode_code]
  · rintro sl ⟨⟩ hw
    refine decodeSlot_encode .VB _ g 3#7 ((vd ++ (va ++ (vb ++ (q ++ (ty.code ++ (bit rz))))))) _ rfl (by decide) (by decide) rfl ?_ hw
    refine (candidate_VB _ _ _ _ rfl rfl).trans ?_
    show ((Ty.ofCode (fld _ 1 4)).bind fun ty => (some (Instr.vmul g .vb (fld _ 21 6) (fld _ 15 6) (fld _ 9 6) (fld _ 5 4) ty (flag _ 0)))) = _
    simp (disch := decide) only [fld_pack, flag_pack, ext_lo, ext_top, ext_all, bit_eq, Option.bind_some, one_ne_zero1, if_true, if_false, Ty.ofCode_code]
theorem vfma (g : Guard) (u : VSlot) (vd : BitVec 6) (va : BitVec 6) (vb : BitVec 6) (q : BitVec 4) (ty : Ty) (rz : Bool) : Statement (.vfma g u vd va vb q ty rz) := by
  refine ⟨?_, fun h => nomatch h⟩
  cases u
  · rintro sl ⟨⟩ hw
    refine decodeSlot_encode .VA _ g 4#7 ((vd ++ (va ++ (vb ++ (q ++ (ty.code ++ (bit rz))))))) _ rfl (by decide) (by decide) rfl ?_ hw
    refine (candidate_VA _ _ _ _ rfl rfl).trans ?_
    show ((Ty.ofCode (fld _ 1 4)).bind fun ty => (some (Instr.vfma g .va (fld _ 21 6) (fld _ 15 6) (fld _ 9 6) (fld _ 5 4) ty (flag _ 0)))) = _
    simp (disch := decide) only [fld_pack, flag_pack, ext_lo, ext_top, ext_all, bit_eq, Option.bind_some, one_ne_zero1, if_true, if_false, Ty.ofCode_code]
  · rintro sl ⟨⟩ hw
    refine decodeSlot_encode .VB _ g 4#7 ((vd ++ (va ++ (vb ++ (q ++ (ty.code ++ (bit rz))))))) _ rfl (by decide) (by decide) rfl ?_ hw
    refine (candidate_VB _ _ _ _ rfl rfl).trans ?_
    show ((Ty.ofCode (fld _ 1 4)).bind fun ty => (some (Instr.vfma g .vb (fld _ 21 6) (fld _ 15 6) (fld _ 9 6) (fld _ 5 4) ty (flag _ 0)))) = _
    simp (disch := decide) only [fld_pack, flag_pack, ext_lo, ext_top, ext_all, bit_eq, Option.bind_some, one_ne_zero1, if_true, if_false, Ty.ofCode_code]
theorem vfms (g : Guard) (u : VSlot) (vd : BitVec 6) (va : BitVec 6) (vb : BitVec 6) (q : BitVec 4) (ty : Ty) (rz : Bool) : Statement (.vfms g u vd va vb q ty rz) := by
  refine ⟨?_, fun h => nomatch h⟩
  cases u
  · rintro sl ⟨⟩ hw
    refine decodeSlot_encode .VA _ g 5#7 ((vd ++ (va ++ (vb ++ (q ++ (ty.code ++ (bit rz))))))) _ rfl (by decide) (by decide) rfl ?_ hw
    refine (candidate_VA _ _ _ _ rfl rfl).trans ?_
    show ((Ty.ofCode (fld _ 1 4)).bind fun ty => (some (Instr.vfms g .va (fld _ 21 6) (fld _ 15 6) (fld _ 9 6) (fld _ 5 4) ty (flag _ 0)))) = _
    simp (disch := decide) only [fld_pack, flag_pack, ext_lo, ext_top, ext_all, bit_eq, Option.bind_some, one_ne_zero1, if_true, if_false, Ty.ofCode_code]
  · rintro sl ⟨⟩ hw
    refine decodeSlot_encode .VB _ g 5#7 ((vd ++ (va ++ (vb ++ (q ++ (ty.code ++ (bit rz))))))) _ rfl (by decide) (by decide) rfl ?_ hw
    refine (candidate_VB _ _ _ _ rfl rfl).trans ?_
    show ((Ty.ofCode (fld _ 1 4)).bind fun ty => (some (Instr.vfms g .vb (fld _ 21 6) (fld _ 15 6) (fld _ 9 6) (fld _ 5 4) ty (flag _ 0)))) = _
    simp (disch := decide) only [fld_pack, flag_pack, ext_lo, ext_top, ext_all, bit_eq, Option.bind_some, one_ne_zero1, if_true, if_false, Ty.ofCode_code]
theorem vfnma (g : Guard) (u : VSlot) (vd : BitVec 6) (va : BitVec 6) (vb : BitVec 6) (q : BitVec 4) (ty : Ty) (rz : Bool) : Statement (.vfnma g u vd va vb q ty rz) := by
  refine ⟨?_, fun h => nomatch h⟩
  cases u
  · rintro sl ⟨⟩ hw
    refine decodeSlot_encode .VA _ g 6#7 ((vd ++ (va ++ (vb ++ (q ++ (ty.code ++ (bit rz))))))) _ rfl (by decide) (by decide) rfl ?_ hw
    refine (candidate_VA _ _ _ _ rfl rfl).trans ?_
    show ((Ty.ofCode (fld _ 1 4)).bind fun ty => (some (Instr.vfnma g .va (fld _ 21 6) (fld _ 15 6) (fld _ 9 6) (fld _ 5 4) ty (flag _ 0)))) = _
    simp (disch := decide) only [fld_pack, flag_pack, ext_lo, ext_top, ext_all, bit_eq, Option.bind_some, one_ne_zero1, if_true, if_false, Ty.ofCode_code]
  · rintro sl ⟨⟩ hw
    refine decodeSlot_encode .VB _ g 6#7 ((vd ++ (va ++ (vb ++ (q ++ (ty.code ++ (bit rz))))))) _ rfl (by decide) (by decide) rfl ?_ hw
    refine (candidate_VB _ _ _ _ rfl rfl).trans ?_
    show ((Ty.ofCode (fld _ 1 4)).bind fun ty => (some (Instr.vfnma g .vb (fld _ 21 6) (fld _ 15 6) (fld _ 9 6) (fld _ 5 4) ty (flag _ 0)))) = _
    simp (disch := decide) only [fld_pack, flag_pack, ext_lo, ext_top, ext_all, bit_eq, Option.bind_some, one_ne_zero1, if_true, if_false, Ty.ofCode_code]
theorem vmin (g : Guard) (u : VSlot) (vd : BitVec 6) (va : BitVec 6) (vb : BitVec 6) (q : BitVec 4) (ty : Ty) (num : Bool) : Statement (.vmin g u vd va vb q ty num) := by
  refine ⟨?_, fun h => nomatch h⟩
  cases u
  · rintro sl ⟨⟩ hw
    refine decodeSlot_encode .VA _ g 7#7 ((vd ++ (va ++ (vb ++ (q ++ (ty.code ++ (bit num))))))) _ rfl (by decide) (by decide) rfl ?_ hw
    refine (candidate_VA _ _ _ _ rfl rfl).trans ?_
    show ((Ty.ofCode (fld _ 1 4)).bind fun ty => (some (Instr.vmin g .va (fld _ 21 6) (fld _ 15 6) (fld _ 9 6) (fld _ 5 4) ty (flag _ 0)))) = _
    simp (disch := decide) only [fld_pack, flag_pack, ext_lo, ext_top, ext_all, bit_eq, Option.bind_some, one_ne_zero1, if_true, if_false, Ty.ofCode_code]
  · rintro sl ⟨⟩ hw
    refine decodeSlot_encode .VB _ g 7#7 ((vd ++ (va ++ (vb ++ (q ++ (ty.code ++ (bit num))))))) _ rfl (by decide) (by decide) rfl ?_ hw
    refine (candidate_VB _ _ _ _ rfl rfl).trans ?_
    show ((Ty.ofCode (fld _ 1 4)).bind fun ty => (some (Instr.vmin g .vb (fld _ 21 6) (fld _ 15 6) (fld _ 9 6) (fld _ 5 4) ty (flag _ 0)))) = _
    simp (disch := decide) only [fld_pack, flag_pack, ext_lo, ext_top, ext_all, bit_eq, Option.bind_some, one_ne_zero1, if_true, if_false, Ty.ofCode_code]
theorem vmax (g : Guard) (u : VSlot) (vd : BitVec 6) (va : BitVec 6) (vb : BitVec 6) (q : BitVec 4) (ty : Ty) (num : Bool) : Statement (.vmax g u vd va vb q ty num) := by
  refine ⟨?_, fun h => nomatch h⟩
  cases u
  · rintro sl ⟨⟩ hw
    refine decodeSlot_encode .VA _ g 8#7 ((vd ++ (va ++ (vb ++ (q ++ (ty.code ++ (bit num))))))) _ rfl (by decide) (by decide) rfl ?_ hw
    refine (candidate_VA _ _ _ _ rfl rfl).trans ?_
    show ((Ty.ofCode (fld _ 1 4)).bind fun ty => (some (Instr.vmax g .va (fld _ 21 6) (fld _ 15 6) (fld _ 9 6) (fld _ 5 4) ty (flag _ 0)))) = _
    simp (disch := decide) only [fld_pack, flag_pack, ext_lo, ext_top, ext_all, bit_eq, Option.bind_some, one_ne_zero1, if_true, if_false, Ty.ofCode_code]
  · rintro sl ⟨⟩ hw
    refine decodeSlot_encode .VB _ g 8#7 ((vd ++ (va ++ (vb ++ (q ++ (ty.code ++ (bit num))))))) _ rfl (by decide) (by decide) rfl ?_ hw
    refine (candidate_VB _ _ _ _ rfl rfl).trans ?_
    show ((Ty.ofCode (fld _ 1 4)).bind fun ty => (some (Instr.vmax g .vb (fld _ 21 6) (fld _ 15 6) (fld _ 9 6) (fld _ 5 4) ty (flag _ 0)))) = _
    simp (disch := decide) only [fld_pack, flag_pack, ext_lo, ext_top, ext_all, bit_eq, Option.bind_some, one_ne_zero1, if_true, if_false, Ty.ofCode_code]
theorem vabs (g : Guard) (u : VSlot) (vd : BitVec 6) (va : BitVec 6) (q : BitVec 4) (ty : Ty) : Statement (.vabs g u vd va q ty) := by
  refine ⟨?_, fun h => nomatch h⟩
  cases u
  · rintro sl ⟨⟩ hw
    refine decodeSlot_encode .VA _ g 9#7 ((vd ++ (va ++ (0#6 ++ (q ++ (ty.code ++ 0#1)))))) _ rfl (by decide) (by decide) rfl ?_ hw
    refine (candidate_VA _ _ _ _ rfl rfl).trans ?_
    show ((Ty.ofCode (fld _ 1 4)).bind fun ty => (some (Instr.vabs g .va (fld _ 21 6) (fld _ 15 6) (fld _ 5 4) ty))) = _
    simp (disch := decide) only [fld_pack, flag_pack, ext_lo, ext_top, ext_all, bit_eq, Option.bind_some, one_ne_zero1, if_true, if_false, Ty.ofCode_code]
  · rintro sl ⟨⟩ hw
    refine decodeSlot_encode .VB _ g 9#7 ((vd ++ (va ++ (0#6 ++ (q ++ (ty.code ++ 0#1)))))) _ rfl (by decide) (by decide) rfl ?_ hw
    refine (candidate_VB _ _ _ _ rfl rfl).trans ?_
    show ((Ty.ofCode (fld _ 1 4)).bind fun ty => (some (Instr.vabs g .vb (fld _ 21 6) (fld _ 15 6) (fld _ 5 4) ty))) = _
    simp (disch := decide) only [fld_pack, flag_pack, ext_lo, ext_top, ext_all, bit_eq, Option.bind_some, one_ne_zero1, if_true, if_false, Ty.ofCode_code]
theorem vneg (g : Guard) (u : VSlot) (vd : BitVec 6) (va : BitVec 6) (q : BitVec 4) (ty : Ty) : Statement (.vneg g u vd va q ty) := by
  refine ⟨?_, fun h => nomatch h⟩
  cases u
  · rintro sl ⟨⟩ hw
    refine decodeSlot_encode .VA _ g 10#7 ((vd ++ (va ++ (0#6 ++ (q ++ (ty.code ++ 0#1)))))) _ rfl (by decide) (by decide) rfl ?_ hw
    refine (candidate_VA _ _ _ _ rfl rfl).trans ?_
    show ((Ty.ofCode (fld _ 1 4)).bind fun ty => (some (Instr.vneg g .va (fld _ 21 6) (fld _ 15 6) (fld _ 5 4) ty))) = _
    simp (disch := decide) only [fld_pack, flag_pack, ext_lo, ext_top, ext_all, bit_eq, Option.bind_some, one_ne_zero1, if_true, if_false, Ty.ofCode_code]
  · rintro sl ⟨⟩ hw
    refine decodeSlot_encode .VB _ g 10#7 ((vd ++ (va ++ (0#6 ++ (q ++ (ty.code ++ 0#1)))))) _ rfl (by decide) (by decide) rfl ?_ hw
    refine (candidate_VB _ _ _ _ rfl rfl).trans ?_
    show ((Ty.ofCode (fld _ 1 4)).bind fun ty => (some (Instr.vneg g .vb (fld _ 21 6) (fld _ 15 6) (fld _ 5 4) ty))) = _
    simp (disch := decide) only [fld_pack, flag_pack, ext_lo, ext_top, ext_all, bit_eq, Option.bind_some, one_ne_zero1, if_true, if_false, Ty.ofCode_code]
theorem vtwosum (g : Guard) (u : VSlot) (vd : BitVec 6) (va : BitVec 6) (vb : BitVec 6) (q : BitVec 4) (ty : Ty) : Statement (.vtwosum g u vd va vb q ty) := by
  refine ⟨?_, fun h => nomatch h⟩
  cases u
  · rintro sl ⟨⟩ hw
    refine decodeSlot_encode .VA _ g 11#7 ((vd ++ (va ++ (vb ++ (q ++ (ty.code ++ 0#1)))))) _ rfl (by decide) (by decide) rfl ?_ hw
    refine (candidate_VA _ _ _ _ rfl rfl).trans ?_
    show ((Ty.ofCode (fld _ 1 4)).bind fun ty => (some (Instr.vtwosum g .va (fld _ 21 6) (fld _ 15 6) (fld _ 9 6) (fld _ 5 4) ty))) = _
    simp (disch := decide) only [fld_pack, flag_pack, ext_lo, ext_top, ext_all, bit_eq, Option.bind_some, one_ne_zero1, if_true, if_false, Ty.ofCode_code]
  · rintro sl ⟨⟩ hw
    refine decodeSlot_encode .VB _ g 11#7 ((vd ++ (va ++ (vb ++ (q ++ (ty.code ++ 0#1)))))) _ rfl (by decide) (by decide) rfl ?_ hw
    refine (candidate_VB _ _ _ _ rfl rfl).trans ?_
    show ((Ty.ofCode (fld _ 1 4)).bind fun ty => (some (Instr.vtwosum g .vb (fld _ 21 6) (fld _ 15 6) (fld _ 9 6) (fld _ 5 4) ty))) = _
    simp (disch := decide) only [fld_pack, flag_pack, ext_lo, ext_top, ext_all, bit_eq, Option.bind_some, one_ne_zero1, if_true, if_false, Ty.ofCode_code]
theorem vcmp (g : Guard) (u : VSlot) (qd : BitVec 4) (c : FCond) (va : BitVec 6) (vb : BitVec 6) (q : BitVec 4) (ty : Ty) : Statement (.vcmp g u qd c va vb q ty) := by
  refine ⟨?_, fun h => nomatch h⟩
  cases u
  · rintro sl ⟨⟩ hw
    refine decodeSlot_encode .VA _ g 12#7 (((hi2 c.code) ++ (qd ++ (va ++ (vb ++ (q ++ (ty.code ++ (lo1 c.code)))))))) _ rfl (by decide) (by decide) rfl ?_ hw
    refine (candidate_VA _ _ _ _ rfl rfl).trans ?_
    show ((FCond.ofCode (fld _ 25 2 ++ fld _ 0 1)).bind fun c => (Ty.ofCode (fld _ 1 4)).bind fun ty => (some (Instr.vcmp g .va (fld _ 21 4) c (fld _ 15 6) (fld _ 9 6) (fld _ 5 4) ty))) = _
    simp (disch := decide) only [fld_pack, flag_pack, ext_lo, ext_top, ext_all, bit_eq, Option.bind_some, one_ne_zero1, if_true, if_false, Ty.ofCode_code, FCond.ofCode_split]
  · rintro sl ⟨⟩ hw
    refine decodeSlot_encode .VB _ g 12#7 (((hi2 c.code) ++ (qd ++ (va ++ (vb ++ (q ++ (ty.code ++ (lo1 c.code)))))))) _ rfl (by decide) (by decide) rfl ?_ hw
    refine (candidate_VB _ _ _ _ rfl rfl).trans ?_
    show ((FCond.ofCode (fld _ 25 2 ++ fld _ 0 1)).bind fun c => (Ty.ofCode (fld _ 1 4)).bind fun ty => (some (Instr.vcmp g .vb (fld _ 21 4) c (fld _ 15 6) (fld _ 9 6) (fld _ 5 4) ty))) = _
    simp (disch := decide) only [fld_pack, flag_pack, ext_lo, ext_top, ext_all, bit_eq, Option.bind_some, one_ne_zero1, if_true, if_false, Ty.ofCode_code, FCond.ofCode_split]
theorem vclass (g : Guard) (u : VSlot) (vd : BitVec 6) (va : BitVec 6) (q : BitVec 4) (ty : Ty) : Statement (.vclass g u vd va q ty) := by
  refine ⟨?_, fun h => nomatch h⟩
  cases u
  · rintro sl ⟨⟩ hw
    refine decodeSlot_encode .VA _ g 13#7 ((vd ++ (va ++ (0#6 ++ (q ++ (ty.code ++ 0#1)))))) _ rfl (by decide) (by decide) rfl ?_ hw
    refine (candidate_VA _ _ _ _ rfl rfl).trans ?_
    show ((Ty.ofCode (fld _ 1 4)).bind fun ty => (some (Instr.vclass g .va (fld _ 21 6) (fld _ 15 6) (fld _ 5 4) ty))) = _
    simp (disch := decide) only [fld_pack, flag_pack, ext_lo, ext_top, ext_all, bit_eq, Option.bind_some, one_ne_zero1, if_true, if_false, Ty.ofCode_code]
  · rintro sl ⟨⟩ hw
    refine decodeSlot_encode .VB _ g 13#7 ((vd ++ (va ++ (0#6 ++ (q ++ (ty.code ++ 0#1)))))) _ rfl (by decide) (by decide) rfl ?_ hw
    refine (candidate_VB _ _ _ _ rfl rfl).trans ?_
    show ((Ty.ofCode (fld _ 1 4)).bind fun ty => (some (Instr.vclass g .vb (fld _ 21 6) (fld _ 15 6) (fld _ 5 4) ty))) = _
    simp (disch := decide) only [fld_pack, flag_pack, ext_lo, ext_top, ext_all, bit_eq, Option.bind_some, one_ne_zero1, if_true, if_false, Ty.ofCode_code]
theorem vscale (g : Guard) (u : VSlot) (vd : BitVec 6) (va : BitVec 6) (vb : BitVec 6) (q : BitVec 4) (ty : Ty) (inv : Bool) : Statement (.vscale g u vd va vb q ty inv) := by
  refine ⟨?_, fun h => nomatch h⟩
  cases u
  · rintro sl ⟨⟩ hw
    refine decodeSlot_encode .VA _ g 14#7 ((vd ++ (va ++ (vb ++ (q ++ (ty.code ++ (bit inv))))))) _ rfl (by decide) (by decide) rfl ?_ hw
    refine (candidate_VA _ _ _ _ rfl rfl).trans ?_
    show ((Ty.ofCode (fld _ 1 4)).bind fun ty => (some (Instr.vscale g .va (fld _ 21 6) (fld _ 15 6) (fld _ 9 6) (fld _ 5 4) ty (flag _ 0)))) = _
    simp (disch := decide) only [fld_pack, flag_pack, ext_lo, ext_top, ext_all, bit_eq, Option.bind_some, one_ne_zero1, if_true, if_false, Ty.ofCode_code]
  · rintro sl ⟨⟩ hw
    refine decodeSlot_encode .VB _ g 14#7 ((vd ++ (va ++ (vb ++ (q ++ (ty.code ++ (bit inv))))))) _ rfl (by decide) (by decide) rfl ?_ hw
    refine (candidate_VB _ _ _ _ rfl rfl).trans ?_
    show ((Ty.ofCode (fld _ 1 4)).bind fun ty => (some (Instr.vscale g .vb (fld _ 21 6) (fld _ 15 6) (fld _ 9 6) (fld _ 5 4) ty (flag _ 0)))) = _
    simp (disch := decide) only [fld_pack, flag_pack, ext_lo, ext_top, ext_all, bit_eq, Option.bind_some, one_ne_zero1, if_true, if_false, Ty.ofCode_code]
theorem vcvt (g : Guard) (u : VSlot) (vd : BitVec 6) (va : BitVec 6) (q : BitVec 4) (dt : Ty) (st : Ty) (mode : RMode) : Statement (.vcvt g u vd va q dt st mode) := by
  refine ⟨?_, fun h => nomatch h⟩
  cases u
  · rintro sl ⟨⟩ hw
    refine decodeSlot_encode .VA _ g 15#7 ((vd ++ (va ++ (st.code ++ ((hi2 mode.code) ++ (q ++ (dt.code ++ (lo1 mode.code)))))))) _ rfl (by decide) (by decide) rfl ?_ hw
    refine (candidate_VA _ _ _ _ rfl rfl).trans ?_
    show ((Ty.ofCode (fld _ 1 4)).bind fun dt => (Ty.ofCode (fld _ 11 4)).bind fun st => (RMode.ofCode (fld _ 9 2 ++ fld _ 0 1)).bind fun mode => (some (Instr.vcvt g .va (fld _ 21 6) (fld _ 15 6) (fld _ 5 4) dt st mode))) = _
    simp (disch := decide) only [fld_pack, flag_pack, ext_lo, ext_top, ext_all, bit_eq, Option.bind_some, one_ne_zero1, if_true, if_false, Ty.ofCode_code, RMode.ofCode_code, RMode.ofCode_split]
  · rintro sl ⟨⟩ hw
    refine decodeSlot_encode .VB _ g 15#7 ((vd ++ (va ++ (st.code ++ ((hi2 mode.code) ++ (q ++ (dt.code ++ (lo1 mode.code)))))))) _ rfl (by decide) (by decide) rfl ?_ hw
    refine (candidate_VB _ _ _ _ rfl rfl).trans ?_
    show ((Ty.ofCode (fld _ 1 4)).bind fun dt => (Ty.ofCode (fld _ 11 4)).bind fun st => (RMode.ofCode (fld _ 9 2 ++ fld _ 0 1)).bind fun mode => (some (Instr.vcvt g .vb (fld _ 21 6) (fld _ 15 6) (fld _ 5 4) dt st mode))) = _
    simp (disch := decide) only [fld_pack, flag_pack, ext_lo, ext_top, ext_all, bit_eq, Option.bind_some, one_ne_zero1, if_true, if_false, Ty.ofCode_code, RMode.ofCode_code, RMode.ofCode_split]
theorem viadd (g : Guard) (u : VSlot) (vd : BitVec 6) (va : BitVec 6) (vb : BitVec 6) (q : BitVec 4) (ty : Ty) : Statement (.viadd g u vd va vb q ty) := by
  refine ⟨?_, fun h => nomatch h⟩
  cases u
  · rintro sl ⟨⟩ hw
    refine decodeSlot_encode .VA _ g 16#7 ((vd ++ (va ++ (vb ++ (q ++ (ty.code ++ 0#1)))))) _ rfl (by decide) (by decide) rfl ?_ hw
    refine (candidate_VA _ _ _ _ rfl rfl).trans ?_
    show ((Ty.ofCode (fld _ 1 4)).bind fun ty => (some (Instr.viadd g .va (fld _ 21 6) (fld _ 15 6) (fld _ 9 6) (fld _ 5 4) ty))) = _
    simp (disch := decide) only [fld_pack, flag_pack, ext_lo, ext_top, ext_all, bit_eq, Option.bind_some, one_ne_zero1, if_true, if_false, Ty.ofCode_code]
  · rintro sl ⟨⟩ hw
    refine decodeSlot_encode .VB _ g 16#7 ((vd ++ (va ++ (vb ++ (q ++ (ty.code ++ 0#1)))))) _ rfl (by decide) (by decide) rfl ?_ hw
    refine (candidate_VB _ _ _ _ rfl rfl).trans ?_
    show ((Ty.ofCode (fld _ 1 4)).bind fun ty => (some (Instr.viadd g .vb (fld _ 21 6) (fld _ 15 6) (fld _ 9 6) (fld _ 5 4) ty))) = _
    simp (disch := decide) only [fld_pack, flag_pack, ext_lo, ext_top, ext_all, bit_eq, Option.bind_some, one_ne_zero1, if_true, if_false, Ty.ofCode_code]
theorem visub (g : Guard) (u : VSlot) (vd : BitVec 6) (va : BitVec 6) (vb : BitVec 6) (q : BitVec 4) (ty : Ty) : Statement (.visub g u vd va vb q ty) := by
  refine ⟨?_, fun h => nomatch h⟩
  cases u
  · rintro sl ⟨⟩ hw
    refine decodeSlot_encode .VA _ g 17#7 ((vd ++ (va ++ (vb ++ (q ++ (ty.code ++ 0#1)))))) _ rfl (by decide) (by decide) rfl ?_ hw
    refine (candidate_VA _ _ _ _ rfl rfl).trans ?_
    show ((Ty.ofCode (fld _ 1 4)).bind fun ty => (some (Instr.visub g .va (fld _ 21 6) (fld _ 15 6) (fld _ 9 6) (fld _ 5 4) ty))) = _
    simp (disch := decide) only [fld_pack, flag_pack, ext_lo, ext_top, ext_all, bit_eq, Option.bind_some, one_ne_zero1, if_true, if_false, Ty.ofCode_code]
  · rintro sl ⟨⟩ hw
    refine decodeSlot_encode .VB _ g 17#7 ((vd ++ (va ++ (vb ++ (q ++ (ty.code ++ 0#1)))))) _ rfl (by decide) (by decide) rfl ?_ hw
    refine (candidate_VB _ _ _ _ rfl rfl).trans ?_
    show ((Ty.ofCode (fld _ 1 4)).bind fun ty => (some (Instr.visub g .vb (fld _ 21 6) (fld _ 15 6) (fld _ 9 6) (fld _ 5 4) ty))) = _
    simp (disch := decide) only [fld_pack, flag_pack, ext_lo, ext_top, ext_all, bit_eq, Option.bind_some, one_ne_zero1, if_true, if_false, Ty.ofCode_code]
theorem vimul (g : Guard) (u : VSlot) (vd : BitVec 6) (va : BitVec 6) (vb : BitVec 6) (q : BitVec 4) (ty : Ty) : Statement (.vimul g u vd va vb q ty) := by
  refine ⟨?_, fun h => nomatch h⟩
  cases u
  · rintro sl ⟨⟩ hw
    refine decodeSlot_encode .VA _ g 18#7 ((vd ++ (va ++ (vb ++ (q ++ (ty.code ++ 0#1)))))) _ rfl (by decide) (by decide) rfl ?_ hw
    refine (candidate_VA _ _ _ _ rfl rfl).trans ?_
    show ((Ty.ofCode (fld _ 1 4)).bind fun ty => (some (Instr.vimul g .va (fld _ 21 6) (fld _ 15 6) (fld _ 9 6) (fld _ 5 4) ty))) = _
    simp (disch := decide) only [fld_pack, flag_pack, ext_lo, ext_top, ext_all, bit_eq, Option.bind_some, one_ne_zero1, if_true, if_false, Ty.ofCode_code]
  · rintro sl ⟨⟩ hw
    refine decodeSlot_encode .VB _ g 18#7 ((vd ++ (va ++ (vb ++ (q ++ (ty.code ++ 0#1)))))) _ rfl (by decide) (by decide) rfl ?_ hw
    refine (candidate_VB _ _ _ _ rfl rfl).trans ?_
    show ((Ty.ofCode (fld _ 1 4)).bind fun ty => (some (Instr.vimul g .vb (fld _ 21 6) (fld _ 15 6) (fld _ 9 6) (fld _ 5 4) ty))) = _
    simp (disch := decide) only [fld_pack, flag_pack, ext_lo, ext_top, ext_all, bit_eq, Option.bind_some, one_ne_zero1, if_true, if_false, Ty.ofCode_code]
theorem vimulh (g : Guard) (u : VSlot) (vd : BitVec 6) (va : BitVec 6) (vb : BitVec 6) (q : BitVec 4) (ty : Ty) : Statement (.vimulh g u vd va vb q ty) := by
  refine ⟨?_, fun h => nomatch h⟩
  cases u
  · rintro sl ⟨⟩ hw
    refine decodeSlot_encode .VA _ g 19#7 ((vd ++ (va ++ (vb ++ (q ++ (ty.code ++ 0#1)))))) _ rfl (by decide) (by decide) rfl ?_ hw
    refine (candidate_VA _ _ _ _ rfl rfl).trans ?_
    show ((Ty.ofCode (fld _ 1 4)).bind fun ty => (some (Instr.vimulh g .va (fld _ 21 6) (fld _ 15 6) (fld _ 9 6) (fld _ 5 4) ty))) = _
    simp (disch := decide) only [fld_pack, flag_pack, ext_lo, ext_top, ext_all, bit_eq, Option.bind_some, one_ne_zero1, if_true, if_false, Ty.ofCode_code]
  · rintro sl ⟨⟩ hw
    refine decodeSlot_encode .VB _ g 19#7 ((vd ++ (va ++ (vb ++ (q ++ (ty.code ++ 0#1)))))) _ rfl (by decide) (by decide) rfl ?_ hw
    refine (candidate_VB _ _ _ _ rfl rfl).trans ?_
    show ((Ty.ofCode (fld _ 1 4)).bind fun ty => (some (Instr.vimulh g .vb (fld _ 21 6) (fld _ 15 6) (fld _ 9 6) (fld _ 5 4) ty))) = _
    simp (disch := decide) only [fld_pack, flag_pack, ext_lo, ext_top, ext_all, bit_eq, Option.bind_some, one_ne_zero1, if_true, if_false, Ty.ofCode_code]
theorem viaddw (g : Guard) (u : VSlot) (vd : BitVec 6) (va : BitVec 6) (vb : BitVec 6) (q : BitVec 4) (ty : Ty) (hi : Bool) : Statement (.viaddw g u vd va vb q ty hi) := by
  refine ⟨?_, fun h => nomatch h⟩
  cases u
  · rintro sl ⟨⟩ hw
    refine decodeSlot_encode .VA _ g 20#7 ((vd ++ (va ++ (vb ++ (q ++ (ty.code ++ (bit hi))))))) _ rfl (by decide) (by decide) rfl ?_ hw
    refine (candidate_VA _ _ _ _ rfl rfl).trans ?_
    show ((Ty.ofCode (fld _ 1 4)).bind fun ty => (some (Instr.viaddw g .va (fld _ 21 6) (fld _ 15 6) (fld _ 9 6) (fld _ 5 4) ty (flag _ 0)))) = _
    simp (disch := decide) only [fld_pack, flag_pack, ext_lo, ext_top, ext_all, bit_eq, Option.bind_some, one_ne_zero1, if_true, if_false, Ty.ofCode_code]
  · rintro sl ⟨⟩ hw
    refine decodeSlot_encode .VB _ g 20#7 ((vd ++ (va ++ (vb ++ (q ++ (ty.code ++ (bit hi))))))) _ rfl (by decide) (by decide) rfl ?_ hw
    refine (candidate_VB _ _ _ _ rfl rfl).trans ?_
    show ((Ty.ofCode (fld _ 1 4)).bind fun ty => (some (Instr.viaddw g .vb (fld _ 21 6) (fld _ 15 6) (fld _ 9 6) (fld _ 5 4) ty (flag _ 0)))) = _
    simp (disch := decide) only [fld_pack, flag_pack, ext_lo, ext_top, ext_all, bit_eq, Option.bind_some, one_ne_zero1, if_true, if_false, Ty.ofCode_code]
theorem vishl (g : Guard) (u : VSlot) (vd : BitVec 6) (va : BitVec 6) (vb : BitVec 6) (q : BitVec 4) (ty : Ty) : Statement (.vishl g u vd va vb q ty) := by
  refine ⟨?_, fun h => nomatch h⟩
  cases u
  · rintro sl ⟨⟩ hw
    refine decodeSlot_encode .VA _ g 21#7 ((vd ++ (va ++ (vb ++ (q ++ (ty.code ++ 0#1)))))) _ rfl (by decide) (by decide) rfl ?_ hw
    refine (candidate_VA _ _ _ _ rfl rfl).trans ?_
    show ((Ty.ofCode (fld _ 1 4)).bind fun ty => (some (Instr.vishl g .va (fld _ 21 6) (fld _ 15 6) (fld _ 9 6) (fld _ 5 4) ty))) = _
    simp (disch := decide) only [fld_pack, flag_pack, ext_lo, ext_top, ext_all, bit_eq, Option.bind_some, one_ne_zero1, if_true, if_false, Ty.ofCode_code]
  · rintro sl ⟨⟩ hw
    refine decodeSlot_encode .VB _ g 21#7 ((vd ++ (va ++ (vb ++ (q ++ (ty.code ++ 0#1)))))) _ rfl (by decide) (by decide) rfl ?_ hw
    refine (candidate_VB _ _ _ _ rfl rfl).trans ?_
    show ((Ty.ofCode (fld _ 1 4)).bind fun ty => (some (Instr.vishl g .vb (fld _ 21 6) (fld _ 15 6) (fld _ 9 6) (fld _ 5 4) ty))) = _
    simp (disch := decide) only [fld_pack, flag_pack, ext_lo, ext_top, ext_all, bit_eq, Option.bind_some, one_ne_zero1, if_true, if_false, Ty.ofCode_code]
theorem vishr (g : Guard) (u : VSlot) (vd : BitVec 6) (va : BitVec 6) (vb : BitVec 6) (q : BitVec 4) (ty : Ty) : Statement (.vishr g u vd va vb q ty) := by
  refine ⟨?_, fun h => nomatch h⟩
  cases u
  · rintro sl ⟨⟩ hw
    refine decodeSlot_encode .VA _ g 22#7 ((vd ++ (va ++ (vb ++ (q ++ (ty.code ++ 0#1)))))) _ rfl (by decide) (by decide) rfl ?_ hw
    refine (candidate_VA _ _ _ _ rfl rfl).trans ?_
    show ((Ty.ofCode (fld _ 1 4)).bind fun ty => (some (Instr.vishr g .va (fld _ 21 6) (fld _ 15 6) (fld _ 9 6) (fld _ 5 4) ty))) = _
    simp (disch := decide) only [fld_pack, flag_pack, ext_lo, ext_top, ext_all, bit_eq, Option.bind_some, one_ne_zero1, if_true, if_false, Ty.ofCode_code]
  · rintro sl ⟨⟩ hw
    refine decodeSlot_encode .VB _ g 22#7 ((vd ++ (va ++ (vb ++ (q ++ (ty.code ++ 0#1)))))) _ rfl (by decide) (by decide) rfl ?_ hw
    refine (candidate_VB _ _ _ _ rfl rfl).trans ?_
    show ((Ty.ofCode (fld _ 1 4)).bind fun ty => (some (Instr.vishr g .vb (fld _ 21 6) (fld _ 15 6) (fld _ 9 6) (fld _ 5 4) ty))) = _
    simp (disch := decide) only [fld_pack, flag_pack, ext_lo, ext_top, ext_all, bit_eq, Option.bind_some, one_ne_zero1, if_true, if_false, Ty.ofCode_code]
theorem visra (g : Guard) (u : VSlot) (vd : BitVec 6) (va : BitVec 6) (vb : BitVec 6) (q : BitVec 4) (ty : Ty) : Statement (.visra g u vd va vb q ty) := by
  refine ⟨?_, fun h => nomatch h⟩
  cases u
  · rintro sl ⟨⟩ hw
    refine decodeSlot_encode .VA _ g 23#7 ((vd ++ (va ++ (vb ++ (q ++ (ty.code ++ 0#1)))))) _ rfl (by decide) (by decide) rfl ?_ hw
    refine (candidate_VA _ _ _ _ rfl rfl).trans ?_
    show ((Ty.ofCode (fld _ 1 4)).bind fun ty => (some (Instr.visra g .va (fld _ 21 6) (fld _ 15 6) (fld _ 9 6) (fld _ 5 4) ty))) = _
    simp (disch := decide) only [fld_pack, flag_pack, ext_lo, ext_top, ext_all, bit_eq, Option.bind_some, one_ne_zero1, if_true, if_false, Ty.ofCode_code]
  · rintro sl ⟨⟩ hw
    refine decodeSlot_encode .VB _ g 23#7 ((vd ++ (va ++ (vb ++ (q ++ (ty.code ++ 0#1)))))) _ rfl (by decide) (by decide) rfl ?_ hw
    refine (candidate_VB _ _ _ _ rfl rfl).trans ?_
    show ((Ty.ofCode (fld _ 1 4)).bind fun ty => (some (Instr.visra g .vb (fld _ 21 6) (fld _ 15 6) (fld _ 9 6) (fld _ 5 4) ty))) = _
    simp (disch := decide) only [fld_pack, flag_pack, ext_lo, ext_top, ext_all, bit_eq, Option.bind_some, one_ne_zero1, if_true, if_false, Ty.ofCode_code]
theorem vand (g : Guard) (u : VSlot) (vd : BitVec 6) (va : BitVec 6) (vb : BitVec 6) (q : BitVec 4) : Statement (.vand g u vd va vb q) := by
  refine ⟨?_, fun h => nomatch h⟩
  cases u
  · rintro sl ⟨⟩ hw
    refine decodeSlot_encode .VA _ g 24#7 ((vd ++ (va ++ (vb ++ (q ++ (10#4 ++ 0#1)))))) _ rfl (by decide) (by decide) rfl ?_ hw
    refine (candidate_VA _ _ _ _ rfl rfl).trans ?_
    show (some (Instr.vand g .va (fld _ 21 6) (fld _ 15 6) (fld _ 9 6) (fld _ 5 4))) = _
    simp (disch := decide) only [fld_pack, flag_pack, ext_lo, ext_top, ext_all, bit_eq, Option.bind_some, one_ne_zero1, if_true, if_false]
  · rintro sl ⟨⟩ hw
    refine decodeSlot_encode .VB _ g 24#7 ((vd ++ (va ++ (vb ++ (q ++ (10#4 ++ 0#1)))))) _ rfl (by decide) (by decide) rfl ?_ hw
    refine (candidate_VB _ _ _ _ rfl rfl).trans ?_
    show (some (Instr.vand g .vb (fld _ 21 6) (fld _ 15 6) (fld _ 9 6) (fld _ 5 4))) = _
    simp (disch := decide) only [fld_pack, flag_pack, ext_lo, ext_top, ext_all, bit_eq, Option.bind_some, one_ne_zero1, if_true, if_false]
theorem vor (g : Guard) (u : VSlot) (vd : BitVec 6) (va : BitVec 6) (vb : BitVec 6) (q : BitVec 4) : Statement (.vor g u vd va vb q) := by
  refine ⟨?_, fun h => nomatch h⟩
  cases u
  · rintro sl ⟨⟩ hw
    refine decodeSlot_encode .VA _ g 25#7 ((vd ++ (va ++ (vb ++ (q ++ (10#4 ++ 0#1)))))) _ rfl (by decide) (by decide) rfl ?_ hw
    refine (candidate_VA _ _ _ _ rfl rfl).trans ?_
    show (some (Instr.vor g .va (fld _ 21 6) (fld _ 15 6) (fld _ 9 6) (fld _ 5 4))) = _
    simp (disch := decide) only [fld_pack, flag_pack, ext_lo, ext_top, ext_all, bit_eq, Option.bind_some, one_ne_zero1, if_true, if_false]
  · rintro sl ⟨⟩ hw
    refine decodeSlot_encode .VB _ g 25#7 ((vd ++ (va ++ (vb ++ (q ++ (10#4 ++ 0#1)))))) _ rfl (by decide) (by decide) rfl ?_ hw
    refine (candidate_VB _ _ _ _ rfl rfl).trans ?_
    show (some (Instr.vor g .vb (fld _ 21 6) (fld _ 15 6) (fld _ 9 6) (fld _ 5 4))) = _
    simp (disch := decide) only [fld_pack, flag_pack, ext_lo, ext_top, ext_all, bit_eq, Option.bind_some, one_ne_zero1, if_true, if_false]
theorem vxor (g : Guard) (u : VSlot) (vd : BitVec 6) (va : BitVec 6) (vb : BitVec 6) (q : BitVec 4) : Statement (.vxor g u vd va vb q) := by
  refine ⟨?_, fun h => nomatch h⟩
  cases u
  · rintro sl ⟨⟩ hw
    refine decodeSlot_encode .VA _ g 26#7 ((vd ++ (va ++ (vb ++ (q ++ (10#4 ++ 0#1)))))) _ rfl (by decide) (by decide) rfl ?_ hw
    refine (candidate_VA _ _ _ _ rfl rfl).trans ?_
    show (some (Instr.vxor g .va (fld _ 21 6) (fld _ 15 6) (fld _ 9 6) (fld _ 5 4))) = _
    simp (disch := decide) only [fld_pack, flag_pack, ext_lo, ext_top, ext_all, bit_eq, Option.bind_some, one_ne_zero1, if_true, if_false]
  · rintro sl ⟨⟩ hw
    refine decodeSlot_encode .VB _ g 26#7 ((vd ++ (va ++ (vb ++ (q ++ (10#4 ++ 0#1)))))) _ rfl (by decide) (by decide) rfl ?_ hw
    refine (candidate_VB _ _ _ _ rfl rfl).trans ?_
    show (some (Instr.vxor g .vb (fld _ 21 6) (fld _ 15 6) (fld _ 9 6) (fld _ 5 4))) = _
    simp (disch := decide) only [fld_pack, flag_pack, ext_lo, ext_top, ext_all, bit_eq, Option.bind_some, one_ne_zero1, if_true, if_false]
theorem vnot (g : Guard) (u : VSlot) (vd : BitVec 6) (va : BitVec 6) (q : BitVec 4) : Statement (.vnot g u vd va q) := by
  refine ⟨?_, fun h => nomatch h⟩
  cases u
  · rintro sl ⟨⟩ hw
    refine decodeSlot_encode .VA _ g 27#7 ((vd ++ (va ++ (0#6 ++ (q ++ (10#4 ++ 0#1)))))) _ rfl (by decide) (by decide) rfl ?_ hw
    refine (candidate_VA _ _ _ _ rfl rfl).trans ?_
    show (some (Instr.vnot g .va (fld _ 21 6) (fld _ 15 6) (fld _ 5 4))) = _
    simp (disch := decide) only [fld_pack, flag_pack, ext_lo, ext_top, ext_all, bit_eq, Option.bind_some, one_ne_zero1, if_true, if_false]
  · rintro sl ⟨⟩ hw
    refine decodeSlot_encode .VB _ g 27#7 ((vd ++ (va ++ (0#6 ++ (q ++ (10#4 ++ 0#1)))))) _ rfl (by decide) (by decide) rfl ?_ hw
    refine (candidate_VB _ _ _ _ rfl rfl).trans ?_
    show (some (Instr.vnot g .vb (fld _ 21 6) (fld _ 15 6) (fld _ 5 4))) = _
    simp (disch := decide) only [fld_pack, flag_pack, ext_lo, ext_top, ext_all, bit_eq, Option.bind_some, one_ne_zero1, if_true, if_false]
theorem vimin (g : Guard) (u : VSlot) (vd : BitVec 6) (va : BitVec 6) (vb : BitVec 6) (q : BitVec 4) (ty : Ty) : Statement (.vimin g u vd va vb q ty) := by
  refine ⟨?_, fun h => nomatch h⟩
  cases u
  · rintro sl ⟨⟩ hw
    refine decodeSlot_encode .VA _ g 28#7 ((vd ++ (va ++ (vb ++ (q ++ (ty.code ++ 0#1)))))) _ rfl (by decide) (by decide) rfl ?_ hw
    refine (candidate_VA _ _ _ _ rfl rfl).trans ?_
    show ((Ty.ofCode (fld _ 1 4)).bind fun ty => (some (Instr.vimin g .va (fld _ 21 6) (fld _ 15 6) (fld _ 9 6) (fld _ 5 4) ty))) = _
    simp (disch := decide) only [fld_pack, flag_pack, ext_lo, ext_top, ext_all, bit_eq, Option.bind_some, one_ne_zero1, if_true, if_false, Ty.ofCode_code]
  · rintro sl ⟨⟩ hw
    refine decodeSlot_encode .VB _ g 28#7 ((vd ++ (va ++ (vb ++ (q ++ (ty.code ++ 0#1)))))) _ rfl (by decide) (by decide) rfl ?_ hw
    refine (candidate_VB _ _ _ _ rfl rfl).trans ?_
    show ((Ty.ofCode (fld _ 1 4)).bind fun ty => (some (Instr.vimin g .vb (fld _ 21 6) (fld _ 15 6) (fld _ 9 6) (fld _ 5 4) ty))) = _
    simp (disch := decide) only [fld_pack, flag_pack, ext_lo, ext_top, ext_all, bit_eq, Option.bind_some, one_ne_zero1, if_true, if_false, Ty.ofCode_code]
theorem vimax (g : Guard) (u : VSlot) (vd : BitVec 6) (va : BitVec 6) (vb : BitVec 6) (q : BitVec 4) (ty : Ty) : Statement (.vimax g u vd va vb q ty) := by
  refine ⟨?_, fun h => nomatch h⟩
  cases u
  · rintro sl ⟨⟩ hw
    refine decodeSlot_encode .VA _ g 29#7 ((vd ++ (va ++ (vb ++ (q ++ (ty.code ++ 0#1)))))) _ rfl (by decide) (by decide) rfl ?_ hw
    refine (candidate_VA _ _ _ _ rfl rfl).trans ?_
    show ((Ty.ofCode (fld _ 1 4)).bind fun ty => (some (Instr.vimax g .va (fld _ 21 6) (fld _ 15 6) (fld _ 9 6) (fld _ 5 4) ty))) = _
    simp (disch := decide) only [fld_pack, flag_pack, ext_lo, ext_top, ext_all, bit_eq, Option.bind_some, one_ne_zero1, if_true, if_false, Ty.ofCode_code]
  · rintro sl ⟨⟩ hw
    refine decodeSlot_encode .VB _ g 29#7 ((vd ++ (va ++ (vb ++ (q ++ (ty.code ++ 0#1)))))) _ rfl (by decide) (by decide) rfl ?_ hw
    refine (candidate_VB _ _ _ _ rfl rfl).trans ?_
    show ((Ty.ofCode (fld _ 1 4)).bind fun ty => (some (Instr.vimax g .vb (fld _ 21 6) (fld _ 15 6) (fld _ 9 6) (fld _ 5 4) ty))) = _
    simp (disch := decide) only [fld_pack, flag_pack, ext_lo, ext_top, ext_all, bit_eq, Option.bind_some, one_ne_zero1, if_true, if_false, Ty.ofCode_code]
theorem viabs (g : Guard) (u : VSlot) (vd : BitVec 6) (va : BitVec 6) (q : BitVec 4) (ty : Ty) (sat : Bool) : Statement (.viabs g u vd va q ty sat) := by
  refine ⟨?_, fun h => nomatch h⟩
  cases u
  · rintro sl ⟨⟩ hw
    refine decodeSlot_encode .VA _ g 30#7 ((vd ++ (va ++ (0#6 ++ (q ++ (ty.code ++ (bit sat))))))) _ rfl (by decide) (by decide) rfl ?_ hw
    refine (candidate_VA _ _ _ _ rfl rfl).trans ?_
    show ((Ty.ofCode (fld _ 1 4)).bind fun ty => (some (Instr.viabs g .va (fld _ 21 6) (fld _ 15 6) (fld _ 5 4) ty (flag _ 0)))) = _
    simp (disch := decide) only [fld_pack, flag_pack, ext_lo, ext_top, ext_all, bit_eq, Option.bind_some, one_ne_zero1, if_true, if_false, Ty.ofCode_code]
  · rintro sl ⟨⟩ hw
    refine decodeSlot_encode .VB _ g 30#7 ((vd ++ (va ++ (0#6 ++ (q ++ (ty.code ++ (bit sat))))))) _ rfl (by decide) (by decide) rfl ?_ hw
    refine (candidate_VB _ _ _ _ rfl rfl).trans ?_
    show ((Ty.ofCode (fld _ 1 4)).bind fun ty => (some (Instr.viabs g .vb (fld _ 21 6) (fld _ 15 6) (fld _ 5 4) ty (flag _ 0)))) = _
    simp (disch := decide) only [fld_pack, flag_pack, ext_lo, ext_top, ext_all, bit_eq, Option.bind_some, one_ne_zero1, if_true, if_false, Ty.ofCode_code]
theorem vicmp (g : Guard) (u : VSlot) (qd : BitVec 4) (c : Cond) (va : BitVec 6) (vb : BitVec 6) (q : BitVec 4) (ty : Ty) : Statement (.vicmp g u qd c va vb q ty) := by
  refine ⟨?_, fun h => nomatch h⟩
  cases u
  · rintro sl ⟨⟩ hw
    refine decodeSlot_encode .VA _ g 31#7 (((hi2 c.code) ++ (qd ++ (va ++ (vb ++ (q ++ (ty.code ++ (lo1 c.code)))))))) _ rfl (by decide) (by decide) rfl ?_ hw
    refine (candidate_VA _ _ _ _ rfl rfl).trans ?_
    show ((Cond.ofCode (fld _ 25 2 ++ fld _ 0 1)).bind fun c => (Ty.ofCode (fld _ 1 4)).bind fun ty => (some (Instr.vicmp g .va (fld _ 21 4) c (fld _ 15 6) (fld _ 9 6) (fld _ 5 4) ty))) = _
    simp (disch := decide) only [fld_pack, flag_pack, ext_lo, ext_top, ext_all, bit_eq, Option.bind_some, one_ne_zero1, if_true, if_false, Ty.ofCode_code, Cond.ofCode_split]
  · rintro sl ⟨⟩ hw
    refine decodeSlot_encode .VB _ g 31#7 (((hi2 c.code) ++ (qd ++ (va ++ (vb ++ (q ++ (ty.code ++ (lo1 c.code)))))))) _ rfl (by decide) (by decide) rfl ?_ hw
    refine (candidate_VB _ _ _ _ rfl rfl).trans ?_
    show ((Cond.ofCode (fld _ 25 2 ++ fld _ 0 1)).bind fun c => (Ty.ofCode (fld _ 1 4)).bind fun ty => (some (Instr.vicmp g .vb (fld _ 21 4) c (fld _ 15 6) (fld _ 9 6) (fld _ 5 4) ty))) = _
    simp (disch := decide) only [fld_pack, flag_pack, ext_lo, ext_top, ext_all, bit_eq, Option.bind_some, one_ne_zero1, if_true, if_false, Ty.ofCode_code, Cond.ofCode_split]
theorem vpopc (g : Guard) (u : VSlot) (vd : BitVec 6) (va : BitVec 6) (q : BitVec 4) (ty : Ty) : Statement (.vpopc g u vd va q ty) := by
  refine ⟨?_, fun h => nomatch h⟩
  cases u
  · rintro sl ⟨⟩ hw
    refine decodeSlot_encode .VA _ g 32#7 ((vd ++ (va ++ (0#6 ++ (q ++ (ty.code ++ 0#1)))))) _ rfl (by decide) (by decide) rfl ?_ hw
    refine (candidate_VA _ _ _ _ rfl rfl).trans ?_
    show ((Ty.ofCode (fld _ 1 4)).bind fun ty => (some (Instr.vpopc g .va (fld _ 21 6) (fld _ 15 6) (fld _ 5 4) ty))) = _
    simp (disch := decide) only [fld_pack, flag_pack, ext_lo, ext_top, ext_all, bit_eq, Option.bind_some, one_ne_zero1, if_true, if_false, Ty.ofCode_code]
  · rintro sl ⟨⟩ hw
    refine decodeSlot_encode .VB _ g 32#7 ((vd ++ (va ++ (0#6 ++ (q ++ (ty.code ++ 0#1)))))) _ rfl (by decide) (by decide) rfl ?_ hw
    refine (candidate_VB _ _ _ _ rfl rfl).trans ?_
    show ((Ty.ofCode (fld _ 1 4)).bind fun ty => (some (Instr.vpopc g .vb (fld _ 21 6) (fld _ 15 6) (fld _ 5 4) ty))) = _
    simp (disch := decide) only [fld_pack, flag_pack, ext_lo, ext_top, ext_all, bit_eq, Option.bind_some, one_ne_zero1, if_true, if_false, Ty.ofCode_code]
theorem vclz (g : Guard) (u : VSlot) (vd : BitVec 6) (va : BitVec 6) (q : BitVec 4) (ty : Ty) : Statement (.vclz g u vd va q ty) := by
  refine ⟨?_, fun h => nomatch h⟩
  cases u
  · rintro sl ⟨⟩ hw
    refine decodeSlot_encode .VA _ g 33#7 ((vd ++ (va ++ (0#6 ++ (q ++ (ty.code ++ 0#1)))))) _ rfl (by decide) (by decide) rfl ?_ hw
    refine (candidate_VA _ _ _ _ rfl rfl).trans ?_
    show ((Ty.ofCode (fld _ 1 4)).bind fun ty => (some (Instr.vclz g .va (fld _ 21 6) (fld _ 15 6) (fld _ 5 4) ty))) = _
    simp (disch := decide) only [fld_pack, flag_pack, ext_lo, ext_top, ext_all, bit_eq, Option.bind_some, one_ne_zero1, if_true, if_false, Ty.ofCode_code]
  · rintro sl ⟨⟩ hw
    refine decodeSlot_encode .VB _ g 33#7 ((vd ++ (va ++ (0#6 ++ (q ++ (ty.code ++ 0#1)))))) _ rfl (by decide) (by decide) rfl ?_ hw
    refine (candidate_VB _ _ _ _ rfl rfl).trans ?_
    show ((Ty.ofCode (fld _ 1 4)).bind fun ty => (some (Instr.vclz g .vb (fld _ 21 6) (fld _ 15 6) (fld _ 5 4) ty))) = _
    simp (disch := decide) only [fld_pack, flag_pack, ext_lo, ext_top, ext_all, bit_eq, Option.bind_some, one_ne_zero1, if_true, if_false, Ty.ofCode_code]
theorem viaddsat (g : Guard) (u : VSlot) (vd : BitVec 6) (va : BitVec 6) (vb : BitVec 6) (q : BitVec 4) (ty : Ty) (sub : Bool) : Statement (.viaddsat g u vd va vb q ty sub) := by
  refine ⟨?_, fun h => nomatch h⟩
  cases u
  · rintro sl ⟨⟩ hw
    refine decodeSlot_encode .VA _ g 34#7 ((vd ++ (va ++ (vb ++ (q ++ (ty.code ++ (bit sub))))))) _ rfl (by decide) (by decide) rfl ?_ hw
    refine (candidate_VA _ _ _ _ rfl rfl).trans ?_
    show ((Ty.ofCode (fld _ 1 4)).bind fun ty => (some (Instr.viaddsat g .va (fld _ 21 6) (fld _ 15 6) (fld _ 9 6) (fld _ 5 4) ty (flag _ 0)))) = _
    simp (disch := decide) only [fld_pack, flag_pack, ext_lo, ext_top, ext_all, bit_eq, Option.bind_some, one_ne_zero1, if_true, if_false, Ty.ofCode_code]
  · rintro sl ⟨⟩ hw
    refine decodeSlot_encode .VB _ g 34#7 ((vd ++ (va ++ (vb ++ (q ++ (ty.code ++ (bit sub))))))) _ rfl (by decide) (by decide) rfl ?_ hw
    refine (candidate_VB _ _ _ _ rfl rfl).trans ?_
    show ((Ty.ofCode (fld _ 1 4)).bind fun ty => (some (Instr.viaddsat g .vb (fld _ 21 6) (fld _ 15 6) (fld _ 9 6) (fld _ 5 4) ty (flag _ 0)))) = _
    simp (disch := decide) only [fld_pack, flag_pack, ext_lo, ext_top, ext_all, bit_eq, Option.bind_some, one_ne_zero1, if_true, if_false, Ty.ofCode_code]
theorem vsel (g : Guard) (u : VSlot) (vd : BitVec 6) (va : BitVec 6) (vb : BitVec 6) (q : BitVec 4) (qs : BitVec 4) : Statement (.vsel g u vd va vb q qs) := by
  refine ⟨?_, fun h => nomatch h⟩
  cases u
  · rintro sl ⟨⟩ hw
    refine decodeSlot_encode .VA _ g 35#7 ((vd ++ (va ++ (vb ++ (q ++ (qs ++ 0#1)))))) _ rfl (by decide) (by decide) rfl ?_ hw
    refine (candidate_VA _ _ _ _ rfl rfl).trans ?_
    show (some (Instr.vsel g .va (fld _ 21 6) (fld _ 15 6) (fld _ 9 6) (fld _ 5 4) (fld _ 1 4))) = _
    simp (disch := decide) only [fld_pack, flag_pack, ext_lo, ext_top, ext_all, bit_eq, Option.bind_some, one_ne_zero1, if_true, if_false]
  · rintro sl ⟨⟩ hw
    refine decodeSlot_encode .VB _ g 35#7 ((vd ++ (va ++ (vb ++ (q ++ (qs ++ 0#1)))))) _ rfl (by decide) (by decide) rfl ?_ hw
    refine (candidate_VB _ _ _ _ rfl rfl).trans ?_
    show (some (Instr.vsel g .vb (fld _ 21 6) (fld _ 15 6) (fld _ 9 6) (fld _ 5 4) (fld _ 1 4))) = _
    simp (disch := decide) only [fld_pack, flag_pack, ext_lo, ext_top, ext_all, bit_eq, Option.bind_some, one_ne_zero1, if_true, if_false]
theorem vmov (g : Guard) (u : VSlot) (vd : BitVec 6) (va : BitVec 6) (q : BitVec 4) : Statement (.vmov g u vd va q) := by
  refine ⟨?_, fun h => nomatch h⟩
  cases u
  · rintro sl ⟨⟩ hw
    refine decodeSlot_encode .VA _ g 36#7 ((vd ++ (va ++ (0#6 ++ (q ++ (10#4 ++ 0#1)))))) _ rfl (by decide) (by decide) rfl ?_ hw
    refine (candidate_VA _ _ _ _ rfl rfl).trans ?_
    show (some (Instr.vmov g .va (fld _ 21 6) (fld _ 15 6) (fld _ 5 4))) = _
    simp (disch := decide) only [fld_pack, flag_pack, ext_lo, ext_top, ext_all, bit_eq, Option.bind_some, one_ne_zero1, if_true, if_false]
  · rintro sl ⟨⟩ hw
    refine decodeSlot_encode .VB _ g 36#7 ((vd ++ (va ++ (0#6 ++ (q ++ (10#4 ++ 0#1)))))) _ rfl (by decide) (by decide) rfl ?_ hw
    refine (candidate_VB _ _ _ _ rfl rfl).trans ?_
    show (some (Instr.vmov g .vb (fld _ 21 6) (fld _ 15 6) (fld _ 5 4))) = _
    simp (disch := decide) only [fld_pack, flag_pack, ext_lo, ext_top, ext_all, bit_eq, Option.bind_some, one_ne_zero1, if_true, if_false]
theorem vmovi (g : Guard) (u : VSlot) (vd : BitVec 6) (q : BitVec 4) (imm : BitVec 10) (t : Bool) : Statement (.vmovi g u vd q imm t) := by
  refine ⟨?_, fun h => nomatch h⟩
  cases u
  · rintro sl ⟨⟩ hw
    refine decodeSlot_encode .VA _ g 37#7 ((vd ++ (0#6 ++ (imm ++ (q ++ (bit t)))))) _ rfl (by decide) (by decide) rfl ?_ hw
    refine (candidate_VA _ _ _ _ rfl rfl).trans ?_
    show (some (Instr.vmovi g .va (fld _ 21 6) (fld _ 1 4) (fld _ 5 10) (flag _ 0))) = _
    simp (disch := decide) only [fld_pack, flag_pack, ext_lo, ext_top, ext_all, bit_eq, Option.bind_some, one_ne_zero1, if_true, if_false]
  · rintro sl ⟨⟩ hw
    refine decodeSlot_encode .VB _ g 37#7 ((vd ++ (0#6 ++ (imm ++ (q ++ (bit t)))))) _ rfl (by decide) (by decide) rfl ?_ hw
    refine (candidate_VB _ _ _ _ rfl rfl).trans ?_
    show (some (Instr.vmovi g .vb (fld _ 21 6) (fld _ 1 4) (fld _ 5 10) (flag _ 0))) = _
    simp (disch := decide) only [fld_pack, flag_pack, ext_lo, ext_top, ext_all, bit_eq, Option.bind_some, one_ne_zero1, if_true, if_false]
theorem vbcast (g : Guard) (u : VSlot) (vd : BitVec 6) (sn : BitVec 6) (q : BitVec 4) (c : BitVec 2) : Statement (.vbcast g u vd sn q c) := by
  refine ⟨?_, fun h => nomatch h⟩
  cases u
  · rintro sl ⟨⟩ hw
    refine decodeSlot_encode .VA _ g 38#7 ((vd ++ (sn ++ (0#8 ++ (c ++ (q ++ 0#1)))))) _ rfl (by decide) (by decide) rfl ?_ hw
    refine (candidate_VA _ _ _ _ rfl rfl).trans ?_
    show (some (Instr.vbcast g .va (fld _ 21 6) (fld _ 15 6) (fld _ 1 4) (fld _ 5 2))) = _
    simp (disch := decide) only [fld_pack, flag_pack, ext_lo, ext_top, ext_all, bit_eq, Option.bind_some, one_ne_zero1, if_true, if_false]
  · rintro sl ⟨⟩ hw
    refine decodeSlot_encode .VB _ g 38#7 ((vd ++ (sn ++ (0#8 ++ (c ++ (q ++ 0#1)))))) _ rfl (by decide) (by decide) rfl ?_ hw
    refine (candidate_VB _ _ _ _ rfl rfl).trans ?_
    show (some (Instr.vbcast g .vb (fld _ 21 6) (fld _ 15 6) (fld _ 1 4) (fld _ 5 2))) = _
    simp (disch := decide) only [fld_pack, flag_pack, ext_lo, ext_top, ext_all, bit_eq, Option.bind_some, one_ne_zero1, if_true, if_false]
theorem vext (g : Guard) (u : VSlot) (sd : BitVec 6) (va : BitVec 6) (c : BitVec 2) (k : BitVec 8) (signed : Bool) : Statement (.vext g u sd va c k signed) := by
  refine ⟨?_, fun h => nomatch h⟩
  cases u
  · rintro sl ⟨⟩ hw
    refine decodeSlot_encode .VA _ g 39#7 ((sd ++ (va ++ (c ++ (k ++ (0#4 ++ (bit signed))))))) _ rfl (by decide) (by decide) rfl ?_ hw
    refine (candidate_VA _ _ _ _ rfl rfl).trans ?_
    show (some (Instr.vext g .va (fld _ 21 6) (fld _ 15 6) (fld _ 13 2) (fld _ 5 8) (flag _ 0))) = _
    simp (disch := decide) only [fld_pack, flag_pack, ext_lo, ext_top, ext_all, bit_eq, Option.bind_some, one_ne_zero1, if_true, if_false]
  · rintro sl ⟨⟩ hw
    refine decodeSlot_encode .VB _ g 39#7 ((sd ++ (va ++ (c ++ (k ++ (0#4 ++ (bit signed))))))) _ rfl (by decide) (by decide) rfl ?_ hw
    refine (candidate_VB _ _ _ _ rfl rfl).trans ?_
    show (some (Instr.vext g .vb (fld _ 21 6) (fld _ 15 6) (fld _ 13 2) (fld _ 5 8) (flag _ 0))) = _
    simp (disch := decide) only [fld_pack, flag_pack, ext_lo, ext_top, ext_all, bit_eq, Option.bind_some, one_ne_zero1, if_true, if_false]
theorem vins (g : Guard) (u : VSlot) (vd : BitVec 6) (sn : BitVec 6) (q : BitVec 4) (c : BitVec 2) (k : BitVec 8) : Statement (.vins g u vd sn q c k) := by
  refine ⟨?_, fun h => nomatch h⟩
  cases u
  · rintro sl ⟨⟩ hw
    refine decodeSlot_encode .VA _ g 40#7 ((vd ++ (sn ++ (c ++ (k ++ (q ++ 0#1)))))) _ rfl (by decide) (by decide) rfl ?_ hw
    refine (candidate_VA _ _ _ _ rfl rfl).trans ?_
    show (some (Instr.vins g .va (fld _ 21 6) (fld _ 15 6) (fld _ 1 4) (fld _ 13 2) (fld _ 5 8))) = _
    simp (disch := decide) only [fld_pack, flag_pack, ext_lo, ext_top, ext_all, bit_eq, Option.bind_some, one_ne_zero1, if_true, if_false]
  · rintro sl ⟨⟩ hw
    refine decodeSlot_encode .VB _ g 40#7 ((vd ++ (sn ++ (c ++ (k ++ (q ++ 0#1)))))) _ rfl (by decide) (by decide) rfl ?_ hw
    refine (candidate_VB _ _ _ _ rfl rfl).trans ?_
    show (some (Instr.vins g .vb (fld _ 21 6) (fld _ 15 6) (fld _ 1 4) (fld _ 13 2) (fld _ 5 8))) = _
    simp (disch := decide) only [fld_pack, flag_pack, ext_lo, ext_top, ext_all, bit_eq, Option.bind_some, one_ne_zero1, if_true, if_false]
theorem vlsh (g : Guard) (vd : BitVec 6) (va : BitVec 6) (sn : BitVec 6) (q : BitVec 4) (ty : Ty) (rot : Bool) : Statement (.vlsh g vd va sn q ty rot) := by
  refine ⟨?_, fun h => nomatch h⟩
  rintro sl ⟨⟩ hw
  refine decodeSlot_encode .VA _ g 41#7 ((vd ++ (va ++ (sn ++ (q ++ (ty.code ++ (bit rot))))))) _ rfl (by decide) (by decide) rfl ?_ hw
  refine (candidate_VA_only _ _ _ _ rfl rfl).trans ?_
  show ((Ty.ofCode (fld _ 1 4)).bind fun ty => (some (Instr.vlsh g (fld _ 21 6) (fld _ 15 6) (fld _ 9 6) (fld _ 5 4) ty (flag _ 0)))) = _
  simp (disch := decide) only [fld_pack, flag_pack, ext_lo, ext_top, ext_all, bit_eq, Option.bind_some, one_ne_zero1, if_true, if_false, Ty.ofCode_code]
theorem vperm (g : Guard) (vd : BitVec 6) (va : BitVec 6) (vb : BitVec 6) (q : BitVec 4) (ty : Ty) (z : Bool) : Statement (.vperm g vd va vb q ty z) := by
  refine ⟨?_, fun h => nomatch h⟩
  rintro sl ⟨⟩ hw
  refine decodeSlot_encode .VA _ g 42#7 ((vd ++ (va ++ (vb ++ (q ++ (ty.code ++ (bit z))))))) _ rfl (by decide) (by decide) rfl ?_ hw
  refine (candidate_VA_only _ _ _ _ rfl rfl).trans ?_
  show ((Ty.ofCode (fld _ 1 4)).bind fun ty => (some (Instr.vperm g (fld _ 21 6) (fld _ 15 6) (fld _ 9 6) (fld _ 5 4) ty (flag _ 0)))) = _
  simp (disch := decide) only [fld_pack, flag_pack, ext_lo, ext_top, ext_all, bit_eq, Option.bind_some, one_ne_zero1, if_true, if_false, Ty.ofCode_code]
theorem vrev (g : Guard) (vd : BitVec 6) (va : BitVec 6) (q : BitVec 4) (ty : Ty) : Statement (.vrev g vd va q ty) := by
  refine ⟨?_, fun h => nomatch h⟩
  rintro sl ⟨⟩ hw
  refine decodeSlot_encode .VA _ g 43#7 ((vd ++ (va ++ (0#6 ++ (q ++ (ty.code ++ 0#1)))))) _ rfl (by decide) (by decide) rfl ?_ hw
  refine (candidate_VA_only _ _ _ _ rfl rfl).trans ?_
  show ((Ty.ofCode (fld _ 1 4)).bind fun ty => (some (Instr.vrev g (fld _ 21 6) (fld _ 15 6) (fld _ 5 4) ty))) = _
  simp (disch := decide) only [fld_pack, flag_pack, ext_lo, ext_top, ext_all, bit_eq, Option.bind_some, one_ne_zero1, if_true, if_false, Ty.ofCode_code]
theorem vzip (g : Guard) (vd : BitVec 6) (va : BitVec 6) (vb : BitVec 6) (q : BitVec 4) (ty : Ty) (hi : Bool) : Statement (.vzip g vd va vb q ty hi) := by
  refine ⟨?_, fun h => nomatch h⟩
  rintro sl ⟨⟩ hw
  refine decodeSlot_encode .VA _ g 44#7 ((vd ++ (va ++ (vb ++ (q ++ (ty.code ++ (bit hi))))))) _ rfl (by decide) (by decide) rfl ?_ hw
  refine (candidate_VA_only _ _ _ _ rfl rfl).trans ?_
  show ((Ty.ofCode (fld _ 1 4)).bind fun ty => (some (Instr.vzip g (fld _ 21 6) (fld _ 15 6) (fld _ 9 6) (fld _ 5 4) ty (flag _ 0)))) = _
  simp (disch := decide) only [fld_pack, flag_pack, ext_lo, ext_top, ext_all, bit_eq, Option.bind_some, one_ne_zero1, if_true, if_false, Ty.ofCode_code]
theorem vunzip (g : Guard) (vd : BitVec 6) (va : BitVec 6) (vb : BitVec 6) (q : BitVec 4) (ty : Ty) (odd : Bool) : Statement (.vunzip g vd va vb q ty odd) := by
  refine ⟨?_, fun h => nomatch h⟩
  rintro sl ⟨⟩ hw
  refine decodeSlot_encode .VA _ g 45#7 ((vd ++ (va ++ (vb ++ (q ++ (ty.code ++ (bit odd))))))) _ rfl (by decide) (by decide) rfl ?_ hw
  refine (candidate_VA_only _ _ _ _ rfl rfl).trans ?_
  show ((Ty.ofCode (fld _ 1 4)).bind fun ty => (some (Instr.vunzip g (fld _ 21 6) (fld _ 15 6) (fld _ 9 6) (fld _ 5 4) ty (flag _ 0)))) = _
  simp (disch := decide) only [fld_pack, flag_pack, ext_lo, ext_top, ext_all, bit_eq, Option.bind_some, one_ne_zero1, if_true, if_false, Ty.ofCode_code]
theorem vscan (g : Guard) (vd : BitVec 6) (va : BitVec 6) (q : BitVec 4) (ty : Ty) (op : COp) (excl : Bool) : Statement (.vscan g vd va q ty op excl) := by
  refine ⟨?_, fun h => nomatch h⟩
  rintro sl ⟨⟩ hw
  refine decodeSlot_encode .VA _ g 46#7 ((vd ++ (va ++ (op.code ++ (q ++ (ty.code ++ (bit excl))))))) _ rfl (by decide) (by decide) rfl ?_ hw
  refine (candidate_VA_only _ _ _ _ rfl rfl).trans ?_
  show ((Ty.ofCode (fld _ 1 4)).bind fun ty => (COp.ofCode (fld _ 9 6)).bind fun op => (some (Instr.vscan g (fld _ 21 6) (fld _ 15 6) (fld _ 5 4) ty op (flag _ 0)))) = _
  simp (disch := decide) only [fld_pack, flag_pack, ext_lo, ext_top, ext_all, bit_eq, Option.bind_some, one_ne_zero1, if_true, if_false, Ty.ofCode_code, COp.ofCode_code]
theorem vred (g : Guard) (vd : BitVec 6) (va : BitVec 6) (q : BitVec 4) (ty : Ty) (op : COp) : Statement (.vred g vd va q ty op) := by
  refine ⟨?_, fun h => nomatch h⟩
  rintro sl ⟨⟩ hw
  refine decodeSlot_encode .VA _ g 47#7 ((vd ++ (va ++ (op.code ++ (q ++ (ty.code ++ 0#1)))))) _ rfl (by decide) (by decide) rfl ?_ hw
  refine (candidate_VA_only _ _ _ _ rfl rfl).trans ?_
  show ((Ty.ofCode (fld _ 1 4)).bind fun ty => (COp.ofCode (fld _ 9 6)).bind fun op => (some (Instr.vred g (fld _ 21 6) (fld _ 15 6) (fld _ 5 4) ty op))) = _
  simp (disch := decide) only [fld_pack, flag_pack, ext_lo, ext_top, ext_all, bit_eq, Option.bind_some, one_ne_zero1, if_true, if_false, Ty.ofCode_code, COp.ofCode_code]
theorem vqand (g : Guard) (u : VSlot) (qd : BitVec 4) (qa : BitVec 4) (qb : BitVec 4) : Statement (.vqand g u qd qa qb) := by
  refine ⟨?_, fun h => nomatch h⟩
  cases u
  · rintro sl ⟨⟩ hw
    refine decodeSlot_encode .VA _ g 48#7 ((0#2 ++ (qd ++ (0#2 ++ (qa ++ (0#2 ++ (qb ++ 0#9))))))) _ rfl (by decide) (by decide) rfl ?_ hw
    refine (candidate_VA _ _ _ _ rfl rfl).trans ?_
    show (some (Instr.vqand g .va (fld _ 21 4) (fld _ 15 4) (fld _ 9 4))) = _
    simp (disch := decide) only [fld_pack, flag_pack, ext_lo, ext_top, ext_all, bit_eq, Option.bind_some, one_ne_zero1, if_true, if_false]
  · rintro sl ⟨⟩ hw
    refine decodeSlot_encode .VB _ g 48#7 ((0#2 ++ (qd ++ (0#2 ++ (qa ++ (0#2 ++ (qb ++ 0#9))))))) _ rfl (by decide) (by decide) rfl ?_ hw
    refine (candidate_VB _ _ _ _ rfl rfl).trans ?_
    show (some (Instr.vqand g .vb (fld _ 21 4) (fld _ 15 4) (fld _ 9 4))) = _
    simp (disch := decide) only [fld_pack, flag_pack, ext_lo, ext_top, ext_all, bit_eq, Option.bind_some, one_ne_zero1, if_true, if_false]
theorem vqor (g : Guard) (u : VSlot) (qd : BitVec 4) (qa : BitVec 4) (qb : BitVec 4) : Statement (.vqor g u qd qa qb) := by
  refine ⟨?_, fun h => nomatch h⟩
  cases u
  · rintro sl ⟨⟩ hw
    refine decodeSlot_encode .VA _ g 49#7 ((0#2 ++ (qd ++ (0#2 ++ (qa ++ (0#2 ++ (qb ++ 0#9))))))) _ rfl (by decide) (by decide) rfl ?_ hw
    refine (candidate_VA _ _ _ _ rfl rfl).trans ?_
    show (some (Instr.vqor g .va (fld _ 21 4) (fld _ 15 4) (fld _ 9 4))) = _
    simp (disch := decide) only [fld_pack, flag_pack, ext_lo, ext_top, ext_all, bit_eq, Option.bind_some, one_ne_zero1, if_true, if_false]
  · rintro sl ⟨⟩ hw
    refine decodeSlot_encode .VB _ g 49#7 ((0#2 ++ (qd ++ (0#2 ++ (qa ++ (0#2 ++ (qb ++ 0#9))))))) _ rfl (by decide) (by decide) rfl ?_ hw
    refine (candidate_VB _ _ _ _ rfl rfl).trans ?_
    show (some (Instr.vqor g .vb (fld _ 21 4) (fld _ 15 4) (fld _ 9 4))) = _
    simp (disch := decide) only [fld_pack, flag_pack, ext_lo, ext_top, ext_all, bit_eq, Option.bind_some, one_ne_zero1, if_true, if_false]
theorem vqxor (g : Guard) (u : VSlot) (qd : BitVec 4) (qa : BitVec 4) (qb : BitVec 4) : Statement (.vqxor g u qd qa qb) := by
  refine ⟨?_, fun h => nomatch h⟩
  cases u
  · rintro sl ⟨⟩ hw
    refine decodeSlot_encode .VA _ g 50#7 ((0#2 ++ (qd ++ (0#2 ++ (qa ++ (0#2 ++ (qb ++ 0#9))))))) _ rfl (by decide) (by decide) rfl ?_ hw
    refine (candidate_VA _ _ _ _ rfl rfl).trans ?_
    show (some (Instr.vqxor g .va (fld _ 21 4) (fld _ 15 4) (fld _ 9 4))) = _
    simp (disch := decide) only [fld_pack, flag_pack, ext_lo, ext_top, ext_all, bit_eq, Option.bind_some, one_ne_zero1, if_true, if_false]
  · rintro sl ⟨⟩ hw
    refine decodeSlot_encode .VB _ g 50#7 ((0#2 ++ (qd ++ (0#2 ++ (qa ++ (0#2 ++ (qb ++ 0#9))))))) _ rfl (by decide) (by decide) rfl ?_ hw
    refine (candidate_VB _ _ _ _ rfl rfl).trans ?_
    show (some (Instr.vqxor g .vb (fld _ 21 4) (fld _ 15 4) (fld _ 9 4))) = _
    simp (disch := decide) only [fld_pack, flag_pack, ext_lo, ext_top, ext_all, bit_eq, Option.bind_some, one_ne_zero1, if_true, if_false]
theorem vqnot (g : Guard) (u : VSlot) (qd : BitVec 4) (qa : BitVec 4) : Statement (.vqnot g u qd qa) := by
  refine ⟨?_, fun h => nomatch h⟩
  cases u
  · rintro sl ⟨⟩ hw
    refine decodeSlot_encode .VA _ g 51#7 ((0#2 ++ (qd ++ (0#2 ++ (qa ++ 0#15))))) _ rfl (by decide) (by decide) rfl ?_ hw
    refine (candidate_VA _ _ _ _ rfl rfl).trans ?_
    show (some (Instr.vqnot g .va (fld _ 21 4) (fld _ 15 4))) = _
    simp (disch := decide) only [fld_pack, flag_pack, ext_lo, ext_top, ext_all, bit_eq, Option.bind_some, one_ne_zero1, if_true, if_false]
  · rintro sl ⟨⟩ hw
    refine decodeSlot_encode .VB _ g 51#7 ((0#2 ++ (qd ++ (0#2 ++ (qa ++ 0#15))))) _ rfl (by decide) (by decide) rfl ?_ hw
    refine (candidate_VB _ _ _ _ rfl rfl).trans ?_
    show (some (Instr.vqnot g .vb (fld _ 21 4) (fld _ 15 4))) = _
    simp (disch := decide) only [fld_pack, flag_pack, ext_lo, ext_top, ext_all, bit_eq, Option.bind_some, one_ne_zero1, if_true, if_false]
theorem vqcnt (g : Guard) (u : VSlot) (sd : BitVec 6) (qa : BitVec 4) : Statement (.vqcnt g u sd qa) := by
  refine ⟨?_, fun h => nomatch h⟩
  cases u
  · rintro sl ⟨⟩ hw
    refine decodeSlot_encode .VA _ g 52#7 ((sd ++ (0#2 ++ (qa ++ 0#15)))) _ rfl (by decide) (by decide) rfl ?_ hw
    refine (candidate_VA _ _ _ _ rfl rfl).trans ?_
    show (some (Instr.vqcnt g .va (fld _ 21 6) (fld _ 15 4))) = _
    simp (disch := decide) only [fld_pack, flag_pack, ext_lo, ext_top, ext_all, bit_eq, Option.bind_some, one_ne_zero1, if_true, if_false]
  · rintro sl ⟨⟩ hw
    refine decodeSlot_encode .VB _ g 52#7 ((sd ++ (0#2 ++ (qa ++ 0#15)))) _ rfl (by decide) (by decide) rfl ?_ hw
    refine (candidate_VB _ _ _ _ rfl rfl).trans ?_
    show (some (Instr.vqcnt g .vb (fld _ 21 6) (fld _ 15 4))) = _
    simp (disch := decide) only [fld_pack, flag_pack, ext_lo, ext_top, ext_all, bit_eq, Option.bind_some, one_ne_zero1, if_true, if_false]
theorem vrcp (g : Guard) (vd : BitVec 6) (va : BitVec 6) (q : BitVec 4) : Statement (.vrcp g vd va q) := by
  refine ⟨?_, fun h => nomatch h⟩
  rintro sl ⟨⟩ hw
  refine decodeSlot_encode .VB _ g 56#7 ((vd ++ (va ++ (0#6 ++ (q ++ 0#5))))) _ rfl (by decide) (by decide) rfl ?_ hw
  refine (candidate_VB_only _ _ _ _ rfl rfl).trans ?_
  show (some (Instr.vrcp g (fld _ 21 6) (fld _ 15 6) (fld _ 5 4))) = _
  simp (disch := decide) only [fld_pack, flag_pack, ext_lo, ext_top, ext_all, bit_eq, Option.bind_some, one_ne_zero1, if_true, if_false]
theorem vrsq (g : Guard) (vd : BitVec 6) (va : BitVec 6) (q : BitVec 4) : Statement (.vrsq g vd va q) := by
  refine ⟨?_, fun h => nomatch h⟩
  rintro sl ⟨⟩ hw
  refine decodeSlot_encode .VB _ g 57#7 ((vd ++ (va ++ (0#6 ++ (q ++ 0#5))))) _ rfl (by decide) (by decide) rfl ?_ hw
  refine (candidate_VB_only _ _ _ _ rfl rfl).trans ?_
  show (some (Instr.vrsq g (fld _ 21 6) (fld _ 15 6) (fld _ 5 4))) = _
  simp (disch := decide) only [fld_pack, flag_pack, ext_lo, ext_top, ext_all, bit_eq, Option.bind_some, one_ne_zero1, if_true, if_false]
theorem vsqrt (g : Guard) (vd : BitVec 6) (va : BitVec 6) (q : BitVec 4) : Statement (.vsqrt g vd va q) := by
  refine ⟨?_, fun h => nomatch h⟩
  rintro sl ⟨⟩ hw
  refine decodeSlot_encode .VB _ g 58#7 ((vd ++ (va ++ (0#6 ++ (q ++ 0#5))))) _ rfl (by decide) (by decide) rfl ?_ hw
  refine (candidate_VB_only _ _ _ _ rfl rfl).trans ?_
  show (some (Instr.vsqrt g (fld _ 21 6) (fld _ 15 6) (fld _ 5 4))) = _
  simp (disch := decide) only [fld_pack, flag_pack, ext_lo, ext_top, ext_all, bit_eq, Option.bind_some, one_ne_zero1, if_true, if_false]
theorem vdiv (g : Guard) (vd : BitVec 6) (va : BitVec 6) (vb : BitVec 6) (q : BitVec 4) : Statement (.vdiv g vd va vb q) := by
  refine ⟨?_, fun h => nomatch h⟩
  rintro sl ⟨⟩ hw
  refine decodeSlot_encode .VB _ g 59#7 ((vd ++ (va ++ (vb ++ (q ++ 0#5))))) _ rfl (by decide) (by decide) rfl ?_ hw
  refine (candidate_VB_only _ _ _ _ rfl rfl).trans ?_
  show (some (Instr.vdiv g (fld _ 21 6) (fld _ 15 6) (fld _ 9 6) (fld _ 5 4))) = _
  simp (disch := decide) only [fld_pack, flag_pack, ext_lo, ext_top, ext_all, bit_eq, Option.bind_some, one_ne_zero1, if_true, if_false]
theorem vexp2 (g : Guard) (vd : BitVec 6) (va : BitVec 6) (q : BitVec 4) : Statement (.vexp2 g vd va q) := by
  refine ⟨?_, fun h => nomatch h⟩
  rintro sl ⟨⟩ hw
  refine decodeSlot_encode .VB _ g 60#7 ((vd ++ (va ++ (0#6 ++ (q ++ 0#5))))) _ rfl (by decide) (by decide) rfl ?_ hw
  refine (candidate_VB_only _ _ _ _ rfl rfl).trans ?_
  show (some (Instr.vexp2 g (fld _ 21 6) (fld _ 15 6) (fld _ 5 4))) = _
  simp (disch := decide) only [fld_pack, flag_pack, ext_lo, ext_top, ext_all, bit_eq, Option.bind_some, one_ne_zero1, if_true, if_false]
theorem vlog2 (g : Guard) (vd : BitVec 6) (va : BitVec 6) (q : BitVec 4) : Statement (.vlog2 g vd va q) := by
  refine ⟨?_, fun h => nomatch h⟩
  rintro sl ⟨⟩ hw
  refine decodeSlot_encode .VB _ g 61#7 ((vd ++ (va ++ (0#6 ++ (q ++ 0#5))))) _ rfl (by decide) (by decide) rfl ?_ hw
  refine (candidate_VB_only _ _ _ _ rfl rfl).trans ?_
  show (some (Instr.vlog2 g (fld _ 21 6) (fld _ 15 6) (fld _ 5 4))) = _
  simp (disch := decide) only [fld_pack, flag_pack, ext_lo, ext_top, ext_all, bit_eq, Option.bind_some, one_ne_zero1, if_true, if_false]
theorem bringUp : Statement (.bringUp) :=
  ⟨fun _ h => (nomatch h), fun h => (nomatch h)⟩
theorem bankRefreshDone (tile : Nat) (bank : Nat) : Statement (.bankRefreshDone tile bank) :=
  ⟨fun _ h => (nomatch h), fun h => (nomatch h)⟩
theorem stopWindowEnd (tile : Nat) : Statement (.stopWindowEnd tile) :=
  ⟨fun _ h => (nomatch h), fun h => (nomatch h)⟩
theorem refreshDeadlineMiss (tile : Nat) (bank : Nat) : Statement (.refreshDeadlineMiss tile bank) :=
  ⟨fun _ h => (nomatch h), fun h => (nomatch h)⟩
theorem pauseRefb (tile : Nat) (bank : Nat) : Statement (.pauseRefb tile bank) :=
  ⟨fun _ h => (nomatch h), fun h => (nomatch h)⟩
theorem idleTileRefb (tile : Nat) (bank : Nat) : Statement (.idleTileRefb tile bank) :=
  ⟨fun _ h => (nomatch h), fun h => (nomatch h)⟩
theorem pauseResume (coach : Nat) : Statement (.pauseResume coach) :=
  ⟨fun _ h => (nomatch h), fun h => (nomatch h)⟩
theorem rdvTimeout (coach : Nat) : Statement (.rdvTimeout coach) :=
  ⟨fun _ h => (nomatch h), fun h => (nomatch h)⟩
theorem phaseSettle (coach : Nat) : Statement (.phaseSettle coach) :=
  ⟨fun _ h => (nomatch h), fun h => (nomatch h)⟩
theorem strikeReport (tile : Nat) (frame : Nat) (sensor : Nat) : Statement (.strikeReport tile frame sensor) :=
  ⟨fun _ h => (nomatch h), fun h => (nomatch h)⟩
theorem replayCloseDone (coach : Nat) : Statement (.replayCloseDone coach) :=
  ⟨fun _ h => (nomatch h), fun h => (nomatch h)⟩
theorem reloadDone (coach : Nat) : Statement (.reloadDone coach) :=
  ⟨fun _ h => (nomatch h), fun h => (nomatch h)⟩
theorem replayRestart (coach : Nat) : Statement (.replayRestart coach) :=
  ⟨fun _ h => (nomatch h), fun h => (nomatch h)⟩
theorem faultHoldExpiry (coach : Nat) : Statement (.faultHoldExpiry coach) :=
  ⟨fun _ h => (nomatch h), fun h => (nomatch h)⟩
theorem launchCompletion (coach : Nat) : Statement (.launchCompletion coach) :=
  ⟨fun _ h => (nomatch h), fun h => (nomatch h)⟩
theorem dispatchDecision (coach : Nat) : Statement (.dispatchDecision coach) :=
  ⟨fun _ h => (nomatch h), fun h => (nomatch h)⟩
theorem queueTailWrite (fn : Nat) (q : Nat) (tail : BitVec 32) : Statement (.queueTailWrite fn q tail) :=
  ⟨fun _ h => (nomatch h), fun h => (nomatch h)⟩
theorem queueEnable (fn : Nat) (q : Nat) : Statement (.queueEnable fn q) :=
  ⟨fun _ h => (nomatch h), fun h => (nomatch h)⟩
theorem queueDisable (fn : Nat) (q : Nat) : Statement (.queueDisable fn q) :=
  ⟨fun _ h => (nomatch h), fun h => (nomatch h)⟩
theorem registerWrite (fn : Nat) (off : Nat) (x : Word) : Statement (.registerWrite fn off x) :=
  ⟨fun _ h => (nomatch h), fun h => (nomatch h)⟩
theorem cplanWrite (fn : Nat) (coach : Nat) (x : Word) : Statement (.cplanWrite fn coach x) :=
  ⟨fun _ h => (nomatch h), fun h => (nomatch h)⟩
theorem hatboxKeepRequest (fn : Nat) (coach : Nat) : Statement (.hatboxKeepRequest fn coach) :=
  ⟨fun _ h => (nomatch h), fun h => (nomatch h)⟩
theorem hatboxHandoffRequest (fn : Nat) (coach : Nat) : Statement (.hatboxHandoffRequest fn coach) :=
  ⟨fun _ h => (nomatch h), fun h => (nomatch h)⟩
theorem hatboxRestore (fn : Nat) (coach : Nat) (rec : Word) : Statement (.hatboxRestore fn coach rec) :=
  ⟨fun _ h => (nomatch h), fun h => (nomatch h)⟩
theorem apertureRead (fn : Nat) (off : Nat) (len : Nat) : Statement (.apertureRead fn off len) :=
  ⟨fun _ h => (nomatch h), fun h => (nomatch h)⟩
theorem apertureWrite (fn : Nat) (off : Nat) (data : List Byte) : Statement (.apertureWrite fn off data) :=
  ⟨fun _ h => (nomatch h), fun h => (nomatch h)⟩
theorem farSessionProgram (fn : Nat) (row : Nat) (peer : BitVec 48) (proof : PeerProof) (ends : List (Nat × BitVec 48)) :
    Statement (.farSessionProgram fn row peer proof ends) :=
  ⟨fun _ h => (nomatch h), fun h => (nomatch h)⟩
theorem relayLoaderWork (coach : Nat) : Statement (.relayLoaderWork coach) :=
  ⟨fun _ h => (nomatch h), fun h => (nomatch h)⟩
theorem noVariantTimeout (coach : Nat) : Statement (.noVariantTimeout coach) :=
  ⟨fun _ h => (nomatch h), fun h => (nomatch h)⟩
theorem forecastPublish (pkgWords : List (Nat × Nat × Nat)) : Statement (.forecastPublish pkgWords) :=
  ⟨fun _ h => (nomatch h), fun h => (nomatch h)⟩
theorem thermalModelRun (temps : List (Nat × Nat)) : Statement (.thermalModelRun temps) :=
  ⟨fun _ h => (nomatch h), fun h => (nomatch h)⟩
theorem lifetimeCounterSave : Statement (.lifetimeCounterSave) :=
  ⟨fun _ h => (nomatch h), fun h => (nomatch h)⟩
theorem fieldRecordRequest (first : Nat) : Statement (.fieldRecordRequest first) :=
  ⟨fun _ h => (nomatch h), fun h => (nomatch h)⟩
theorem copyEngineColumn (coach : Nat) (tl : Nat) (num : Nat) (k : Nat) : Statement (.copyEngineColumn coach tl num k) :=
  ⟨fun _ h => (nomatch h), fun h => (nomatch h)⟩
theorem engineVaultCommand (tile : Nat) (cmd : EngineCmd) : Statement (.engineVaultCommand tile cmd) :=
  ⟨fun _ h => (nomatch h), fun h => (nomatch h)⟩
theorem acopyComplete (coach : Nat) (tl : Nat) (num : Nat) : Statement (.acopyComplete coach tl num) :=
  ⟨fun _ h => (nomatch h), fun h => (nomatch h)⟩
theorem farOpComplete (coach : Nat) (tl : Nat) (num : Nat) : Statement (.farOpComplete coach tl num) :=
  ⟨fun _ h => (nomatch h), fun h => (nomatch h)⟩
theorem farmMemberWaitExpiry (coach : Nat) (tl : Nat) (num : Nat) : Statement (.farmMemberWaitExpiry coach tl num) :=
  ⟨fun _ h => (nomatch h), fun h => (nomatch h)⟩
theorem farFrameReceive (f : FarFrame) : Statement (.farFrameReceive f) :=
  ⟨fun _ h => (nomatch h), fun h => (nomatch h)⟩
theorem tandemPushFlit (port : Nat) (f : Flit) : Statement (.tandemPushFlit port f) :=
  ⟨fun _ h => (nomatch h), fun h => (nomatch h)⟩
theorem flitInject (port : Nat) : Statement (.flitInject port) :=
  ⟨fun _ h => (nomatch h), fun h => (nomatch h)⟩
theorem idleFlit (port : Nat) (f : Flit) : Statement (.idleFlit port f) :=
  ⟨fun _ h => (nomatch h), fun h => (nomatch h)⟩
theorem epochSync (port : Nat) (count : Nat) : Statement (.epochSync port count) :=
  ⟨fun _ h => (nomatch h), fun h => (nomatch h)⟩
theorem startSync (port : Nat) (coach : Nat) (epoch : Nat) (variant : Nat) : Statement (.startSync port coach epoch variant) :=
  ⟨fun _ h => (nomatch h), fun h => (nomatch h)⟩
theorem conditionReport (coach : Nat) (r : Report) : Statement (.conditionReport coach r) :=
  ⟨fun _ h => (nomatch h), fun h => (nomatch h)⟩
theorem retrainFlit (port : Nat) (half : Bool) (good : Bool) : Statement (.retrainFlit port half good) :=
  ⟨fun _ h => (nomatch h), fun h => (nomatch h)⟩
theorem startWaitTimeout (coach : Nat) : Statement (.startWaitTimeout coach) :=
  ⟨fun _ h => (nomatch h), fun h => (nomatch h)⟩
theorem stopMessage (note : StopNote) : Statement (.stopMessage note) :=
  ⟨fun _ h => (nomatch h), fun h => (nomatch h)⟩
theorem healthTestFailure : Statement (.healthTestFailure) :=
  ⟨fun _ h => (nomatch h), fun h => (nomatch h)⟩

end Sys2Proof.Laws.RoundTrip
end

