-- ==== Sys2Proof/Laws/Queue.lean ====
section
/-! SUPPORT. What a slot operation does under its guard, and the writes it queues, in the form of the statements. -/
namespace Sys2Proof.Machine
open Sys2Proof.Claims

/-- A slot operation under a true guard does what it does; under a false guard nothing. -/
theorem slotOp_true {g : Guard} {s : State} (f : State → State) (h : s.guard g = true) : slotOp g s f = .next (f s) := by
  simp [slotOp, h]
theorem slotOp_false {g : Guard} {s : State} (f : State → State) (h : s.guard g = false) : slotOp g s f = .next s := by
  simp [slotOp, h]

@[simp] theorem queue_nil (s : State) : queue s [] = s := rfl
theorem queue_cons (s : State) (x : Nat × Nat × Write) (ws : List (Nat × Nat × Write)) :
    queue s (x :: ws) = queue (s.post x.2.1 x.1 x.2.2) ws := rfl
theorem queue_append (s : State) (a b : List (Nat × Nat × Write)) : queue s (a ++ b) = queue (queue s a) b := by
  simp [queue, List.foldl_append]
theorem post_eq_queue (s : State) (sc lat : Nat) (w : Write) : s.post sc lat w = queue s [(lat, sc, w)] := rfl
theorem postV_eq_queue (s : State) (sc lat : Nat) (d : BitVec 6) (m : Mask) (x : Vec) :
    s.postV sc lat d m x = queue s [(lat, sc, .v d.toNat m x)] := rfl
theorem postS_eq_queue (s : State) (sc lat : Nat) (d : BitVec 6) (x : Word) : s.postS sc lat d x = queue s (toS sc lat d x) := by
  unfold State.postS toS
  split <;> rfl
theorem postP_eq_queue (s : State) (d : Nat) (b : Bool) : s.postP 1 1 d b = queue s (toP d b) := by
  unfold State.postP toP
  split <;> rfl
theorem postQ_eq_queue (s : State) (sc lat : Nat) (d : BitVec 4) (m x : Mask) : s.postQ sc lat d m x = queue s (toQ sc lat d m x) := by
  unfold State.postQ toQ
  split <;> rfl
theorem postF_eq_queue (s : State) (sc lat : Nat) (f : Fl) : s.postF sc lat f = queue s (toF sc lat f) := by
  unfold State.postF toF
  split <;> rfl

/-! ## Queued writes change no register, coach or memory that a slot reads -/

@[simp] theorem queue_cur (s : State) (ws : List (Nat × Nat × Write)) : (queue s ws).cur = s.cur := by
  induction ws generalizing s with
  | nil => rfl
  | cons x r ih => rw [queue_cons, ih]; rfl
@[simp] theorem queue_coaches (s : State) (ws : List (Nat × Nat × Write)) : (queue s ws).coaches = s.coaches := by
  induction ws generalizing s with
  | nil => rfl
  | cons x r ih => rw [queue_cons, ih]; rfl
@[simp] theorem queue_pkg (s : State) (ws : List (Nat × Nat × Write)) : (queue s ws).pkg = s.pkg := by
  induction ws generalizing s with
  | nil => rfl
  | cons x r ih => rw [queue_cons, ih]; rfl
@[simp] theorem queue_frc (s : State) (ws : List (Nat × Nat × Write)) : (queue s ws).frc = s.frc := by
  simp [State.frc, State.cl, State.coach]
@[simp] theorem queue_ct_regs (s : State) (ws : List (Nat × Nat × Write)) : (queue s ws).ct.regs = s.ct.regs := by
  induction ws generalizing s with
  | nil => rfl
  | cons x r ih => rw [queue_cons, ih]; simp
@[simp] theorem queue_sv (s : State) (ws : List (Nat × Nat × Write)) (n : BitVec 6) : (queue s ws).sv n = s.sv n := by simp [State.sv]
@[simp] theorem queue_pv (s : State) (ws : List (Nat × Nat × Write)) (n : BitVec 5) : (queue s ws).pv n = s.pv n := by simp [State.pv]
@[simp] theorem queue_vv (s : State) (ws : List (Nat × Nat × Write)) (n : BitVec 6) : (queue s ws).vv n = s.vv n := by simp [State.vv]
@[simp] theorem queue_qv (s : State) (ws : List (Nat × Nat × Write)) (n : BitVec 4) : (queue s ws).qv n = s.qv n := by simp [State.qv]
@[simp] theorem queue_guard (s : State) (ws : List (Nat × Nat × Write)) (g : Guard) : (queue s ws).guard g = s.guard g := by
  simp [State.guard]

end Sys2Proof.Machine
end

