-- ==== Sys2Proof/Laws/Repairs.lean ====
section
/-! SUPPORT. The repairs, plans, placement and reload of tiles keep every memory in canonical form. -/
namespace Sys2Proof.Machine

/-! ## Placement and reload -/

theorem VaultSt.setColumns_wf (xs : List (Nat × Vec)) {v : VaultSt} (h : v.cells.wf = true) :
    (xs.foldl (fun v p => v.setColumn (unpackV p.1) p.2) v).cells.wf = true := by
  induction xs generalizing v with
  | nil => exact h
  | cons p r ih =>
    simp only [List.foldl_cons]
    exact ih (setColumn_wf _ _ h)
theorem Tile.memOk_place {t : Tile} {img : TileImg} (code : List CodeWord) (dict : List Bundle) (banks cls wall : Nat) (h : t.memOk)
    (hs : img.sp.wf = true) (hb : img.bt.wf = true) : (t.place img code dict banks cls wall).memOk := by
  unfold Tile.place
  dsimp only
  refine ⟨hs, ?_, ?_⟩
  · dsimp only
    refine VaultSt.setColumns_wf img.vault ?_
    exact VaultSt.finishMigration_wf h.2.1
  · dsimp only
    split
    · exact hb
    · exact h.2.2
theorem Tile.memOk_clearC {t : Tile} (b : Bool) (h : t.memOk) : (t.clearC b).memOk := ⟨Mem.filter_wf _ h.1, h.2.1, h.2.2⟩
theorem Tile.memOk_recode {t : Tile} (p : StoreErr → Bool) (h : t.memOk) : (t.recode p).memOk := h
theorem Reading.memOk_meet {x : Reading} (pb row prow : Nat) (e : StoreErr) (h : x.tile.memOk) : (x.meet pb row prow e).tile.memOk := by
  unfold Reading.meet
  dsimp only
  split <;> exact h
theorem Reading.memOk_read {x : Reading} (a : VAddr) (h : x.tile.memOk) : (x.read a).1.tile.memOk := by
  unfold Reading.read
  dsimp only
  split
  · exact h
  · exact memOk_meet _ _ _ _ h
/-- A fold of reads that each keep the form keeps it. -/
theorem Reading.memOk_foldl {α : Type} {f : Reading → α → Reading} (hf : ∀ (x : Reading) (a : α), x.tile.memOk → (f x a).tile.memOk)
    (l : List α) {x : Reading} (h : x.tile.memOk) : (l.foldl f x).tile.memOk := by
  induction l generalizing x with
  | nil => exact h
  | cons a r ih => exact ih (hf x a h)
theorem Reading.memOk_refillEntry {x : Reading} (b : Bool) (e : Word) (h : x.tile.memOk) : (x.refillEntry b e).tile.memOk := by
  unfold Reading.refillEntry
  dsimp only
  refine memOk_foldl (fun x i hx => ?_) _ h
  have hr := memOk_read { (refillOf e).1 with col := (refillOf e).1.col + i } hx
  split
  · rename_i y he
    rw [he] at hr
    exact hr
  · rename_i y v he
    rw [he] at hr
    refine ⟨?_, hr.2.1, hr.2.2⟩
    dsimp only
    exact Mem.putVec_wf 256 _ _ _ _ hr.1
theorem Tile.memOk_reload {t : Tile} {img : TileImg} (k wall : Nat) (h : t.memOk) (hs : img.sp.wf = true) :
    (t.reload img k wall).tile.memOk := by
  unfold Tile.reload
  extract_lets n words half t0 t1 t2 r
  have h1 : t1.memOk := ⟨h.1, h.2.1, BlkSt.undo_wf _ _ h.2.2⟩
  have h2 : t2.memOk := by
    clear_value t1
    unfold t2
    refine memOk_recode _ ?_
    split
    · exact ⟨hs, h1.2.1, h1.2.2⟩
    · exact memOk_clearC _ h1
  exact memOk_restore k wall (Reading.memOk_foldl (fun _ e hx => Reading.memOk_refillEntry _ e hx) _ h2)

theorem readRuns_wf (x : Bytes) (k : Nat) {m : Mem} (o stop : Nat) (h : m.wf = true) : (readRuns x o stop m k).wf = true := by
  induction k generalizing m o with
  | zero => exact h
  | succ k ih =>
    unfold readRuns
    split
    · exact h
    · exact ih _ (Mem.putL_wf _ _ h)

/-! ## Repairs (19 Table 19-3) -/

theorem State.memOk_setQueue {s : State} (q : Nat) (x : Queue) (h : s.memOk) : (s.setQueue q x).memOk := memOk_modPkg h fun _ hp => hp
theorem State.memOk_newConfig {s : State} (f : CfgImage → CfgImage) (h : s.memOk) : (s.newConfig f).memOk :=
  memOk_event _ _ _ _ _ (memOk_modPkg h fun _ hp => hp)
theorem State.memOk_failLayer {s : State} (stack layer : Nat) (h : s.memOk) : (s.failLayer stack layer).memOk := by
  unfold State.failLayer
  extract_lets ts mask s1
  have h1 : s1.memOk := by
    clear_value ts
    refine memOk_foldl (fun _ t hs => ?_) _ h
    exact memOk_event _ _ _ _ _ (memOk_modTile hs fun _ hy => hy)
  clear_value s1
  exact memOk_newConfig _ h1
theorem State.memOk_groupLost {s : State} (t pb : Nat) (h : s.memOk) : (s.groupLost t pb).1.memOk := by
  unfold State.groupLost
  extract_lets s1
  have h1 : s1.memOk := memOk_event _ _ _ _ _ h
  split
  · exact memOk_event _ _ _ _ _ (memOk_failLayer _ _ h1)
  · exact h1
theorem State.memOk_layerStops {s : State} (c stack : Nat) (h : s.memOk) : (s.layerStops c stack).memOk := by
  unfold State.layerStops
  refine memOk_foldl (fun s d hs => ?_) _ h
  extract_lets l r
  refine memOk_ite hs ?_
  split
  · exact hs
  · exact hs
  · exact hs
  · exact memOk_stopLaunch _ _ (memOk_announce _ _ hs)
  · exact memOk_modLaunch (memOk_announce _ _ hs) fun _ hk => hk
theorem State.memOk_layerFaults {s : State} (c : Nat) (rs : List Record) (h : s.memOk) : (s.layerFaults c rs).1.memOk := by
  unfold State.layerFaults
  generalize rs.filter _ = l
  suffices key : ∀ (l : List Record) (x : State × List Record), x.1.memOk → (l.foldl (fun x r =>
      let pb := r.d2.toNat
      let y := x.1.groupLost r.tile pb
      if y.2 then (y.1.layerStops c (stackOf r.tile), x.2 ++ [s.record c r.tile r.slot r.frame r.addr
        ⟨0x6, 0x08, 0x07, BitVec.ofNat 64 (pb / 8), BitVec.ofNat 64 (stackOf r.tile)⟩]) else (y.1, x.2)) x).1.memOk from key l _ h
  intro l
  induction l with
  | nil => exact fun x hx => hx
  | cons r rs ih =>
    intro x hx
    refine ih _ ?_
    have hy : (x.1.groupLost r.tile r.d2.toNat).1.memOk := memOk_groupLost _ _ hx
    dsimp only
    generalize x.1.groupLost r.tile r.d2.toNat = y at hy ⊢
    split
    · exact memOk_layerStops _ _ hy
    · exact hy
theorem State.memOk_takeAll {s : State} (c : Nat) (rs : List Record) (h : s.memOk) : (s.takeAll c rs).memOk :=
  memOk_takeFaults _ _ _ (memOk_layerFaults c rs h)
theorem State.memOk_groupsDown {s : State} (c t : Nat) (lost : List Nat) (h : s.memOk) : (s.groupsDown c t lost).memOk :=
  memOk_takeAll _ _ h
theorem State.memOk_took {s : State} (c t : Nat) {x : Reading} (h : s.memOk) (hx : x.tile.memOk) : (s.took c t x).memOk :=
  memOk_groupsDown _ _ _ (memOk_setTile h hx)
theorem VaultSt.addEntry_cells {v v' : VaultSt} {a b : Word} (h : v.addEntry a b = some v') : v'.cells = v.cells := by
  unfold VaultSt.addEntry at h
  split at h
  · exact absurd h (by simp)
  · obtain rfl := Option.some.inj h
    rfl
theorem VaultSt.translateRow_cells {v v' : VaultSt} {pb row : Nat} {off : Word} (h : v.translateRow pb row off = some v') :
    v'.cells = v.cells := by
  unfold VaultSt.translateRow at h
  dsimp only at h
  split at h
  · obtain rfl := Option.some.inj h
    rfl
  · exact addEntry_cells h
theorem Tile.memOk_rowReads {t : Tile} (pb row : Nat) (h : t.memOk) : (t.rowReads pb row).tile.memOk := by
  unfold Tile.rowReads
  split
  · exact Reading.memOk_foldl (fun _ _ hx => Reading.memOk_read _ hx) _ h
  · exact h
theorem State.memOk_spareRow {s : State} (c t : Nat) (p : Nat × Nat) (h : s.memOk) : (s.spareRow c t p).memOk := by
  unfold State.spareRow
  extract_lets x pr fail
  have hf : fail.memOk := memOk_log _ _ (memOk_modTile h fun _ hy => hy)
  clear_value fail
  split
  · exact hf
  · extract_lets off
    split
    · exact hf
    · rename_i v hv
      split at hv
      · have hr : (x.rowReads p.1 p.2).tile.memOk := Tile.memOk_rowReads _ _ (h.1 t)
        have hc : v.cells.wf = true := by
          rw [VaultSt.translateRow_cells hv]
          exact VaultSt.copyRow_wf _ _ _ (h.1 t).2.1
        change (x.rowReads p.1 p.2).tile.memOk at hr
        refine memOk_groupsDown _ _ _ (memOk_event _ _ _ _ _ (memOk_setTile h ?_))
        exact ⟨hr.1, hc, hr.2.2⟩
      · exact absurd hv (by simp)
theorem State.memOk_failTile {s : State} (t : Nat) (h : s.memOk) : (s.failTile t).memOk :=
  memOk_event _ _ _ _ _ (memOk_modTile h fun _ hy => hy)
theorem State.memOk_retireBanks {s : State} (t : Nat) (h : s.memOk) : (s.retireBanks t).memOk := by
  unfold State.retireBanks
  extract_lets x m v o s1 s2
  have h1 : s1.memOk := memOk_setTile h (h.1 t)
  have h2 : s2.memOk := memOk_foldl (fun _ b hs => memOk_event _ _ _ _ _ hs) _ h1
  clear_value s2
  exact memOk_ite h (memOk_ite (memOk_failTile t h2) h2)
theorem State.memOk_repairTile {s : State} (c t : Nat) (banks : Bool) (h : s.memOk) : (s.repairTile c t banks).memOk := by
  unfold State.repairTile
  extract_lets x s1 s2 s3 y
  have h1 : s1.memOk := memOk_foldl (fun _ p hs => memOk_spareRow c t p hs) _ h
  have h2 : s2.memOk := memOk_modTile h1 fun _ hy => hy
  have h3 : s3.memOk := memOk_ite (memOk_retireBanks t h2) h2
  clear_value s3
  exact memOk_ite h3 (memOk_newConfig _ h3)

/-! ## Migration (13 R290) -/

theorem VaultSt.startMigration_wf {v : VaultSt} (no : Nat) (ro : BitVec 32) (h : v.cells.wf = true) :
    (v.startMigration no ro).cells.wf = true := by
  unfold VaultSt.startMigration
  split
  · exact h
  · split
    · exact moveUp_wf _ _ _ _ h
    · exact h
theorem Tile.memOk_moveReads {t : Tile} (no : Nat) (ro : BitVec 32) (lo hi : Nat) (h : t.memOk) : (t.moveReads no ro lo hi).tile.memOk := by
  unfold Tile.moveReads
  extract_lets v met lane lost x y
  have hx : x.tile.memOk := Reading.memOk_foldl (fun _ _ hx => Reading.memOk_meet _ _ _ _ hx) _ h
  exact hx
theorem Tile.memOk_rekey {t : Tile} (no : Nat) (h : t.memOk) : (t.rekey no).memOk := by
  unfold Tile.rekey
  dsimp only
  split <;> exact h
theorem Tile.memOk_startMigration {t : Tile} (no : Nat) (ro : BitVec 32) (h : t.memOk) : (t.startMigration no ro).tile.memOk := by
  unfold Tile.startMigration Tile.beginMigration
  extract_lets x
  have hx : x.tile.memOk := by
    unfold x
    split
    · exact memOk_moveReads _ _ _ _ (memOk_rekey no h)
    · exact memOk_rekey no h
  exact ⟨hx.1, VaultSt.startMigration_wf _ _ hx.2.1, hx.2.2⟩
theorem Tile.memOk_migrateLine {t : Tile} (h : t.memOk) : t.migrateLine.tile.memOk := by
  unfold Tile.migrateLine
  extract_lets x
  have hx : x.tile.memOk := by
    unfold x
    split
    · exact memOk_moveReads _ _ _ _ h
    · exact h
  exact ⟨hx.1, VaultSt.migrateLine_wf hx.2.1, hx.2.2⟩
theorem Tile.memOk_finishMigration {t : Tile} (h : t.memOk) : t.finishMigration.tile.memOk := by
  unfold Tile.finishMigration
  extract_lets x
  have hx : x.tile.memOk := by
    unfold x
    split
    · exact memOk_moveReads _ _ _ _ h
    · exact h
  exact ⟨hx.1, VaultSt.finishMigration_wf hx.2.1, hx.2.2⟩
theorem State.memOk_repairIdle {s : State} (c t : Nat) (h : s.memOk) : (s.repairIdle c t).memOk := by
  unfold State.repairIdle
  extract_lets s1 v s2 s3
  have h1 : s1.memOk := memOk_took _ _ h (Tile.memOk_finishMigration (h.1 t))
  have h2 : s2.memOk := memOk_modTile (memOk_repairTile c t true h1) fun _ hy => hy
  have h3 : s3.memOk := memOk_took _ _ h2 (Tile.memOk_startMigration _ _ (h2.1 t))
  exact memOk_took _ _ h3 (Tile.memOk_finishMigration (h3.1 t))

/-! ## Plans and ports (13 R291, 19 Table 19-5) -/

theorem State.memOk_applyPlan {s : State} (c : Nat) (h : s.memOk) : (s.applyPlan c).memOk := by
  unfold State.applyPlan
  extract_lets k s1 s2
  have h1 : s1.memOk := memOk_modTiles (f := fun t => { t with own := { t.own with owner := none } }) (fun _ hy => hy) _ h
  have h2 : s2.memOk := memOk_modTiles (fun y hy => by
    split
    · exact ⟨hy.1, rfl, hy.2.2⟩
    · exact hy) _ h1
  exact memOk_newConfig _ (memOk_setCoach h2 (h.2.1 c))
theorem State.memOk_planIdle {s : State} (c : Nat) (h : s.memOk) : (s.planIdle c).memOk := memOk_ite (memOk_applyPlan c h) h
theorem State.memOk_wipe {s : State} (c : Nat) (h : s.memOk) : (s.wipe c).memOk :=
  memOk_modTiles (f := fun t => { t with vault := { t.vault with cells := [] } }) (fun _ hy => ⟨hy.1, rfl, hy.2.2⟩) _ h
theorem State.memOk_retrainHalf {s : State} (c : Nat) (h : s.memOk) : (s.retrainHalf c).memOk := by
  unfold State.retrainHalf
  refine memOk_foldl (fun s p hs => ?_) _ h
  have h1 := memOk_modPort p (fun q => { q with lateInRelay := 0 }) hs
  refine memOk_ite hs (memOk_ite h1 (memOk_foldl (fun s g hs => ?_) _ h1))
  exact memOk_ite (memOk_modPort g _ (memOk_sendCtl g _ hs)) hs

end Sys2Proof.Machine
end

