-- ==== Sys2Proof/Tests/Slice0.lean ====
section
/-! SUPPORT. Tests: ill-formed terms that the checks refuse, words written out from the encoding tables, the manual's worked
examples and sums done by hand as single steps, and for every statement with hypotheses a state that meets them. -/
namespace Sys2Proof.Tests
open Sys2Proof Sys2Proof.Machine Sys2Proof.Claims
set_option Elab.async false

/-! ## Well-formedness: one ill-formed term for each check -/

theorem test_wf_control :
    (Instr.prep g0 12#4 0#17).wf = false ∧ (Instr.jmp g0 15#4).wf = false ∧ (Instr.loop g0 0#2 (.imm 0#10) 0#14).wf = false ∧
    (Instr.lper g0 0#2 0#16).wf = false ∧ (Instr.ftload g0 4#6 0#16).wf = false ∧ (Instr.fclr g0 0#4).wf = false ∧
    (Instr.cmp g0 (.pair 0#4) .eq 1#6 2#6).wf = false ∧ (Instr.scmpi g0 (.steer 12#4) .lt 1#6 2#12).wf = false := by decide
theorem test_wf_operands :
    (Instr.ldgV g0 1#6 2#6 3#5 0#4 .s64).wf = false ∧ (Instr.mldb g0 .f32 0#1 0#3 4#6 0#4 false).wf = false ∧
    (Instr.mldb g0 .s8 0#1 0#3 4#6 0#4 true).wf = false ∧ (Instr.mmul g0 0#3 0#1 4#6 0#4 false .p2s8 false false false).wf = false ∧
    (Instr.mmul g0 0#3 0#1 4#6 0#4 false .bf16 true false false).wf = false ∧
    (Instr.mmul g0 0#3 0#1 4#6 0#4 false .s8 false true false).wf = false ∧
    (Instr.mmul g0 0#3 0#1 4#6 0#4 false .f16 false false true).wf = false ∧ (Instr.stop g0 4#6 0#16).wf = false := by decide
theorem test_wf_vector :
    (Instr.vadd g0 .va 1#6 2#6 3#6 0#4 .e4m3 false).wf = false ∧ (Instr.vtwosum g0 .va 63#6 2#6 3#6 0#4 .f32).wf = false ∧
    (Instr.viadd g0 .va 1#6 2#6 3#6 0#4 .f32).wf = false ∧ (Instr.viaddw g0 .va 1#6 2#6 3#6 0#4 .s64 false).wf = false ∧
    (Instr.viabs g0 .va 1#6 2#6 0#4 .n8 false).wf = false ∧ (Instr.vmovi g0 .va 1#6 0#4 256#10 true).wf = false ∧
    (Instr.vext g0 .va 1#6 2#6 3#2 32#8 false).wf = false ∧ (Instr.vins g0 .va 1#6 2#6 0#4 2#2 64#8).wf = false ∧
    (Instr.vscan g0 1#6 2#6 0#4 .s8 .amax false).wf = false ∧ (Instr.vred g0 1#6 2#6 0#4 .p2s8 .add).wf = false := by decide
theorem test_wf_events :
    (Instr.pauseRefb 384 0).wf = false ∧ (Instr.bankRefreshDone 0 32).wf = false ∧ (Instr.strikeReport 384 0 0).wf = false ∧
    (Instr.phaseSettle 16).wf = false ∧ (Instr.cplanWrite 130 0 0#64).wf = false ∧ (Instr.queueEnable 0 32768).wf = false ∧
    (Instr.registerWrite 130 0 0#64).wf = false ∧ (Instr.farSessionProgram 128 1024 0#48 ⟨[], true, true⟩ []).wf = false ∧
    (Instr.acopyComplete 0 8 1).wf = false ∧ (Instr.flitInject 16).wf = false := by decide

/-! ## Decoding: words from the manual's tables and listings, or laid out by hand from 05 Tables 5-4 to 5-8 -/

/-- What a slot word decodes to. -/
def dec (sl : Slot) (w : SlotWord) : Option Instr := (decodeSlot sl 0#2 w).toOption
def guardP (n : BitVec 5) : Guard := ⟨false, n⟩

/-- 05 Table 5-9, 15 R308 and R313, 06 Table 6-6 and its encodings. -/
theorem test_decode_scalar :
    dec .S 0x1008A30E00#40 = some (.add (guardP 4#5) 5#6 6#6 7#6) ∧ dec .S 0x00F8A28001#40 = some (.addi g0 5#6 5#6 1#15) ∧
    dec .S 0x00E8A00007#40 = some (.movi g0 5#6 7#21) ∧ dec .S 0x01230C0001#40 = some (.shri g0 24#6 24#6 1#6) := by decide
theorem test_decode_control :
    dec .C 0x0048000000#40 = some (.commit g0 0#8 0#4) ∧ dec .C 0x0048090000#40 = some (.commit g0 1#8 2#4) ∧
    dec .C 0x0030014005#40 = some (.loop g0 0#2 (.imm 5#10) 5#14) ∧
    dec .C 0x003505C002#40 = some (.loop g0 2#2 (.reg 23#6) 2#14) ∧
    dec .C 0x0071E02000#40 = some (.acopyIn g0 0#3 30#6 0#6 32#6) ∧ dec .C 0x0058088200#40 = some (.rdv g0 1#8 (.level 0#3 32#6)) := by decide
theorem test_decode_local :
    dec .L 0x0008690022#40 = some (.ldV g0 3#6 9#5 2#12 false 2#3) ∧ dec .L 0x0010760018#40 = some (.stV g0 3#6 22#5 1#12 true 0#3) ∧
    dec .L 0x00095A0018#40 = some (.ldV g0 10#6 26#5 1#12 true 0#3) ∧ dec .L 0x00581E8000#40 = some (.pushl g0 0#6 61#6) ∧
    dec .L 0x18514A8000#40 = some (.pushV (guardP 6#5) 10#6 21#6) := by decide
/-- 05 Table 5-9 and 07 Table 7-3. -/
theorem test_decode_vector :
    dec .VA 0x0008210800#40 = some (.vadd g0 .va 1#6 2#6 4#6 0#4 .f32 false) ∧
    dec .VA 0x00792204A6#40 = some (.vcvt g0 .va 9#6 4#6 5#4 .e4m3 .f32 .dith) ∧
    dec .VB 0x0021008460#40 = some (.vfma g0 .vb 8#6 1#6 2#6 3#4 .f32 false) ∧
    dec .VA 0x014D0C3000#40 = some (.vlsh g0 40#6 24#6 24#6 0#4 .f32 false) ∧
    dec .VA 0x005B0C5000#40 = some (.vtwosum g0 .va 24#6 24#6 40#6 0#4 .f32) := by decide
/-- 16 R321 (the store and the product in table mode, under ftl 1), 18's worked example (`rd v5, s4`), 21 R377 and 15 R313. -/
theorem test_decode_units :
    (decodeSlot .M 1#2 0x0028000200#40).toOption = some (.mstTableMode g0 0#3 0#6 1#2) ∧
    (decodeSlot .M 1#2 0x9810000200#40).toOption = some (.mmulTableMode ⟨true, 6#5⟩ 0#3 0#1 0#6 0#4 false 1#2) ∧
    dec .X 0x0012C00000#40 = some (.xout g0 22#6) ∧ dec .DR 0x0012170000#40 = some (.acti g0 8#5 23#6) ∧
    dec .DC 0x0008A20000#40 = some (.rd g0 5#6 4#6 false) ∧ dec .DC 0x00196BC000#40 = some (.wr g0 11#6 23#6 true) := by decide
/-- 05 Table 5-1 at the ends of its ranges. -/
theorem test_decode_words :
    (decodeWord 0x0FFF#16).toOption = some (.issue 0xFFF#12) ∧ (decodeWord 0x1000#16).toOption = none ∧
    (decodeWord 0xEFFF#16).toOption = none ∧ (decodeWord 0xF000#16).toOption = some (.idle 0#10) ∧
    (decodeWord 0xF3FF#16).toOption = some (.idle 0x3FF#10) ∧ (decodeWord 0xF400#16).toOption = some .escape ∧
    (decodeWord 0xF401#16).toOption = none ∧ (decodeWord 0xF800#16).toOption = some (.seg 0#10) ∧
    (decodeWord 0xFC00#16).toOption = some .endStream ∧ (decodeWord 0xFC01#16).toOption = none := by decide
/-- 05 R126: an unnamed bit, a reserved opcode, a vector operation in the wrong slot. -/
theorem test_decode_refused :
    dec .S 0x1008A30E01#40 = none ∧ dec .X 0x0028000000#40 = none ∧ dec .VB 0x014D0C3000#40 = none ∧ dec .C 0x0000000001#40 = none := by decide

/-! ## States -/

/-- A tile of coach 0; a launch on tile 0 at frame cycle 1,000, wall cycle 5,000, on coach 0; and s0 of it all. -/
def tile0 : Tile := { Tile.reset with own := { Own.reset with owner := some 0, enabled := true } }
def launch0 : Launch := { Launch.reset with mode := .running, tiles := [0], frc := 1000, lrec := { LaunchRec.reset with type := 1, count := 1, np := 1 } }
def build (f : Tile → Tile) (h : Launch → Launch) (k : Coach → Coach) (p : Pkg → Pkg) : State :=
  { State.reset with
    wall := 5000, todo := [], tiles := [(0, f tile0)]
    coaches := (Vector.replicate 16 Coach.reset).setIfInBounds 0 (k { Coach.reset with crect := 0x80000000#64, cplan := 0x80000000#64, launch := h launch0 })
    pkg := p { Pkg.reset with boot := 6 } }
def onT (f : Tile → Tile) : State := build f id id id
def onL (h : Launch → Launch) : State := build id h id id
def withTodo (s : State) (ts : List Task) : State := { s with todo := ts }
def setS (n : Nat) (x : Word) (t : Tile) : Tile := { t with regs := { t.regs with s := t.regs.s.setIfInBounds n x } }
def setV (n : Nat) (x : Vec) (t : Tile) : Tile := { t with regs := { t.regs with v := t.regs.v.setIfInBounds n x } }
def mapV (f : VaultSt → VaultSt) (t : Tile) : Tile := { t with vault := f t.vault }
def setBank (n : Nat) (b : Bank) : Tile → Tile := mapV fun v => { v with banks := v.banks.setIfInBounds n b }
/-- Bank n open at a row since frame cycle a. -/
def openAt (n row a : Nat) : Tile → Tile := setBank n { Bank.reset with st := .opened row, act := some a }

/-- What an instruction queues: latency, slot code and write. -/
def writes (i : Instr) (s : State) : List (Nat × Nat × Write) :=
  match exec i s with
  | .next s' => s'.ct.pend.map fun p => (p.at_ - s.frc, p.src.slot, p.w)
  | _ => []
/-- Class, code and details of the faults that an instruction meets. -/
def fails (i : Instr) (s : State) : List (Nat × Nat × Word × Word) :=
  match exec i s with
  | .next s' => s'.cur.faults.map fun r => (r.cls, r.code, r.d1, r.d2)
  | _ => []
/-- A question about the next state. -/
def after (i : Instr) (s : State) (f : State → Bool) : Bool :=
  match exec i s with
  | .next s' => f s'
  | _ => false
/-- A vector whose lane i of 32 bits is f i. -/
def lanes32 (f : Nat → Nat) : Vec := BitVec.ofNat 2048 (packN 32 f 64)
def laneOfWrite (i : Nat) : List (Nat × Nat × Write) → Nat
  | (_, _, .v _ _ x) :: _ => laneN x 32 i
  | _ => 0

/-! ## Scalars and the block table -/

theorem test_scalar_wrap : writes (.add g0 5#6 6#6 7#6) (onT (setS 6 3#64 ∘ setS 7 0xFFFFFFFFFFFFFFFF#64)) = [(1, 1, .s 5 2#64)] := by decide +kernel
theorem test_scalar_zero_discards : writes (.add g0 0#6 6#6 7#6) (onT (setS 6 3#64)) = [] := by decide +kernel
/-- 06 Table 6-1: a division by zero gives -1 and raises DZ. -/
theorem test_divide_by_zero : writes (.divs g0 5#6 6#6 7#6) (onT (setS 6 9#64)) =
    [(20, 1, .s 5 0xFFFFFFFFFFFFFFFF#64), (20, 1, .flags 1 2#6)] := by decide +kernel
theorem test_shift_by_64 : writes (.shl g0 5#6 6#6 7#6) (onT (setS 6 1#64 ∘ setS 7 64#64)) = [(1, 1, .s 5 0#64)] ∧
    writes (.sra g0 5#6 6#6 7#6) (onT (setS 6 0x8000000000000000#64 ∘ setS 7 64#64)) = [(1, 1, .s 5 0xFFFFFFFFFFFFFFFF#64)] := by decide +kernel
/-- 06 Table 6-6, iteration 3: s5 = 12 makes p2 true and p3 false. -/
theorem test_compare_pair : writes (.scmpi g0 (.pair 1#4) .ge 5#6 12#12) (onT (setS 5 12#64)) = [(1, 1, .p 2 true), (1, 1, .p 3 false)] := by decide +kernel
/-- 10, worked example: sequence 3, layer 2, block 5 names list index 0x185, which holds block 0x2005. -/
def blkTile (entry : Nat) (t : Tile) : Tile :=
  setS 18 0x0000000300020005#64 { t with blk := { t.blk with mem := Mem.putN (Mem.putN (Mem.putN [] 0x000C 4 0x82000A40) 0x930A 2 entry) (0x1000 + 2 * 0x2005) 2 1 } }
theorem test_block_lookup : writes (.blkx g0 19#6 18#6) (onT (blkTile 0x2005)) = [(6, 1, .s 19 0x0000200500200050#64)] := by decide +kernel

/-! ## Scratchpad, pushes, transposer -/

/-- 08 R197, 04 R97: a store to line 3 and its byte in storage under H = 1. -/
theorem test_store_scalar : after (.stS g0 5#6 6#5 0#12 false) (onT (setS 5 0x1122#64 ∘ setS 6 0x308#64)) (fun s =>
    (s.ct.pend.map fun p => (p.at_, match p.w with | .line l m x k => (l, m.toNat / 2 ^ 8, x.toNat / 2 ^ 64 % 2 ^ 64, k) | _ => (0, 0, 0, 0)))
      == [(1001, 3, 0xFF, 0x1122, 1)]) = true := by decide +kernel
/-- 18 Table 18-3 codes 0x01 and 0x02. -/
theorem test_address_faults : fails (.ldV g0 1#6 6#5 0#12 false 0#3) (onT (setS 6 0x200000#64)) = [(1, 1, 0x200000#64, 0xFF01#64)] ∧
    fails (.ldV g0 1#6 6#5 0#12 false 0#3) (onT (setS 6 0x1#64)) = [(1, 2, 1#64, 0xFF01#64)] := by decide +kernel
/-- 08 Table 8-4: from tile 27 to tile 317 a push is visible 41 cycles after issue. -/
theorem test_push_arrival : after (.pushV g0 12#6 6#6)
    { onT id with cur := { Cursor.reset with tile := 27 }, tiles := [(27, setS 6 0x00013D0000000100#64 tile0), (317, tile0)] }
    (fun s => ((s.coach 0).pushes.map fun p => (p.arrival, p.dst, p.addr)) == [(1041, 317, 0x100)]) = true := by decide +kernel
/-- 08, worked example: the 64th row at cycle 63 makes slot 0 ready at cycle 71. -/
def fullTx (n : Nat) (ready : Nat) : Tx := { Tx.reset with s0 := ⟨(List.range n).map fun i => lanes32 fun j => 0x100 * i + j, ready, 0⟩ }
theorem test_xin_fills : after (.xin g0 1#6) (build (fun t => { t with tx := fullTx 63 0 }) (fun l => { l with frc := 63 }) id id)
    (fun s => s.ct.tx.s0.ready == 71 && s.ct.tx.fill) = true := by decide +kernel
/-- 08, worked example: at cycle 76 column 5 is taken, visible at 78, lane 10 of it 0x0A05. -/
theorem test_xout_column : (fun ws : List (Nat × Nat × Write) => (ws.map fun x => (x.1, x.2.1), laneOfWrite 10 ws))
    (writes (.xout g0 25#6) (build (fun t => { t with tx := { fullTx 64 71 with s0 := { (fullTx 64 71).s0 with taken := 5 } } }) (fun l => { l with frc := 76 }) id id)) =
    ([(2, 7)], 0x0A05) := by decide +kernel

/-- 08 R192: the effective address is taken modulo 2^64; S = 2^64 - 256 with offset 1 is address 0. -/
theorem test_address_wraps : (writes (.ldS g0 5#6 6#5 1#12 false) (onT fun t => setS 6 0xFFFFFFFFFFFFFF00#64 { t with sp := Mem.putN [] 0 8 0x1122 })) =
    [(4, 6, .s 5 0x1122#64)] := by decide +kernel

/-! ## Vectors -/

/-- 07, worked example of `vtwosum`. -/
theorem test_twosum : writes (.vtwosum g0 .va 1#6 2#6 3#6 0#4 .f32) (onT (setV 2 0x3F800000#2048 ∘ setV 3 0x30800000#2048)) =
    [(4, 2, .v 1 (BitVec.allOnes 256) 0x3F800000#2048), (4, 2, .flags 2 16#6), (4, 2, .v 2 (BitVec.allOnes 256) 0x30800000#2048)] := by decide +kernel
/-- 07, worked example of `vred.f32.add`: 2^24 + 2. -/
theorem test_reduce : writes (.vred g0 6#6 2#6 0#4 .f32 .add)
    (onT (setV 2 (lanes32 fun i => if i = 0 then 0x4B800000 else if i = 1 ∨ i = 33 then 0x3F800000 else 0))) =
    [(8, 2, .v 6 (BitVec.allOnes 256) 0x4B800001#2048)] := by decide +kernel
/-- 03, worked example of EF: lanes 0 to 3 become 0x38, 0x39, 0x38, 0x39; DITH of row 0 rounds up lanes 1 and 3. -/
def efSource : Tile → Tile := setV 4 (lanes32 fun i => if i < 4 then 0x3F880000 else 0)
def convert (m : RMode) : Nat := match writes (.vcvt g0 .va 9#6 4#6 0#4 .e4m3 .f32 m) (onT efSource) with
  | (_, _, .v _ _ x) :: _ => x.toNat % 2 ^ 64
  | _ => 0
theorem test_convert : convert .rne = 0x38383838 ∧ convert .ef = 0x39383938 ∧ convert .dith = 0x39383938 := by decide +kernel
theorem test_integer_lane_wrap : laneOfWrite 0 (writes (.viadd g0 .vb 1#6 2#6 3#6 0#4 .s32) (onT (setV 2 0x7FFFFFFF#2048 ∘ setV 3 1#2048))) =
    0x80000000 := by decide +kernel
/-- 07 R170: a signalling NaN gives the canonical NaN and raises IV. -/
theorem test_nan : writes (.vadd g0 .va 1#6 2#6 3#6 0#4 .f32 false) (onT (setV 2 0x7F800001#2048)) =
    [(3, 2, .v 1 (BitVec.allOnes 256) 0x7FC00000#2048), (3, 2, .flags 2 1#6)] := by decide +kernel

/-! ## Matrix engine (09, worked example) -/

def demoSp : Mem := (Mem.put (Mem.put (Mem.put [] 0 0x38#8) 0x210 0x04#8) 0x400 0x38#8)
def demoBlock : ChunkSlot := ⟨.e4m3, 0x7F#8, 0x38 :: List.replicate 1023 0⟩
def demoTile (t : Tile) : Tile := { t with sp := demoSp, mtx := { t.mtx with bs := t.mtx.bs.setIfInBounds 0 (some demoBlock) } }
theorem test_mldb_block : (match writes (.mldb g0 .e4m3 0#1 0#3 4#6 0#4 false) (onT (setS 4 0x400#64 ∘ demoTile)) with
    | [(4, 4, .chunk 0 k)] => decide (k.blk = demoBlock.blk ∧ k.ty = .e4m3) | _ => false) = true := by decide +kernel
theorem test_mmul_occupancy :
    after (.mmul g0 0#3 0#1 0#6 0#4 false .e4m3 false false false) (onT demoTile) (fun s => s.ct.mtx.mmuls.map (fun o => (o.occ, o.lat)) == [(2, 14)]) = true ∧
    after (.mmul g0 0#3 0#1 0#6 0#4 true .e4m3 false false false) (onT demoTile) (fun s => s.ct.mtx.mmuls.map (fun o => (o.occ, o.lat)) == [(4, 16)]) = true := by decide +kernel

/-! ## Vault -/

/-- 18, worked example: `act b3, 40` at 10,000, `rd` of 0x6_0280 at 10,011 is refused with code 0x3/0x01. -/
theorem test_read_before_tRCD :
    fails (.rd g0 5#6 4#6 false) (build (openAt 3 40 10000 ∘ setS 4 0x60280#64) (fun l => { l with frc := 10011 }) id id) =
      [(3, 1, 0x0100000000060280#64, 0x271C#64)] ∧
    (writes (.rd g0 5#6 4#6 false) (build (openAt 3 40 10000 ∘ setS 4 0x60280#64) (fun l => { l with frc := 10012 }) id id)).map (fun x => (x.1, x.2.1)) =
      [(14, 9)] := by decide +kernel
/-- 04, worked example: entry e0 sends row 100 of bank 2 to physical row 8,250; row 101 stays. -/
theorem test_translation : let v : VaultSt := { VaultSt.reset with
      vttA := VaultSt.reset.vttA.setIfInBounds 0 0x800C806400000004#64, vttB := VaultSt.reset.vttB.setIfInBounds 0 0x1FD6#64 }
    v.prow 2 100 = 8250 ∧ v.prow 2 101 = 101 := by decide +kernel
theorem test_activate : after (.act g0 3#5 40#13) (onT id) (fun s => (s.ct.vault.bank 3).st == .opened 40 && (s.ct.vault.bank 3).act == some 1000) = true ∧
    fails (.act g0 3#5 41#13) (onT (setBank 3 { Bank.reset with act := some 961 })) = [(3, 4, 0x0110000000060290#64, 1001#64)] := by decide +kernel

/-! ## Control -/

/-- 06, worked example: the `lbrk` sets SB to 0 + 10 * 4 = 40. -/
def loopTile (t : Tile) : Tile := { t with
  regs := { t.regs with l := t.regs.l.setIfInBounds 0 ⟨true, 4#16, 3, 10, 0, 10, 3, 0⟩ }, seq := { t.seq with pc := 12 } }
theorem test_loop_break : after (.lbrk g0 0#2) (onT loopTile) (fun s => s.ct.seq.sb == 40 && s.ct.seq.pc == 13 && !(s.ct.regs.lAt 0).running) = true := by decide +kernel
/-- 13, worked example: stack 0's forecast word. -/
theorem test_forecast : after (.forecastPublish [(708, 760, 640)]) (build id id id fun p => { p with fcst := p.fcst.setIfInBounds 0 0x0122000000000000#64 })
    (fun s => s.pkg.fcst.getD 0 0#64 == 0x01232C42F8280002#64) = true := by decide +kernel
/-- 12, worked example: a range, and a 1 GiB leaf of the page walk. -/
def demoRanges (k : Coach) : Coach := { k with
  ranges := [(2, 0x7F0000000001#64, 0x7F003FFFF000#64, 0xFFFF814000000000#64)], root := 0x100001#64 }
theorem test_host_translation :
    ((demoRanges Coach.reset).translate [] 0x7F0012345600 false).toOption = some 0x004012345600 ∧
    ((demoRanges Coach.reset).translate (Mem.putN (Mem.putN [] 0x100000 8 0x200003) 0x200020 8 0x8000000083) 0x100002000 false).toOption =
      some 0x8000002000 := by decide +kernel
/-- 17, worked example: the strike of 24,100 cancels phase 4. -/
theorem test_strike_cancels : after (.strikeReport 0 24100 1) (onL fun l => { l with
      frc := 27001, phase := 5, phaseStart := 24500, unsettled := [⟨4, 20000, 24499, 4900, []⟩], spans := [(3, 0)] })
    (fun s => (s.coach 0).launch.mode == .closing && (s.coach 0).launch.pending == some 4) = true := by decide +kernel
/-- A launch comes up from reset: bring-up ends ready, with the clock at 0. -/
theorem test_bring_up : after .bringUp State.reset (fun s => s.pkg.boot == 6 && s.wall == 0) = true := by decide +kernel
/-- step fetches the word that withFetchWord places. -/
theorem test_fetch : (match step (State.reset.withFetchWord 16 0xF007) with | .next s => decide (s.ct.seq.sb = 8) | _ => false) = true := by decide +kernel
/-! ## Witnesses: states and operands that meet the hypotheses of the statements, clause by clause -/

/-- A false Bool gives nothing; a true one gives its content. -/
theorem ok_of {ε α : Type} {e : Except ε α} (f : α → Bool) (h : (match e with | .ok x => f x | .error _ => false) = true) :
    ∃ x, e = .ok x ∧ f x = true := by
  cases e with
  | ok x => exact ⟨x, rfl, h⟩
  | error _ => cases h
theorem elapsed_none (d f : Nat) : elapsed none d f := fun _ h => nomatch h
theorem elapsed_some {x d f : Nat} (h : x + d ≤ f) : elapsed (some x) d f := fun _ e => Option.some.inj e ▸ h
theorem elapsed_of {t : Option Nat} {d f : Nat} (h : (match t with | some x => decide (x + d ≤ f) | none => true) = true) : elapsed t d f := by
  cases t with
  | none => exact elapsed_none d f
  | some x => exact elapsed_some (of_decide_eq_true h)

theorem witness_SlotWordsRoundTrip : (Instr.wr g0 63#6 63#6 true).wf = true ∧ slotOf (.wr g0 63#6 63#6 true) = some .DC := by decide
theorem witness_CodeWordsBothWays : decodeWord 0x0FFF#16 = .ok (.issue 0xFFF#12) ∧ decodeWord 0xFC01#16 = .error .reservedCodeWord := ⟨rfl, rfl⟩
theorem witness_DecodedSlotsAreWhole : decodeSlot .DC 0#2 0x00196BC000#40 = .ok (.wr g0 11#6 23#6 true) := rfl
/-- The dispatch of an event, of a slot, of a slot word that is no instruction, and of the code word 0xF007 at address 0. -/
def streamTile (t : Tile) : Tile := { t with seq := { t.seq with code := [0xF007#16, 0xFC00#16], dict := [0#384], buf := 64 } }
theorem witness_StepRunsTheInstruction :
    (withTodo (onT id) [.ev .lifetimeCounterSave, .tick]).todo = [.ev .lifetimeCounterSave, .tick] ∧
    (withTodo (onT id) [.slot .S 0#2 0x00E8A00007#40]).ct.own.errs = [] ∧ decodeSlot .S 0#2 0x00E8A00007#40 = .ok (.movi g0 5#6 7#21) ∧
    decodeSlot .S 0#2 0x00E8A00008#40 = .ok (.movi g0 5#6 8#21) ∧ decodeSlot .X 0#2 0x0028000000#40 = .error .reservedOpcode := ⟨rfl, by decide +kernel, rfl, rfl, rfl⟩
/-- The code word of withFetchWord at frame cycle 0. -/
theorem witness_StepRunsTheWord : (State.reset.withFetchWord 16 0).todo = [.tile 0 0] ∧ bundleDue ((State.reset.withFetchWord 16 0).tile 0) 0 1 ∧
    decodeWord (((State.reset.withFetchWord 16 0).tile 0).seq.code.getD ((State.reset.withFetchWord 16 0).tile 0).seq.pc 0xFC00#16) = .ok (.issue 0#12) := by
  refine ⟨rfl, by unfold bundleDue; decide +kernel, rfl⟩
theorem witness_FalseGuardDoesNothing : slotOf (.mov ⟨false, 1#5⟩ 5#6 6#6) = some .S ∧ (onT id).guard (guardOf (encodeSlot (.mov ⟨false, 1#5⟩ 5#6 6#6))) = false := by decide +kernel
theorem witness_ScalarResults : (scalarWrites (onT id).sv (onT id).pv (.mov g0 0#6 6#6)).isSome = true ∧
    (scalarWrites (onT id).sv (onT id).pv (.rems g0 5#6 6#6 7#6)).isSome = true ∧ (onT id).guard g0 = true := by decide +kernel
theorem witness_CompareAndPredicateResults : (predicateWrites (onT id).sv (onT id).pv (.cmp g0 (.steer 11#4) .gt 6#6 7#6)).isSome = true ∧
    (predicateWrites (onT id).sv (onT id).pv (.pand g0 1#5 2#5 3#5 true false)).isSome = true ∧ (onT id).guard g0 = true := by decide +kernel
/-- A full slot; an empty one; a key whose layer is the first past the entry's. -/
theorem witness_BlockLookup : keyNames (onT (blkTile 0x2005)).ct.blk.mem 0x0000000300020005#64 0x185 ∧
    num2 (onT (blkTile 0x2005)).ct.blk.mem (slotAt 0x185) < 2 ^ 14 ∧ num2 (onT (blkTile 0xFFFF)).ct.blk.mem (slotAt 0x185) = 0xFFFF ∧
    keyNames (onT (blkTile 0xFFFF)).ct.blk.mem 0x0000000300020005#64 0x185 ∧
    ∀ x, ¬ keyNames (onT (blkTile 0x2005)).ct.blk.mem 0x0000000300050005#64 x := by
  refine ⟨by unfold keyNames; decide +kernel, by decide +kernel, by decide +kernel, by unfold keyNames; decide +kernel, fun x h => ?_⟩
  exact absurd h.2.1 (by decide +kernel)
theorem witness_BlockOperations : (onT (blkTile 0x2005)).ct.blk.mem.wf = true ∧ (onT (blkTile 0x2005)).ct.blk.ops < 1024 ∧ (onT (blkTile 0x2005)).ct.blk.head < 2 ^ 14 ∧
    (onT (blkTile 0xFFFF)).ct.blk.free = 0 ∧ 0 < (onT fun t => { blkTile 0xFFFF t with blk := { (blkTile 0xFFFF t).blk with free := 1 } }).ct.blk.free ∧
    num2 (onT (blkTile 0xFFFF)).ct.blk.mem (refAt 0) < 32767 ∧ num2 (onT (blkTile 0x2005)).ct.blk.mem (refAt 0x2005) = 1 ∧
    keyNames (onT (blkTile 0xFFFF)).ct.blk.mem ((onT (blkTile 0xFFFF)).sv 18#6) 0x185 := by
  refine ⟨by decide +kernel, by decide +kernel, by decide +kernel, by decide +kernel, by decide +kernel, by decide +kernel, by decide +kernel, by unfold keyNames; decide +kernel⟩
/-- The last access of each size below 2^21; the first beyond it; a misaligned one. -/
theorem witness_LoadsDeliverTheBytes : accessOk (lmAddr (onT (setS 6 0x1FFF00#64)) 6#5 0#12 false) 256 ∧ accessOk (lmAddr (onT (setS 6 0x1FFFFC#64)) 6#5 0#12 true) 4 ∧
    accessOk (lmAddr (onT (setS 6 0x1FFFF8#64)) 6#5 0#12 true) 8 ∧ accessOk (lmAddr (onT (setS 6 0x1FFFE0#64)) 6#5 0#12 false) 32 ∧
    accessOk (lmAddr (onT (setS 6 0x100#64)) 6#5 0xFFF#12 false) 256 ∧ accessOk (lmAddr (onT (setS 6 0xFFFFFFFFFFFFFF00#64)) 6#5 1#12 false) 256 := by
  unfold accessOk; decide +kernel
theorem witness_StoresWriteTheBytes : accessOk (lmAddr (onT (setS 6 0xFFFFFFFFFFFFFF00#64)) 6#5 1#12 false) 256 ∧ accessOk (lmAddr (onT (setS 6 0x1FFF00#64)) 6#5 0#12 true) 256 ∧ accessOk (lmAddr (onT (setS 6 0x1FFFF8#64)) 6#5 0#12 false) 8 ∧
    accessOk (lmAddr (onT (setS 6 0#64)) 6#5 0#12 true) 32 ∧ (onT id).guard g0 = true := by unfold accessOk; decide +kernel
theorem witness_BadAccessesAreRecorded : (lmShape (.ldV g0 1#6 6#5 0#12 false 0#3)).isSome = true ∧
    lmAddr (onT (setS 6 0x200000#64)) 6#5 0#12 false % 256 = 0 ∧ 2 ^ 21 < lmAddr (onT (setS 6 0x200000#64)) 6#5 0#12 false + 256 ∧
    2 ^ 21 < lmAddr (onT id) 6#5 0xFFF#12 false ∧ lmAddr (onT (setS 6 0x1FFEFF#64)) 6#5 0#12 false % 256 ≠ 0 ∧
    lmAddr (onT (setS 6 0x1FFEFF#64)) 6#5 0#12 false + 256 ≤ 2 ^ 21 := by decide +kernel
theorem witness_LineWriteChangesItsBytes : tile0.sp.wf = true := by decide
/-- The last four bytes of the scratchpad, for every lane. -/
theorem witness_GatherAndScatter : gatherOk 0x1FFFFC#64 ((onT id).vv 2#6) ((onT id).qv 0#4) 4 ∧ (onT id).guard g0 = true ∧ (onT id).ct.sp.wf = true := by
  refine ⟨fun i hi _ => ?_, by decide +kernel, by decide +kernel⟩
  exact (by decide +kernel : ∀ i, i < 64 → gatherAt 0x1FFFFC#64 ((onT id).vv 2#6) 4 i + 4 ≤ 2 ^ 21 ∧ gatherAt 0x1FFFFC#64 ((onT id).vv 2#6) 4 i % 4 = 0) i hi
def copyAt (c n : Nat) : LCopy := ⟨0, 0x1000, n, false, c, ⟨0, c, 6⟩⟩
theorem witness_LineCopy : ((onT (setS 6 0x100000#64)).sv 6#6).toNat % 256 = 0 ∧ ((onT (setS 6 0x100000#64)).sv 6#6).toNat + 256 * ((0xFFF#12).toNat + 1) ≤ 2 ^ 21 ∧
    (onT id).ct.lcopy = none ∧ (onT fun t => { t with lcopy := some (copyAt 998 3) }).ct.lcopy = some (copyAt 998 3) ∧ 1000 < 998 + 3 ∧
    (copyAt 998 3).src + 256 * (copyAt 998 3).n ≤ 2 ^ 21 ∧ (onT fun t => { t with lcopy := some (copyAt 998 3) }).ct.mtx.mldb = none := by decide +kernel
/-- A push to the tile itself, one through a port, and one in flight. -/
def portPkg (p : Pkg) : Pkg := { p with ports := p.ports.setIfInBounds 0 { Port.reset with rate := 2, peer := some (1, 4) } }
def domain (l : Launch) : Launch := { l with lrec := { l.lrec with type := 2, count := 2 } }
def push0 (crc : BitVec 32) : Push := ⟨7, 0, 0x1FFF00#64, 0, 0x1FFF00, 5#2048, crc, 1000, [], none, ⟨0, 0, 6⟩⟩
theorem add_one_ne (x : BitVec 32) : ¬ x = x + 1#32 := by bv_omega
theorem witness_PushesDeliverTheirLine : (onT id).pushFail 0x00000000000FFF00#64 = none ∧
    (build id domain (fun k => { k with crect := 0x9700F000#64 }) portPkg).pushFail 0x0100000000000100#64 = none ∧
    ((build id id (fun k => { k with pushes := [push0 0#32] }) id).pushCoach 7).isSome = true ∧ (push0 0#32).addr < 2 ^ 21 ∧
    (onT id).cur.tile < 384 ∧ ((onT id).sv 0#6).toNat % 256 = 0 := by decide +kernel
theorem witness_PushesDeliverTheirLine_crc : pushCrc ((onT id).pushData (push0 (pushCrc 5#2048 0x1FFF00#64))) 0x1FFF00#64 = (push0 (pushCrc 5#2048 0x1FFF00#64)).crc ∧
    ¬ pushCrc ((onT id).pushData (push0 (pushCrc 5#2048 0x1FFF00#64 + 1#32))) 0x1FFF00#64 = (push0 (pushCrc 5#2048 0x1FFF00#64 + 1#32)).crc := by
  have h (c : BitVec 32) : (onT id).pushData (push0 c) = 5#2048 := by show 5#2048 ^^^ 0#2048 = 5#2048; decide +kernel
  rw [h, h]
  exact ⟨rfl, add_one_ne _⟩
/-- 19 R353, R354: the published check value of CRC-32 over the digits 1 to 9 (notes/assumptions/28.md). -/
theorem test_crc32 : crc32 ((List.range 9).map fun k => BitVec.ofNat 8 (0x31 + k)) = 0xCBF43926#32 := by decide +kernel
theorem witness_VectorOperationsComplete : (vectorShape (.vtwosum g0 .vb 62#6 2#6 3#6 15#4 .bf16)).isSome = true ∧
    (vectorShape (.vqcnt g0 .va 0#6 1#4)).isSome = true ∧ (vectorShape (.vlog2 g0 1#6 2#6 0#4)).isSome = true ∧ (onT id).guard g0 = true := by decide +kernel
theorem witness_LaneResults : (laneResults (onT id) (.viaddsat g0 .va 1#6 2#6 3#6 0#4 .n64 true)).isSome = true ∧
    (Instr.viaddsat g0 .va 1#6 2#6 3#6 0#4 .n64 true).wf = true ∧ (laneResults (onT id) (.vunzip g0 1#6 2#6 3#6 0#4 .p2s8 true)).isSome = true ∧
    (Instr.vunzip g0 1#6 2#6 3#6 0#4 .p2s8 true).wf = true := by decide +kernel
theorem witness_LogicAndExchangeResults : (onT id).guard g0 = true ∧ Ty.isI .n8 = true ∧ Ty.isF .bf16 = true ∧ (255#8).toNat < 256 / 2 ^ (0#2).toNat ∧ (31#8).toNat < 256 / 2 ^ (3#2).toNat := by decide +kernel
theorem witness_NaNsAreCanonical : (floatOp (.vmin g0 .va 1#6 2#6 3#6 0#4 .f32 false)).isSome = true ∧ (Instr.vmin g0 .va 1#6 2#6 3#6 0#4 .f32 false).wf = true ∧
    isSigCode .f32 (laneN ((onT (setV 2 0x7F800001#2048)).vv 2#6) 32 0) ∧ ((onT id).qv 0#4).getLsbD 0 = true ∧
    floatOp (.vdiv g0 1#6 2#6 3#6 0#4) = some (g0, 3, 20, 1#6, 0#4, .f32, [2#6, 3#6]) := by
  refine ⟨by decide, by decide, by unfold isSigCode isNaNCode; decide +kernel, by decide +kernel, rfl⟩
/-- 2^-151 and log2 1 = 0 keep off the halfway points of the rounding. -/
theorem witness_NaNsAreCanonical_real : (match exactOf .f32 0xC3170000, exactOf .f32 0x3F800000 with
      | .num x, .num y => decide (x = -151 * 2 ^ 800 ∧ y = 2 ^ 800) | _, _ => false) = true ∧
    OffHalves (2 ^ 809 * (2 : ℝ) ^ ((((-151 * 2 ^ 800 : Int)) : ℝ) / 2 ^ 800)) ∧
    OffHalves (2 ^ 809 * |Real.logb 2 ((((2 ^ 800 : Int)) : ℝ) / 2 ^ 800)|) := by
  have ne (n : Nat) : (2 : ℝ) ^ n ≠ 0 := pow_ne_zero _ two_ne_zero
  have e : (2 : ℝ) ^ 809 * (2 : ℝ) ^ ((((-151 * 2 ^ 800 : Int)) : ℝ) / 2 ^ 800) = 2 ^ 658 := by
    rw [Int.cast_mul, Int.cast_pow, Int.cast_ofNat, mul_div_cancel_right₀ _ (ne 800), Real.rpow_intCast,
      show (-151 : Int) = -((151 : Nat) : Int) from rfl, zpow_neg, zpow_natCast, mul_inv_eq_iff_eq_mul₀ (ne 151), ← pow_add]
  have z : (2 : ℝ) ^ 809 * |Real.logb 2 ((((2 ^ 800 : Int)) : ℝ) / 2 ^ 800)| = 0 := by
    rw [Int.cast_pow, Int.cast_ofNat, div_self (ne 800), Real.logb_one, abs_zero, mul_zero]
  refine ⟨by decide +kernel, ?_, ?_⟩
  · rw [e]
    intro k
    have h1 : 1 ≤ codeVal .f32 (k + 1) := by
      unfold codeVal; split
      · omega
      · exact Nat.mul_pos (Nat.lt_of_lt_of_le (by decide) (Nat.le_add_right _ _)) (Nat.two_pow_pos _)
    have h2 : (2 : ℝ) ^ 658 + 2 ^ 658 ≤ ((256 * (codeVal .f32 k + codeVal .f32 (k + 1)) * 2 ^ 651 : Nat) : ℝ) := by
      rw [Nat.cast_mul, Nat.cast_mul, Nat.cast_pow, ← mul_two, ← pow_succ, show 658 + 1 = 8 + 651 from rfl, pow_add]
      refine mul_le_mul_of_nonneg_right ?_ (pow_nonneg zero_le_two _)
      have h3 : (1 : ℝ) ≤ ((codeVal .f32 k + codeVal .f32 (k + 1) : Nat) : ℝ) := Nat.one_le_cast.mpr (h1.trans (Nat.le_add_left _ _))
      norm_num at h3 ⊢; linarith
    exact (div_le_self (pow_nonneg zero_le_two _) (one_le_pow₀ one_le_two)).trans ((le_sub_iff_add_le.mpr h2).trans (le_abs_self _))
  · rw [z]; intro k; rw [zero_div]; exact abs_nonneg _
/-- 1 + 1 = 2 and 1 * 1 = 1 in every lane of FP32. -/
theorem witness_ExactResultsAreUnrounded : exactly .f32 false (laneN ((onT (setV 2 0x3F800000#2048)).vv 2#6) 32 0) 0x3F800000 0x40000000 ∧
    exactly .f32 true 0x3F800000 0x3F800000 0x3F800000 ∧ Ty.isF .f32 = true ∧ (Instr.vfnma g0 .va 1#6 2#6 3#6 0#4 .f16 true).wf = true ∧
    (arithOf (onT id) (.vfnma g0 .va 1#6 2#6 3#6 0#4 .f16 true)).isSome = true ∧ (Instr.vcvt g0 .va 1#6 2#6 0#4 .p2s8 .n64 .ef).wf = true := by
  unfold exactly; decide +kernel
theorem witness_IntegerLaneSums : (onT id).guard g0 = true ∧ Ty.isI .s64 = true ∧ (Instr.vred g0 1#6 2#6 0#4 .bf16 .amax).wf = true ∧
    (Instr.vscan g0 1#6 2#6 0#4 .n8 .max true).wf = true := by decide +kernel
def pending (ps : List Pend) : Tile := { tile0 with pend := ps }
theorem witness_WritesAreVisibleAtTheirCycle : idleUnits (pending [⟨1000, ⟨0, 999, 1⟩, .s 63 5#64⟩]) ∧
    (pending [⟨1000, ⟨0, 999, 1⟩, .s 63 5#64⟩]).pend = [⟨1000, ⟨0, 999, 1⟩, .s 63 5#64⟩] ∧
    idleUnits (pending [⟨1000, ⟨0, 999, 1⟩, .s 0 5#64⟩, ⟨1000, ⟨0, 998, 2⟩, .s 0 6#64⟩]) ∧
    (Write.s 0 5#64).unit = some (0, 0) ∧ (Write.s 0 6#64).unit = some (0, 0) ∧
    idleUnits (pending [⟨1000, ⟨0, 999, 1⟩, .q 15 1#256 1#256⟩]) := by unfold idleUnits; decide +kernel
/-- The last steer register, loop and chunk slot; every row of the format table. -/
theorem witness_WritesAreVisibleAtTheirCycle_control : idleUnits (pending [⟨1000, ⟨0, 999, 5⟩, .stCond 11 true⟩]) ∧
    idleUnits (pending [⟨1000, ⟨0, 999, 5⟩, .stTgt 11 0x1FFFF#17 1000⟩]) ∧ idleUnits (pending [⟨1000, ⟨0, 999, 5⟩, .lper 3 0xFFFF#16⟩]) ∧
    idleUnits (pending [⟨1000, ⟨0, 999, 5⟩, .ft 0xFFFF#16 (Vector.replicate 16 0x33000000#32)⟩]) ∧
    idleUnits (pending [⟨1000, ⟨0, 996, 4⟩, .chunk 15 demoBlock⟩]) := by unfold idleUnits; decide +kernel
theorem witness_AccumulatorOperations : extentOk (onT (setS 4 0x1FF000#64)) 4#6 4096 ∧ extentOk (onT (setS 4 0x1FFF00#64)) 4#6 256 ∧
    (onT id).guard g0 = true := by unfold extentOk; decide +kernel
def ftTile (row : W32) (t : Tile) : Tile := { t with ft := t.ft.setIfInBounds 0 row }
theorem reset_acc (k : Nat) : ((onT id).av 0#3).getD k 0#32 = 0#32 := by
  rw [show (onT id).av 0#3 = Vector.replicate 1024 0#32 from rfl]
  by_cases h : k < 1024 <;> simp [Vector.getD, h]
theorem witness_BlockStores : extentOk (onT (setS 4 0x1FF000#64)) 4#6 (1024 * (Ty.width .f32 / 8)) ∧
    (∀ k, k < 1024 → (valueOf .f32 (((onT id).av 0#3).getD k 0#32).toNat).isFin = true) ∧
    (match (onT (ftTile 0x33000000#32)).ct.ftUse 0#2 with | some r => decide (r.sfmt.width = 32 ∧ 0x1FF000 + 1024 * (r.sfmt.width / 8) ≤ 2 ^ 21) | none => false) = true := by
  refine ⟨by unfold extentOk; decide +kernel, fun k _ => ?_, by decide +kernel⟩
  rw [reset_acc]; decide +kernel
/-- A slot that holds a chunk; an `mmul` that uses the cells to 1001; an `mldb` at work. -/
def s8Op : MmulOp := ⟨988, 0, 0, 1, 2, false, 0, false, .s8, [.s8], true, false, false, 2, 14, [], none, false, ⟨0, 988, 4⟩⟩
def busyMmul (t : Tile) : Tile := { t with mtx := { t.mtx with mmuls := [{ s8Op with c := 999 }] } }
theorem witness_MatrixStarts : extentOk (onT (setS 4 0x1FC000#64)) 4#6 ((15 + 1) * (1024 * (Ty.width .s8 / 8)) + 0) ∧
    (Instr.mmul g0 0#3 0#1 4#6 15#4 false .e4m3 false false false).wf = true ∧ slotHolds (onT demoTile) 0#1 (directPair .e4m3 false).1 ∧ cellsFree (onT demoTile) ∧
    cellsBusyTo (onT busyMmul) 1001 ∧
    (onT id).ct.mtx.mldb = none ∧
    (onT fun t => { t with mtx := { t.mtx with mldb := some ⟨998, 0, 0, 3, .s8, false, false, ⟨0, 998, 4⟩⟩ } }).ct.mtx.mldb =
      some ⟨998, 0, 0, 3, .s8, false, false, ⟨0, 998, 4⟩⟩ ∧ 1000 < 998 + 3 := by
  exact ⟨by unfold extentOk; decide +kernel, by decide +kernel, ⟨demoBlock, by decide +kernel, by decide +kernel⟩, by unfold cellsFree; decide +kernel,
    by unfold cellsBusyTo; decide +kernel, by decide +kernel, by decide +kernel, by decide⟩
/-- Table mode: an e4m3 row that takes the chunk of the slot. -/
theorem witness_MatrixTableMode : (match (onT (ftTile 0x33000000#32 ∘ demoTile)).ct.ftUse 0#2 with
      | some r => decide (r.afmt = .e4m3 ∧ r.bfmt = .e4m3 ∧ r.scA = false) | none => false) = true ∧ extentOk (onT id) 0#6 (1 * (1024 * (Ty.width .e4m3 / 8)) + 0) ∧
    slotHolds (onT (ftTile 0x33000000#32 ∘ demoTile)) 0#1 [.e4m3] := by
  exact ⟨by decide +kernel, by unfold extentOk; decide +kernel, demoBlock, by decide +kernel, by decide +kernel⟩
theorem witness_MatrixProducts_int : s8Op.int = true ∧ s8Op.aty = .s8 ∧
    s8Chunk ⟨List.replicate 1024 255, 0x7F, ⟨.s8, 0x7F#8, List.replicate 1024 1⟩⟩ := by unfold s8Chunk; decide +kernel
/-- An e4m3 `mmul` of two chunks from cycle 988 on, with n of them read: the second is read at 990, the result lands at 1004. -/
def e4Chunk : Chunk := ⟨0x38 :: List.replicate 1023 0, 0x7F, demoBlock⟩
def e4Op (n : Nat) (acc : Option Acc) : MmulOp :=
  { s8Op with aty := .e4m3, accept := [.e4m3, .e5m2], int := false, n := 2, occ := 4, lat := 16, chunks := List.replicate n e4Chunk, acc0 := acc }
def e4Tile (o : MmulOp) : Tile := demoTile { tile0 with mtx := { tile0.mtx with mmuls := [o] } }
theorem witness_MatrixProducts : (e4Op 2 none).int = false ∧ floatChunk (e4Op 2 none) e4Chunk ∧
    floatChunk { e4Op 2 none with aty := .f16 } ⟨List.replicate 1024 0xFFFF, 0xFF, ⟨.f16, 0#8, List.replicate 1024 0x7C00⟩⟩ := by
  unfold floatChunk; decide +kernel
theorem witness_MatrixProducts_running : soleMmul (e4Tile (e4Op 1 none)) (e4Op 1 none) ∧ chunkDue (e4Op 1 none) 990 ∧
    990 < (e4Op 1 none).c + (e4Op 1 none).lat ∧ ¬ chunkDue (e4Op 2 none) 1000 ∧ demoBlock.ty ∈ (e4Op 1 none).accept ∧
    (e4Tile (e4Op 1 none)).mtx.bs.getD 1 none = none ∧ soleMmul (e4Tile (e4Op 2 (some Acc.reset))) (e4Op 2 (some Acc.reset)) ∧
    1004 = (e4Op 2 (some Acc.reset)).c + (e4Op 2 (some Acc.reset)).lat ∧ (e4Op 2 none).chunks.length = (e4Op 2 none).n ∧ (e4Op 2 none).ad < 8 := by
  refine ⟨⟨rfl, rfl, rfl, rfl, rfl, rfl, rfl⟩, by unfold chunkDue; decide, by decide, by unfold chunkDue; decide, by decide, rfl,
    ⟨rfl, rfl, rfl, rfl, rfl, rfl, rfl⟩, rfl, rfl, by decide⟩
/-- 63 rows, 64 rows before and after they are ready, the last column. -/
theorem witness_TransposerBuffers : (txSlot (fullTx 63 0) false).rows.length < txSize (fullTx 63 0) ∧ txSize (fullTx 64 71) ≤ (txSlot (fullTx 64 71) false).rows.length ∧
    (txSlot (fullTx 64 71) false).rows.length = txSize (fullTx 64 71) ∧ (txSlot (fullTx 64 71) false).ready ≤ 71 ∧ 70 < (txSlot (fullTx 64 71) false).ready ∧
    (txSlot { fullTx 64 71 with s0 := { (fullTx 64 71).s0 with taken := 63 } } false).taken < 64 := by decide +kernel

/-! ### Vault -/

theorem getD_of_lt {α : Type} {n : Nat} (v : Vector α n) (d : α) {i : Nat} (h : i < n) : v.getD i d = v[i] := by simp [Vector.getD, h]
theorem getD_of_ge {α : Type} {n : Nat} (v : Vector α n) (d : α) {i : Nat} (h : ¬ i < n) : v.getD i d = d := by simp [Vector.getD, h]
/-- With every bank of the tile closed and no command in its history, or one bank open. -/
theorem quiet_spaced {s : State} {b : Nat} (h : (s.ct.vault.banks.all fun k => k.act == none && k.refb == none) = true) : spaced s b := by
  have hk : ∀ k, (bankOf s k).act = none ∧ (bankOf s k).refb = none := fun k => by
    unfold bankOf
    by_cases hk : k < 32
    · have := (Vector.all_eq_true.mp h) k hk
      simp only [Bool.and_eq_true, beq_iff_eq] at this
      rw [getD_of_lt _ _ hk]
      exact this
    · rw [getD_of_ge _ _ hk]
      exact ⟨rfl, rfl⟩
  refine ⟨fun k _ _ => ?_, ?_⟩
  · rw [(hk k).1, (hk k).2]; exact ⟨elapsed_none _ _, elapsed_none _ _⟩
  · rw [List.filter_eq_nil_iff.mpr fun k _ => by rw [(hk k).1, (hk k).2]; simp]; decide
theorem witness_RowCommandsAdmitted_activate : mayActivate (onT id) 31 ∧ mayActivate (onT (setS 4 0x3C0000#64)) (vBank ((onT (setS 4 0x3C0000#64)).sv 4#6) + 1) := by
  refine ⟨⟨⟨by decide +kernel, by decide +kernel, elapsed_of (by decide +kernel), elapsed_of (by decide +kernel), quiet_spaced (by decide +kernel), by unfold noWindow; decide +kernel⟩,
    elapsed_of (by decide +kernel)⟩, ⟨by decide +kernel, by decide +kernel, elapsed_of (by decide +kernel), elapsed_of (by decide +kernel), quiet_spaced (by decide +kernel),
    by unfold noWindow; decide +kernel⟩, elapsed_of (by decide +kernel)⟩
/-- A bank open since 972, at the end of tRAS; one read since; no window; a closed one. -/
theorem witness_RowCommandsAdmitted_close : mayClose (onT (openAt 3 40 972)) 3 ∧ 3 < (onT (openAt 3 40 972)).ct.vault.n ∧
    (bankOf (onT (openAt 3 40 972)) 4).st = .closed ∧ noWindow (onT (openAt 3 40 972)) 4 := by
  refine ⟨⟨⟨40, by decide +kernel⟩, elapsed_of (by decide +kernel), elapsed_of (by decide +kernel), elapsed_of (by decide +kernel), by unfold noWindow; decide +kernel⟩,
    by decide +kernel, by decide +kernel, by unfold noWindow; decide +kernel⟩
/-- A window of one layer, with a bank of another one open. -/
theorem witness_RowCommandsAdmitted_stop : ((onT (setS 4 1#64 ∘ openAt 31 40 999)).sv 4#6).toNat ≠ 0 ∧ ((onT (setS 4 1#64 ∘ openAt 31 40 999)).sv 4#6).toNat < 2 ^ 32 ∧
    (onT (setS 4 1#64 ∘ openAt 31 40 999)).ct.vault.window = none ∧ (bankOf (onT (setS 4 1#64 ∘ openAt 31 40 999)) 31).st = .opened 40 ∧
    ∀ b, namedLayer (onT (setS 4 1#64 ∘ openAt 31 40 999)) (((onT (setS 4 1#64 ∘ openAt 31 40 999)).sv 4#6).truncate 32) b →
      (bankOf (onT (setS 4 1#64 ∘ openAt 31 40 999)) b).st = .closed ∧ elapsed (bankOf (onT (setS 4 1#64 ∘ openAt 31 40 999)) b).pre 12 1000 ∧
      elapsed (bankOf (onT (setS 4 1#64 ∘ openAt 31 40 999)) b).refb 96 1000 := by
  refine ⟨by decide +kernel, by decide +kernel, by decide +kernel, by decide +kernel, fun b ⟨hb, k, hk, hn⟩ => ?_⟩
  have h32 : b < 32 := Nat.lt_of_lt_of_le hb (by decide +kernel)
  have hk' : k = 0 := by
    have e : ((onT (setS 4 1#64 ∘ openAt 31 40 999)).sv 4#6).truncate 32 = 1#32 := by decide +kernel
    rw [e, BitVec.getLsbD_one] at hk
    simpa using hk
  subst hk'
  have h := (by decide +kernel : ∀ b, b < 32 → (onT (setS 4 1#64 ∘ openAt 31 40 999)).ct.vault.layer 0 = (onT (setS 4 1#64 ∘ openAt 31 40 999)).ct.vault.layer b →
    bankOf (onT (setS 4 1#64 ∘ openAt 31 40 999)) b = Bank.reset) b h32 hn.2
  rw [h]; exact ⟨rfl, elapsed_none _ _, elapsed_none _ _⟩
/-- tRC is over one cycle later; the bank is open; tRCD is over one cycle later. -/
theorem witness_EarlyCommandsAreRefused : (bankOf (onT (setBank 3 { Bank.reset with act := some 961 })) 3).act = some 961 ∧ 1000 < 961 + 40 ∧
    (bankOf (onT (openAt 3 40 960)) 3).st = .opened 40 ∧ elapsed (bankOf (onT (openAt 3 40 960)) 3).act 40 1000 ∧
    (bankOf (onT (openAt 3 40 989)) (vBank 0x60280#64)).act = some 989 ∧ 1000 < 989 + 12 ∧ vBank 0x60280#64 = 3 ∧ vRow 0x60290#64 ≠ 40 ∧
    (bankOf (onT id) (vBank 0x60280#64)).st = .closed ∧ grantedBank (onT id) 3 = false ∧ grantedBank (onT (mapV fun v => { v with window := some ⟨8#32, 999, 5, 0⟩ })) 3 = true ∧
    columnCmd (.wrs g0 5#6 4#6 true) = some (g0, 5#6, 4#6, true) ∧
    ∀ k, elapsed (bankOf (onT id) k).act 12 1000 ∧ elapsed (bankOf (onT id) k).rd 2 1000 ∧ elapsed (bankOf (onT id) k).wr 6 1000 := by
  refine ⟨by decide +kernel, by decide, by decide +kernel, elapsed_of (by decide +kernel), by decide +kernel, by decide, by decide, by decide, by decide +kernel,
    by decide +kernel, by decide +kernel, rfl, fun k => ?_⟩
  have h : bankOf (onT id) k = Bank.reset := by
    by_cases hk : k < 32
    · exact (by decide +kernel : ∀ k, k < 32 → bankOf (onT id) k = Bank.reset) k hk
    · unfold bankOf; exact getD_of_ge _ _ hk
  rw [h]; exact ⟨elapsed_none _ _, elapsed_none _ _, elapsed_none _ _⟩
/-- Bank 3 activated 12 cycles ago, and the output range of set 1 that admits every row. -/
def colTile (t : Tile) : Tile := openAt 3 40 988 (setS 4 0x6028F#64 (setS 5 0x1FFF00#64 { t with seq := { t.seq with os := 1, outs := [(1, [0xFFFFFFFF80001FFF#64])] } }))
theorem witness_ColumnCommandsMoveColumns : (onT colTile).ct.own.errs = [] ∧ vBank ((onT colTile).sv 4#6) = 3 ∧ vRow ((onT colTile).sv 4#6) = 40 ∧
    mayColumn (onT colTile) true 3 40 ∧ mayColumn (onT colTile) false 3 40 ∧ mayWrite (onT colTile) 3 40 ∧ (onT colTile).ct.vault.cells.wf = true ∧
    ((onT colTile).sv 5#6).toNat % 256 = 0 ∧ ((onT colTile).sv 5#6).toNat < 2 ^ 21 := by
  have hw : ∀ k, (bankOf (onT colTile) k).wr = none := fun k => by
    by_cases hk : k < 32
    · exact (by decide +kernel : ∀ k, k < 32 → (bankOf (onT colTile) k).wr = none) k hk
    · unfold bankOf; rw [getD_of_ge _ _ hk]; rfl
  have hm : ∀ r, mayColumn (onT colTile) r 3 40 := fun r => ⟨by decide +kernel, by decide +kernel, elapsed_of (by decide +kernel), elapsed_of (by decide +kernel),
    elapsed_of (by decide +kernel), by unfold noWindow; decide +kernel, fun _ k _ => by rw [hw k]; exact elapsed_none _ _⟩
  exact ⟨by decide +kernel, by decide +kernel, by decide +kernel, hm _, hm _, ⟨0xFFFFFFFF80001FFF#64, by decide +kernel, by decide, by decide, by decide, by decide⟩,
    by decide +kernel, by decide +kernel, by decide +kernel⟩

/-! ### Control -/

/-- No loop runs; a loop runs on the bundle and holds the target, or does not. -/
theorem none_inLoop {s : State} {P : Nat → Prop} (h : s.ct.inLoop = none) : ∀ i, s.ct.inLoop = some i → P i := fun i e => by rw [h] at e; cases e
theorem witness_SteeringGoesToItsTarget : steerAllowed (onT id) 11#4 ∧ (onT loopTile).ct.inLoop = some 0 ∧
    ((onT loopTile).ct.regs.l.getD 0 LoopSt.reset).holds (steerOf (onT loopTile) 0#4).target.toNat = false ∧
    itemAt (onT streamTile).ct.seq.code 0 1 = true ∧ itemAt (onT streamTile).ct.seq.code 0 2 = false ∧ ¬ (131072 : Nat) < 131072 :=
  ⟨none_inLoop (by decide +kernel), by decide +kernel, by decide +kernel, by decide +kernel, by decide +kernel, by decide⟩
def periodTile (t : Tile) : Tile := { t with regs := { t.regs with l := t.regs.l.setIfInBounds 3 { LoopSt.reset with period := 4#16 } } }
theorem witness_LoopsStartAndBreak : (loopOf (onT periodTile) 3#2).running = false ∧ (loopOf (onT periodTile) 3#2).period ≠ 0#16 ∧
    loopCount (onT (setS 5 0xFFFFFFFF#64 ∘ periodTile)) (.reg 5#6) < 2 ^ 32 ∧ loopCount (onT periodTile) (.reg 5#6) = 0 ∧
    bodyFits (onT periodTile) (bodyStart (onT periodTile) + 16383) ∧ (loopOf (onT loopTile) 0#2).running = true ∧ (loopOf (onT id) 0#2).period = 0#16 ∧
    (onT loopTile).ct.inLoop = some (0#2).toNat ∧ (onT loopTile).ct.inLoop ≠ some (1#2).toNat :=
  ⟨by decide +kernel, by decide +kernel, by decide +kernel, by decide +kernel, none_inLoop (by decide +kernel), by decide +kernel, by decide +kernel, by decide +kernel, by decide +kernel⟩
def committed (t : Tile) : Tile := { t with seq := { t.seq with lastCommit := some 999 } }
theorem witness_MeetingsAreAskedFor : (onT id).ct.lcopy = none ∧ (onT fun t => { t with lcopy := some (copyAt 999 3) }).ct.lcopy = some (copyAt 999 3) ∧ 1000 + 1 < 999 + 3 ∧
    (onT committed).ct.pend = [] ∧ ((onT committed).coach 0).pushes = [] ∧
    (∀ b, b < 32 → bankOf (onT committed) b = Bank.reset) ∧ (onT committed).ct.seq.lastCommit = some ((onT committed).frc - 1) ∧ 0 < (onT committed).frc ∧
    (onL fun l => { l with image := { l.image with variants := [⟨0#64, 0#256, [0], 1, [], [], []⟩] } }).cl.relayNo <
      (onL fun l => { l with image := { l.image with variants := [⟨0#64, 0#256, [0], 1, [], [], []⟩] } }).cl.nr ∧
    (onT committed).cl.nr ≤ (onT committed).cl.relayNo ∧ (onT id).ct.seq.lastCommit ≠ some ((onT id).frc - 1) := by decide +kernel
/-- The last column of a bank; a fresh trigger; a replayed one; the 32nd operation. -/
def op0 (n : Nat) : AsyncOp := ⟨0, n, 0, .copyIn, 0#64, 0, 1, 0#2048, some 0, [], [], 0, none⟩
theorem witness_TriggersTakeNumbers : copyOk (onT id) 0x100#64 0x3FFFFF#64 1#64 ∧ copyOk (onT id) 0#64 0#64 131072#64 ∧ ¬ replayedTrigger (onT id) 7#3 ∧
    replayedTrigger (onT fun t => { t with marks := t.marks.setIfInBounds 7 1 }) 7#3 ∧ mayTrigger (onT id) ∧
    ¬ mayTrigger (build id id (fun k => { k with ops := (List.range 32).map op0 }) id) ∧ (lineOfCoach (onT id) 7#3).done = [] ∧
    (lineOfCoach (onT id) 7#3).live = (lineOfCoach (onT id) 7#3).issued ∧ farShape (.farmBcast g0 7#3 5#6) = some (g0, 7#3, 5#6, .bcast, 0x10#64) ∧
    ((onT (setS 5 0x1FFF00#64)).sv 5#6).toNat % 256 = 0 ∧ ((onT (setS 5 0x1FFF00#64)).sv 5#6).toNat < 2 ^ 21 := by
  unfold copyOk replayedTrigger mayTrigger; decide +kernel
theorem witness_SystemRegistersAndFlags : ((onT (setS 4 0x1FFF00#64)).sv 4#6).toNat % 256 = 0 ∧ ((onT (setS 4 0x1FFF00#64)).sv 4#6).toNat < 2 ^ 21 ∧
    (∀ m, m < 16 → (1#16).getLsbD m = true → ftOk (BitVec.ofNat 32 (elemAt (onT (setS 4 0x1FFF00#64)).ct (0x1FFF00 + 4 * m) 4 4)) = true) ∧
    (onT id).guard g0 = true := by
  refine ⟨by decide +kernel, by decide +kernel, fun m hm _ => ?_, by decide +kernel⟩
  exact (by decide +kernel : ∀ m, m < 16 → ftOk (BitVec.ofNat 32 (elemAt (onT (setS 4 0x1FFF00#64)).ct (0x1FFF00 + 4 * m) 4 4)) = true) m hm
/-- Two flag events of one cycle, of one slot and of two. -/
theorem witness_SystemRegistersAndFlags_first : idleUnits (pending [⟨1000, ⟨0, 995, 2⟩, .flags 2 16#6⟩, ⟨1000, ⟨1, 997, 2⟩, .flags 2 1#6⟩]) ∧
    (pending []).flags.fer = none ∧ lowestFlag 1#6 0 ∧ lowestFlag 16#6 4 ∧ lowestFlag 0x18#6 3 := by unfold idleUnits lowestFlag; decide +kernel
/-- A tile at the end of the body of loops 0 and 1, loop 1 the inner one on its last iteration; and what its loop ends make of it:
loop 1 is left, loop 0 begins its next iteration. -/
def nestTile (t : Tile) : Tile := { t with
  regs := { t.regs with l := (t.regs.l.setIfInBounds 0 ⟨true, 8#16, 0, 3, 100, 10, 3, 0⟩).setIfInBounds 1 ⟨true, 4#16, 1, 2, 100, 11, 2, 0⟩ }, seq := { t.seq with pc := 12 } }
theorem ends_nest (i : Nat) (h : endsHere (pastWord (nestTile Tile.reset) 1) i) : i = 0 ∨ i = 1 := by
  have := (by unfold endsHere; decide +kernel : ∀ i, i < 4 → endsHere (pastWord (nestTile Tile.reset) 1) i → i = 0 ∨ i = 1) i h.1
  exact this h
theorem none_ends {t : Tile} (h : (t.regs.l.all fun l => !l.running || l.start + l.len != t.seq.pc) = true) : ∀ i, ¬ endsHere t i := fun i ⟨hi, hr, he⟩ => by
  have := (Vector.all_eq_true.mp h) i hi
  rw [getD_of_lt _ _ hi] at hr he
  rw [hr, he] at this
  simp at this
theorem witness_CodeWordsMoveTheSequencer : (∀ i, ¬ endsHere (pastWord (onT id).ct 1) i) ∧ endsFirst (pastWord (nestTile Tile.reset) 1) 1 ∧
    ¬ ((pastWord (nestTile Tile.reset) 1).regs.l.getD 1 LoopSt.reset).j + 1 < ((pastWord (nestTile Tile.reset) 1).regs.l.getD 1 LoopSt.reset).n ∧
    ((pastWord (nestTile Tile.reset) 1).regs.l.getD 0 LoopSt.reset).j + 1 < ((pastWord (nestTile Tile.reset) 1).regs.l.getD 0 LoopSt.reset).n ∧
    (onT streamTile).ct.seq.dict[(0#12).toNat]? = some 0#384 ∧ (State.reset.withFetchWord 16 0xF400).ct.seq.pc + 24 < (State.reset.withFetchWord 16 0xF400).ct.seq.code.length := by
  refine ⟨none_ends (by decide +kernel), ⟨by unfold endsHere; decide +kernel, fun j hj hne => ?_⟩, by decide +kernel, by decide +kernel, by decide +kernel, by decide +kernel⟩
  obtain rfl | rfl := ends_nest j hj
  · exact .inl (by decide +kernel)
  · exact absurd rfl hne
/-- The records of an issue cycle that has gone by, and of words that are not usable; a word before the next bundle. -/
def wordState (code : List CodeWord) (f : Nat → SeqSt → SeqSt) : State :=
  withTodo (onT fun t => { t with seq := f 1000 { t.seq with code := code, dict := [0#384], buf := 64, sb := 1000, minIssue := 1000 } }) [.tile 0 0]
theorem witness_CodeWordsMoveTheSequencer_due :
    ((wordState [0xF007#16, 0#16] fun _ q => q).tile 0).peek 1000 codeMax = .bundle 1 1008 2 64 ∧
    ((wordState [0#16] fun f q => { q with minIssue := f, sb := 999 }).tile 0).peek 1000 codeMax = .bundle 0 999 1 64 ∧
    ((wordState [0#16] fun _ q => { q with buf := 0 }).tile 0).peek 1000 codeMax = .bundle 0 1000 1 0 ∧
    (((wordState [0#16] fun _ q => q).tile 0).own.errs = []) ∧ ((wordState [0#16] fun _ q => q).tile 0).seq.ended = false := by decide +kernel
def bundleState (faults : List Record) (s : State) : State :=
  { s with todo := [.endBundle], cur := { s.cur with save := some (tile0, s.coach 0), faults := faults, words := 1 } }
def rec0 (cls code : Nat) : Record := (onT id).record 0 0 1 1000 0 ⟨cls, code, 2, 0#64, 0#64⟩
theorem witness_FaultingBundleIsSuppressed : (bundleState [rec0 1 1] (onT id)).todo = .endBundle :: [] ∧ (bundleState [rec0 1 1] (onT id)).cur.faults ≠ [] ∧
    (bundleState [rec0 1 1] (onT id)).cur.save.isSome = true ∧ (bundleState [] (onT id)).cur.faults = [] ∧ (bundleState [] (onT id)).ct.own.errs = [] ∧
    (bundleState [] (onT fun t => { t with meet := .relay })).ct.meet = .relay :=
  ⟨rfl, by decide +kernel, by decide +kernel, by decide +kernel, by decide +kernel, by decide +kernel⟩
theorem witness_CommitBeginsThePhase : ((onT fun t => { t with meet := .commit 1 2 }).coach 0).launch.tiles.Nodup ∧
    0 ∈ ((onT fun t => { t with meet := .commit 1 2 }).coach 0).launch.tiles ∧ ((onT fun t => { t with meet := .commit 1 2 }).tile 0).meet = .commit 1 2 ∧
    (onL fun l => { l with phase := 1, unsettled := [⟨0, 0, 4095, 0, []⟩] }).cl.unsettled.any (fun u => u.phase + 1 == 1) = true ∧
    (onT committed).ct.seq.lastCommit = some 999 ∧
    ((onT fun t => { t with snaps := t.snaps.setIfInBounds 1 { Snap.reset with valid := true, frc := 1000 } }).ct.snaps.getD 1 Snap.reset).frc = 999 + 1 := by decide +kernel
theorem witness_FaultRecordsAreOrderedAndKept : (∀ r ∈ [rec0 1 2, rec0 1 1], recordFits r) ∧ stopRec [rec0 1 2, rec0 1 1] = some (rec0 1 1) := by
  unfold recordFits; decide +kernel
/-- Each kind of fault; a phase never replayed, and one replayed three times. -/
theorem witness_FaultsStopOrHoldOrReplay : ((onT id).coach 0).launch.mode = .running ∧ faultKind (rec0 11 1).cls (rec0 11 1).code = .stopping ∧
    faultKind (rec0 8 1).cls (rec0 8 1).code = .stopping ∧ ((onT id).coach 0).launch.pending = none ∧
    Launch.replaysOf ((onT id).coach 0).launch (phaseAt ((onT id).coach 0).launch 999) < 3 ∧
    3 ≤ Launch.replaysOf ((onL fun l => { l with replays := [(0, 3)] }).coach 0).launch (phaseAt ((onL fun l => { l with replays := [(0, 3)] }).coach 0).launch 999) := by
  decide +kernel
/-! ### Events -/

/-- Host addresses of coach 0 are physical ones. -/
def identity (k : Coach) : Coach := { k with ranges := [(0, 1#64, 0xFFFFFFFFF000#64, 0#64)] }
theorem inRange_identity {k : Coach} (h : k.ranges = [(0, 1#64, 0xFFFFFFFFF000#64, 0#64)]) {a n : Nat} (ha : a < 0xFFFFFFFFF000) (h1 : 1 ≤ n)
    (h2 : a % 256 + n ≤ 256) : inRange k a n a := by
  refine ⟨?_, h1, h2⟩
  rw [h]
  have hc : (1#64).getLsbD 0 = true ∧ bits 1#64 63 12 * 4096 ≤ a ∧ a ≤ bits 0xFFFFFFFFF000#64 63 12 * 4096 + 0xFFF := by
    refine ⟨by decide, ?_, ?_⟩
    · rw [show bits 1#64 63 12 = 0 by decide, Nat.zero_mul]; exact Nat.zero_le a
    · exact Nat.le_trans (Nat.le_of_lt ha) (by decide)
  have : rangeHit a (0, 1#64, 0xFFFFFFFFF000#64, 0#64) = some a := by
    unfold rangeHit
    refine (if_pos hc).trans (congrArg some ?_)
    rw [show bits 0#64 63 12 = 0 by decide, Nat.zero_mul, Nat.add_zero]
    exact Nat.mod_eq_of_lt (Nat.lt_trans ha (by decide))
  simp [List.findSome?, this]
theorem onT_coach (c : Nat) : ((onT id).coach c).launch.memOk := by
  unfold Launch.memOk
  by_cases h : c < 16
  · have e := (by decide +kernel : ∀ c, c < 16 → ((onT id).coach c).launch.saves = [] ∧ ((onT id).coach c).launch.image.data = []) c h
    rw [e.1, e.2]; exact ⟨fun _ h => (nomatch h), fun _ h => (nomatch h)⟩
  · have e : (onT id).coach c = Coach.reset := by unfold State.coach; exact getD_of_ge _ _ h
    rw [e]; exact ⟨fun _ h => (nomatch h), fun _ h => (nomatch h)⟩
theorem witness_StepKeepsMemoriesCanonical : (onT id).memOk ∧ step (onT id) = .next { onT id with todo := [.timers 0] } := by
  refine ⟨⟨fun t => ?_, onT_coach, fun _ h => (nomatch h), by decide +kernel⟩, rfl⟩
  by_cases h : t = 0
  · subst h; unfold Tile.memOk; decide +kernel
  · have e : (onT id).tile t = Tile.reset := by
      show getK Tile.reset [(0, tile0)] t = Tile.reset
      simp [getK, Ne.symm h]
    rw [e]; unfold Tile.memOk; decide +kernel
theorem witness_BankEvents : ((onT id).tile 0).own.owner = some 0 ∧ ((onT id).tile 383).own.owner = none ∧ ((onT id).tile 0).seq.ended = false ∧
    ((onT fun t => { t with seq := { t.seq with ended := true } }).tile 0).seq.ended = true ∧ ((onT id).coach 0).launch.mode = .running ∧
    0 ∈ ((onT id).coach 0).launch.tiles ∧ (∀ d, d < 16 → d ≠ 0 → 0 ∉ ((onT id).coach d).launch.tiles) := by decide +kernel
theorem witness_PausesEnd_closing : ((onL fun l => { l with mode := .paused, closingDone := some 5000 }).coach 0).launch.closingDone ≠ none ∧
    ((onL fun l => { l with mode := .paused }).coach 0).launch.closingDone = none := by decide +kernel
theorem witness_PausesEnd : ((onL fun l => { l with mode := .paused, conds := [(0, 7, 0#64)] }).coach 0).launch.mode = .paused ∧
    (∀ x ∈ ((onL fun l => { l with mode := .paused, conds := [(0, 7, 0#64)] }).coach 0).launch.conds,
      x.2.2.toNat ≤ (((onL fun l => { l with mode := .paused, conds := [(0, 7, 0#64)] }).coach 0).tl x.2.1).live) ∧
    (∃ x ∈ ((onL fun l => { l with mode := .paused, conds := [(0, 7, 1#64)] }).coach 0).launch.conds,
      (((onL fun l => { l with mode := .paused, conds := [(0, 7, 1#64)] }).coach 0).tl x.2.1).live < x.2.2.toNat) ∧
    ((onL fun l => { l with mode := .relaying true }).coach 0).launch.mode = .relaying true ∧
    ((onL fun l => { l with mode := .relaying false, relayStep := 4, relayWall := 5000 }).coach 0).launch.mode = .relaying false ∧
    ((onL fun l => { l with mode := .relaying false, relayStep := 4, relayWall := 5000 }).coach 0).launch.unsettled = [] ∧
    ((onL fun l => { l with mode := .relaying false, relayStep := 4, relayWall := 5000 }).coach 0).launch.closingDone = none ∧
    ((onL fun l => { l with mode := .relaying false, relayStep := 5 }).coach 0).launch.lrec.type ≠ 2 := by
  refine ⟨by decide +kernel, by decide +kernel, ⟨(0, 7, 1#64), by decide +kernel, by decide +kernel⟩, by decide +kernel, by decide +kernel, by decide +kernel, by decide +kernel, by decide +kernel⟩
/-- A committed phase with its digest; a strike in the running phase, in a settled one, on a tile of no coach. -/
def settling (l : Launch) : Launch := { l with phase := 5, phaseStart := 900, unsettled := [⟨4, 300, 899, 100, [(0, 1#128, 2)]⟩], spans := [(3, 0)] }
theorem witness_SettlingAndStrikes : ((build id settling identity id).coach 0).launch.unsettled = ⟨4, 300, 899, 100, [(0, 1#128, 2)]⟩ :: [] ∧
    (build id settling identity id).pkg.host.wf = true ∧
    inRange ((build id settling identity id).coach 0) (0 + 32 * (4 % 1 * 1)) 32 0 ∧ (build id settling identity id).rectCoach 383 = none ∧
    (build id settling identity id).rectCoach 0 = some 0 ∧ ((build id settling identity id).coach 0).launch.mode = .running ∧
    ((build id settling identity id).coach 0).launch.pending = none ∧ Launch.settledAt ((build id settling identity id).coach 0).launch 299 = true ∧
    Launch.settledAt ((build id settling identity id).coach 0).launch 300 = false ∧
    Launch.replaysOf ((build id settling identity id).coach 0).launch (phaseAt ((build id settling identity id).coach 0).launch 300) < 3 :=
  ⟨rfl, by decide +kernel, inRange_identity rfl (by decide) (by decide) (by decide), by decide +kernel, by decide +kernel, by decide +kernel, by decide +kernel,
    by decide +kernel, by decide +kernel, by decide +kernel⟩
/-- A snapshot that waits for the slot of phase 4; a strike after the last commit of a tile that has ended with it, or later. -/
def waitingSnap (t : Tile) : Tile :=
  { t with nextSnap := some { Snap.reset with valid := true, phase := 6 }, seq := { t.seq with ended := true, lastCommit := some 899, minIssue := 900 } }
def endedLate (t : Tile) : Tile := { t with seq := { t.seq with ended := true, lastCommit := some 899, minIssue := 940 } }
theorem witness_SettlingAndStrikes_waiting : ((build waitingSnap settling identity id).tile 0).nextSnap = some { Snap.reset with valid := true, phase := 4 + 2 } ∧
    ((build waitingSnap settling identity id).coach 0).launch.mode ≠ .finishing ∧ ((build waitingSnap settling identity id).coach 0).launch.lrec.type ≠ 2 ∧
    ((build waitingSnap settling identity id).coach 0).launch.phaseStart ≤ 950 ∧ Launch.settledAt ((build waitingSnap settling identity id).coach 0).launch 950 = false ∧
    State.reset.pkg.boot ≠ 6 := by decide +kernel
theorem witness_SettlingAndStrikes_ended :
    (∀ x ∈ ((build waitingSnap settling identity id).coach 0).launch.tiles, endedAtCommit ((build waitingSnap settling identity id).tile x)) ∧
    ∃ x ∈ ((build endedLate settling identity id).coach 0).launch.tiles, ¬ endedAtCommit ((build endedLate settling identity id).tile x) := by
  refine ⟨fun x h => ?_, 0, by decide +kernel, fun ⟨_, f, h, h'⟩ => ?_⟩
  · have : x = 0 := by simpa using (show x ∈ [0] from h)
    subst this
    exact ⟨by decide +kernel, 899, by decide +kernel, by decide +kernel⟩
  · have e : f = 899 := (Option.some.inj ((by decide +kernel : ((build endedLate settling identity id).tile 0).seq.lastCommit = some 899).symm.trans h)).symm
    rw [e] at h'
    exact absurd h' (by decide +kernel)
/-- A tile whose refill list cannot be read: column 0 of bank 0, row 0 fails. -/
def badRefill (t : Tile) : Tile := { t with seq := { t.seq with refills := [(0, [0#64])] }, own := { t.own with errs := [⟨4, 0, 0, 7, 0, 0#64⟩] } }
def reloading (l : Launch) : Launch := { l with mode := .reloading, pending := some 0, replays := [(0, 0)] }
theorem witness_ReplayProceeds : ((onL fun l => { l with mode := .closing }).coach 0).launch.mode = .closing ∧ ((onL reloading).coach 0).launch.tiles.Nodup ∧
    ((onL reloading).coach 0).launch.mode = .reloading ∧ ((onL reloading).coach 0).launch.pending = some 0 ∧
    (∀ t ∈ ((onL reloading).coach 0).launch.tiles, ((onL reloading).tile t).snapErrs 0 = []) ∧
    (∀ t ∈ ((onL reloading).coach 0).launch.tiles, (((onL reloading).tile t).reload (((onL reloading).coach 0).launch.dataOf t) 0 5000).good = true) ∧
    (∃ t ∈ ((build badRefill reloading id id).coach 0).launch.tiles,
      (((build badRefill reloading id id).tile t).reload (((build badRefill reloading id id).coach 0).launch.dataOf t) 0 5000).good = false) ∧
    (∀ t ∈ ((build badRefill reloading id id).coach 0).launch.tiles, ((build badRefill reloading id id).tile t).snapErrs 0 = []) ∧
    ((onL fun l => { reloading l with mode := .waiting }).coach 0).launch.mode = .waiting ∧
    (∀ u ∈ ((onL reloading).coach 0).launch.unsettled, 0 ≤ u.phase) ∧
    ((onL reloading).coach 0).launch.replays.any (fun x => x.1 == 0) = true := by decide +kernel
theorem witness_LaunchesEnd : ((onL fun l => { l with mode := .held, hold := some (rec0 1 1) }).coach 0).launch.hold = some (rec0 1 1) ∧
    (build id (fun l => { l with mode := .finishing }) identity id).workDone 0 = true ∧ ((onT id).coach 0).launch.mode = .running ∧
    inRange ((build id (fun l => { l with mode := .finishing }) identity id).coach 0) 0 16 0 ∧
    (build id (fun l => { l with mode := .finishing }) identity id).pkg.host.wf = true :=
  ⟨by decide +kernel, by decide +kernel, by decide +kernel, inRange_identity rfl (by decide) (by decide) (by decide), by decide +kernel⟩

/-- Bytes in host memory that a coach with one range reads. -/
theorem getL_append (m : Mem) (a n k : Nat) : m.getL a (n + k) = m.getL a n ++ m.getL (a + n) k := by
  induction n generalizing a with
  | zero => rw [Nat.zero_add]; rfl
  | succ n ih => rw [Nat.add_right_comm, Mem.getL, Mem.getL, ih, List.cons_append, Nat.add_right_comm a 1 n, Nat.add_assoc]
theorem getL_eq {m m' : Mem} (a n : Nat) (h : ∀ c, a ≤ c → c < a + n → m.get c = m'.get c) : m.getL a n = m'.getL a n := by
  induction n generalizing a with
  | zero => rfl
  | succ n ih => rw [Mem.getL, Mem.getL, h a (Nat.le_refl a) (by omega), ih (a + 1) fun c _ _ => h c (by omega) (by omega)]
theorem getL_putL {m : Mem} (hm : m.wf = true) (bs : List Byte) (a : Nat) : (m.putL a bs).getL a bs.length = bs := by
  suffices h : ∀ (n k : Nat), k + n = bs.length → (m.putL a bs).getL (a + k) n = bs.drop k by simpa using h bs.length 0 (Nat.zero_add _)
  intro n
  induction n with
  | zero => intro k h; rw [Mem.getL, List.drop_eq_nil_of_le (by omega)]
  | succ n ih =>
    intro k h
    have hk : k < bs.length := by omega
    rw [Mem.getL, Nat.add_assoc, ih (k + 1) (by omega), Mem.get_putL bs a (a + k) hm, if_pos ⟨by omega, by omega⟩, Nat.add_sub_cancel_left,
      List.getD_eq_getElem _ _ hk, ← List.drop_eq_getElem_cons hk]
theorem getL_putL_ne {m : Mem} (hm : m.wf = true) (bs : List Byte) {p a n : Nat} (h : a + n ≤ p ∨ p + bs.length ≤ a) : (m.putL p bs).getL a n = m.getL a n :=
  getL_eq a n fun c h1 h2 => by rw [Mem.get_putL bs p c hm, if_neg (by omega)]
theorem hostRead_identity {k : Coach} (hk : k.ranges = [(0, 1#64, 0xFFFFFFFFF000#64, 0#64)]) (h : Mem) (fuel a n : Nat) (ha : a + n < 0xFFFFFFFFF000)
    (hf : n = 0 ∨ a % 256 + n ≤ 256 * fuel) : k.hostRead h [] a n fuel = .ok (h.getL a n) := by
  induction fuel generalizing a n with
  | zero => have : n = 0 := by omega
            subst this; rfl
  | succ fuel ih =>
    by_cases h0 : n = 0
    · subst h0; rfl
    · have hm : pieceLen a n = min n (256 - a % 256) := rfl
      have ht : k.translate h a false = .ok a := by
        unfold Coach.translate
        rw [(inRange_identity hk (a := a) (n := 1) (by omega) (by omega) (by omega)).1]
      rw [Coach.hostRead, if_neg h0]
      simp only [ht, hostErr, List.find?_nil, Option.map_none]
      rw [ih (a + pieceLen a n) (n - pieceLen a n) (by omega) (by omega)]
      simp only [Except.map]
      rw [← getL_append, show pieceLen a n + (n - pieceLen a n) = n by omega]
theorem hread_identity {s : State} {c : Nat} (hk : (s.coach c).ranges = [(0, 1#64, 0xFFFFFFFFF000#64, 0#64)]) (hb : s.pkg.hostBad = []) {a n : Nat}
    (ha : a + n < 0xFFFFFFFFF000) : s.hread c a n = .ok (s.pkg.host.getL a n) := by
  unfold State.hread
  rw [hb]
  exact hostRead_identity hk _ _ _ _ ha (by omega)
/-- An image of one variant on tile 0 whose stream is one `end`, and a record that names it. -/
def demoImage : List Byte :=
  bytesOf 0x4E414B55 4 ++ bytesOf 1 2 ++ bytesOf 1 2 ++ bytesOf 2 8 ++ List.replicate 0x70 0#8 ++
  bytesOf 10 2 ++ bytesOf 0 2 ++ bytesOf 0xFFFF 4 ++ bytesOf 0xC0 8 ++ bytesOf 0x60 16 ++
  bytesOf 1 2 ++ bytesOf 0 6 ++ bytesOf 0x120 8 ++ bytesOf 2 16 ++
  bytesOf 4 8 ++ List.replicate 32 0#8 ++ bytesOf 1 56 ++ bytesOf 0xFC00 2
def demoRecord : List Byte :=
  bytesOf 1 4 ++ bytesOf 7 4 ++ bytesOf 0x1000 8 ++ bytesOf 290 8 ++ bytesOf 0x40 8 ++ bytesOf 0x80 8 ++ bytesOf 1 4 ++ bytesOf 1 4 ++
  bytesOf 0x100 8 ++ bytesOf 1 8 ++ bytesOf 0x696f7a5356196b264b4e006631631f2cda3ef9d3dbf99fbe911a98742975fba 32 ++ List.replicate 32 0#8
def queue0 : Queue := { Queue.reset with en := true, lsz := 4, tail := 1#32, base := 0x2000#64 }
/-- Host memory with both; and a queue that serves the record. -/
def rHost0 : Mem := Mem.putL [] 0x1000 demoImage
def rHost1 : Mem := rHost0.putL 0x2000 demoRecord
def servedOn (m : Mem) : State := build id (fun _ => Launch.reset) identity fun p => { p with
  queues := [(0, queue0)], fcst := Vector.replicate 4 1#64, host := m }
def served : State := servedOn rHost1
theorem servedOn_hread (m : Mem) {a n : Nat} (h : a + n < 0xFFFFFFFFF000) : (servedOn m).hread 0 a n = .ok (m.getL a n) :=
  hread_identity (s := servedOn m) rfl rfl h
theorem witness_QueueEventsAndDispatch : served.pkg.boot = 6 ∧ (served.queue 0).owner = 128 ∧ served.pkg.boot = 6 ∧ (served.coach 0).launch.mode = .idle ∧
    (∀ p ∈ served.eligible 0, p.2.lapped = false) ∧ pick (served.coach 0).rr (served.eligible 0) = some (0, queue0) ∧
    (∃ b, served.hread 0 (queue0.base.toNat + 128 * (queue0.head.toNat % 2 ^ queue0.lsz)) 128 = .ok b ∧ b.length = 128) ∧
    (served.queue 32767).owner = 128 := by
  refine ⟨by decide +kernel, by decide +kernel, by decide +kernel, by decide +kernel, by decide +kernel, by decide +kernel, ?_, by decide +kernel⟩
  obtain ⟨b, h, e⟩ := ok_of (fun b : List Byte => b.length == 128) (e := served.hread 0 (queue0.base.toNat + 128 * (queue0.head.toNat % 2 ^ queue0.lsz)) 128) (by decide +kernel)
  exact ⟨b, h, by simpa using e⟩
/-- The image is read with variant 0 holding, and every tile of it has a sound translation table; its digest is that of another SHA3. -/
def launchable (img : Image) : Bool :=
  served.holding 0 (served.coachClass 0) img.variants == [0] && (Launch.variantImg { Launch.reset with image := img } 0).tiles.all fun t => (served.tile t).vault.tableOk
def demoParsed (img : Image) : Bool :=
  launchable img && img.domain == false && img.hash == 0#256 && img.variants.all fun v => v.code.all fun t => t.1 == 0
theorem demo_parse : ∃ img, parseImage demoImage.toArray = .ok img ∧ demoParsed img = true := ok_of demoParsed (by decide +kernel)
theorem demo_digest : sha3_256 demoImage = (rawRecord demoRecord).digest := by decide +kernel
theorem demo_tiles : imageTiles demoImage.toArray = 1 := by decide +kernel
/-- Coach 0, which holds tile 0, loads the image where it stands at 0x1000. -/
theorem demo_load {s : State} (hr : s.hread 0 0x1000 290 = .ok demoImage) (hp : s.probeAll 0 (rawRecord demoRecord) 1 = true)
    (hc : (rectOf (s.coach 0).crect).has 0 = true) : ∃ img, s.loadChecks 0 (rawRecord demoRecord) = .ok img ∧ launchable img = true ∧ img.hash = 0#256 := by
  obtain ⟨img, hi, hh⟩ := demo_parse
  simp only [demoParsed, Bool.and_eq_true, beq_iff_eq, List.all_eq_true] at hh
  refine ⟨img, ?_, hh.1.1.1, hh.1.2⟩
  have ha : (img.variants.any fun v => v.code.any fun t => !(rectOf (s.coach 0).crect).has t.1) = false :=
    List.any_eq_false.mpr fun v hv h => by
      obtain ⟨t, ht, h⟩ := List.any_eq_true.mp h
      rw [hh.2 v hv t ht, hc] at h
      cases h
  have ht : ¬ ((rawRecord demoRecord).type = 2 ∧ (!s.peersOk img) = true) := fun h => absurd h.1 (by decide +kernel)
  have h2 : ((rawRecord demoRecord).type == 2) = false := by decide +kernel
  unfold State.loadChecks
  rw [show (rawRecord demoRecord).image.toNat = 0x1000 by decide +kernel, show (rawRecord demoRecord).imageLen = 290 by decide +kernel, hr]
  simp only [demo_digest, demo_tiles, hp, Bool.not_true, hi, hh.1.1.2, ha, h2, if_neg ht, ne_eq, not_true_eq_false, if_false, Bool.false_eq_true]
theorem host_wf0 : rHost0.wf = true := Mem.putL_wf _ _ rfl
theorem host_wf1 : rHost1.wf = true := Mem.putL_wf _ _ host_wf0
theorem host_image1 : rHost1.getL 0x1000 290 = demoImage := by
  have h := getL_putL (m := []) rfl demoImage 0x1000
  rw [show demoImage.length = 290 by decide +kernel] at h
  exact (getL_putL_ne host_wf0 demoRecord (p := 0x2000) (a := 0x1000) (n := 290) (.inl (by omega))).trans h
theorem witness_DispatchStartsALaunch : recordOk 0 (served.msixSize 128) demoRecord = true ∧ served.halfTraining 0 = false ∧
    ∃ img, served.loadChecks 0 (rawRecord demoRecord) = .ok img ∧ launchable img = true := by
  refine ⟨by decide +kernel, by decide +kernel, ?_⟩
  have hr := servedOn_hread rHost1 (a := 0x1000) (n := 290) (by omega)
  rw [host_image1] at hr
  obtain ⟨img, h1, h2, _⟩ := demo_load hr (by decide +kernel) (by decide +kernel)
  exact ⟨img, h1, h2⟩
theorem witness_HostRegisterWrites : ((onT id).coach 0).launch.mode ≠ .idle ∧ ((onT id).coach 0).hat.busy = false ∧
    ((build id id (fun k => { k with hat := { k.hat with busy := true } }) id).coach 0).hat.busy = true ∧ (onT id).pkg.boot = 6 := by decide +kernel
/-- Plans for the idle coach 0: tiles 0 to 3; one that takes the tiles of another coach; the rectangle that it has. -/
def idlePlan (k : Coach) : State := let s := build id (fun _ => Launch.reset) id id
  { s with coaches := s.coaches.setIfInBounds 1 k }
theorem plan_other (d : Nat) (h0 : d ≠ 0) : ((idlePlan Coach.reset).coach d) = Coach.reset := by
  simp only [State.coach, idlePlan, build, Vector.getD]
  by_cases h : 1 = d
  · simp [← h]
  · by_cases h1 : d < 16 <;> simp [h, h1, Ne.symm h0]
theorem witness_HostRegisterWrites_plan : planHolds (idlePlan Coach.reset) 0 0x83000000#64 ∧ 0x83000000#64 &&& 0x000000009F1FF00F#64 = 0x83000000#64 ∧
    ((idlePlan Coach.reset).coach 0).launch.mode = .idle ∧ 0x83000000#64 ≠ ((idlePlan Coach.reset).coach 0).crect ∧
    ¬ planHolds (idlePlan { Coach.reset with crect := 0x83000000#64 }) 0 0x83000000#64 := by
  refine ⟨⟨by decide, fun t ht => ⟨fun _ d _ hne => ?_, ?_, ?_⟩⟩, by decide, by decide +kernel, by decide +kernel, fun h => ?_⟩
  · rw [plan_other d hne]; exact ⟨fun h => absurd h.1 (by decide), fun h => absurd h.1 (by decide)⟩
  · exact (by unfold inRect; decide +kernel : ∀ t, t < 384 → inRect 0x83000000#64 t → ¬ inRect ((idlePlan Coach.reset).coach 0).crect t →
      ((idlePlan Coach.reset).tile t).own.owner = none) t ht
  · have e : ((idlePlan Coach.reset).coach 0).ops = [] := by decide +kernel
    rw [e]; exact fun _ _ _ h => nomatch h
  · exact absurd ((h.2 0 (by decide)).1 (by unfold inRect; decide) 1 (by decide) (by decide)).1 (by unfold inRect; decide +kernel)
/-- No launch on tile 0, whose vault is selected, or its scratchpad. -/
def idleState (apsel : Word) : State := build id (fun _ => Launch.reset) id fun p => { p with apsel := [(128, apsel)] }
theorem witness_ApertureMovesBytes : reaches (idleState 0x200#64) 128 (selTile (idleState 0x200#64) 128) ∧ selSpace (idleState 0x200#64) 128 = 1 ∧
    reaches (idleState 0#64) 128 (selTile (idleState 0#64) 128) ∧ selSpace (idleState 0#64) 128 = 0 ∧ ((idleState 0#64).tile 0).own.errs = [] ∧
    ((idleState 0#64).tile 0).vault.retired = 0#32 ∧ ((idleState 0#64).tile 0).memOk ∧ ¬ reaches (onT id) 128 (selTile (onT id) 128) := by
  refine ⟨⟨by decide +kernel, by decide +kernel, by decide +kernel, .inl (by decide)⟩, by decide +kernel,
    ⟨by decide +kernel, by decide +kernel, by decide +kernel, .inl (by decide)⟩, by decide +kernel, by decide +kernel, by decide +kernel,
    by unfold Tile.memOk; decide +kernel, fun h => ?_⟩
  exact absurd h.2.2.1 (by decide +kernel)
/-- Block-table space; a bank that is not in the tile's map: one is retired, and bank 31 is past the last. -/
theorem witness_ApertureMovesBytes_spaces : selSpace (idleState 0x400#64) 128 = 2 ∧ reaches (idleState 0x400#64) 128 (selTile (idleState 0x400#64) 128) ∧
    ((idleState 0x400#64).tile 0).own.lanes = 0#8 ∧ inMap ((idleState 0#64).tile 0).vault (2 ^ 30 - 1) = true ∧
    inMap ((build (mapV fun v => { v with retired := 1#32 }) (fun _ => Launch.reset) id id).tile 0).vault (31 * 2 ^ 25) = false ∧
    vaultByte ((idleState 0#64).tile 0).vault 0 ≠ vaultByte ((idleState 0#64).tile 0).vault 1 :=
  ⟨by decide +kernel, ⟨by decide +kernel, by decide +kernel, by decide +kernel, .inl (by decide)⟩, by decide +kernel, by decide +kernel, by decide +kernel,
    by decide +kernel⟩
/-- A record that no range holds. -/
theorem witness_RestoresPlaceTheImage : (idleState 0#64).pkg.boot = 6 ∧ ((idleState 0#64).coach 0).launch.mode = .idle ∧ (0x3001#64).getLsbD 0 = true ∧
    (match (idleState 0#64).hread 0 (0x3001#64 &&& ~~~0x7F#64).toNat 128 with | .error _ => true | .ok _ => false) = true := by decide +kernel
/-! ### A restore that succeeds

The ciphers of Config have no body, so that no image can be computed: one is built whose tags and signature are what they give. -/

/-- A piece of a longer string: the first one, and one behind the first; a number in a piece. -/
theorem slice_first {x y : List Byte} {n : Nat} (h : x.length = n) : Bytes.slice (x ++ y).toArray 0 n = x := by
  subst h
  apply List.ext_getElem
  · simp [Bytes.slice]
  · intro i h1 h2
    have h3 : i < x.length + y.length := by omega
    simp [Bytes.slice, Array.getD, h2, h3]
theorem slice_skip {x y : List Byte} {o n k : Nat} (h : x.length = k) : Bytes.slice (x ++ y).toArray (k + o) n = Bytes.slice y.toArray o n := by
  subst h
  apply List.map_congr_left
  intro i _
  simp [Array.getD, Nat.add_assoc]
theorem num_slice (x : Bytes) (o n : Nat) : x.num o n = natOf (x.slice o n) := by
  induction n generalizing o with
  | zero => rfl
  | succ n ih =>
    rw [Bytes.num, ih]
    simp only [Bytes.slice, List.range_succ_eq_map, List.map_cons, List.map_map, natOf, Nat.add_zero]
    congr 3
    apply List.map_congr_left
    intro i _
    simp [Function.comp, Nat.add_comm 1, Nat.add_assoc]
theorem slice_slice (x : Bytes) {o n i m : Nat} (h : i + m ≤ n) : x.slice (o + i) m = ((x.slice o n).drop i).take m := by
  apply List.ext_getElem
  · simp [Bytes.slice]; omega
  · intro j _ _
    simp [Bytes.slice, Nat.add_assoc]
theorem num_in {x : Bytes} {o n : Nat} {l : List Byte} (h : x.slice o n = l) {i m : Nat} (hi : i + m ≤ n) : x.num (o + i) m = natOf ((l.drop i).take m) := by
  rw [num_slice, slice_slice x hi, h]
theorem length_bytesOf (x n : Nat) : (bytesOf x n).length = n := by
  induction n generalizing x with
  | zero => rfl
  | succ n ih => rw [bytesOf, List.length_cons, ih]

/-- The pieces of an image of tile 0 whose segments are all empty: header, wrapped key of zeros with its tag, table. -/
def rMeasure : BitVec 512 := 0x70612fb634cc6b54bc57b8d134ab7d5044ffecc0202baf69924572df63309a20ae745e5fd0450165d53639f57f5284f839b5f21b115f11986103f5ee2414b613#512
def rOwn : List Byte := bytesOf (identityOf identityKey).toNat 64
def rHead0 : List Byte := bytesOf 0x584F4248 4 ++ bytesOf 1 4 ++ bytesOf 1 8 ++ bytesOf 0 16 ++ bytesOf rMeasure.toNat 64 ++ bytesOf 0 32 ++
  bytesOf 0 6 ++ bytesOf 1 2 ++ bytesOf 7 4 ++ bytesOf 1 4 ++ bytesOf 20 8 ++ bytesOf 13779 8 ++ bytesOf 0 0x60
def rHead : List Byte := rHead0 ++ (rOwn ++ (rOwn ++ bytesOf 0 0x80))
def rWrap : BitVec 256 := wrapKey (kemDecaps (bytesOf 0 1568)) 0#128 1 rMeasure
def rKey : BitVec 256 := BitVec.ofNat 256 (natOf (gcmText rWrap 0#96 (bytesOf 0 32)))
def rEntry (x : Nat) : List Byte :=
  bytesOf 0 16 ++ bytesOf (if x = 0 then 0xFFFF else 0) 2 ++ bytesOf (if x = 0 then 5 else min x 4) 1 ++ bytesOf (x - 4) 1 ++ bytesOf 0 12
def rTag (x : Nat) : List Byte := gcmTag rKey (segNonce x) (rHead ++ rEntry x) []
def rTable (l : List Nat) : List Byte := l.flatMap fun x => rEntry x ++ rTag x
def rSigned : List Byte :=
  rHead ++ (bytesOf 0 1568 ++ (bytesOf 0 32 ++ (gcmTag rWrap 0#96 rHead (bytesOf 0 32) ++ (bytesOf 0 0x7B0 ++ (identityKey ++ (bytesOf 0 0x5E0 ++ rTable (List.range 20)))))))
def rImage : List Byte := rSigned ++ dsaSign (sha3_512 rSigned)
def rSegs (n : Nat) : List Segment := (List.range n).map fun x => (if x = 0 then 0xFFFF else 0, if x = 0 then 5 else min x 4, x - 4, [])
def rHost : Mem := rHost1.putL 0x10000 rImage
/-- Coach 0 is idle over a host memory, its Hatbox image at 0x10000, of a lineage whose counter is 1; with a record read from 0x2000; and
with its launch image. -/
def rState (m : Mem) : State := build id (fun _ => Launch.reset) (fun k => { identity k with hat := { k.hat with dst := 0x10000#64 } }) fun p => { p with
  host := m, flash := { p.flash with storeGood := true, store := [⟨0#128, 1, false⟩] } }
def rState1 (m : Mem) : State := ((rState m).modCoach 0 fun k => { k with hat := { k.hat with recAddr := 0x2001#64 &&& ~~~0x7F#64, busy := true } }).modLaunch 0 fun _ =>
  { Launch.reset with lrec := rawRecord demoRecord, fn := 128, tailWall := (rState m).wall }
def rState2 (m : Mem) (img : Image) : State := (rState1 m).modLaunch 0 fun l => { l with image := img }
theorem length_rHead0 : rHead0.length = 0x100 := by simp only [rHead0, List.length_append, length_bytesOf]
theorem length_rOwn : rOwn.length = 64 := length_bytesOf _ _
theorem length_rHead : rHead.length = 0x200 := by
  simp only [rHead, List.length_append, length_bytesOf, length_rHead0, length_rOwn]
theorem length_tag (k : BitVec 256) (n : BitVec 96) (a t : List Byte) : (gcmTag k n a t).length = 16 := length_bytesOf _ _
theorem length_rEntry (x : Nat) : (rEntry x).length = 32 := by simp only [rEntry, List.length_append, length_bytesOf]
theorem length_rTable (l : List Nat) : (rTable l).length = 48 * l.length := by
  induction l with
  | nil => rfl
  | cons x r ih =>
    rw [rTable, List.flatMap_cons, List.length_append, ← rTable, ih, List.length_append, length_rEntry, rTag, length_tag, List.length_cons]; omega
theorem length_identityKey : identityKey.length = 2592 := length_bytesOf _ _
theorem length_rSigned : rSigned.length = 0x23C0 := by
  simp only [rSigned, List.length_append, length_rHead, length_bytesOf, length_tag, length_identityKey, length_rTable, List.length_range]
theorem length_rImage : rImage.length = 13779 := by
  rw [rImage, List.length_append, length_rSigned, dsaSign, length_bytesOf]
/-- The parts of the image that a restore reads. -/
theorem rImage_eq : rImage = rHead ++ (bytesOf 0 1568 ++ (bytesOf 0 32 ++ (gcmTag rWrap 0#96 rHead (bytesOf 0 32) ++ (bytesOf 0 0x7B0 ++
    (identityKey ++ (bytesOf 0 0x5E0 ++ (rTable (List.range 20) ++ dsaSign (sha3_512 rSigned)))))))) := by
  rw [rImage]; simp only [rSigned, List.append_assoc]
theorem part_head : Bytes.slice rImage.toArray 0 0x200 = rHead := by rw [rImage_eq, slice_first length_rHead]
theorem part_head0 : Bytes.slice rImage.toArray 0 0x100 = rHead0 := by
  rw [rImage_eq, rHead, List.append_assoc, slice_first length_rHead0]
theorem part_own : Bytes.slice rImage.toArray 0x100 64 = rOwn := by
  rw [rImage_eq, rHead, List.append_assoc, slice_skip (o := 0) length_rHead0, List.append_assoc, slice_first length_rOwn]
theorem part_restorer : Bytes.slice rImage.toArray 0x140 64 = rOwn := by
  rw [rImage_eq, rHead, List.append_assoc, slice_skip (o := 64) length_rHead0, List.append_assoc, slice_skip (o := 0) length_rOwn, List.append_assoc,
    slice_first length_rOwn]
theorem part_cipher : Bytes.slice rImage.toArray 0x200 1568 = bytesOf 0 1568 := by
  rw [rImage_eq, slice_skip (o := 0) length_rHead, slice_first (length_bytesOf _ _)]
theorem part_wrapped : Bytes.slice rImage.toArray 0x820 32 = bytesOf 0 32 := by
  rw [rImage_eq, slice_skip (o := 1568) length_rHead, slice_skip (o := 0) (length_bytesOf _ _), slice_first (length_bytesOf _ _)]
theorem part_wtag : Bytes.slice rImage.toArray 0x840 16 = gcmTag rWrap 0#96 rHead (bytesOf 0 32) := by
  rw [rImage_eq, slice_skip (o := 1600) length_rHead, slice_skip (o := 32) (length_bytesOf _ _), slice_skip (o := 0) (length_bytesOf _ _),
    slice_first (length_tag _ _ _ _)]
theorem part_key : Bytes.slice rImage.toArray 0x1000 2592 = identityKey := by
  rw [rImage_eq, slice_skip (o := 3584) length_rHead, slice_skip (o := 2016) (length_bytesOf _ _), slice_skip (o := 1984) (length_bytesOf _ _),
    slice_skip (o := 1968) (length_tag _ _ _ _), slice_skip (o := 0) (length_bytesOf _ _), slice_first length_identityKey]
theorem part_signed : Bytes.slice rImage.toArray 0 0x23C0 = rSigned := by rw [rImage, slice_first length_rSigned]
theorem part_sig : Bytes.slice rImage.toArray 0x23C0 4627 = dsaSign (sha3_512 rSigned) := by
  rw [rImage, slice_skip (o := 0) length_rSigned, ← List.append_nil (dsaSign _), slice_first (show (dsaSign _).length = 4627 from length_bytesOf _ _), List.append_nil]
theorem part_table {x o n : Nat} (hx : x < 20) (ho : o + n ≤ 48) :
    Bytes.slice rImage.toArray (0x2000 + 48 * x + o) n = ((rEntry x ++ rTag x).drop o).take n := by
  have hs : List.range 20 = List.range x ++ (x :: (List.range (19 - x)).map fun i => x + 1 + i) := by
    rw [show 20 = x + ((19 - x) + 1) by omega, List.range_add, show (19 - x) + 1 = 1 + (19 - x) by omega, List.range_add]
    simp [Nat.add_assoc]
  have h : Bytes.slice rImage.toArray (0x2000 + 48 * x) 48 = rEntry x ++ rTag x := by
    rw [rImage_eq, show 0x2000 + 48 * x = 0x200 + (1568 + (32 + (16 + (0x7B0 + (2592 + (0x5E0 + (48 * x + 0))))))) by omega, slice_skip length_rHead,
      slice_skip (length_bytesOf _ _), slice_skip (length_bytesOf _ _), slice_skip (length_tag _ _ _ _), slice_skip (length_bytesOf _ _),
      slice_skip length_identityKey, slice_skip (length_bytesOf _ _), hs, rTable, List.flatMap_append, List.append_assoc, ← rTable,
      slice_skip (by rw [length_rTable, List.length_range]), List.flatMap_cons, List.append_assoc,
      slice_first (by rw [List.length_append, length_rEntry, rTag, length_tag])]
  rw [slice_slice _ ho, h]
theorem natOf_bytesOf (x n : Nat) : natOf (bytesOf x n) = x % 256 ^ n := by
  induction n generalizing x with
  | zero => rw [bytesOf, natOf, Nat.pow_zero, Nat.mod_one]
  | succ n ih =>
    rw [bytesOf, natOf, ih, BitVec.toNat_ofNat, show 256 ^ (n + 1) = 2 ^ 8 * 256 ^ n by rw [Nat.pow_succ', show (2 : Nat) ^ 8 = 256 from rfl], Nat.mod_mul]
    rfl
/-- Numbers of the header, and of a row of the table. -/
theorem num_head {i m : Nat} (h : i + m ≤ 0x100) : Bytes.num rImage.toArray i m = natOf ((rHead0.drop i).take m) := by
  rw [← num_in part_head0 h, Nat.zero_add]
theorem wide_lt (x : BitVec 512) : x.toNat % 256 ^ 64 = x.toNat :=
  Nat.mod_eq_of_lt (Nat.lt_of_lt_of_le x.isLt (by decide +kernel : 2 ^ 512 ≤ 256 ^ 64))
theorem num_own : Bytes.num rImage.toArray 0x100 64 = (identityOf identityKey).toNat := by
  rw [num_slice, part_own, rOwn, natOf_bytesOf, wide_lt]
theorem num_restorer : Bytes.num rImage.toArray 0x140 64 = (identityOf identityKey).toNat := by
  rw [num_slice, part_restorer, rOwn, natOf_bytesOf, wide_lt]
theorem num_table {x i m : Nat} (hx : x < 20) (hi : i + m ≤ 32) : Bytes.num rImage.toArray (0x2000 + 48 * x + i) m = natOf (((rEntry x).drop i).take m) := by
  rw [num_slice, part_table hx (by omega), List.drop_append_of_le_length (by rw [length_rEntry]; omega),
    List.take_append_of_le_length (by rw [List.length_drop, length_rEntry]; omega)]
/-- The image as it is read. -/
def rHat : HatImage := ⟨rImage.toArray, 1, false, 0#128, 20⟩
theorem rHat_segment {x : Nat} (hx : x < 20) : rHat.segment rKey x = some (if x = 0 then 0xFFFF else 0, if x = 0 then 5 else min x 4, x - 4, []) := by
  have he : rHat.part (0x2000 + 48 * x) 32 = rEntry x := by
    show Bytes.slice rImage.toArray (0x2000 + 48 * x + 0) 32 = _
    rw [part_table hx (by omega), List.drop_zero, List.take_append_of_le_length (by rw [length_rEntry]), List.take_of_length_le (by rw [length_rEntry])]
  have ht : rHat.part (0x2000 + 48 * x + 0x20) 16 = rTag x := by
    show Bytes.slice rImage.toArray (0x2000 + 48 * x + 32) 16 = _
    rw [part_table hx (by omega), List.drop_left' (length_rEntry x), List.take_of_length_le (by rw [rTag, length_tag])]
  have h0 : rHat.bytes.num (0x2000 + 48 * x) 8 = 0 := by
    show Bytes.num rImage.toArray (0x2000 + 48 * x + 0) 8 = 0
    rw [num_table hx (by omega)]
    exact (by decide +kernel : ∀ x, x < 20 → natOf (((rEntry x).drop 0).take 8) = 0) x hx
  have h8 : rHat.bytes.num (0x2000 + 48 * x + 8) 8 = 0 := by
    show Bytes.num rImage.toArray _ _ = 0
    rw [num_table hx (by omega)]
    exact (by decide +kernel : ∀ x, x < 20 → natOf (((rEntry x).drop 8).take 8) = 0) x hx
  have h10 : rHat.bytes.num (0x2000 + 48 * x + 0x10) 2 = if x = 0 then 0xFFFF else 0 := by
    show Bytes.num rImage.toArray _ _ = _
    rw [num_table hx (by omega)]
    exact (by decide +kernel : ∀ x, x < 20 → natOf (((rEntry x).drop 0x10).take 2) = if x = 0 then 0xFFFF else 0) x hx
  have h12 : rHat.bytes.num (0x2000 + 48 * x + 0x12) 1 = if x = 0 then 5 else min x 4 := by
    show Bytes.num rImage.toArray _ _ = _
    rw [num_table hx (by omega)]
    exact (by decide +kernel : ∀ x, x < 20 → natOf (((rEntry x).drop 0x12).take 1) = if x = 0 then 5 else min x 4) x hx
  have h13 : rHat.bytes.num (0x2000 + 48 * x + 0x13) 1 = x - 4 := by
    show Bytes.num rImage.toArray _ _ = _
    rw [num_table hx (by omega)]
    exact (by decide +kernel : ∀ x, x < 20 → natOf (((rEntry x).drop 0x13).take 1) = x - 4) x hx
  have hh : rHat.part 0 0x200 = rHead := part_head
  unfold HatImage.segment
  simp only [he, ht, h0, h8, h10, h12, h13, hh]
  exact if_pos rfl
theorem rHat_openAll {n : Nat} (hn : n ≤ 20) : rHat.openAll rKey n = some (rSegs n) := by
  induction n with
  | zero => rfl
  | succ n ih => rw [HatImage.openAll, ih (by omega), rHat_segment (by omega)]; simp only [rSegs, List.range_succ, List.map_append, List.map_cons, List.map_nil]

theorem rHost_eq : rHost = rHost1.putL 0x10000 rImage := rfl
theorem host_record : rHost.getL 0x2000 128 = demoRecord := by
  have h := getL_putL host_wf0 demoRecord 0x2000
  rw [show demoRecord.length = 128 by decide +kernel] at h
  exact (rHost_eq ▸ getL_putL_ne host_wf1 rImage (p := 0x10000) (a := 0x2000) (n := 128) (.inl (by omega))).trans h
theorem host_image : rHost.getL 0x1000 290 = demoImage :=
  (rHost_eq ▸ getL_putL_ne host_wf1 rImage (p := 0x10000) (a := 0x1000) (n := 290) (.inl (by omega))).trans host_image1
theorem host_hat : rHost.getL 0x10000 rImage.length = rImage := by rw [rHost_eq]; exact getL_putL host_wf1 rImage 0x10000
theorem length_getL (m : Mem) (a n : Nat) : (m.getL a n).length = n := by
  induction n generalizing a with
  | zero => rfl
  | succ n ih => rw [Mem.getL, List.length_cons, ih]
theorem host_head : Bytes.slice (rHost.getL 0x10000 0x2000).toArray 0 0x100 = rHead0 := by
  have h := host_hat
  rw [show rImage.length = 0x100 + 13523 from length_rImage, getL_append, rImage_eq, rHead, List.append_assoc] at h
  have e := List.append_inj_left h (by rw [length_getL, length_rHead0])
  rw [show 0x2000 = 0x100 + 0x1F00 by decide, getL_append, e, slice_first length_rHead0]
theorem rState_hread (m : Mem) (img : Image) {a n : Nat} (h : a + n < 0xFFFFFFFFF000) :
    (rState m).hread 0 a n = .ok (m.getL a n) ∧ (rState1 m).hread 0 a n = .ok (m.getL a n) ∧ (rState2 m img).hread 0 a n = .ok (m.getL a n) :=
  ⟨hread_identity (s := rState m) rfl rfl h, hread_identity (s := rState1 m) rfl rfl h, hread_identity (s := rState2 m img) rfl rfl h⟩
theorem rState_readHat (img : Image) : (rState2 rHost img).readHat 0 = .ok rHat := by
  have hn : ∀ {i m : Nat}, i + m ≤ 0x100 → Bytes.num (rHost.getL 0x10000 0x2000).toArray i m = natOf ((rHead0.drop i).take m) := fun h => by
    rw [← num_in host_head h, Nat.zero_add]
  have ha : ((rState2 rHost img).coach 0).hat.dst.toNat = 0x10000 := rfl
  unfold State.readHat
  simp only [ha, (rState_hread rHost img (a := 0x10000) (n := 0x2000) (by decide)).2.2, hn (i := 0) (m := 4) (by decide), hn (i := 4) (m := 2) (by decide),
    hn (i := 6) (m := 1) (by decide), hn (i := 0x98) (m := 8) (by decide), hn (i := 8) (m := 8) (by decide), hn (i := 0x10) (m := 16) (by decide),
    hn (i := 0x90) (m := 8) (by decide)]
  rw [if_neg (by decide +kernel), show natOf ((rHead0.drop 0x98).take 8) = 13779 by decide +kernel, (rState_hread rHost img (by decide)).2.2,
    ← length_rImage, host_hat, show natOf ((rHead0.drop 8).take 8) = 1 by decide +kernel, show natOf ((rHead0.drop 0x10).take 16) = 0 by decide +kernel,
    show natOf ((rHead0.drop 0x90).take 8) = 20 by decide +kernel, show (natOf ((rHead0.drop 6).take 1) == 1) = false by decide +kernel]
  rfl
theorem rState_measure {img : Image} (h : img.hash = 0#256) : ((rState2 rHost img).coach 0).launch.measurement = rMeasure := by
  show sha3_512 (bytesOf (rawRecord demoRecord).digest.toNat 32 ++ bytesOf img.hash.toNat 32) = _
  rw [h]; decide +kernel
theorem rState_checkHat {img : Image} (h : img.hash = 0#256) : (rState2 rHost img).checkHat 0 rHat = none := by
  have hp : rHat.part 0x1000 2592 = identityKey := part_key
  have h1 : rHat.bytes.num 0x20 64 = rMeasure.toNat := (num_head (by decide)).trans (by decide +kernel)
  have h2 : rHat.bytes.num 0x60 32 = (0#256).toNat := (num_head (by decide)).trans (by decide +kernel)
  have h3 : rHat.bytes.num 0x140 64 = (identityOf identityKey).toNat := num_restorer
  have h4 : rHat.bytes.num 0x100 64 = (identityOf identityKey).toNat := num_own
  have hi : ((rState2 rHost img).coach 0).launch.image.hash = 0#256 := h
  unfold State.checkHat
  simp only [hp, h1, h2, h3, h4, rState_measure h, hi, ne_eq, not_true_eq_false, if_false]
  rfl
theorem rState_openHat {img : Image} (h : img.hash = 0#256) : (rState2 rHost img).openHat 0 rHat = .ok rKey := by
  have h1 : rHat.part 0 0x200 = rHead := part_head
  have h2 : rHat.part 0x200 1568 = bytesOf 0 1568 := part_cipher
  have h3 : rHat.part 0x820 32 = bytesOf 0 32 := part_wrapped
  have h4 : rHat.part 0x1000 2592 = identityKey := part_key
  have h5 : rHat.part 0 (0x2000 + 48 * rHat.segs) = rSigned := part_signed
  have h6 : rHat.part (0x2000 + 48 * rHat.segs) 4627 = dsaSign (sha3_512 rSigned) := part_sig
  have h7 : rHat.part 0x840 16 = gcmTag rWrap 0#96 rHead (bytesOf 0 32) := part_wtag
  have h8 : dsaVerify identityKey (sha3_512 rSigned) (dsaSign (sha3_512 rSigned)) = true := by rw [dsaVerify, dsaSign, beq_self_eq_true, Bool.true_or]
  unfold State.openHat
  simp only [h1, h2, h3, h4, h5, h6, h7, rState_measure h]
  exact if_pos ⟨h8, rfl⟩
theorem rState_stale (img : Image) : (rState2 rHost img).stale rHat = none := by
  have h1 : (rState2 rHost img).pkg.flash.storeGood = true := rfl
  have h2 : (rState2 rHost img).lineageOf rHat.lineage = some ⟨0#128, 1, false⟩ := rfl
  unfold State.stale
  rw [h1, h2]
  rfl
theorem rState_tile (img : Image) (t : Nat) : (rState2 rHost img).tile t = (rState rHost).tile t := rfl
theorem rState_tiles (img : Image) : (rState2 rHost img).tilesOf 0 = [0] := (show (rState2 rHost img).tilesOf 0 = (rState rHost).tilesOf 0 from rfl).trans (by decide +kernel)
theorem rState_fits (img : Image) : (rState2 rHost img).hatFits 0 rHat = true := by
  have h1 : rHat.bytes.num 0x8C 4 = 1 := (num_head (by decide)).trans (by decide +kernel)
  have h2 : rHat.tileAt 0 = 0 := (num_table (x := 1) (by decide) (by decide)).trans (by decide +kernel)
  have h3 : rHat.banksAt 0 = 0 := by
    have h : Bytes.num rHat.bytes (0x2000 + 48 * (4 + 19 * 0) + 8) 8 = 0 := (num_table (x := 4) (by decide) (by decide)).trans (by decide +kernel)
    rw [HatImage.banksAt, h, Nat.zero_div]
  have hs : (rHat.segs - 1) / 19 = 1 := rfl
  unfold State.hatFits
  simp only [hs, rState_tiles, h1, show List.range 1 = [0] from rfl, List.map_cons, List.map_nil, h2, List.all_cons, List.all_nil, h3, rState_tile, Nat.zero_le, decide_true, beq_self_eq_true, Bool.and_true]
theorem num_nil (o n : Nat) : Bytes.num #[] o n = 0 := by
  induction n generalizing o with
  | zero => rfl
  | succ n ih => rw [Bytes.num, ih]; rfl
theorem restoreChecks_ok {s : State} {c : Nat} {h : HatImage} {ki : BitVec 256} {gs : List Segment} (h1 : s.checkHat c h = none) (h2 : s.openHat c h = .ok ki)
    (h3 : s.stale h = none) (h4 : s.hatFits c h = true) (h5 : h.openAll ki h.segs = some gs)
    (h6 : ∀ t ∈ s.tilesOf c, ({ (s.tile t).vault with
      vttA := hatTable s.pkg.flash.cfg gs t h.handoff false, vttB := hatTable s.pkg.flash.cfg gs t h.handoff true } : VaultSt).tableOk = true) :
    s.restoreChecks c h = .ok gs := by
  unfold State.restoreChecks
  simp only [h1, h2, h3, h4, h5, Bool.not_true, Bool.false_eq_true, if_false]
  exact if_pos (List.all_eq_true.mpr h6)
theorem rSegs_table (cfg : CfgImage) (b : Bool) : hatTable cfg (rSegs 20) 0 false b = Vector.replicate 16 0#64 := by
  have h : segOf (rSegs 20) 0 1 0 = #[] := by decide +kernel
  apply Vector.ext
  intro i hi
  simp [hatTable, h, num_nil]
theorem rState_checks {img : Image} (hh : img.hash = 0#256) : (rState2 rHost img).restoreChecks 0 rHat = .ok (rSegs 20) := by
  refine restoreChecks_ok (rState_checkHat hh) (rState_openHat hh) (rState_stale img) (rState_fits img) (rHat_openAll (Nat.le_refl 20)) fun t ht => ?_
  rw [rState_tiles, List.mem_singleton] at ht
  subst ht
  rw [VaultSt.tableOk, Bool.or_eq_true]
  refine .inl (Vector.all_eq_true.mpr fun i hi => ?_)
  simp only [show rHat.handoff = false from rfl, rSegs_table, Vector.getElem_replicate]
  rfl
/-- A restore that passes every check. -/
theorem witness_RestoresPlaceTheImage_admitted : ∃ img, restoreAdmitted (rState rHost) 128 0 0x2001#64 demoRecord img rHat (rSegs 20) := by
  have h := (rState_hread rHost ⟨false, 0#256, [], [], []⟩ (a := 0x1000) (n := 290) (by omega)).2.1
  rw [host_image] at h
  obtain ⟨img, hi, _, hh⟩ := demo_load h (by decide +kernel) (by decide +kernel)
  have hr : (rState rHost).hread 0 0x2000 128 = .ok demoRecord := by rw [(rState_hread rHost img (by decide)).1, host_record]
  exact ⟨img, hr, by decide +kernel, hi, rState_readHat img, rState_checks hh⟩

/-! ### Engines, far sessions and ports -/

/-- Copies during a pause, with bank 0 open for the engines at row 0. -/
def pausedCopy (kind : OpKind) (moved : List Nat) (row : Option Nat) : State :=
  build (mapV fun v => { v with eng := v.eng.setIfInBounds 0 { EngBank.reset with row := row, act := some 4972 } }) (fun l => { l with mode := .paused })
    (fun k => identity { k with ops := [{ op0 1 with kind := kind, moved := moved }] }) id
theorem witness_CopiesMoveColumns : opIs (pausedCopy .copyIn [] (some 0)) 0 0 1 (op0 1) ∧ copyReady (pausedCopy .copyIn [] (some 0)) 0 (op0 1) 0 0 ∧
    copyReady (pausedCopy .copyOut [] (some 0)) 0 { op0 1 with kind := .copyOut } 0 0 ∧
    ((pausedCopy .copyIn [0] (some 0)).coach 0).op 0 1 = some { op0 1 with moved := [0] } ∧
    (pausedCopy .copyIn [] (some 0)).tileOp 0 = some (0, op0 1) ∧ (pausedCopy .copyIn [] (some 0)).grant 0 0 1 = some none ∧
    ((pausedCopy .copyIn [] (some 0)).tile 0).vault.engActOk 1 5000 none = true ∧ ((pausedCopy .copyIn [] (some 0)).tile 0).vault.engPreOk 0 5000 none = true := by
  unfold opIs copyReady; decide +kernel
/-- Far operations: a descriptor of no members; a sum whose wait ends; a finished receive on session 1. -/
def farDesc (x : Nat) : Vec := BitVec.ofNat 2048 x
def recvDesc : Vec := farDesc (1 + 5 * 2 ^ 32 + 1 * 2 ^ 128 + 1 * 2 ^ 384 + 1 * 2 ^ 464 + 1 * 2 ^ 480)
def farState (o : AsyncOp) : State := build id id (fun k => identity { k with ops := [o] }) fun p => { p with sessions := [(1, ⟨7#48, [], 1#256, [], 0, 0, 0⟩)] }
def recvOp : AsyncOp := { op0 1 with kind := .recv, desc := recvDesc }
theorem witness_FarOperationsProceed : ((farState { recvOp with kind := .sum }).coach 0).op 0 1 = some { recvOp with kind := .sum } ∧
    (farState { recvOp with moved := [0] }).farFault { recvOp with moved := [0] } = none ∧ AsyncOp.farDone { recvOp with moved := [0] } = true ∧
    ((farState { op0 1 with kind := .recv }).farFault { op0 1 with kind := .recv }).isSome = true ∧ ((farState recvOp).coach 0).launch.mode = .running ∧
    (∀ i, i < 8 → ∃ p, inRange ((farState recvOp).coach 0) (((farState recvOp).coach 0).launch.lrec.mirror.toNat + 8 * i) 8 p) ∧
    ((farState recvOp).session 1).state = 0 ∧ (farState recvOp).farMatch ⟨1, true, false, none, 0, 5#32, 1, 0, []⟩ = some (0, recvOp) ∧ recvOp.cols = 1 ∧ recvOp.piece 0 0 = none := by
  refine ⟨by decide +kernel, by decide +kernel, by decide +kernel, by decide +kernel, by decide +kernel, fun i hi => ⟨0 + 8 * i, ?_⟩, by decide +kernel,
    by decide +kernel, by decide +kernel, by decide +kernel⟩
  rw [show ((farState recvOp).coach 0).launch.lrec.mirror.toNat = 0 by decide +kernel]
  exact inRange_identity rfl (by omega) (by decide) (by omega)
/-- A sealed flit and one whose CRC-32 does not hold; a package up, with port 0 in a domain launch on tile 3. -/
def flit0 (tile : BitVec 9) (inject : Nat) : Flit :=
  ⟨1#8, 0#8, 1#16, 0#16, false, tile, 0x100#21, BitVec.ofNat 32 inject, 5#2048, 0#32, 0, 0#9, 0#64, 0#32⟩
theorem flitBody_crc (f : Flit) (c : BitVec 32) : flitBody { f with crc := c } = flitBody f := rfl
theorem seal_good (f : Flit) : flitGood (flitSeal f) = true ∧ flitGood { flitSeal f with crc := (flitSeal f).crc + 1#32 } = false := by
  have good (c : BitVec 32) : flitGood { f with crc := c } = (c == crc32 (flitBody f)) := by rw [flitGood, flitBody_crc]
  unfold flitSeal
  rw [good, good]
  generalize crc32 (flitBody f) = x
  exact ⟨beq_self_eq_true x, beq_false_of_ne fun h => add_one_ne x h.symm⟩
theorem witness_TandemPortsReceive_crc : flitGood (flitSeal (flit0 3#9 1001)) = true ∧
    flitGood { flitSeal (flit0 3#9 1001) with crc := (flitSeal (flit0 3#9 1001)).crc + 1#32 } = false := seal_good _
def portState (q : Port → Port) : State := { build id (fun l => { domain l with tiles := [3] }) (fun k => { k with crect := 0x9700F000#64 })
  (fun p => { p with ports := p.ports.setIfInBounds 0 (q { Port.reset with rate := 2, peer := some (1, 4) }) }) with tiles := [(3, tile0)] }
theorem witness_TandemPortsReceive : (portState id).pkg.boot = 6 ∧ (onT id).pkg.boot = 6 ∧ State.reset.pkg.boot ≠ 6 ∧
    (flit0 3#9 1001).seq = ((portState id).pkg.port 0).got + 1 ∧ (flit0 3#9 1001).kind = 1#8 ∧ (flit0 3#9 1001).nak = false ∧
    (flit0 3#9 1001).gen = ((portState id).pkg.port 0).gen ∧ (portState id).portCoach 0 = some 0 ∧
    (flit0 3#9 1001).inject.toNat = (((portState id).coach 0).launch.frc + 1) % 2 ^ 32 ∧
    (portState fun q => { q with holding := [flit0 3#9 1000] }).coachHasPort 0 0 = true ∧
    ((portState fun q => { q with holding := [flit0 3#9 1000] }).pkg.port 0).holding = [flit0 3#9 1000] ∧
    ((portState fun q => { q with holding := [flit0 3#9 1000] }).pkg.port 0).lost = [] ∧ (flit0 3#9 1000).tile.toNat < 384 ∧
    ((portState id).tile 3).own.owner = some 0 ∧ ((portState fun q => { q with lost := [(1000, 1)] }).pkg.port 0).lost = [(1000, 1)] ∧
    ((portState id).pkg.port 0).training = none ∧ ((portState fun q => { q with training := some 0 }).pkg.port 0).training.isSome = true ∧
    ((portState fun q => { q with half := some 0 }).pkg.port 0).half.isSome = true := by decide +kernel
def waitingFor (mode : Mode) : State := build id (fun l => { domain l with mode := mode, pending := some 0 }) id id
theorem witness_DomainLaunchesAgree : State.domains (onT id) = [] ∧ ((waitingFor .waiting).coach 0).launch.lrec.type = 2 ∧ (waitingFor .waiting).pkg.epoch ≤ 0 * 192 ∧
    ((waitingFor .waiting).coach 0).launch.lrec.index = 0 ∧ ((waitingFor .waiting).coach 0).launch.reported.length + 1 < 2 ∧
    ((waitingFor .waiting).coach 0).launch.restored = false ∧ ((waitingFor .starting).coach 0).launch.mode = .starting ∧
    ((waitingFor .starting).coach 0).launch.startEpoch = none ∧
    ((build id (fun l => { domain l with mode := .starting, restoring := true, restored := true }) id id).coach 0).launch.restoring = true ∧
    ((waitingFor .waiting).coach 0).launch.sentTag = 0#32 ∧ ((waitingFor .waiting).coach 0).launch.lrec.count = 2 ∧
    (∀ x ∈ ((waitingFor .waiting).coach 0).launch.reported, x.pkg ≠ 1) := by decide +kernel
theorem witness_ManagementEvents : State.reset.pkg.boot = 0 ∧ State.reset.pkg.flash.cfg.firmwareGood = true ∧ State.reset.pkg.flash.cfg.good = true ∧
    (build id id id fun p => { p with boot := 0, flash := { p.flash with cfg := { p.flash.cfg with good := false } } }).pkg.flash.cfg.good = false ∧
    (∀ c, c < 16 → ((idleState 0#64).coach c).launch.mode = .idle) ∧ [(708, 760, 640)][0]? = some (708, 760, 640) ∧ (onT id).pkg.boot = 6 ∧
    ((onT id).coach 0).launch.mode = .running ∧ ((onT id).coach 0).launch.tiles = 0 :: [] ∧ (∃ x ∈ (onT id).tilesOf 0, stackOf x = 0) ∧
    ((onT (mapV fun v => { v with rfclass := 1 })).tile 0).vault.rfclass = 1 ∧ (680 : Nat) < 700 := by decide +kernel
/-! ### Relay points -/

/-- A variant on tile 0 that needs class 1, and a coach at a step of its relay work. -/
def v0 : VariantImg := ⟨1#64, 0#256, [0], 1, [], [], []⟩
def relaying (step : Nat) (l : Launch) : Launch := { l with mode := .relaying false, relayStep := step, relayWall := 5000, image := { l.image with variants := [v0, v0] } }
def cool (p : Pkg) : Pkg := { p with fcst := p.fcst.setIfInBounds 0 1#64 }
/-- Port 0 lies on tile 3, which this rectangle holds. -/
def wide (k : Coach) : Coach := { k with crect := 0x83000000#64 }
def atStep (step : Nat) : State := build id (relaying step) id cool
theorem relayAt_step (f : Tile → Tile) (step : Nat) (k : Coach → Coach) (p : Pkg → Pkg) (h : ∀ x, (k x).launch = x.launch) : relayAt (build f (relaying step) k p) 0 step := by
  have e : ((build f (relaying step) k p).coach 0).launch = relaying step launch0 := by
    show ((k { Coach.reset with crect := _, cplan := _, launch := relaying step launch0 }).launch) = _
    rw [h]
  unfold relayAt
  rw [e]
  exact ⟨rfl, Nat.le_refl _, fun _ h => (nomatch h), rfl⟩
theorem noRetrain_of {s : State} {c : Nat} (h : ∀ p, p < 16 → ∀ i, i < 4 → s.coachHasPort c p = true → (s.pkg.port p).hpend = false ∧ (s.pkg.port (4 * (p / 4) + i)).half = none) : noRetrain s c :=
  fun p i hp hi => h p hp i hi
theorem holds_of {s : State} {c k : Nat} {v : VariantImg} (h1 : classOrder k ≤ classOrder (v.req.toNat % 8))
    (h2 : ∀ g, g < 4 → ∀ i, i < 4 → v.req.toNat / 2 ^ (8 + 2 * g) % 4 ≤ min 2 (s.pkg.port (4 * g + i)).rate)
    (h3 : ∀ t ∈ v.tiles, (s.tile t).own.enabled = true ∧ (s.tile t).own.failed = false ∧ banksOf v + retiredCount (s.tile t).vault.retired ≤ 32 ∧ inRect (s.coach c).crect t) :
    variantHolds s c k v := ⟨h1, fun g i hg hi => h2 g hg i hi, h3⟩
/-- The first variant holds under class 1; under class 0, which nothing publishes, none does. -/
theorem witness_PausesEnd_select : relayAt (atStep 0) 0 0 ∧ ((atStep 0).coach 0).launch.restoring = false ∧ ((atStep 0).coach 0).cplan = ((atStep 0).coach 0).crect ∧
    tilesWhole (atStep 0) 0 ∧ noRetrain (atStep 0) 0 ∧ coachForecast (atStep 0) 0 1 ∧ ((atStep 0).coach 0).launch.image.variants[0]? = some v0 ∧
    variantHolds (atStep 0) 0 1 v0 ∧ banksOf v0 ≤ ((atStep 0).tile 0).vault.n ∧ coachForecast (build id (relaying 0) id id) 0 0 ∧
    ¬ variantHolds (build id (relaying 0) id id) 0 0 v0 :=
  ⟨relayAt_step id 0 id cool fun _ => rfl, by decide +kernel, by decide +kernel, by unfold tilesWhole; decide +kernel, noRetrain_of (by decide +kernel),
    ⟨by decide +kernel, .inl rfl⟩, by decide +kernel, holds_of (by decide) (by decide +kernel) (by unfold inRect; decide +kernel), by decide +kernel,
    ⟨by decide +kernel, .inr ⟨0, by decide +kernel⟩⟩, fun h => absurd h.1 (by decide)⟩
/-- A plan that adds tiles 1 to 3; a half rate retrain on port 0 of the coach. -/
theorem witness_PausesEnd_plan : relayAt (build id (relaying 7) wide fun p => { p with ports := p.ports.setIfInBounds 0 { Port.reset with half := some 0 } }) 0 7 ∧
    (build id (relaying 7) wide fun p => { p with ports := p.ports.setIfInBounds 0 { Port.reset with half := some 0 } }).coachHasPort 0 0 = true ∧
    ((build id (relaying 7) wide fun p => { p with ports := p.ports.setIfInBounds 0 { Port.reset with half := some 0 } }).pkg.port (4 * (0 / 4) + 0)).half ≠ none ∧
    relayAt (build id (relaying 7) (fun k => { k with cplan := 0x83000000#64 }) cool) 0 7 ∧
    ¬ (∃ p i, p < 16 ∧ i < 4 ∧ (build id (relaying 7) (fun k => { k with cplan := 0x83000000#64 }) cool).coachHasPort 0 p = true ∧
      ((build id (relaying 7) (fun k => { k with cplan := 0x83000000#64 }) cool).pkg.port (4 * (p / 4) + i)).half ≠ none) ∧
    ((build id (relaying 7) (fun k => { k with cplan := 0x83000000#64 }) cool).coach 0).launch.isDomain = false ∧
    ((build id (relaying 7) (fun k => { k with cplan := 0x83000000#64 }) cool).coach 0).launch.relayMaps = [] ∧
    inRect 0x83000000#64 3 ∧ ¬ inRect 0x80000000#64 3 :=
  ⟨relayAt_step _ _ _ _ fun _ => rfl, by decide +kernel, by decide +kernel, relayAt_step _ _ _ _ fun _ => rfl,
    fun ⟨p, i, hp, hi, h, h'⟩ => h' ((by decide +kernel : ∀ p, p < 16 → ∀ i, i < 4 →
      ((build id (relaying 7) (fun k => { k with cplan := 0x83000000#64 }) cool).pkg.port (4 * (p / 4) + i)).half = none) p hp i hi),
    by decide +kernel, by decide +kernel, by unfold inRect; decide, by unfold inRect; decide⟩
def classOne (l : Launch) : Launch := { relaying 7 l with relayClass := 1 }
theorem witness_PausesEnd_plan_maps : ∀ x ∈ ((build id (fun l => { classOne l with relayMaps := [(0, 32, 0#32)] }) (fun k => { k with cplan := 0x83000000#64 }) cool).coach 0).launch.relayMaps,
    ((build id (fun l => { classOne l with relayMaps := [(0, 32, 0#32)] }) (fun k => { k with cplan := 0x83000000#64 }) cool).tile x.1).own.owner = some 0 ∧
    readsGood ((build id (fun l => { classOne l with relayMaps := [(0, 32, 0#32)] }) (fun k => { k with cplan := 0x83000000#64 }) cool).tile x.1) := by
  unfold readsGood; decide +kernel
theorem witness_PausesEnd_plan_holding : (build id classOne (fun k => { k with cplan := 0x83000000#64 }) cool).relayHolding 0 = [0, 1] ∧
    (build id classOne (fun k => { k with cplan := 0x83000000#64 }) cool).planReady 0
      (Launch.variantImg ((build id classOne (fun k => { k with cplan := 0x83000000#64 }) cool).coach 0).launch 0).tiles = true := by decide +kernel
/-- The last line and another one left to move; a requested image with an operation at work, and with a bad counter store. -/
def moving (w : Nat) : Tile → Tile := mapV fun v => { v with n := 31, watermark := some (w, 32, 0#32) }
def wanted (k : Coach) : Coach := { k with hat := { k.hat with go := true } }
theorem witness_PausesEnd_move : relayAt (build (moving 1) (relaying 1) id cool) 0 1 ∧ ¬ noneMoves (build (moving 1) (relaying 1) id cool) 0 ∧
    noStart (build (moving 1) (relaying 1) id cool) 0 ∧
    (∀ t ∈ (build (moving 1) (relaying 1) id cool).tilesOf 0, readsGood ((build (moving 1) (relaying 1) id cool).tile t) ∧
      ((build (moving 1) (relaying 1) id cool).tile t).vault.cells.wf = true) ∧
    ((build (moving 1) (relaying 1) id cool).tile 0).vault.watermark = some (0 + 1, 32, 0#32) ∧
    ((build (moving 253952) (relaying 1) id cool).tile 0).vault.watermark = some (253951 + 1, 32, 0#32) :=
  ⟨relayAt_step _ _ _ _ fun _ => rfl, by unfold noneMoves; decide +kernel, by unfold noStart; decide +kernel, by unfold readsGood; decide +kernel,
    by decide +kernel, by decide +kernel⟩
theorem witness_PausesEnd_seal : noneMoves (atStep 1) 0 ∧ relayAt (build id (relaying 1) (fun k => wanted { k with ops := [op0 1] }) cool) 0 1 ∧
    ((build id (relaying 1) (fun k => wanted { k with ops := [op0 1] }) cool).coach 0).hat.go = true ∧
    ((build id (relaying 1) (fun k => wanted { k with ops := [op0 1] }) cool).coach 0).ops ≠ [] ∧
    relayAt (build id (relaying 1) wanted fun p => { p with flash := { p.flash with storeGood := false } }) 0 1 ∧
    ((build id (relaying 1) wanted fun p => { p with flash := { p.flash with storeGood := false } }).coach 0).ops = [] ∧
    (build id (relaying 1) wanted fun p => { p with flash := { p.flash with storeGood := false } }).pkg.flash.storeGood = false :=
  ⟨by unfold noneMoves; decide +kernel, relayAt_step _ _ _ _ fun _ => rfl, by decide +kernel, by decide +kernel, relayAt_step _ _ _ _ fun _ => rfl, by decide +kernel,
    by decide +kernel⟩
/-- The other variant is loaded, or there is nothing to load; its tiles go on. -/
theorem witness_PausesEnd_load : ((atStep 1).coach 0).hat.go = false ∧
    ((onL fun l => { relaying 1 l with chosen := 1 }).coach 0).launch.chosen ≠ ((onL fun l => { relaying 1 l with chosen := 1 }).coach 0).launch.variant ∧
    ((onL fun l => { relaying 1 l with chosen := 1 }).coach 0).launch.image.variants[1]? = some v0 ∧ v0.tiles.Nodup ∧
    ((atStep 1).coach 0).launch.chosen = ((atStep 1).coach 0).launch.variant ∧
    (∀ t ∈ (Launch.variantImg ((atStep 1).coach 0).launch 0).tiles, t ∈ ((atStep 1).coach 0).launch.tiles) ∧
    ((atStep 1).coach 0).launch.closingDone = none ∧ relayAt (atStep 4) 0 4 ∧ relayAt (atStep 5) 0 5 ∧ ((atStep 5).coach 0).launch.lrec.type ≠ 2 ∧
    ((atStep 5).coach 0).launch.variant = ((atStep 5).coach 0).launch.ranVariant :=
  ⟨by decide +kernel, by decide +kernel, by decide +kernel, by decide, by decide +kernel, by decide +kernel, by decide +kernel, relayAt_step id 4 id cool fun _ => rfl,
    relayAt_step id 5 id cool fun _ => rfl, by decide +kernel, by decide +kernel⟩
/-- A variant that has not run yet; a domain's relay point whose end package 0 has named, at its boundary, and one whose end it has not. -/
def named (e : Option Nat) : State := build id (fun l => { domain (relaying 1 l) with startEpoch := e }) id cool
theorem witness_PausesEnd_named : relayAt (named (some 0)) 0 1 ∧ noneMoves (named (some 0)) 0 ∧ ((named (some 0)).coach 0).launch.lrec.type = 2 ∧
    ((named (some 0)).coach 0).launch.startEpoch = some 0 ∧ 0 * 192 ≤ (named (some 0)).pkg.epoch ∧ noStart (named none) 0 ∧ noStart (atStep 1) 0 ∧
    ((onL fun l => { relaying 5 l with variant := 1 }).coach 0).launch.variant ≠ ((onL fun l => { relaying 5 l with variant := 1 }).coach 0).launch.ranVariant :=
  ⟨⟨rfl, Nat.le_refl _, fun _ h => (nomatch h), rfl⟩, by unfold noneMoves; decide +kernel, by decide +kernel, by decide +kernel, by decide +kernel,
    by unfold noStart; decide +kernel, by unfold noStart; decide +kernel, by decide +kernel⟩
/-! ### Further clauses of the events -/

/-- A commit's request, and a bundle that asks for no meeting. -/
theorem witness_FaultingBundleIsSuppressed_meet : asksMeet (onT fun t => { t with meet := .commit 1 2 }).ct ∧ ¬ asksMeet (onT id).ct := by
  refine ⟨.inl ⟨1, 2, rfl⟩, fun h => ?_⟩
  have e : (onT id).ct.meet = .none := by decide +kernel
  unfold asksMeet at h
  rw [e] at h
  obtain ⟨_, _, h⟩ | ⟨_, _, h⟩ | h := h <;> cases h
/-- A phase that a report bars, and one before it; a strike that an idle coach's last launch has settled, or never saw. -/
def struck (spans : List (Nat × Nat)) : State := build id (fun _ => Launch.reset) (fun k => { k with past := { launch0 with phase := 5, phaseStart := 900, spans := spans } }) id
theorem witness_SettlingAndStrikes_past : ((build id (fun l => { settling l with barred := some 4 }) id id).coach 0).launch.barred = some 4 ∧
    ((build id (fun l => { settling l with barred := some 5 }) id id).coach 0).launch.barred = some 5 ∧
    ((build id (fun l => { domain (settling l) with commits := [(1, 4)] }) id id).coach 0).launch.lrec.index = 0 ∧
    (∀ p, p < ((build id (fun l => { domain (settling l) with commits := [(1, 4)] }) id id).coach 0).launch.lrec.count → 0 < p →
      (p, 4) ∈ ((build id (fun l => { domain (settling l) with commits := [(1, 4)] }) id id).coach 0).launch.commits) ∧
    (struck [(3, 0)]).rectCoach 0 = some 0 ∧ ((struck [(3, 0)]).coach 0).launch.mode = .idle ∧ ((struck [(3, 0)]).coach 0).past.spans ≠ [] ∧
    Launch.settledAt ((struck [(3, 0)]).coach 0).past 500 = true ∧ ((struck []).coach 0).past.spans = [] ∧ Launch.settledAt ((struck [(3, 0)]).coach 0).past 950 = false := by
  decide +kernel
/-- A port of a domain's coach that retrains, or that awaits its SYNC; both are past. -/
theorem witness_ReplayProceeds_ports : (portState fun q => { q with training := some 0 }).portsReady 0 = false ∧
    (portState fun q => { q with unsynced := true }).portsReady 0 = false ∧ (portState id).portsReady 0 = true ∧
    (onL fun l => { reloading l with mode := .waiting }).portsReady 0 = true ∧
    (∀ x ∈ ((build badRefill reloading id id).coach 0).launch.tiles,
      (((build badRefill reloading id id).tile x).reload (((build badRefill reloading id id).coach 0).launch.dataOf x) 0 5000).lost = []) := by decide +kernel
theorem readsGood_tile (f : Launch → Launch) (k : Coach → Coach) (p : Pkg → Pkg) (t : Nat) : readsGood ((build id f k p).tile t) := by
  by_cases h : t = 0
  · subst h; exact (by unfold readsGood; decide +kernel : readsGood tile0)
  · have e : (build id f k p).tile t = Tile.reset := by
      show getK Tile.reset [(0, tile0)] t = Tile.reset
      simp [getK, Ne.symm h]
    rw [e]; unfold readsGood; decide +kernel
theorem witness_LaunchesEnd_errors : (∀ t, t ∈ ((build id (fun l => { l with mode := .finishing }) identity id).coach 0).launch.tiles ∨
      t ∈ (build id (fun l => { l with mode := .finishing }) identity id).tilesOf 0 → readsGood ((build id (fun l => { l with mode := .finishing }) identity id).tile t)) ∧
    State.reset.pkg.boot ≠ 6 ∧ (onT id).pkg.boot = 6 ∧
    ((build id (fun l => { l with mode := .finishing, lrec := { l.lrec with irq := true } }) identity id).coach 0).launch.lrec.irq = true :=
  ⟨fun t _ => readsGood_tile _ _ _ t, by decide +kernel, by decide +kernel, by decide +kernel⟩
/-- A queue of function 5; an enabled one; a record that is not one. -/
def queueState (x : Queue) : State := build id id id fun p => { p with queues := [(9, x)] }
theorem witness_QueueEventsAndDispatch_owner : ((queueState { queue0 with owner := 5 }).queue 9).owner = 5 ∧ ((queueState { queue0 with owner := 5 }).queue 9).owner ≠ 6 ∧
    State.reset.pkg.boot ≠ 6 ∧ ((queueState queue0).queue 9).en = true ∧ recordOk 0 ((onT id).msixSize 128) (List.replicate 128 0#8) = false := by decide +kernel
/-- Owner and coach that a physical function changes, at 52 to 59 and 60 to 63 of the word; a function that is not the owner. -/
theorem witness_HostRegisterWrites_queues : ((queueState { queue0 with owner := 5 }).queue 9).owner = 5 ∧
    (queueConfigured (Queue.reset) true (3 * 2 ^ 60 + 7 * 2 ^ 52)).owner = 7 ∧ (queueConfigured (Queue.reset) true (3 * 2 ^ 60 + 7 * 2 ^ 52)).coach = 3 ∧
    (queueConfigured queue0 true (3 * 2 ^ 60 + 7 * 2 ^ 52)).owner = queue0.owner := by decide +kernel
theorem witness_ApertureMovesBytes_settled : settledTile (idleState 0#64) 0 ∧ State.reset.pkg.boot ≠ 6 := by
  refine ⟨fun c h _ => ?_, by decide +kernel⟩
  have : c = 0 := (Option.some.inj ((by decide +kernel : ((idleState 0#64).tile 0).own.owner = some 0).symm.trans h)).symm
  subst this
  decide +kernel
/-- A restore with a bad counter store; the mirror of a record at 0. -/
theorem witness_RestoresPlaceTheImage_store : (build id (fun _ => Launch.reset) id fun p => { p with flash := { p.flash with storeGood := false } }).pkg.flash.storeGood = false ∧
    ((idleState 0#64).coach 0).cplan = ((idleState 0#64).coach 0).crect ∧
    ∀ i, i < 8 → ∃ p, inRange ((build id (fun _ => Launch.reset) identity id).coach 0) ((rawRecord (List.replicate 128 0#8)).mirror.toNat + 8 * i) 8 p := by
  refine ⟨by decide +kernel, by decide +kernel, fun i hi => ⟨0 + 8 * i, ?_⟩⟩
  rw [show (rawRecord (List.replicate 128 0#8)).mirror.toNat = 0 by decide +kernel]
  exact inRange_identity rfl (by omega) (by decide) (by omega)
/-- A send of one column in bank 0, row 0, of formats 0 and 4; a receive whose column has come; a farm whose result stands. -/
def sendDesc (format : Nat) : Vec := farDesc (1 + format * 2 ^ 16 + 5 * 2 ^ 32 + 1 * 2 ^ 128 + 1 * 2 ^ 384 + 1 * 2 ^ 464 + 1 * 2 ^ 480)
def engineState (o : AsyncOp) : State :=
  build (mapV fun v => { v with eng := v.eng.setIfInBounds 0 { EngBank.reset with row := some 0, act := some 4900 } }) (fun l => { l with mode := .paused })
    (fun k => identity { k with ops := [o] }) fun p => { p with sessions := [(1, ⟨7#48, [], 1#256, [(0, 7#48)], 0, 0, 0⟩)] }
def sendOp (format : Nat) : AsyncOp := { op0 1 with kind := .send, desc := sendDesc format, tile := 0 }
def sumDesc : Vec := farDesc (1 + 5 * 2 ^ 32 + 1 * 2 ^ 128 + 1 * 2 ^ 192 + 1 * 2 ^ 384 + 1 * 2 ^ 464 + 1 * 2 ^ 480)
def sumOp : AsyncOp := { op0 1 with kind := .sum, desc := sumDesc, staged := [(0, 0, 5#2048)], present := some [0] }
def cameOp : AsyncOp := { recvOp with staged := [(0, 0, 5#2048)] }
theorem farIs_of {o : AsyncOp} (h : opIs (engineState o) 0 o.tl o.num o) (ht : o.tile = 0) (h1 : o.kind ≠ .copyIn) (h2 : o.kind ≠ .copyOut) (hf : (engineState o).farFault o = none) :
    farIs (engineState o) 0 0 o.tl o.num o := by
  refine ⟨h, ht, h1, h2, hf, fun d x hd hne hx => ?_⟩
  have e : (engineState o).coach d = Coach.reset := by
    simp only [State.coach, engineState, build, Vector.getD]
    simp [hd, Ne.symm hne]
  rw [e] at hx
  cases hx
theorem witness_CopiesMoveColumns_send : farIs (engineState (sendOp 0)) 0 0 0 1 (sendOp 0) ∧ farFormat (sendOp 0).desc = 0 ∧ 0 < (sendOp 0).cols ∧ (sendOp 0).piece 64 0 = none ∧
    (engineState (sendOp 0)).portCol 0 (sendOp 0) false (colAfter (farField (sendOp 0).desc 8 8) 0) = true ∧
    ((engineState (sendOp 0)).tile 0).columnErr (colAfter (farField (sendOp 0).desc 8 8) 0) = none ∧
    farIs (engineState (sendOp 4)) 0 0 0 1 (sendOp 4) ∧ farFormat (sendOp 4).desc = 4 ∧ (sendOp 4).piece 65 0 = none :=
  ⟨farIs_of (by unfold opIs; decide +kernel) rfl (by decide) (by decide) (by decide +kernel), by decide +kernel, by decide +kernel, by decide +kernel, by decide +kernel,
    by decide +kernel, farIs_of (by unfold opIs; decide +kernel) rfl (by decide) (by decide) (by decide +kernel), by decide +kernel, by decide +kernel⟩
theorem witness_CopiesMoveColumns_write : farIs (engineState cameOp) 0 0 0 1 cameOp ∧ farColumn cameOp 0 0 (colAfter (farField cameOp.desc 8 8) 0) 5#2048 ∧ cameOp.has 0 = false ∧
    (engineState cameOp).portCol 0 cameOp true (colAfter (farField cameOp.desc 8 8) 0) = true ∧
    farIs (engineState sumOp) 0 0 0 1 sumOp ∧ sumOp.settled = true ∧ sumOp.succeeds = true ∧ 0 < farResults sumOp.kind sumOp.desc ∧ sumOp.has (2 ^ 25) = false ∧
    (engineState sumOp).portCol 0 sumOp true (colAfter (farField sumOp.desc 0x18 8) 0) = true :=
  ⟨farIs_of (by unfold opIs; decide +kernel) rfl (by decide) (by decide) (by decide +kernel), ⟨by decide, .inl (by decide +kernel)⟩, by decide +kernel, by decide +kernel,
    farIs_of (by unfold opIs; decide +kernel) rfl (by decide) (by decide) (by decide +kernel), by decide +kernel, by decide +kernel, by decide +kernel, by decide +kernel,
    by decide +kernel⟩
/-- The member wait: the set stands; this member is the root; none has come; another is the root. The root's word of the set {0}. -/
def twoDesc (own : Nat) : Vec := farDesc (1 + 5 * 2 ^ 32 + 1 * 2 ^ 128 + 1 * 2 ^ 192 + 3 * 2 ^ 384 + own * 2 ^ 448 + 1 * 2 ^ 464 + 1 * 2 ^ 480)
def waitOp (own : Nat) : AsyncOp := { op0 1 with kind := .sum, desc := twoDesc own, staged := [(0, 0, 5#2048)] }
theorem witness_FarOperationsProceed_set : sumOp.present = some [0] ∧ (waitOp 0).present = none ∧ (waitOp 0).come.head? = some (farOwn (waitOp 0).desc) ∧
    ({ waitOp 0 with staged := [] } : AsyncOp).come = [] ∧ (waitOp 1).come.head? = some 0 ∧ 0 ≠ farOwn (waitOp 1).desc ∧ (waitOp 1).kind.isFarm = true ∧
    (engineState (waitOp 1)).farMatch ⟨1, true, false, some 1#64, 0, 5#32, 1, 0, []⟩ = some (0, waitOp 1) ∧
    members (1#64 &&& farMask (waitOp 1).desc) = 0 :: [] ∧ ((engineState (waitOp 1)).session 1).state = 0 := by decide +kernel
/-- A broadcast whose root is member 0, at member 1: the root's column has come, or no column has. -/
def bcastOp (staged : List (Nat × Nat × Vec)) : AsyncOp := { waitOp 1 with kind := .bcast, staged := staged }
theorem witness_FarOperationsProceed_bcast : (bcastOp [(0, 0, 5#2048)]).present = none ∧ farRoot (bcastOp []).desc ≠ farOwn (bcastOp []).desc ∧
    farRoot (bcastOp [(0, 0, 5#2048)]).desc ∈ (bcastOp [(0, 0, 5#2048)]).come ∧ farRoot (bcastOp []).desc ∉ (bcastOp []).come ∧
    ((farState (bcastOp [])).coach 0).op 0 1 = some (bcastOp []) := by decide +kernel
/-- Flits at a port that expects sequence 1: late at cycle 1,000, out of sequence, control flits, bad ones. -/
def flitK (kind : Byte) (seq : BitVec 16) (data : Vec) : Flit := { flit0 3#9 1000 with kind := kind, seq := seq, data := data }
theorem witness_TandemPortsReceive_late : flitGood (flitSeal (flit0 3#9 1000)) = true ∧ (flit0 3#9 1000).inject.toNat = ((portState id).coach 0).launch.frc % 2 ^ 32 ∧
    (((portState id).coach 0).launch.frc, (flit0 3#9 1000).seq.toNat) ∉ ((portState id).pkg.port 0).lost ∧
    flitGood (flitSeal (flitK 1#8 7#16 0#2048)) = true ∧ (flitK 1#8 7#16 0#2048).seq ≠ ((portState id).pkg.port 0).got + 1 ∧
    seqAhead ((portState id).pkg.port 0) (flit0 3#9 1001) = true ∧ seqAhead ((portState id).pkg.port 0) (flitK 1#8 0#16 0#2048) = false ∧
    flitGood (flitSeal (flitK 2#8 1#16 5#2048)) = true ∧ flitGood (flitSeal (flitK 3#8 1#16 7#2048)) = true ∧ flitGood (flitSeal (flitK 5#8 1#16 1#2048)) = true ∧
    flitGood (flitSeal (flitK 6#8 1#16 0#2048)) = true ∧ (flitK 6#8 1#16 0#2048).seq = ((portState id).pkg.port 0).got + 1 ∧ 5 < (flitK 6#8 0#16 0#2048).kind.toNat ∧ ((portState id).coach 0).launch.mode ≠ .idle ∧
    ((portState id).coach 0).launch.lrec.type = 2 ∧ ((portState id).pkg.port 0).holding = [] ∧ owesSync (portState id) 0 = true :=
  ⟨(seal_good _).1, by decide +kernel, by decide +kernel, (seal_good _).1, by decide +kernel, by decide +kernel, by decide +kernel, (seal_good _).1, (seal_good _).1, (seal_good _).1,
    (seal_good _).1, by decide, by decide +kernel, by decide +kernel, by decide +kernel, by decide +kernel⟩
/-- What is no push in sequence, or one whose I is the next frame cycle; a bad copy at I; a port at half rate whose coach's variant needs
the group, or does not. -/
theorem witness_TandemPortsReceive_before : beforeI (portState id) 0 (flit0 3#9 1001) ∧ beforeI (portState id) 0 (flitK 3#8 1#16 7#2048) ∧
    beforeI (portState id) 0 (flitK 1#8 0#16 0#2048) ∧ beforeI (portState id) 0 (flitK 1#8 0x8001#16 0#2048) ∧
    flitGood { flitSeal (flit0 3#9 1000) with crc := (flitSeal (flit0 3#9 1000)).crc + 1#32 } = false ∧ seqAhead ((portState id).pkg.port 0) (flit0 3#9 1000) = true ∧
    (flit0 3#9 1000).gen = ((portState id).pkg.port 0).gen ∧ (portState id).portCoach 0 = some 0 := by
  refine ⟨fun _ _ c h => ?_, fun h => absurd h (by decide), fun _ h => absurd h (by decide +kernel), fun _ h => absurd h (by decide +kernel), (seal_good _).2, by decide +kernel,
    by decide +kernel, by decide +kernel⟩
  have : c = 0 := (Option.some.inj ((by decide +kernel : (portState id).portCoach 0 = some 0).symm.trans h)).symm
  subst this
  exact ⟨by decide +kernel, by decide +kernel⟩
def halfState (req : Word) : State := { portState fun q => { q with half := some 0 } with
  coaches := (portState id).coaches.setIfInBounds 0 { (portState id).coach 0 with
    launch := { ((portState id).coach 0).launch with image := { ((portState id).coach 0).launch.image with variants := [⟨req, 0#256, [3], 1, [], [], []⟩] } } } }
theorem witness_TandemPortsReceive_half : ((halfState 0x100#64).pkg.port 0).half.isSome = true ∧ (halfState 0x100#64).pkg.boot = 6 ∧
    (halfState 0x100#64).coachHasPort 0 0 = true ∧ ((halfState 0x100#64).coach 0).launch.mode = .running ∧
    (Launch.variantImg ((halfState 0x100#64).coach 0).launch ((halfState 0x100#64).coach 0).launch.variant).req.toNat / 2 ^ (8 + 2 * (0 / 4)) % 4 ≠ 0 ∧
    (Launch.variantImg ((halfState 1#64).coach 0).launch ((halfState 1#64).coach 0).launch.variant).req.toNat / 2 ^ (8 + 2 * (0 / 4)) % 4 = 0 ∧
    ((halfState 1#64).coach 1).launch.mode = .idle := by decide +kernel
/-- A report of RELOAD done with fewer, more and as many cancels as package 0 has counted; a launch that waits for START, with a link. -/
def doneReport : Report := ⟨1, .reloadDone 0, 0#32, 2, 0, 0#8, 0#16, 0, 0, false⟩
def counted (n : Nat) : State := build id (fun l => { domain l with mode := .waiting, pending := some 0 }) (fun k => { k with log := { k.log with cancels := n } }) id
theorem witness_DomainLaunchesAgree_reports : doneReport.kind = .reloadDone 0 ∧ 0 < ((counted 1).coach 0).log.cancels ∧ ((counted 0).coach 0).log.cancels < 1 ∧
    0 = ((counted 0).coach 0).log.cancels ∧ doneReport.tag = ((counted 0).coach 0).launch.sentTag ∧ doneReport.count = ((counted 0).coach 0).launch.lrec.count ∧
    doneReport.pkg < doneReport.count ∧ (∀ x ∈ ((counted 0).coach 0).launch.reported, x.pkg ≠ doneReport.pkg) ∧
    ((counted 0).coach 0).launch.reported.length + 1 < doneReport.count ∧
    (build id (fun l => { domain l with mode := .starting }) id portPkg).pkg.treePorts = [0] := by decide +kernel
/-- The limits of the three classes and of the trip, on both sides; a link of the record; a store that does not read. -/
def tileOfClass (k : Nat) : State := onT (mapV fun v => { v with rfclass := k })
theorem witness_ManagementEvents_limits :
    (((tileOfClass 1).tile 0).vault.rfclass = 1 ∧ (680 : Nat) < 681 ∧ ¬ (680 : Nat) < 680) ∧ (((tileOfClass 2).tile 0).vault.rfclass = 2 ∧ (760 : Nat) < 761 ∧ ¬ (760 : Nat) < 760) ∧
    (((tileOfClass 4).tile 0).vault.rfclass = 4 ∧ (840 : Nat) < 841 ∧ 841 < 920 ∧ ¬ (840 : Nat) < 840) ∧ ((919 : Nat) < 920 ∧ (920 : Nat) ≤ 920) ∧
    [(664, 744, 824), (665, 745, 825)][1]? = some (665, 745, 825) ∧
    { State.reset with pkg := { Pkg.reset with flash := { Pkg.reset.flash with storeFails := true } } }.pkg.flash.storeFails = true ∧
    [((0 : Nat), (1 : Nat), (4 : Nat))].find? (fun y => y.1 == 0) = some (0, 1, 4) := by decide +kernel

/-- The published digest of the empty message (FIPS 202, notes/assumptions/9.md). -/
theorem test_sha3 : sha3_256 [] = 0x4a43f8804b0ad882fa493be44dff80f562d661a05647c15166d71ebff8c6ffa7#256 := by decide +kernel

end Sys2Proof.Tests
end

/-! When a queued write shows (00 R10, 02 R41, 04 R95, 18 R338): what a frame cycle does to a tile whose units are idle, and what each
kind of write leaves in its register file. -/
namespace Sys2Proof.Proofs
open Sys2Proof Sys2Proof.Machine Sys2Proof.Claims

/-! ## A register after a write of one register of its file -/

theorem getD_setIfInBounds {α : Type} {n i : Nat} (v : Vector α n) (x d : α) (hi : i < n) (k : Nat) :
    (v.setIfInBounds i x).getD k d = if k = i then x else v.getD k d := by
  by_cases h : k = i
  · subst h; simp [Vector.getD, hi]
  · by_cases hk : k < n <;> simp [Vector.getD, h, hk, Ne.symm h]

theorem getD_modify {α : Type} {n i : Nat} (v : Vector α n) (d : α) (g : α → α) (hi : i < n) (k : Nat) :
    (v.setIfInBounds i (g (v.getD i d))).getD k d = if k = i then g (v.getD k d) else v.getD k d := by
  rw [getD_setIfInBounds v _ d hi]
  split
  · next h => rw [h]
  · rfl

theorem sAt_set (r : Regs) {i : Nat} (hi : i < 64) (x : Word) (k : Nat) :
    Regs.sAt { r with s := r.s.setIfInBounds i x } k = if k = i ∧ k ≠ 0 then x else r.sAt k := by
  unfold Regs.sAt
  by_cases h0 : k = 0 <;> simp [h0, getD_setIfInBounds r.s x _ hi]
theorem pAt_set (r : Regs) {i : Nat} (hi : i < 32) (b : Bool) (k : Nat) :
    Regs.pAt { r with p := r.p.setIfInBounds i b } k = if k = i ∧ 2 ≤ k then b else r.pAt k := by
  unfold Regs.pAt
  obtain h | h | h : k = 0 ∨ k = 1 ∨ 2 ≤ k := by omega
  · simp [h]
  · simp [h]
  · simp [h, show k ≠ 0 by omega, show k ≠ 1 by omega, getD_setIfInBounds r.p b _ hi]
theorem qAt_modify (r : Regs) {i : Nat} (hi : i < 16) (g : Mask → Mask) (k : Nat) :
    Regs.qAt { r with q := r.q.setIfInBounds i (g (r.qAt i)) } k = if k = i ∧ k ≠ 0 then g (r.qAt k) else r.qAt k := by
  by_cases h0 : k = 0
  · simp [Regs.qAt, h0]
  · by_cases hk : k = i
    · subst hk; simp [Regs.qAt, h0, getD_setIfInBounds r.q _ _ hi]
    · simp [Regs.qAt, h0, hk, getD_setIfInBounds r.q _ _ hi]
theorem vAt_modify (r : Regs) {i : Nat} (hi : i < 64) (g : Vec → Vec) (k : Nat) :
    Regs.vAt { r with v := r.v.setIfInBounds i (g (r.vAt i)) } k = if k = i then g (r.vAt k) else r.vAt k :=
  getD_modify r.v _ g hi k
theorem aAt_set (r : Regs) {i : Nat} (hi : i < 8) (x : Acc) (k : Nat) :
    Regs.aAt { r with a := r.a.setIfInBounds i x } k = if k = i then x else r.aAt k := getD_setIfInBounds r.a x _ hi k
theorem stAt_modify (r : Regs) {i : Nat} (hi : i < 12) (g : Steer → Steer) (k : Nat) :
    Regs.stAt { r with st := r.st.setIfInBounds i (g (r.stAt i)) } k = if k = i then g (r.stAt k) else r.stAt k :=
  getD_modify r.st _ g hi k
theorem lAt_modify (r : Regs) {i : Nat} (hi : i < 4) (g : LoopSt → LoopSt) (k : Nat) :
    Regs.lAt { r with l := r.l.setIfInBounds i (g (r.lAt i)) } k = if k = i then g (r.lAt k) else r.lAt k :=
  getD_modify r.l _ g hi k

/-! ## Bytes of a vector under a predicate (07 R165) -/

theorem packN_lt (w : Nat) (f : Nat → Nat) (n : Nat) : packN w f n < 2 ^ (w * n) := by
  induction n with
  | zero => simp [packN]
  | succ n ih =>
    have hf : f n % 2 ^ w < 2 ^ w := Nat.mod_lt _ (Nat.two_pow_pos w)
    calc packN w f n + f n % 2 ^ w * 2 ^ (w * n)
        < 2 ^ (w * n) + f n % 2 ^ w * 2 ^ (w * n) := by omega
      _ = (f n % 2 ^ w + 1) * 2 ^ (w * n) := by ring
      _ ≤ 2 ^ w * 2 ^ (w * n) := Nat.mul_le_mul_right _ hf
      _ = 2 ^ (w * (n + 1)) := by rw [← pow_add]; congr 1; ring

theorem testBit_packN {w n k : Nat} (f : Nat → Nat) {b : Nat} (hb : b < w) (hk : k < n) :
    (packN w f n).testBit (w * k + b) = (f k).testBit b := by
  induction n with
  | zero => omega
  | succ n ih =>
    have hsum : packN w f (n + 1) = 2 ^ (w * n) * (f n % 2 ^ w) + packN w f n := by rw [packN]; ring
    rw [hsum, Nat.testBit_two_pow_mul_add _ (packN_lt w f n)]
    rcases Nat.lt_succ_iff_lt_or_eq.mp hk with h | rfl
    · have : w * k + w ≤ w * n := by rw [← Nat.mul_succ]; exact Nat.mul_le_mul_left w h
      rw [if_pos (by omega), ih h]
    · simp [Nat.testBit_mod_two_pow, hb]

theorem getLsbD_spread (q : Mask) {j b : Nat} (hj : j < 256) (hb : b < 8) :
    (spread q).getLsbD (8 * j + b) = q.getLsbD j := by
  have hlt : 8 * j + b < 2048 := by omega
  have hff : Nat.testBit 0xFF b = decide (b < 8) := Nat.testBit_two_pow_sub_one 8 b
  rw [spread, BitVec.getLsbD_ofNat, testBit_packN _ hb hj, decide_eq_true hlt, Bool.true_and]
  split
  · next h => rw [hff, h, decide_eq_true hb]
  · next h => rw [Nat.zero_testBit, Bool.eq_false_iff.mpr h]

theorem hasBytes_blend (m : Mask) (old x : Vec) :
    hasBytes (blend m old x) fun j => if m.getLsbD j = true then x.extractLsb' (8 * j) 8 else old.extractLsb' (8 * j) 8 := by
  intro j hj
  dsimp only
  unfold blend
  split
  · next h =>
    have hon : allOn.getLsbD j = true := by rw [allOn, BitVec.getLsbD_allOnes, decide_eq_true hj]
    rw [h, if_pos hon]
  · refine BitVec.eq_of_getLsbD_eq fun b hb => ?_
    have hlt : 8 * j + b < 2048 := by omega
    simp only [BitVec.getLsbD_extractLsb', BitVec.getLsbD_or, BitVec.getLsbD_and, BitVec.getLsbD_not, getLsbD_spread m hj hb]
    cases m.getLsbD j <;> simp [hb, hlt]

/-! ## Flag sets after an event (03 R88) -/

theorem get_raise (s : FlagState) {set k : Nat} (hs : 1 ≤ set ∧ set ≤ 4) (hk : 1 ≤ k ∧ k ≤ 4) (f : BitVec 6) (addr : Nat) :
    (s.raise set f addr).get k = if k = set then s.get k ||| f else s.get k := by
  unfold FlagState.raise
  extract_lets noted
  have hsets : noted.fls = s.fls ∧ noted.flva = s.flva ∧ noted.flvb = s.flvb ∧ noted.flm = s.flm := by
    unfold noted
    split
    · exact ⟨rfl, rfl, rfl, rfl⟩
    · split <;> exact ⟨rfl, rfl, rfl, rfl⟩
  obtain ⟨hs1, hs2⟩ := hs
  obtain ⟨hk1, hk2⟩ := hk
  interval_cases set <;> interval_cases k <;> simp [FlagState.get, hsets]

theorem flagBits_eq_get (t : Tile) {k : Nat} (hk : 1 ≤ k ∧ k ≤ 4) : flagBits t k = t.flags.get k := by
  obtain ⟨hk1, hk2⟩ := hk
  interval_cases k <;> rfl

/-! ## A frame cycle of a tile whose units are idle (02 R41, 18 R338) -/

/-- Two tiles show a reader the same registers, lines, flags, formats and chunk slots, with the same writes still to come. -/
structure ShowsAs (x y : Tile) : Prop where
  regs : x.regs = y.regs
  sp : x.sp = y.sp
  flags : x.flags = y.flags
  pend : x.pend = y.pend
  ft : x.ft = y.ft
  ftmask : x.ftmask = y.ftmask
  bs : x.mtx.bs = y.mtx.bs

theorem ShowsAs.trans {x y z : Tile} (h : ShowsAs x y) (k : ShowsAs y z) : ShowsAs x z :=
  ⟨h.regs.trans k.regs, h.sp.trans k.sp, h.flags.trans k.flags, h.pend.trans k.pend, h.ft.trans k.ft, h.ftmask.trans k.ftmask,
    h.bs.trans k.bs⟩

theorem idleUnits_apply {t : Tile} (p : Pend) (h : idleUnits t) : idleUnits (t.apply p) := by
  obtain ⟨hl, hd, hm, he⟩ := h
  unfold Tile.apply
  dsimp only
  split <;> exact ⟨hl, hd, hm, by simp [Tile.modLoop, Tile.recode, he]⟩

theorem write_of_idle {t : Tile} (p : Pend) (h : idleUnits t) : t.write p = t.apply p := by
  obtain ⟨-, -, -, he⟩ := h
  simp [Tile.write, he]

theorem idleUnits_applyFlags {t : Tile} (p : Pend) (h : idleUnits t) : idleUnits (t.applyFlags p) := by
  unfold Tile.applyFlags
  split <;> exact h

theorem idleUnits_foldl {f : Tile → Pend → Tile} (hf : ∀ t p, idleUnits t → idleUnits (f t p)) (ps : List Pend) {t : Tile}
    (h : idleUnits t) : idleUnits (ps.foldl f t) := by
  induction ps generalizing t with
  | nil => exact h
  | cons p ps ih => exact ih (hf t p h)

theorem unitErrs_of_idle {t : Tile} (f : Nat) (h : idleUnits t) : t.unitErrs f = [] := by
  obtain ⟨-, -, -, he⟩ := h
  simp [Tile.unitErrs, he]

theorem units_of_idle {t : Tile} (f : Nat) (h : idleUnits t) : t.units f = t := by
  obtain ⟨hl, hd, hm, -⟩ := h
  obtain ⟨_, _, ⟨_, _, _, _⟩⟩ := t
  cases hl; cases hd; cases hm
  rfl

theorem settleUndo_showsAs {t : Tile} (f : Nat) (h : idleUnits t) : ShowsAs (t.settleUndo f) t := by
  obtain ⟨-, -, hm, -⟩ := h
  simp only [Tile.settleUndo, hm, List.filter_nil, List.foldl_nil, List.any_nil]
  split <;> exact ⟨rfl, rfl, rfl, rfl, rfl, rfl, rfl⟩

theorem snapCarry_showsAs (t : Tile) (f : Nat) : ShowsAs (t.snapCarry f) t := by
  unfold Tile.snapCarry
  dsimp only
  split <;> exact ⟨rfl, rfl, rfl, rfl, rfl, rfl, rfl⟩

theorem sram_showsAs (t : Tile) (a b : Nat) : ShowsAs (t.sram a b) t := ⟨rfl, rfl, rfl, rfl, rfl, rfl, rfl⟩

/-- The queued writes that become visible by frame cycle f. -/
def comeDue (t : Tile) (f : Nat) : List Pend := t.pend.filter fun p => decide (p.at_ ≤ f)
/-- Those of some writes whose unit no other of them reaches. -/
def unhit (ps : List Pend) : List Pend := ps.filter fun p => !(hitUnits ps).any fun u => p.w.unit == some u
/-- A tile with its due writes taken off the queue and not yet applied. -/
def taken (t : Tile) (f : Nat) : Tile :=
  { t with pend := t.pend.filter fun p => decide (f < p.at_), mtx := { t.mtx with undo := t.keepUndo f (unhit (comeDue t f)), mmuls := [] } }

theorem idleUnits_taken {t : Tile} (f : Nat) (h : idleUnits t) : idleUnits (taken t f) := by
  obtain ⟨hl, hd, -, he⟩ := h
  exact ⟨hl, hd, rfl, he⟩

/-- On a tile with idle units a frame cycle applies the due writes that do not collide, and records the collisions alone. -/
theorem landing_of_idle {t : Tile} (f n : Nat) (h : idleUnits t) :
    let due := comeDue t f
    ShowsAs (landed t f n) ((sortBy Pend.flagOrder (unhit due)).foldl Tile.applyFlags ((unhit due).foldl Tile.write (taken t f))) ∧
      landedRecords t f n = (hitUnits due).map fun u => (0, unitAddr due u, unitHit due u) := by
  intro due
  have hx : idleUnits ((sortBy Pend.flagOrder (unhit due)).foldl Tile.applyFlags ((unhit due).foldl Tile.write (taken t f))) :=
    idleUnits_foldl (fun _ p => idleUnits_applyFlags p) _
      (idleUnits_foldl (fun _ p hy => write_of_idle p hy ▸ idleUnits_apply p hy) _ (idleUnits_taken f h))
  obtain ⟨-, -, hm, -⟩ := h
  have hdue : (t.pend.filter fun p => decide (p.at_ ≤ f)) ++ ([] : List Pend) = due := List.append_nil _
  have hw : ∀ w, t.mtx.windowOf f w = none := fun w => by cases w <;> simp [MatrixSt.windowOf, hm]
  have hgood : (due.filter fun p => !(hitUnits due).any (fun u => p.w.unit == some u) && true) = unhit due := by
    simp only [Bool.and_true]; rfl
  have htaken : ({ t with
      pend := t.pend.filter fun p => decide (f < p.at_)
      mtx := { t.mtx with undo := t.keepUndo f (unhit due), mmuls := [] } } : Tile) = taken t f := rfl
  simp only [landed, landedRecords, Tile.landing, hm, hw, List.filter_nil, List.flatMap_nil, hdue, Option.isNone_none, hgood, htaken]
  generalize (sortBy Pend.flagOrder (unhit due)).foldl Tile.applyFlags ((unhit due).foldl Tile.write (taken t f)) = x at hx ⊢
  obtain ⟨-, -, hxm, -⟩ := id hx
  simp only [hxm, List.filter_nil, List.foldl_nil, unitErrs_of_idle f hx, units_of_idle f hx, Tile.chunkFails, List.filterMap_nil,
    List.map_nil, Option.isSome_none, Bool.false_and, List.filter_false, List.append_nil, and_true]
  exact (sram_showsAs _ _ _).trans ((snapCarry_showsAs _ f).trans (settleUndo_showsAs f hx))

/-- A write that comes due alone is applied, and nothing else is. -/
theorem landed_of_sole {t : Tile} {p : Pend} {f : Nat} (n : Nat) (h : idleUnits t) (hp : t.pend = [p]) (hf : p.at_ ≤ f) :
    ShowsAs (landed t f n) (((taken t f).apply p).applyFlags p) := by
  have hdue : comeDue t f = [p] := by simp [comeDue, hp, hf]
  have hhits : hitUnits [p] = [] := by
    cases hu : p.w.unit <;> simp [hitUnits, hu]
  have hall : unhit [p] = [p] := by simp [unhit, hhits]
  have hl := (landing_of_idle f n h).1
  rw [hdue, hall] at hl
  rw [← write_of_idle p (idleUnits_taken f h)]
  exact hl

/-- Where no due write stands, what shows stays as it is. -/
theorem landed_of_none_standing {t : Tile} {f : Nat} (n : Nat) (h : idleUnits t) (hu : unhit (comeDue t f) = []) :
    ShowsAs (landed t f n) { t with pend := t.pend.filter fun p => decide (f < p.at_) } := by
  have hl := (landing_of_idle f n h).1
  rw [hu] at hl
  exact hl.trans ⟨rfl, rfl, rfl, rfl, rfl, rfl, rfl⟩

theorem landed_before {t : Tile} {p : Pend} {f : Nat} (n : Nat) (h : idleUnits t) (hp : t.pend = [p]) (hf : f < p.at_) :
    ShowsAs (landed t f n) t ∧ landedRecords t f n = [] := by
  have hdue : comeDue t f = [] := by simp [comeDue, hp, hf]
  have hlater : (t.pend.filter fun p => decide (f < p.at_)) = t.pend := by simp [hp, hf]
  have hl := landed_of_none_standing n h (congrArg unhit hdue)
  have hr := (landing_of_idle f n h).2
  rw [hlater] at hl
  rw [hdue] at hr
  exact ⟨hl, hr⟩

/-- Two due writes of one unit: the unit is hit once, and neither write stands. -/
theorem hitUnits_pair {p q : Pend} {u : Nat × Nat} (hp : p.w.unit = some u) (hq : q.w.unit = some u) : hitUnits [p, q] = [u] := by
  simp [hitUnits, hp, hq, List.eraseDups_cons]
theorem unhit_pair {p q : Pend} {u : Nat × Nat} (hp : p.w.unit = some u) (hq : q.w.unit = some u) : unhit [p, q] = [] := by
  simp [unhit, hitUnits_pair hp hq, hp, hq]
/-- The record of a collision (18 Table 18-4): code 0x04 for a line, 0x03 for a register. -/
theorem unitHit_code (ps : List Pend) (u : Nat × Nat) : ∃ d1 d2, unitHit ps u = ⟨2, if u.1 = 10 then 4 else 3, 3, d1, d2⟩ := by
  unfold unitHit
  dsimp only
  split <;> exact ⟨_, _, rfl⟩

theorem landed_of_collision {t : Tile} {p p' : Pend} {f : Nat} (n : Nat) {u : Nat × Nat} (h : idleUnits t) (hp : t.pend = [p, p'])
    (hf : p.at_ ≤ f) (hf' : p'.at_ ≤ f) (hu : p.w.unit = some u) (hu' : p'.w.unit = some u) :
    ShowsAs (landed t f n) { t with pend := [] } ∧
      ∃ a d1 d2, landedRecords t f n = [(0, a, ⟨2, if u.1 = 10 then 4 else 3, 3, d1, d2⟩)] := by
  have hdue : comeDue t f = [p, p'] := by simp [comeDue, hp, hf, hf']
  have hlater : (t.pend.filter fun p => decide (f < p.at_)) = [] := by simp [hp, hf, hf']
  have hl := landed_of_none_standing n h (hdue ▸ unhit_pair hu hu')
  have hr := (landing_of_idle f n h).2
  obtain ⟨d1, d2, hd⟩ := unitHit_code [p, p'] u
  rw [hlater] at hl
  rw [hdue, hitUnits_pair hu hu', List.map_singleton, hd] at hr
  exact ⟨hl, _, d1, d2, hr⟩

/-- Settles O25: with its units idle a frame cycle applies the due writes of distinct units and no others, and each of them sets
its own register alone. -/
theorem writesAreVisibleAtTheirCycle : Obligations.WritesAreVisibleAtTheirCycle := by
  refine ⟨⟨fun t p f n hi hp hf => ?before, fun t at_ f n src hi hf => ?due, fun r => ⟨rfl, rfl, rfl, rfl⟩⟩,
    fun t p p' f n u hi hp hf hf' hu hu' => ?collision⟩
  case before =>
    obtain ⟨hl, hr⟩ := landed_before n hi hp hf
    exact ⟨hl.regs, hl.sp, hl.flags, hl.pend.trans hp, hr⟩
  case collision =>
    obtain ⟨hl, hr⟩ := landed_of_collision n hi hp hf hf' hu hu'
    exact ⟨hl.regs, hl.sp, hl.pend, hr⟩
  case due =>
    have shows {w : Write} (hp : t.pend = [⟨at_, src, w⟩]) := landed_of_sole n hi hp hf
    refine ⟨fun r x k hr hp => ⟨?s, ?gone⟩, fun r b k hr hp => ?p, fun r m x k hr hp hk => ?v, fun r m x k hr hp => ?q,
      fun r x k hr hp => ?acc, fun r b k hr hp => ?stCond, fun r a fill k hr hp => ?stTgt, fun r per k hr hp => ?lper,
      fun mask rows hp => ⟨(shows hp).ftmask, fun k hk => ?ft⟩, fun r x k hr hp => ?chunk, fun set bits k h1 h4 hk1 hk4 hp => ?flags⟩
    case s => rw [(shows hp).regs]; exact sAt_set t.regs hr x k
    case gone => rw [(shows hp).pend]; simp [taken, Tile.apply, Tile.applyFlags, hp, hf]
    case p => rw [(shows hp).regs]; exact pAt_set t.regs hr b k
    case v =>
      have hv : (landed t f n).regs.vAt k = if k = r then blend m (t.regs.vAt k) x else t.regs.vAt k := by
        rw [(shows hp).regs]; exact vAt_modify t.regs hr (fun old => blend m old x) k
      rw [hv]
      by_cases hkr : k = r
      · simpa only [hkr, if_true, true_and] using hasBytes_blend m (t.regs.vAt r) x
      · simp [hkr, hasBytes]
    case q => rw [(shows hp).regs]; exact qAt_modify t.regs hr (fun old => (x &&& m) ||| (old &&& ~~~m)) k
    case acc => rw [(shows hp).regs]; exact aAt_set t.regs hr x k
    case stCond => rw [(shows hp).regs]; exact stAt_modify t.regs hr (fun st => { st with cond := b }) k
    case stTgt => rw [(shows hp).regs]; exact stAt_modify t.regs hr (fun st => { st with target := a, fillAt := some fill }) k
    case lper => rw [(shows hp).regs]; exact lAt_modify t.regs hr (fun l => { l with period := per }) k
    case ft => rw [(shows hp).ft]; simp [Tile.apply, Tile.applyFlags, taken, Vector.getD, hk]
    case chunk => rw [(shows hp).bs]; exact getD_setIfInBounds t.mtx.bs (some x) none hr k
    case flags =>
      rw [flagBits_eq_get _ ⟨hk1, hk4⟩, flagBits_eq_get _ ⟨hk1, hk4⟩, (shows hp).flags]
      exact get_raise t.flags ⟨h1, h4⟩ ⟨hk1, hk4⟩ bits src.addr

end Sys2Proof.Proofs

/-! The machine at reset (01 R32, 04 R94): nothing is stored, nothing runs, and bring-up is the next work. -/
namespace Sys2Proof.Proofs
open Sys2Proof Sys2Proof.Machine Sys2Proof.Claims

theorem tile_reset (t : Nat) : State.reset.tile t = Tile.reset := rfl
theorem coach_reset (c : Nat) : State.reset.coach c = Coach.reset := by
  by_cases h : c < 16 <;> simp [State.coach, State.reset, Vector.getD, h]
theorem memOk_tile_reset : Tile.reset.memOk := ⟨rfl, rfl, rfl⟩
theorem memOk_launch_reset : Launch.reset.memOk := ⟨List.forall_mem_nil _, List.forall_mem_nil _⟩
theorem memOk_cursor_reset : Cursor.reset.memOk := fun _ h => nomatch h
theorem memOk_reset : State.reset.memOk := by
  refine ⟨fun t => ?tiles, fun c => ?coaches, memOk_cursor_reset, rfl⟩
  case tiles => rw [tile_reset]; exact memOk_tile_reset
  case coaches => rw [coach_reset]; exact memOk_launch_reset

/-- Settles O45: every tile reads as `Tile.reset`, every coach as `Coach.reset`, and neither stores a byte. -/
theorem resetMemoriesCanonical : Obligations.ResetMemoriesCanonical :=
  ⟨memOk_reset, tile_reset, fun c => by rw [coach_reset]; rfl, rfl, rfl⟩

end Sys2Proof.Proofs

/-! What a controller's fault does to the machine (17 R328, 20 R362): it stops the launch of its coach at once, and leaves
the other coaches, module flash and the owners of the tiles. -/
namespace Sys2Proof.Proofs
open Sys2Proof Sys2Proof.Machine Sys2Proof.Claims

/-! ## One update over a list of tiles -/

/-- It changes tiles alone. -/
theorem modTiles_frame (f : Tile → Tile) (ts : List Nat) (s : State) : s.modTiles f ts = { s with tiles := (s.modTiles f ts).tiles } := by
  induction ts generalizing s with
  | nil => rfl
  | cons t ts ih => exact ih _
@[simp] theorem modTiles_pkg (f : Tile → Tile) (ts : List Nat) (s : State) : (s.modTiles f ts).pkg = s.pkg := by
  rw [modTiles_frame]
@[simp] theorem modTiles_wall (f : Tile → Tile) (ts : List Nat) (s : State) : (s.modTiles f ts).wall = s.wall := by
  rw [modTiles_frame]
@[simp] theorem modTiles_coaches (f : Tile → Tile) (ts : List Nat) (s : State) : (s.modTiles f ts).coaches = s.coaches := by
  rw [modTiles_frame]
@[simp] theorem coach_modTiles (f : Tile → Tile) (ts : List Nat) (s : State) (c : Nat) : (s.modTiles f ts).coach c = s.coach c := by
  simp [State.coach]
/-- What an update keeps of a tile it keeps of every tile of the machine. -/
theorem modTiles_keeps {β : Type} {f : Tile → Tile} {g : Tile → β} (hg : ∀ x, g (f x) = g x) (ts : List Nat) (s : State) (t : Nat) :
    g ((s.modTiles f ts).tile t) = g (s.tile t) := by
  induction ts generalizing s with
  | nil => rfl
  | cons u ts ih =>
    refine (ih _).trans ?_
    by_cases h : t = u
    · subst h; rw [s.tile_modTile, hg]
    · rw [s.tile_modTile_ne f h]

/-! ## A coach after an update of one coach -/

theorem coach_modCoach (s : State) {c : Nat} (hc : c < 16) (f : Coach → Coach) : (s.modCoach c f).coach c = f (s.coach c) :=
  s.coach_setCoach _ hc
theorem coach_modCoach_ne (s : State) {c d : Nat} (f : Coach → Coach) (h : d ≠ c) : (s.modCoach c f).coach d = s.coach d :=
  s.coach_setCoach_ne _ h

/-! ## The stop of a launch -/

@[simp] theorem announce_tiles (s : State) (c : Nat) (r : Record) : (s.announce c r).tiles = s.tiles := by
  unfold State.announce; split <;> rfl
@[simp] theorem announce_flash (s : State) (c : Nat) (r : Record) : (s.announce c r).pkg.flash = s.pkg.flash := by
  unfold State.announce; split <;> rfl
@[simp] theorem announce_coach (s : State) (c d : Nat) (r : Record) : (s.announce c r).coach d = s.coach d := by
  unfold State.announce; split <;> rfl

theorem stopLaunch_coach_ne (s : State) {c d : Nat} (r : Record) (h : d ≠ c) : (s.stopLaunch c r).coach d = s.coach d := by
  unfold State.stopLaunch
  exact (coach_modCoach_ne _ _ h).trans (coach_modTiles _ _ _ d)
@[simp] theorem stopLaunch_flash (s : State) (c : Nat) (r : Record) : (s.stopLaunch c r).pkg.flash = s.pkg.flash := by
  simp [State.stopLaunch]
theorem stopLaunch_keeps {β : Type} {g : Tile → β} (hg : ∀ x : Tile, g { x with vault := x.vault.closeAll } = g x) (s : State)
    (c : Nat) (r : Record) (t : Nat) : g ((s.stopLaunch c r).tile t) = g (s.tile t) := by
  unfold State.stopLaunch
  exact modTiles_keeps hg _ _ t
/-- The launch of the coach finishes, and its log names the class and marks the record. -/
theorem stopLaunch_coach (s : State) {c : Nat} (hc : c < 16) (r : Record) : ∃ ps, (s.stopLaunch c r).coach c =
    { s.coach c with
      pushes := ps
      log := { (s.coach c).log with
        cls := r.cls, code := r.code, tag := (s.coach c).launch.lrec.tag
        recs := markRec r (fun x => { x with stopped := true }) (s.coach c).log.recs }
      launch := (s.coach c).launch.finish (0x80 + r.cls) s.wall } := by
  unfold State.stopLaunch
  dsimp only
  rw [coach_modCoach _ hc, coach_modTiles, modTiles_wall]
  exact ⟨_, rfl⟩

theorem log_coach (s : State) {c : Nat} (hc : c < 16) (r : Record) : (s.log c r).coach c =
    { s.coach c with
      launch := { (s.coach c).launch with logged := true }
      log := { (s.coach c).log with
        widx := (s.coach c).log.widx + 1
        recs := ({ r with first := !(s.coach c).launch.logged } :: (s.coach c).log.recs).take 127 } } :=
  coach_modCoach s hc _
theorem log_coach_ne (s : State) {c d : Nat} (r : Record) (h : d ≠ c) : (s.log c r).coach d = s.coach d := coach_modCoach_ne s _ h

/-! ## A fault that is taken at once -/

theorem log_mode (s : State) (c : Nat) (r : Record) : ((s.log c r).coach c).launch.mode = (s.coach c).launch.mode := by
  by_cases hc : c < 16
  · rw [log_coach s hc]
  · simp [State.log, State.modCoach, State.setCoach, State.coach, Vector.getD, hc]
/-- A launch that runs is neither idle nor finishing, so a fault of it is taken. -/
theorem mode_of_active {s : State} {c : Nat} (h : s.active c = true) :
    (s.coach c).launch.mode ≠ .idle ∧ (s.coach c).launch.mode ≠ .finishing := by
  constructor <;> intro e <;> simp [State.active, e] at h
/-- A stopping fault of a class that is not held stops a launch that runs. -/
theorem takeFaults_sole (s : State) (c : Nat) (ports : List Nat) {r : Record} (hk : faultKind r.cls r.code = .stopping)
    (hh : heldClass r.cls = false) (ha : s.active c = true) : s.takeFaults c ports [r] = s.stopNow c r := by
  obtain ⟨hi, hf⟩ := mode_of_active ha
  have hs : stopRec ([r].filter fun x =>
      decide (faultKind x.cls x.code = .stopping ∧ !(((s.log c r).coach c).launch.mode == .held && heldClass x.cls))) = some r := by
    simp [hk, hh, stopRec]
  have hc : sortRecs ([r].filter fun x => decide (faultKind x.cls x.code = .cancelling)) = [] := by
    simp [hk, sortRecs, sortBy]
  have hl : (sortRecs [r]).foldl (fun s r => s.log c r) s = s.log c r := rfl
  unfold State.takeFaults
  simp only [hl, hc, List.foldl_nil]
  rw [hs]
  dsimp only
  rw [← log_mode s c r] at hi hf
  split
  · next h => exact absurd h hf
  · next h => exact absurd h hi
  · exact if_neg fun h => by simp [hh] at h
/-- A controller's fault of a launch that runs: some frame cycle stands in its record. -/
theorem stopEvent_of_active {s : State} {c : Nat} (slot : Nat) {x : Fail} (hk : faultKind x.cls x.code = .stopping)
    (hh : heldClass x.cls = false) (ha : s.active c = true) :
    ∃ f, s.stopEvent c slot x = s.stopNow c (s.record c noTile slot f 0 x) :=
  ⟨_, takeFaults_sole s c [] hk hh ha⟩

theorem stopNow_coach_ne (s : State) {c d : Nat} (r : Record) (h : d ≠ c) : (s.stopNow c r).coach d = s.coach d := by
  rw [State.stopNow, stopLaunch_coach_ne _ r h, announce_coach, log_coach_ne s r h]
@[simp] theorem stopNow_flash (s : State) (c : Nat) (r : Record) : (s.stopNow c r).pkg.flash = s.pkg.flash := by
  simp [State.stopNow]
theorem stopNow_keeps {β : Type} {g : Tile → β} (hg : ∀ x : Tile, g { x with vault := x.vault.closeAll } = g x) (s : State)
    (c : Nat) (r : Record) (t : Nat) : g ((s.stopNow c r).tile t) = g (s.tile t) := by
  rw [State.stopNow, stopLaunch_keeps hg]
  simp [State.tile]
/-- A record is found in a log whatever its mark of the first. -/
theorem markRec_first (r : Record) (b : Bool) (f : Record → Record) (rs : List Record) :
    markRec r f ({ r with first := b } :: rs) = f { r with first := b } :: rs := if_pos rfl
/-- The record of a controller's fault is the newest of the log, and is the one marked. -/
theorem stopNow_stops (s : State) {c : Nat} (hc : c < 16) (slot f : Nat) (x : Fail) :
    stoppedBy s (s.stopNow c (s.record c noTile slot f 0 x)) c x.cls x.code x.d1 x.d2 := by
  unfold stoppedBy State.stopNow
  obtain ⟨ps, h⟩ := stopLaunch_coach ((s.log c (s.record c noTile slot f 0 x)).announce c (s.record c noTile slot f 0 x)) hc
    (s.record c noTile slot f 0 x)
  rw [h, announce_coach, log_coach s hc]
  refine ⟨rfl, rfl, rfl, rfl, rfl,
    { s.record c noTile slot f 0 x with first := !(s.coach c).launch.logged, stopped := true }, ?_, rfl, rfl, rfl, rfl, rfl, rfl⟩
  dsimp only
  rw [List.take_succ_cons, markRec_first, List.head?_cons]

end Sys2Proof.Proofs

/-! The management controller (20 R368 to R371): the event log, a rule for one update of each coach, and its events. -/
namespace Sys2Proof.Proofs
open Sys2Proof Sys2Proof.Machine Sys2Proof.Claims

/-! ## The event log (20 R370) -/

/-- An event changes module flash and the outputs alone. -/
theorem event_eq (s : State) (code sev source : Nat) (d1 d2 : Word) : s.event code sev source d1 d2 = s.modPkg fun p =>
    { p with
      flash := { p.flash with
        events := (⟨code, sev, source, s.wall, d1, d2⟩ :: p.flash.events).take 4096, eventCount := p.flash.eventCount + 1 }
      out := p.out ++ if 2 ≤ sev then [.platformEvent p.flash.eventCount ⟨code, sev, source, s.wall, d1, d2⟩] else [] } := by
  by_cases h : 2 ≤ sev <;> simp [State.event, State.modPkg, State.out, h]
theorem event_head (s : State) (code sev source : Nat) (d1 d2 : Word) :
    (s.event code sev source d1 d2).pkg.flash.events.head? = some ⟨code, sev, source, s.wall, d1, d2⟩ := by
  rw [event_eq]; rfl
@[simp] theorem event_tiles (s : State) (code sev source : Nat) (d1 d2 : Word) : (s.event code sev source d1 d2).tiles = s.tiles := by
  rw [event_eq]; rfl
@[simp] theorem event_coaches (s : State) (code sev source : Nat) (d1 d2 : Word) :
    (s.event code sev source d1 d2).coaches = s.coaches := by
  rw [event_eq]; rfl
@[simp] theorem event_coach (s : State) (code sev source : Nat) (d1 d2 : Word) (c : Nat) :
    (s.event code sev source d1 d2).coach c = s.coach c := by
  rw [event_eq]; rfl
@[simp] theorem event_boot (s : State) (code sev source : Nat) (d1 d2 : Word) :
    (s.event code sev source d1 d2).pkg.boot = s.pkg.boot := by
  rw [event_eq]; rfl

/-! ## One update for each coach in turn -/

section
variable {f : State → Nat → State}

/-- Coaches that are not in turn are as they were. -/
theorem foldl_coach_not_mem (hf : ∀ s d e, e ≠ d → (f s d).coach e = s.coach e) {l : List Nat} {c : Nat} (hc : c ∉ l) (s : State) :
    (l.foldl f s).coach c = s.coach c := by
  induction l generalizing s with
  | nil => rfl
  | cons d l ih =>
    obtain ⟨hd, hl⟩ := not_or.mp (mt List.mem_cons.mpr hc)
    exact (ih hl _).trans (hf s d c hd)
/-- A coach ends as its own turn leaves it, which finds it as it was at first, in a state of which P still holds. -/
theorem foldl_coach_mem {P : State → Prop} (hP : ∀ s d, P s → P (f s d)) (hf : ∀ s d e, e ≠ d → (f s d).coach e = s.coach e)
    {l : List Nat} (hl : l.Nodup) {c : Nat} (hc : c ∈ l) {s : State} (h : P s) :
    ∃ s1, P s1 ∧ s1.coach c = s.coach c ∧ (l.foldl f s).coach c = (f s1 c).coach c := by
  induction l generalizing s with
  | nil => simp at hc
  | cons d l ih =>
    obtain ⟨hd, hl⟩ := List.nodup_cons.mp hl
    rcases List.mem_cons.mp hc with e | hc
    · subst e
      exact ⟨s, h, rfl, foldl_coach_not_mem hf hd _⟩
    · obtain ⟨s1, h1, hs, hs'⟩ := ih hl hc (hP s d h)
      have hcd : c ≠ d := fun e => hd (e ▸ hc)
      exact ⟨s1, h1, hs.trans (hf s d c hcd), hs'⟩
/-- What every turn keeps, all of them keep. -/
theorem foldl_keeps {β : Type} {g : State → β} (hg : ∀ s d, g (f s d) = g s) (l : List Nat) (s : State) : g (l.foldl f s) = g s := by
  induction l generalizing s with
  | nil => rfl
  | cons d l ih => exact (ih _).trans (hg s d)
/-- Turns that do nothing while every coach is idle leave an idle machine. -/
theorem foldl_idle (hf : ∀ s d, (∀ c, (s.coach c).launch.mode = .idle) → f s d = s) (l : List Nat) {s : State}
    (h : ∀ c, (s.coach c).launch.mode = .idle) : l.foldl f s = s := by
  induction l with
  | nil => rfl
  | cons d l ih => rw [List.foldl_cons, hf s d h, ih]
end

/-- The stop of a coach is told by its log and its launch alone. -/
theorem stoppedBy_congr {s s' s1 s1' : State} {c cls code : Nat} {d1 d2 : Word} (h : s1.coach c = s.coach c)
    (hl : (s'.coach c).launch = (s1'.coach c).launch) (hg : (s'.coach c).log = (s1'.coach c).log)
    (hs : stoppedBy s1 s1' c cls code d1 d2) : stoppedBy s s' c cls code d1 d2 := by
  unfold stoppedBy at hs ⊢
  rw [hl, hg, ← h]
  exact hs

theorem active_of_running {s : State} {c : Nat} (h : (s.coach c).launch.mode = .running) : s.active c = true := by
  simp [State.active, h]
theorem not_active_of_idle {s : State} {c : Nat} (h : (s.coach c).launch.mode = .idle) : s.active c = false := by
  simp [State.active, h]

/-! ## Health test (20 Table 20-1) -/

/-- What a failed health test does to one coach. -/
def healthStop (s : State) (c : Nat) : State := if s.active c then s.stopEvent c 0 ⟨0x9, 0x02, 0x0C, 0#64, 0#64⟩ else s
theorem execHealthTestFailure_eq (s : State) : execHealthTestFailure s = .next ((List.range 16).foldl healthStop s) := rfl
theorem healthStop_of_active {s : State} {c : Nat} (h : s.active c = true) :
    ∃ f, healthStop s c = s.stopNow c (s.record c noTile 0 f 0 ⟨0x9, 0x02, 0x0C, 0#64, 0#64⟩) := by
  rw [healthStop, if_pos h]
  exact stopEvent_of_active 0 rfl rfl h
theorem healthStop_of_not_active {s : State} {c : Nat} (h : s.active c = false) : healthStop s c = s := by
  simp [healthStop, h]
theorem healthStop_cases (s : State) (c : Nat) :
    healthStop s c = s ∨ ∃ f, healthStop s c = s.stopNow c (s.record c noTile 0 f 0 ⟨0x9, 0x02, 0x0C, 0#64, 0#64⟩) := by
  cases h : s.active c with
  | false => exact .inl (healthStop_of_not_active h)
  | true => exact .inr (healthStop_of_active h)
theorem healthStop_coach_ne (s : State) (c d : Nat) (h : d ≠ c) : (healthStop s c).coach d = s.coach d := by
  obtain e | ⟨f, e⟩ := healthStop_cases s c
  · rw [e]
  · rw [e, stopNow_coach_ne s _ h]
theorem healthStop_flash (s : State) (c : Nat) : (healthStop s c).pkg.flash = s.pkg.flash := by
  obtain e | ⟨f, e⟩ := healthStop_cases s c
  · rw [e]
  · rw [e, stopNow_flash]
theorem healthStop_stops {s : State} {c : Nat} (hc : c < 16) (h : (s.coach c).launch.mode = .running) :
    stoppedBy s (healthStop s c) c 9 2 0#64 0#64 := by
  obtain ⟨f, e⟩ := healthStop_of_active (active_of_running h)
  rw [e]
  exact stopNow_stops s hc 0 f _

theorem healthTest_stops_running (s : State) {c : Nat} (hc : c < 16) :
    ((s.coach c).launch.mode = .running → stoppedBy s ((List.range 16).foldl healthStop s) c 9 2 0#64 0#64) ∧
    ((s.coach c).launch.mode = .idle → ((List.range 16).foldl healthStop s).coach c = s.coach c) := by
  obtain ⟨s1, -, h1, h2⟩ := foldl_coach_mem (P := fun _ => True) (fun _ _ _ => trivial) healthStop_coach_ne List.nodup_range
    (List.mem_range.mpr hc) (s := s) trivial
  refine ⟨fun hr => ?running, fun hi => ?idle⟩
  case running =>
    rw [← h1] at hr
    exact stoppedBy_congr h1 (congrArg _ h2) (congrArg _ h2) (healthStop_stops hc hr)
  case idle =>
    rw [← h1] at hi
    rw [h2, healthStop_of_not_active (not_active_of_idle hi), h1]

/-! ## Thermal model (20 R368) -/

/-- What a stack's temperature does to one coach. -/
def heatStop (k measured : Nat) (s : State) (c : Nat) : State :=
  if s.active c ∧ ((s.tilesOf c).any fun t => stackOf t == k) ∧ classLimit (s.classOf c) < measured then
    ((s.stopEvent c 0 ⟨0xA, 0x01, 0x0D, wrapN k, wrapN measured⟩).modCoach c fun k => { k with hot := true }).event 0x0007 2 0x0D
      (wrapN k) (wrapN measured)
  else s
theorem overheat_eq (s : State) (k measured : Nat) : s.overheat k measured = (List.range 16).foldl (heatStop k measured) s := rfl
/-- A coach is left alone, or stopped, marked hot and reported. -/
theorem heatStop_cases (k measured : Nat) (s : State) (c : Nat) : heatStop k measured s c = s ∨
    ∃ f, heatStop k measured s c = ((s.stopNow c (s.record c noTile 0 f 0 ⟨0xA, 0x01, 0x0D, wrapN k, wrapN measured⟩)).modCoach c
      fun k => { k with hot := true }).event 0x0007 2 0x0D (wrapN k) (wrapN measured) := by
  unfold heatStop
  split
  · next h =>
    obtain ⟨f, e⟩ := stopEvent_of_active (s := s) (c := c) 0 (x := ⟨0xA, 0x01, 0x0D, wrapN k, wrapN measured⟩) rfl rfl h.1
    exact .inr ⟨f, by rw [e]⟩
  · exact .inl rfl
theorem heatStop_coach_ne (k measured : Nat) (s : State) (c d : Nat) (h : d ≠ c) : (heatStop k measured s c).coach d = s.coach d := by
  obtain e | ⟨f, e⟩ := heatStop_cases k measured s c
  · rw [e]
  · rw [e, event_coach, coach_modCoach_ne _ _ h, stopNow_coach_ne s _ h]
theorem heatStop_keeps {β : Type} {g : Tile → β} (hg : ∀ x : Tile, g { x with vault := x.vault.closeAll } = g x) (k measured : Nat)
    (s : State) (c t : Nat) : g ((heatStop k measured s c).tile t) = g (s.tile t) := by
  obtain e | ⟨f, e⟩ := heatStop_cases k measured s c
  · rw [e]
  · rw [e, State.tile, event_tiles, State.modCoach_tiles]
    exact stopNow_keeps hg s c _ t
theorem heatStop_of_idle (k measured : Nat) (s : State) (d : Nat) (h : ∀ c, (s.coach c).launch.mode = .idle) :
    heatStop k measured s d = s := by
  simp [heatStop, not_active_of_idle (h d)]
/-- A coach that runs above the limit of its class stops, and its idle tiles are hot. -/
theorem heatStop_stops {k measured : Nat} {s : State} {c : Nat} (hc : c < 16) (hr : (s.coach c).launch.mode = .running)
    (hk : ∃ t ∈ s.tilesOf c, stackOf t = k) (hm : classLimit (s.classOf c) < measured) :
    stoppedBy s (heatStop k measured s c) c 10 1 (wrapN k) (wrapN measured) ∧ ((heatStop k measured s c).coach c).hot = true := by
  have ha := active_of_running hr
  obtain ⟨f, e⟩ := stopEvent_of_active 0 (x := ⟨0xA, 0x01, 0x0D, wrapN k, wrapN measured⟩) rfl rfl ha
  have hs := stopNow_stops s hc 0 f ⟨0xA, 0x01, 0x0D, wrapN k, wrapN measured⟩
  rw [← e] at hs
  have hc' : (heatStop k measured s c).coach c =
      { (s.stopEvent c 0 ⟨0xA, 0x01, 0x0D, wrapN k, wrapN measured⟩).coach c with hot := true } := by
    rw [heatStop, if_pos ⟨ha, by simpa using hk, hm⟩, event_coach, coach_modCoach _ hc]
  exact ⟨stoppedBy_congr rfl (by rw [hc']) (by rw [hc']) hs, by rw [hc']⟩

/-- What a coach's limit hangs on: the owners of the tiles and their refresh classes. -/
def ownersAndClasses (s : State) : Nat → Option Nat × Nat := fun t => ((s.tile t).own.owner, (s.tile t).vault.rfclass)
theorem heatStop_owners (k measured : Nat) (s : State) (c : Nat) : ownersAndClasses (heatStop k measured s c) = ownersAndClasses s :=
  funext fun t => heatStop_keeps (g := fun x : Tile => (x.own.owner, x.vault.rfclass)) (fun _ => rfl) k measured s c t
theorem tilesOf_congr {s s' : State} (h : ownersAndClasses s' = ownersAndClasses s) (c : Nat) : s'.tilesOf c = s.tilesOf c := by
  have ho : ∀ t, (s'.tile t).own.owner = (s.tile t).own.owner := fun t => congrArg Prod.fst (congrFun h t)
  simp only [State.tilesOf, ho]
theorem classOf_congr {s s' : State} {c : Nat} (h : ownersAndClasses s' = ownersAndClasses s) (hc : s'.coach c = s.coach c) :
    s'.classOf c = s.classOf c := by
  have hf : ∀ t, (s'.tile t).vault.rfclass = (s.tile t).vault.rfclass := fun t => congrArg Prod.snd (congrFun h t)
  simp only [State.classOf, hc, hf]

/-- The coaches are served in turn, and the stop of one hides the heat from no other. -/
theorem overheat_stops {k measured : Nat} {s : State} {c : Nat} (hc : c < 16) (hr : (s.coach c).launch.mode = .running)
    (hk : ∃ t ∈ s.tilesOf c, stackOf t = k) (hm : classLimit (s.classOf c) < measured) :
    stoppedBy s (s.overheat k measured) c 10 1 (wrapN k) (wrapN measured) ∧ ((s.overheat k measured).coach c).hot = true := by
  rw [overheat_eq]
  obtain ⟨s1, h1, h2, h3⟩ := foldl_coach_mem (P := fun s1 => ownersAndClasses s1 = ownersAndClasses s)
    (fun s1 d h => (heatStop_owners k measured s1 d).trans h) (heatStop_coach_ne k measured) List.nodup_range (List.mem_range.mpr hc) rfl
  obtain ⟨hs, hh⟩ := heatStop_stops (k := k) (measured := measured) (s := s1) hc (by rw [h2]; exact hr)
    (by rw [tilesOf_congr h1]; exact hk) (by rw [classOf_congr h1 h2]; exact hm)
  exact ⟨stoppedBy_congr h2 (congrArg _ h3) (congrArg _ h3) hs, by rw [h3]; exact hh⟩
theorem overheat_idle (k measured : Nat) {s : State} (h : ∀ c, (s.coach c).launch.mode = .idle) : s.overheat k measured = s :=
  foldl_idle (heatStop_of_idle k measured) _ h

/-- The package with the temperatures of stack 0 as measured. -/
def measuredAs (s : State) (x : Nat × Nat) : State :=
  s.modPkg fun p => { p with temps := Vector.ofFn fun i => [x].getD i.val (p.temps.getD i.val (0, 0)) }
theorem execThermalModelRun_below {s : State} {a b : Nat} (hb : s.pkg.boot = 6) (ha : a < 920) (hb' : b < 920) :
    execThermalModelRun [(a, b)] s = .next ((measuredAs s (a, b)).overheat 0 a) := by
  have hx : [(a, b)].zipIdx.find? (fun x => decide (tripLevel ≤ x.1.1 ∨ tripLevel ≤ x.1.2)) = none := by
    simp [tripLevel, Nat.not_le.mpr ha, Nat.not_le.mpr hb']
  unfold execThermalModelRun
  rw [if_neg (not_not.mpr hb)]
  dsimp only
  rw [List.take_of_length_le (by simp), hx]
  simp only [List.zipIdx_cons, List.zipIdx_nil, List.foldl_cons, List.foldl_nil, measuredAs]
theorem execThermalModelRun_trip {s : State} {a : Nat} (b : Nat) (hb : s.pkg.boot = 6) (ha : 920 ≤ a) :
    execThermalModelRun [(a, b)] s = .next ((measuredAs s (a, b)).trip 0 a) := by
  have hx : [(a, b)].zipIdx.find? (fun x => decide (tripLevel ≤ x.1.1 ∨ tripLevel ≤ x.1.2)) = some ((a, b), 0) := by
    simp [tripLevel, ha]
  unfold execThermalModelRun
  rw [if_neg (not_not.mpr hb)]
  dsimp only
  rw [List.take_of_length_le (by simp), hx]
  dsimp only
  rw [if_pos (show tripLevel ≤ a from ha)]
  rfl
theorem trip_eq (s : State) (k measured : Nat) :
    ∃ s1 : State, s.trip k measured = (s1.event 0x0007 3 0x0D (wrapN k) (wrapN measured)).powerOff := ⟨_, rfl⟩
/-- A trip leaves no tile and no work, and its event. -/
theorem trip_spec (s : State) (k measured : Nat) : (s.trip k measured).pkg.boot = 0 ∧ (s.trip k measured).tiles = [] ∧
    (s.trip k measured).todo = [] ∧ ∃ e, (s.trip k measured).pkg.flash.events.head? = some e ∧ e.code = 7 ∧ e.sev = 3 ∧
      e.d2 = wrapN measured := by
  obtain ⟨s1, h⟩ := trip_eq s k measured
  rw [h]
  exact ⟨rfl, rfl, rfl, _, event_head s1 0x0007 3 0x0D (wrapN k) (wrapN measured), rfl, rfl, rfl⟩
theorem limit_below {rf a : Nat} (h : rf = 1 ∧ 680 < a ∨ rf = 2 ∧ 760 < a ∨ rf = 4 ∧ 840 < a) : classLimit rf < a := by
  obtain ⟨rfl, h⟩ | ⟨rfl, h⟩ | ⟨rfl, h⟩ := h <;> exact h
theorem classOf_cons {s : State} {c t : Nat} {ts : List Nat} (h : (s.coach c).launch.tiles = t :: ts) :
    s.classOf c = (s.tile t).vault.rfclass := by
  rw [State.classOf, h]

/-! ## Forecasts (13 R287) -/

/-- A coach after a publication: a relay point that holds no variant selects again. -/
def forecastTurn (s : State) (c : Nat) : State :=
  match (s.coach c).launch.mode with
  | .relaying true => (s.modLaunch c fun l => { l with relayClass := s.coachClass c }).relaySelect c
  | _ => s
theorem forecastTurn_of_idle (s : State) (d : Nat) (h : ∀ c, (s.coach c).launch.mode = .idle) : forecastTurn s d = s := by
  simp [forecastTurn, h d]
/-- The package with the words of a publication. -/
def published (s : State) (xs : List (Nat × Nat × Nat)) : State :=
  s.modPkg fun p => { p with fcst := Vector.ofFn fun i =>
    match xs[i.val]? with | some x => fcstWord (p.fcst.getD i.val 0#64) x | none => p.fcst.getD i.val 0#64 }
theorem published_word {s : State} {xs : List (Nat × Nat × Nat)} {i : Nat} {x : Nat × Nat × Nat} (hi : i < 4) (hx : xs[i]? = some x) :
    (published s xs).pkg.fcst.getD i 0#64 = fcstWord (s.pkg.fcst.getD i 0#64) x := by
  simp [published, State.modPkg, Vector.getD, hi, hx]
theorem execForecastPublish_down {s : State} (xs : List (Nat × Nat × Nat)) (h : s.pkg.boot ≠ 6) :
    execForecastPublish xs s = .next s := by
  simp [execForecastPublish, State.up, h]
theorem execForecastPublish_up {s : State} (xs : List (Nat × Nat × Nat)) (h : s.pkg.boot = 6) :
    execForecastPublish xs s = .next ((List.range 16).foldl forecastTurn (published s xs)) := by
  unfold execForecastPublish
  rw [if_neg (by simp [State.up, h])]
  rfl
theorem forecastClass_lt (t : Nat) : forecastClass t < 2 ^ 12 := by
  unfold forecastClass
  split_ifs <;> omega
/-- The fields of a forecast word (13 Table 13-5). -/
theorem fcstWord_fields (old : Word) {x : Nat × Nat × Nat} (h1 : x.1 < 2 ^ 12) (h2 : x.2.1 < 2 ^ 12) (h3 : x.2.2 < 2 ^ 12) :
    (fcstWord old x).toNat / 2 ^ 48 = (old.toNat / 2 ^ 48 + 1) % 2 ^ 16 ∧ (fcstWord old x).toNat / 2 ^ 36 % 2 ^ 12 = x.1 ∧
    (fcstWord old x).toNat / 2 ^ 24 % 2 ^ 12 = x.2.1 ∧ (fcstWord old x).toNat / 2 ^ 12 % 2 ^ 12 = x.2.2 ∧
    (fcstWord old x).toNat % 2 ^ 12 = forecastClass x.1 := by
  have hc := forecastClass_lt x.1
  have ho := old.isLt
  simp only [fcstWord, bits, BitVec.toNat_ofNat]
  omega

/-! ## Counters (19 R361) -/

theorem execLifetimeCounterSave_up {s : State} (h : s.pkg.boot = 6) : execLifetimeCounterSave s = .next s.saveLives := by
  rw [execLifetimeCounterSave, if_pos h]
theorem saveLives_lives {s : State} {t : Nat} {x : Tile} (h : (t, x) ∈ s.tiles) : (t, x.own.life) ∈ s.saveLives.pkg.flash.lives :=
  List.mem_map_of_mem (f := fun x : Nat × Tile => (x.1, x.2.own.life)) h
theorem saveLives_ports (s : State) {p : Nat} (h : p < 16) : (p, s.pkg.port p) ∈ s.saveLives.pkg.flash.ports :=
  List.mem_map_of_mem (f := fun i => (i, s.pkg.port i)) (List.mem_range.mpr h)

end Sys2Proof.Proofs

/-! Bring-up (01 R32, R33): steps 4 to 6 clear the package, and training makes the links and the first epoch known. -/
namespace Sys2Proof.Proofs
open Sys2Proof Sys2Proof.Machine Sys2Proof.Claims

/-! ## Steps 4 to 6 -/

theorem getK_map_of_mem {α : Type} (d : α) (g : Nat → α) {l : List Nat} {t : Nat} (h : t ∈ l) :
    getK d (l.map fun t => (t, g t)) t = g t := by
  induction l with
  | nil => simp at h
  | cons u l ih =>
    by_cases e : u = t
    · simp [getK, e]
    · rw [List.map_cons, getK, if_neg e]
      exact ih ((List.mem_cons.mp h).resolve_left (Ne.symm e))
theorem bootPkg_tile (s : State) {t : Nat} (h : t < 384) : s.bootPkg.tile t = bootTile s.pkg.flash.cfg s.pkg.flash.lives t :=
  getK_map_of_mem _ _ (List.mem_range.mpr h)
theorem bootPkg_port (s : State) {p : Nat} (h : p < 16) : s.bootPkg.pkg.port p = bootPort s.pkg.flash.cfg s.pkg.flash.ports p := by
  simp [State.bootPkg, Pkg.port, Vector.getD, h]
theorem bootPkg_idle (s : State) (c : Nat) : (s.bootPkg.coach c).launch.mode = .idle := by
  by_cases h : c < 16 <;> simp [State.bootPkg, State.coach, Vector.getD, h] <;> rfl
/-- The peer of a port is the one that the configuration image names. -/
theorem bootPkg_peer {s : State} {p : Nat} {x : Nat × Nat × Nat} (h : p < 16)
    (hx : s.pkg.flash.cfg.peers.find? (fun y => y.1 == p) = some x) : (s.bootPkg.pkg.port p).peer = some (x.2.1, x.2.2) := by
  rw [bootPkg_port s h, bootPort, hx]
  rfl
theorem bootPkg_index (s : State) : s.bootPkg.pkg.index = s.pkg.index := rfl

/-! ## Training -/

theorem flitGood_of_crc (f : Flit) (c : BitVec 32) : flitGood { f with crc := c } = (c == crc32 (flitBody f)) := rfl
theorem flitGood_flitSeal (f : Flit) : flitGood (flitSeal f) = true := by
  rw [flitSeal, flitGood_of_crc]
  exact beq_self_eq_true _
theorem packN_mod (w : Nat) (f : Nat → Nat) (n : Nat) : packN w f (n + 1) % 2 ^ w = f 0 % 2 ^ w := by
  induction n with
  | zero => simp [packN]
  | succ n ih =>
    have hd : 2 ^ w ∣ f (n + 1) % 2 ^ w * 2 ^ (w * (n + 1)) :=
      Dvd.dvd.mul_left (pow_dvd_pow 2 (Nat.le_mul_of_pos_right w n.succ_pos)) _
    rw [packN, Nat.add_mod, Nat.mod_eq_zero_of_dvd hd, Nat.add_zero, Nat.mod_mod, ih]
theorem toNat_ofNat_mod {v w : Nat} (h : w ≤ v) (n : Nat) : (BitVec.ofNat v n).toNat % 2 ^ w = n % 2 ^ w := by
  rw [BitVec.toNat_ofNat, Nat.mod_mod_of_dvd _ (pow_dvd_pow 2 h)]
/-- The first word of a control flit's payload. -/
theorem laneN_vecOf (x : Nat) (xs : List Nat) : laneN (vecOf (x :: xs)) 64 0 = x % 2 ^ 64 := by
  rw [laneN, laneBits, vecOf, ofLanes, Nat.mul_zero, BitVec.extractLsb'_toNat, Nat.shiftRight_zero, toNat_ofNat_mod (by decide),
    packN_mod 64 _ 31]
  rfl
/-- The first epoch SYNC counts 0. -/
theorem syncFlit_zero (q : Port) : (q.syncFlit 0).kind = 0x02#8 ∧ laneN (q.syncFlit 0).data 64 0 = 0 ∧ flitGood (q.syncFlit 0) = true :=
  ⟨rfl, laneN_vecOf 0 [], flitGood_flitSeal _⟩

/-- What training makes known at one port. -/
def trainPort (s : State) (p : Nat) : State :=
  match (s.pkg.port p).peer with
  | some (k, q) =>
    let s := s.out (.linkRecord p k q)
    if s.pkg.index = 0 then s.sendCtl p ((s.pkg.port p).syncFlit 0) else s
  | none => s
theorem trained_eq (s : State) : s.trained = (List.range 16).foldl trainPort s := rfl

/-- Training leaves the package but for its ports' counts of flits, and gives outputs. -/
structure Trains (s s' : State) (outs : List Output) : Prop where
  frame : s' = s.modPkg fun p => { p with ports := s'.pkg.ports, out := p.out ++ outs }
  peer : ∀ p, (s'.pkg.port p).peer = (s.pkg.port p).peer
/-- What is known of a port with a peer: its link record and, of package 0, its SYNC. -/
def knows (s : State) (p : Nat) (outs : List Output) : Prop :=
  ∀ k q, (s.pkg.port p).peer = some (k, q) → .linkRecord p k q ∈ outs ∧
    (s.pkg.index = 0 → ∃ f, .flit p f ∈ outs ∧ f.kind = 0x02#8 ∧ laneN f.data 64 0 = 0 ∧ flitGood f = true)

theorem Trains.refl (s : State) : Trains s s [] := ⟨by simp [State.modPkg], fun _ => rfl⟩
theorem Trains.trans {s s' s'' : State} {xs ys : List Output} (h : Trains s s' xs) (k : Trains s' s'' ys) : Trains s s'' (xs ++ ys) := by
  refine ⟨?_, fun p => (k.peer p).trans (h.peer p)⟩
  conv_lhs => rw [k.frame]
  conv_lhs => rw [h.frame]
  simp [State.modPkg]
theorem Trains.index {s s' : State} {xs : List Output} (h : Trains s s' xs) : s'.pkg.index = s.pkg.index := by
  rw [h.frame]; rfl
theorem peer_setIfInBounds (v : Vector Port 16) (p q : Nat) {x : Port} (h : x.peer = (v.getD p Port.reset).peer) :
    ((v.setIfInBounds p x).getD q Port.reset).peer = (v.getD q Port.reset).peer := by
  by_cases hp : p < 16
  · rw [getD_setIfInBounds v x Port.reset hp]
    split
    · next e => rw [h, e]
    · rfl
  · rw [Vector.setIfInBounds_eq_of_size_le (Nat.not_lt.mp hp)]
theorem sendCtl_trains (s : State) (p : Nat) (x : Flit) : Trains s (s.sendCtl p x) [.flit p x] :=
  ⟨rfl, fun q => peer_setIfInBounds _ p q rfl⟩
theorem out_trains (s : State) (o : Output) : Trains s (s.out o) [o] := ⟨rfl, fun _ => rfl⟩
/-- One port's training. -/
theorem trainPort_trains (s : State) (p : Nat) : ∃ outs, Trains s (trainPort s p) outs ∧ knows s p outs := by
  unfold trainPort
  split
  · next k q h =>
    have known : ∀ {outs : List Output}, .linkRecord p k q ∈ outs →
        (s.pkg.index = 0 → ∃ f, .flit p f ∈ outs ∧ f.kind = 0x02#8 ∧ laneN f.data 64 0 = 0 ∧ flitGood f = true) → knows s p outs := fun hr hf k' q' e => by
      rw [h] at e; cases e; exact ⟨hr, hf⟩
    have ho := out_trains s (.linkRecord p k q)
    dsimp only
    split
    · exact ⟨_, ho.trans (sendCtl_trains _ p _), known (by simp) fun _ =>
        ⟨_, List.mem_append_right _ (List.mem_singleton_self _), syncFlit_zero _⟩⟩
    · next hi => exact ⟨_, ho, known (by simp) fun h0 => absurd h0 hi⟩
  · next h => exact ⟨[], Trains.refl s, fun k q e => by simp [h] at e⟩
theorem knows_mono {s : State} {p : Nat} {xs ys : List Output} (hs : xs ⊆ ys) (h : knows s p xs) : knows s p ys := fun k q e => by
  obtain ⟨hr, hf⟩ := h k q e
  refine ⟨hs hr, fun h0 => ?_⟩
  obtain ⟨f, hm, hk⟩ := hf h0
  exact ⟨f, hs hm, hk⟩
/-- Training elsewhere changes neither a port's peer nor the package's index. -/
theorem Trains.knows_iff {s s' : State} {xs : List Output} (h : Trains s s' xs) (p : Nat) (ys : List Output) :
    knows s' p ys ↔ knows s p ys := by
  rw [knows, knows, h.peer, h.index]
theorem foldl_trains (ps : List Nat) (s : State) : ∃ outs, Trains s (ps.foldl trainPort s) outs ∧ ∀ p ∈ ps, knows s p outs := by
  induction ps generalizing s with
  | nil => exact ⟨[], Trains.refl s, fun _ h => by simp at h⟩
  | cons p ps ih =>
    obtain ⟨xs, ht, hp⟩ := trainPort_trains s p
    obtain ⟨ys, ht', hps⟩ := ih (trainPort s p)
    refine ⟨xs ++ ys, ht.trans ht', fun q hq => ?_⟩
    rcases List.mem_cons.mp hq with e | hq
    · subst e; exact knows_mono (List.subset_append_left xs ys) hp
    · exact knows_mono (List.subset_append_right xs ys) ((ht.knows_iff q ys).mp (hps q hq))

/-! ## The package up -/

/-- The store's event, if the counter store fails. -/
def storeChecked (s : State) : State := if s.pkg.flash.storeGood then s else s.event 0x0008 3 0x0C 0#64 0#64
theorem boot_eq (s : State) : s.boot = (storeChecked s.bootPkg.trained).out .ready := rfl
theorem storeChecked_good {s : State} (h : s.pkg.flash.storeGood = true) : storeChecked s = s := if_pos h
theorem storeChecked_bad {s : State} (h : s.pkg.flash.storeGood = false) : storeChecked s = s.event 0x0008 3 0x0C 0#64 0#64 :=
  if_neg (by simp [h])
/-- The package after steps 4 to 6 with trained ports, a checked store and the outputs up to READY. -/
def bootedWith (s : State) (ports : Vector Port 16) (fl : Flash) (outs : List Output) : State :=
  s.bootPkg.modPkg fun p => { p with ports := ports, flash := fl, out := p.out ++ outs ++ [.ready] }
theorem bootedWith_idle (s : State) (ports : Vector Port 16) (fl : Flash) (outs : List Output) (c : Nat) :
    ((bootedWith s ports fl outs).coach c).launch.mode = .idle := by
  rw [bootedWith, State.coach_modPkg]; exact bootPkg_idle s c
theorem bootedWith_tile (s : State) (ports : Vector Port 16) (fl : Flash) (outs : List Output) {t : Nat} (h : t < 384) :
    (bootedWith s ports fl outs).tile t = bootTile s.pkg.flash.cfg s.pkg.flash.lives t := by
  rw [bootedWith, State.tile_modPkg]; exact bootPkg_tile s h
theorem boot_cases (s : State) : ∃ ports fl outs, s.boot = bootedWith s ports fl outs ∧ (∀ p, p < 16 → knows s.bootPkg p outs) ∧
    fl.storeGood = (!s.pkg.flash.storeFails) ∧
    (s.pkg.flash.storeFails = true → ∃ e, fl.events.head? = some e ∧ e.code = 8 ∧ e.sev = 3) := by
  obtain ⟨xs, ht, hk⟩ := foldl_trains (List.range 16) s.bootPkg
  rw [← trained_eq] at ht
  have hg : s.bootPkg.trained.pkg.flash.storeGood = !s.pkg.flash.storeFails := by rw [ht.frame]; rfl
  have hk' : ∀ ys p, p < 16 → knows s.bootPkg p (xs ++ ys) := fun ys p hp =>
    knows_mono (List.subset_append_left xs ys) (hk p (List.mem_range.mpr hp))
  rw [boot_eq]
  cases hs : s.pkg.flash.storeFails with
  | false =>
    rw [hs] at hg
    rw [storeChecked_good hg]
    refine ⟨s.bootPkg.trained.pkg.ports, s.bootPkg.pkg.flash, xs ++ [], ?_, hk' [], by rw [← hs]; rfl, fun h => nomatch h⟩
    rw [ht.frame]
    simp [State.out, State.modPkg, bootedWith]
  | true =>
    rw [hs] at hg
    rw [storeChecked_bad hg]
    refine ⟨s.bootPkg.trained.pkg.ports, (s.bootPkg.event 0x0008 3 0x0C 0#64 0#64).pkg.flash,
      xs ++ [.platformEvent s.pkg.flash.eventCount ⟨8, 3, 0xC, 0, 0#64, 0#64⟩], ?_, hk' _, ?_,
      fun _ => ⟨_, event_head _ _ _ _ _ _, rfl, rfl⟩⟩
    · rw [ht.frame]
      simp [event_eq, State.out, State.modPkg, bootedWith, State.bootPkg]
    · rw [event_eq, ← hs]; rfl

/-! ## Bring-up -/

theorem execBringUp_good {s : State} (h0 : s.pkg.boot = 0) (hf : s.pkg.flash.cfg.firmwareGood = true) (hc : s.pkg.flash.cfg.good = true) :
    execBringUp s = .next s.boot := by
  simp [execBringUp, h0, hf, hc]
theorem execBringUp_badConfig {s : State} (h0 : s.pkg.boot = 0) (hf : s.pkg.flash.cfg.firmwareGood = true)
    (hc : s.pkg.flash.cfg.good = false) : ∃ d, execBringUp s = .next (s.bootStop 3 d) :=
  ⟨_, by simp [execBringUp, h0, hf, hc]; rfl⟩
theorem execBringUp_badFirmware {s : State} (h0 : s.pkg.boot = 0) (hf : s.pkg.flash.cfg.firmwareGood = false) :
    ∃ d, execBringUp s = .next (s.draw.2.bootStop 2 d) :=
  ⟨_, by simp [execBringUp, h0, hf]; rfl⟩
/-- A step of bring-up that stops leaves tiles and coaches, and one event. -/
theorem bootStop_spec (s : State) (n : Nat) (d : Word) : (s.bootStop n d).pkg.boot = n ∧ (s.bootStop n d).tiles = s.tiles ∧
    (s.bootStop n d).coaches = s.coaches ∧ ∃ e, (s.bootStop n d).pkg.flash.events.head? = some e ∧ e.code = 1 ∧ e.d1 = wrapN n :=
  ⟨event_boot _ _ _ _ _ _, event_tiles _ _ _ _ _ _, event_coaches _ _ _ _ _ _, _, event_head _ _ _ _ _ _, rfl, rfl⟩

/-! ## The management events -/

/-- Settles O60: bring-up by its steps, each other event by its effect on one coach, which the others' turns keep. -/
theorem managementEvents : Obligations.ManagementEvents := by
  refine ⟨fun s h0 hf hc => ?good, fun s h0 hf hc => ?badConfig, fun s h0 hf => ?badFirmware,
    fun s xs hb => execForecastPublish_down xs hb, fun s xs i x hb hidle hi hx h1 h2 h3 => ?forecast,
    fun s a b hb ha hb' hidle => ?cool, fun s a b c t ts hb ha hb' hc hr ht hk hl => ?hot, fun s a b hb ha => ?trip,
    fun s hb => ?counters, fun s n => ⟨_, rfl, rfl, rfl, rfl⟩, fun s => ?health⟩
  case good =>
    obtain ⟨ports, fl, outs, hs, hk, hg, he⟩ := boot_cases s
    refine ⟨s.boot, outs, execBringUp_good h0 hf hc, ?_⟩
    rw [hs]
    refine ⟨rfl, rfl, rfl, rfl, rfl, hg, rfl, fun p x hp hx => ?_, he, bootedWith_idle s ports fl outs, fun t ht => ?_⟩
    · have hp' := hk p hp x.2.1 x.2.2 (bootPkg_peer hp hx)
      rwa [bootPkg_index] at hp'
    · rw [bootedWith_tile s ports fl outs ht]
      exact ⟨rfl, rfl, rfl, rfl, rfl, rfl⟩
  case badConfig =>
    obtain ⟨d, h⟩ := execBringUp_badConfig h0 hf hc
    exact ⟨_, h, bootStop_spec s 3 d⟩
  case badFirmware =>
    obtain ⟨d, h⟩ := execBringUp_badFirmware h0 hf
    exact ⟨_, h, bootStop_spec s.draw.2 2 d⟩
  case forecast =>
    refine ⟨published s xs, ?_, rfl, rfl, ?_⟩
    · exact (execForecastPublish_up xs hb).trans (congrArg _ (foldl_idle forecastTurn_of_idle _ hidle))
    · rw [published_word hi hx]
      exact fcstWord_fields _ h1 h2 h3
  case cool =>
    have ho : (measuredAs s (a, b)).overheat 0 a = measuredAs s (a, b) := overheat_idle 0 a hidle
    exact ⟨measuredAs s (a, b), ho ▸ execThermalModelRun_below hb ha hb', rfl, rfl, rfl⟩
  case hot =>
    have hm : classLimit ((measuredAs s (a, b)).classOf c) < a := by
      rw [classOf_cons (s := measuredAs s (a, b)) ht]
      exact limit_below hl
    obtain ⟨hs, hh⟩ := overheat_stops (s := measuredAs s (a, b)) (k := 0) hc hr hk hm
    exact ⟨_, execThermalModelRun_below hb ha hb', stoppedBy_congr rfl rfl rfl hs, hh⟩
  case trip => exact ⟨_, execThermalModelRun_trip b hb ha, trip_spec _ 0 a⟩
  case counters =>
    exact ⟨s.saveLives, execLifetimeCounterSave_up hb, rfl, rfl, fun t x h => saveLives_lives h, fun p h => saveLives_ports s h⟩
  case health =>
    exact ⟨_, execHealthTestFailure_eq s, foldl_keeps (g := fun s => s.pkg.flash) healthStop_flash _ s,
      fun c hc => healthTest_stops_running s hc⟩

end Sys2Proof.Proofs

/-! Queued writes (02 R41, 05 R121): they join the pending writes of the issuing tile and reach nothing else. -/
namespace Sys2Proof.Proofs
open Sys2Proof Sys2Proof.Machine Sys2Proof.Claims

theorem queue_frame (s : State) (ws : List (Nat × Nat × Write)) : queue s ws = { s with tiles := (queue s ws).tiles } := by
  induction ws generalizing s with
  | nil => rfl
  | cons x ws ih => rw [queue_cons]; exact ih _
theorem queue_ct (s : State) (ws : List (Nat × Nat × Write)) :
    (queue s ws).ct = { s.ct with pend := s.ct.pend ++ pends s ws } := by
  induction ws generalizing s with
  | nil => simp [pends]
  | cons x ws ih =>
    have hs : pends (s.post x.2.1 x.1 x.2.2) ws = pends s ws := rfl
    rw [queue_cons, ih, hs]
    simp [pends, State.srcOf]
theorem queue_tile_ne {s : State} (ws : List (Nat × Nat × Write)) {t : Nat} (h : t ≠ s.cur.tile) :
    (queue s ws).tile t = s.tile t := by
  induction ws generalizing s with
  | nil => rfl
  | cons x ws ih =>
    rw [queue_cons, ih (s := s.post x.2.1 x.1 x.2.2) h]
    exact s.tile_modTile_ne _ h

/-- Settles O7, by the issuing tile's queue and the frame of `queue`. -/
theorem queuedWritesFrame : Obligations.QueuedWritesFrame := by
  intro s ws t
  refine ⟨?tile, ?rest⟩
  case tile =>
    split
    · next h =>
      subst h
      have hc := queue_ct s ws
      rwa [State.ct, queue_cur] at hc
    · next h => exact queue_tile_ne ws h
  case rest => rw [queue_frame]; exact ⟨rfl, rfl, rfl, rfl, rfl, rfl, rfl⟩

end Sys2Proof.Proofs

/-! What a posted write to the host can do besides (12 R271): where its translation faults it is dropped, and its record stops a
launch that has neither ended nor stopped. -/
namespace Sys2Proof.Proofs
open Sys2Proof Sys2Proof.Machine Sys2Proof.Claims

/-! ## A controller's fault, taken or recorded -/

@[simp] theorem announce_wall (s : State) (c : Nat) (r : Record) : (s.announce c r).wall = s.wall := by
  unfold State.announce; split <;> rfl
@[simp] theorem announce_ports (s : State) (c : Nat) (r : Record) : (s.announce c r).pkg.ports = s.pkg.ports := by
  unfold State.announce; split <;> rfl
@[simp] theorem stopLaunch_pkg (s : State) (c : Nat) (r : Record) : (s.stopLaunch c r).pkg = s.pkg := by
  unfold State.stopLaunch
  exact modTiles_pkg _ _ _
@[simp] theorem stopNow_ports (s : State) (c : Nat) (r : Record) : (s.stopNow c r).pkg.ports = s.pkg.ports := by
  simp [State.stopNow]
/-- An update of vaults alone changes each tile in its vault alone. -/
theorem modTiles_vault {f : Tile → Tile} (hf : ∀ x, ∃ v, f x = { x with vault := v }) (ts : List Nat) (s : State) (t : Nat) :
    ∃ v, (s.modTiles f ts).tile t = { s.tile t with vault := v } := by
  induction ts generalizing s with
  | nil => exact ⟨_, rfl⟩
  | cons u ts ih =>
    obtain ⟨v, h⟩ := ih (s.modTile u f)
    by_cases e : t = u
    · subst e
      obtain ⟨w, hw⟩ := hf (s.tile t)
      rw [s.tile_modTile, hw] at h
      exact ⟨v, h⟩
    · rw [s.tile_modTile_ne f e] at h
      exact ⟨v, h⟩
theorem stopLaunch_tile (s : State) (c : Nat) (r : Record) (t : Nat) : ∃ v, (s.stopLaunch c r).tile t = { s.tile t with vault := v } := by
  unfold State.stopLaunch
  exact modTiles_vault (fun _ => ⟨_, rfl⟩) _ _ t
theorem stopNow_tile (s : State) (c : Nat) (r : Record) (t : Nat) : ∃ v, (s.stopNow c r).tile t = { s.tile t with vault := v } := by
  obtain ⟨v, h⟩ := stopLaunch_tile ((s.log c r).announce c r) c r t
  have ht : ((s.log c r).announce c r).tile t = s.tile t := by simp [State.tile]
  exact ⟨v, by rw [State.stopNow, h, ht]⟩
/-- The coach of a launch that a record stops. -/
theorem stopNow_coach (s : State) {c : Nat} (hc : c < 16) (r : Record) : ∃ ps, (s.stopNow c r).coach c =
    { s.coach c with
      pushes := ps
      log := { (s.coach c).log with
        widx := (s.coach c).log.widx + 1, cls := r.cls, code := r.code, tag := (s.coach c).launch.lrec.tag
        recs := { r with first := !(s.coach c).launch.logged, stopped := true } :: (s.coach c).log.recs.take 126 }
      launch := { (s.coach c).launch with logged := true }.finish (0x80 + r.cls) s.wall } := by
  unfold State.stopNow
  obtain ⟨ps, h⟩ := stopLaunch_coach ((s.log c r).announce c r) hc r
  rw [h, announce_coach, log_coach s hc, announce_wall, State.log_wall]
  dsimp only
  rw [List.take_succ_cons, markRec_first]
  exact ⟨ps, rfl⟩

/-- A stopping fault of a class that is not held is recorded alone where the launch is over or ends, and else stops it. -/
theorem takeFaults_one (s : State) (c : Nat) (ports : List Nat) {r : Record} (hk : faultKind r.cls r.code = .stopping)
    (hh : heldClass r.cls = false) : s.takeFaults c ports [r] = s.log c r ∨ s.takeFaults c ports [r] = s.stopNow c r := by
  have hs : stopRec ([r].filter fun x =>
      decide (faultKind x.cls x.code = .stopping ∧ !(((s.log c r).coach c).launch.mode == .held && heldClass x.cls))) = some r := by
    simp [hk, hh, stopRec]
  have hc : sortRecs ([r].filter fun x => decide (faultKind x.cls x.code = .cancelling)) = [] := by
    simp [hk, sortRecs, sortBy]
  have hl : (sortRecs [r]).foldl (fun s r => s.log c r) s = s.log c r := rfl
  unfold State.takeFaults
  simp only [hl, hc, List.foldl_nil]
  rw [hs]
  dsimp only
  split
  · exact .inl rfl
  · exact .inl rfl
  · exact .inr (if_neg fun h => by simp [hh] at h)

/-- A stopping event of a controller, likewise: its record stands at some frame cycle. -/
theorem stopEvent_cases (s : State) (c slot : Nat) {x : Fail} (hk : faultKind x.cls x.code = .stopping) (hh : heldClass x.cls = false) :
    ∃ f, s.stopEvent c slot x = s.log c (s.record c noTile slot f 0 x) ∨
      s.stopEvent c slot x = s.stopNow c (s.record c noTile slot f 0 x) :=
  ⟨_, takeFaults_one s c [] hk hh⟩
/-- A posted write writes host memory, and where a piece of it is dropped its record is taken. -/
theorem hpost_cases (s : State) (c a : Nat) (x : List Byte) : ∃ h,
    s.hpost c a x = s.modPkg (fun p => { p with host := h }) ∨
    ∃ r, s.hpost c a x = (s.modPkg fun p => { p with host := h }).log c r ∨
      s.hpost c a x = (s.modPkg fun p => { p with host := h }).stopNow c r := by
  unfold State.hpost
  split
  · next h _ => exact ⟨h, .inl rfl⟩
  · next h b e _ =>
    obtain ⟨f, hf⟩ := stopEvent_cases (s.modPkg fun p => { p with host := h }) c 0 (x := trFail b e) rfl rfl
    exact ⟨h, .inr ⟨_, hf⟩⟩

/-- What posted writes may change beside host memory and outputs: the records and the progress of one coach's launch, and vaults. -/
structure Posted (s s' : State) (c : Nat) : Prop where
  others : otherCoaches s s' c
  tile : ∀ t, ∃ v, s'.tile t = { s.tile t with vault := v }
  ports : s'.pkg.ports = s.pkg.ports
  settled : (s'.coach c).log.settled = (s.coach c).log.settled
  unsettled : (s'.coach c).launch.unsettled = (s.coach c).launch.unsettled
  spans : (s'.coach c).launch.spans = (s.coach c).launch.spans
  tiles : (s'.coach c).launch.tiles = (s.coach c).launch.tiles

theorem Posted.refl (s : State) (c : Nat) : Posted s s c := ⟨fun _ _ => rfl, fun _ => ⟨_, rfl⟩, rfl, rfl, rfl, rfl, rfl⟩
theorem Posted.trans {s s' s'' : State} {c : Nat} (h : Posted s s' c) (k : Posted s' s'' c) : Posted s s'' c where
  others d hd := (k.others d hd).trans (h.others d hd)
  tile t := by
    obtain ⟨v, hv⟩ := h.tile t
    obtain ⟨w, hw⟩ := k.tile t
    exact ⟨w, by rw [hw, hv]⟩
  ports := k.ports.trans h.ports
  settled := k.settled.trans h.settled
  unsettled := k.unsettled.trans h.unsettled
  spans := k.spans.trans h.spans
  tiles := k.tiles.trans h.tiles
theorem posted_host (s : State) (c : Nat) (h : Mem) : Posted s (s.modPkg fun p => { p with host := h }) c :=
  ⟨fun _ _ => rfl, fun _ => ⟨_, rfl⟩, rfl, rfl, rfl, rfl, rfl⟩
theorem posted_log (s : State) {c : Nat} (hc : c < 16) (r : Record) : Posted s (s.log c r) c := by
  have hk := log_coach s hc r
  exact ⟨fun d hd => log_coach_ne s r hd, fun _ => ⟨_, rfl⟩, rfl, by rw [hk], by rw [hk], by rw [hk], by rw [hk]⟩
theorem posted_stopNow (s : State) {c : Nat} (hc : c < 16) (r : Record) : Posted s (s.stopNow c r) c := by
  obtain ⟨ps, hk⟩ := stopNow_coach s hc r
  exact ⟨fun d hd => stopNow_coach_ne s r hd, stopNow_tile s c r, stopNow_ports s c r, by rw [hk], by rw [hk]; rfl, by rw [hk]; rfl,
    by rw [hk]; rfl⟩
theorem posted_hpost (s : State) {c : Nat} (hc : c < 16) (a : Nat) (x : List Byte) : Posted s (s.hpost c a x) c := by
  obtain ⟨h, e | ⟨r, e | e⟩⟩ := hpost_cases s c a x <;> rw [e]
  · exact posted_host s c h
  · exact (posted_host s c h).trans (posted_log _ hc r)
  · exact (posted_host s c h).trans (posted_stopNow _ hc r)
/-- The newest record stays in the log, at most one place further on. -/
theorem hpost_recs {s : State} {c : Nat} (hc : c < 16) (a : Nat) (x : List Byte) {r : Record} {rs : List Record}
    (h : (s.coach c).log.recs = r :: rs) : r ∈ ((s.hpost c a x).coach c).log.recs := by
  obtain ⟨m, e | ⟨q, e | e⟩⟩ := hpost_cases s c a x <;> rw [e]
  · rw [State.coach_modPkg, h]; exact List.mem_cons_self
  · rw [log_coach _ hc, State.coach_modPkg]
    simp [h]
  · obtain ⟨ps, hk⟩ := stopNow_coach (s.modPkg fun p => { p with host := m }) hc q
    rw [hk, State.coach_modPkg]
    simp [h]

end Sys2Proof.Proofs

/-! The domain's agreement on epochs, starts and reports (02 R63, R64, 12 R270, 14 R305). -/
namespace Sys2Proof.Proofs
open Sys2Proof Sys2Proof.Machine Sys2Proof.Claims

/-! ## Flits into the domain tree -/

@[simp] theorem sendTree_tile (s : State) (f : Port → Flit) (t : Nat) : (s.sendTree f).tile t = s.tile t := by
  rw [State.tile, (s.sendTree_frame f).1, State.tile]
@[simp] theorem sendTree_coach (s : State) (f : Port → Flit) (c : Nat) : (s.sendTree f).coach c = s.coach c := by
  rw [State.coach, (s.sendTree_frame f).2.1, State.coach]
@[simp] theorem tell_tile (s : State) (r : Report) (t : Nat) : (s.tell r).tile t = s.tile t := sendTree_tile s _ t
@[simp] theorem tell_coach (s : State) (r : Report) (c : Nat) : (s.tell r).coach c = s.coach c := sendTree_coach s _ c
/-- Each port of a list sends a flit, and outputs stay. -/
theorem foldl_sendCtl_out (f : Port → Flit) (ps : List Nat) (s : State) :
    s.pkg.out ⊆ (ps.foldl (fun s p => s.sendCtl p (f (s.pkg.port p))) s).pkg.out ∧
    ∀ p ∈ ps, ∃ q, .flit p (f q) ∈ (ps.foldl (fun s p => s.sendCtl p (f (s.pkg.port p))) s).pkg.out := by
  induction ps generalizing s with
  | nil => exact ⟨List.Subset.refl _, fun _ h => nomatch h⟩
  | cons p ps ih =>
    obtain ⟨hs, hp⟩ := ih (s.sendCtl p (f (s.pkg.port p)))
    have ho : (s.sendCtl p (f (s.pkg.port p))).pkg.out = s.pkg.out ++ [.flit p (f (s.pkg.port p))] := rfl
    rw [ho] at hs
    refine ⟨List.Subset.trans (List.subset_append_left _ _) hs, fun q hq => ?_⟩
    rcases List.mem_cons.mp hq with e | hq
    · subst e; exact ⟨_, hs (List.mem_append_right _ (List.mem_singleton_self _))⟩
    · exact hp q hq
/-- A report goes out at every port of the tree. -/
theorem tell_out (s : State) (r : Report) {p : Nat} (hp : p ∈ s.pkg.treePorts) :
    ∃ f, .flit p f ∈ (s.tell r).pkg.out ∧ f.kind = 0x04#8 ∧ flitGood f = true := by
  obtain ⟨q, h⟩ := (foldl_sendCtl_out (·.reportFlit r) s.pkg.treePorts s).2 p hp
  exact ⟨_, h, rfl, flitGood_flitSeal _⟩
theorem treePorts_congr {p q : Pkg} (h : p.ports = q.ports) : p.treePorts = q.treePorts := by
  simp only [Pkg.treePorts, Pkg.port, h]

/-! ## A plan applied to an idle coach (13 R291) -/

@[simp] theorem newConfig_tiles (s : State) (f : CfgImage → CfgImage) : (s.newConfig f).tiles = s.tiles := event_tiles _ _ _ _ _ _
@[simp] theorem newConfig_coaches (s : State) (f : CfgImage → CfgImage) : (s.newConfig f).coaches = s.coaches :=
  event_coaches _ _ _ _ _ _
@[simp] theorem newConfig_coach (s : State) (f : CfgImage → CfgImage) (c : Nat) : (s.newConfig f).coach c = s.coach c :=
  event_coach _ _ _ _ _ _ c
@[simp] theorem newConfig_tile (s : State) (f : CfgImage → CfgImage) (t : Nat) : (s.newConfig f).tile t = s.tile t := by
  rw [State.tile, newConfig_tiles, State.tile]
@[simp] theorem event_ports (s : State) (code sev source : Nat) (d1 d2 : Word) :
    (s.event code sev source d1 d2).pkg.ports = s.pkg.ports := by
  rw [event_eq]; rfl
@[simp] theorem newConfig_ports (s : State) (f : CfgImage → CfgImage) : (s.newConfig f).pkg.ports = s.pkg.ports :=
  event_ports _ _ _ _ _ _
theorem applyPlan_coach (s : State) {c : Nat} (hc : c < 16) :
    (s.applyPlan c).coach c = { s.coach c with crect := (s.coach c).cplan } := by
  simp [State.applyPlan, State.coach_setCoach _ _ hc]
theorem applyPlan_coach_ne (s : State) {c d : Nat} (h : d ≠ c) : (s.applyPlan c).coach d = s.coach d := by
  simp [State.applyPlan, State.coach_setCoach_ne _ _ h]
theorem applyPlan_ports (s : State) (c : Nat) : (s.applyPlan c).pkg.ports = s.pkg.ports := by
  unfold State.applyPlan
  dsimp only
  rw [newConfig_ports, State.setCoach_pkg, modTiles_pkg, modTiles_pkg]
/-- A tile that a plan releases, and one that it admits. -/
def released (t : Tile) : Tile := { t with own := { t.own with owner := none } }
def admitted (c : Nat) (t : Tile) : Tile :=
  if t.own.enabled ∧ !t.own.failed then
    { t with
      own := { t.own with owner := some c, errs := t.own.errs.filter fun e => e.store != 4 }
      vault := { t.vault with cells := [], watermark := none } }
  else t
theorem applyPlan_tile (s : State) (c t : Nat) : (s.applyPlan c).tile t =
    ((s.modTiles released (s.coach c).leaving).modTiles (admitted c) (s.coach c).entering).tile t := by
  unfold State.applyPlan
  dsimp only
  rw [newConfig_tile, State.tile_setCoach]
  rfl
theorem admitted_regs (c : Nat) (t : Tile) : (admitted c t).regs = t.regs := by
  unfold admitted
  split <;> rfl
theorem applyPlan_regs (s : State) (c t : Nat) : ((s.applyPlan c).tile t).regs = (s.tile t).regs := by
  rw [applyPlan_tile]
  exact (modTiles_keeps (g := Tile.regs) (admitted_regs c) _ _ t).trans (modTiles_keeps (f := released) (g := Tile.regs) (fun _ => rfl) _ _ t)

/-- What a refused launch leaves: an idle coach that keeps its log and hatbox, the others, registers and ports. -/
structure Refused (s s' : State) (c : Nat) : Prop where
  others : otherCoaches s s' c
  idle : (s'.coach c).launch.mode = .idle
  regs : ∀ t, (s'.tile t).regs = (s.tile t).regs
  ports : s'.pkg.ports = s.pkg.ports

/-- A waiting plan changes an idle coach in its rectangle alone. -/
theorem planIdle_coach (s : State) {c : Nat} (hc : c < 16) : ∃ r, (s.planIdle c).coach c = { s.coach c with crect := r } := by
  unfold State.planIdle
  dsimp only
  split
  · exact ⟨_, applyPlan_coach s hc⟩
  · exact ⟨_, rfl⟩
theorem Refused.planIdle {s s' : State} {c : Nat} (hc : c < 16) (h : Refused s s' c) : Refused s (s'.planIdle c) c := by
  obtain ⟨r, hr⟩ := planIdle_coach s' hc
  refine ⟨fun d hd => ?_, by rw [hr]; exact h.idle, fun t => ?_, ?_⟩ <;> unfold State.planIdle <;> dsimp only <;> split
  · exact (applyPlan_coach_ne s' hd).trans (h.others d hd)
  · exact h.others d hd
  · exact (applyPlan_regs s' c t).trans (h.regs t)
  · exact h.regs t
  · exact (applyPlan_ports s' c).trans h.ports
  · exact h.ports

/-! ## Refusals (12 R270, 20 R367) -/

/-- The record of a refusal whose code names no image word. -/
def refusal (s : State) (c code : Nat) : Record := s.record c noTile 0 0 0 ⟨0x8, 0x40, 0x0B, wrapN code, 0#64⟩
theorem log_recs (s : State) {c : Nat} (hc : c < 16) (r : Record) : ∃ b, ((s.log c r).coach c).log.recs =
    { r with first := b } :: (s.coach c).log.recs.take 126 := by
  rw [log_coach s hc]
  exact ⟨_, List.take_succ_cons⟩

/-- FLSTAT names a completion record that has been dropped. -/
def flaggedDrop (s : State) (c before : Nat) : State :=
  if (s.coach c).log.widx = before then s else s.modCoach c fun k => { k with log := k.log.dropped }
theorem complete_eq (s : State) (c status : Nat) : ∃ a x fn n, s.complete c status =
    if (s.coach c).launch.lrec.irq then (flaggedDrop (s.hpost c a x) c (s.coach c).log.widx).out (.msix fn n)
    else flaggedDrop (s.hpost c a x) c (s.coach c).log.widx := ⟨_, _, _, _, rfl⟩
theorem flaggedDrop_coach_ne (s : State) {c d : Nat} (before : Nat) (h : d ≠ c) : (flaggedDrop s c before).coach d = s.coach d := by
  unfold flaggedDrop
  split
  · rfl
  · exact coach_modCoach_ne s _ h
theorem flaggedDrop_recs (s : State) {c : Nat} (hc : c < 16) (before : Nat) :
    ((flaggedDrop s c before).coach c).log.recs = (s.coach c).log.recs := by
  unfold flaggedDrop
  split
  · rfl
  · rw [coach_modCoach s hc]
    unfold FaultLog.dropped
    dsimp only
    split <;> rfl
theorem flaggedDrop_tile (s : State) (c before t : Nat) : (flaggedDrop s c before).tile t = s.tile t := by
  unfold flaggedDrop; split <;> rfl
theorem flaggedDrop_pkg (s : State) (c before : Nat) : (flaggedDrop s c before).pkg = s.pkg := by
  unfold flaggedDrop; split <;> rfl
/-- A completion record leaves the other coaches, registers, ports and, in the log, the newest record. -/
theorem complete_frame (s : State) {c : Nat} (hc : c < 16) (status : Nat) : otherCoaches s (s.complete c status) c ∧
    (∀ t, ((s.complete c status).tile t).regs = (s.tile t).regs) ∧ (s.complete c status).pkg.ports = s.pkg.ports ∧
    ∀ r rs, (s.coach c).log.recs = r :: rs → r ∈ ((s.complete c status).coach c).log.recs := by
  obtain ⟨a, x, fn, n, e⟩ := complete_eq s c status
  have hp := posted_hpost s hc a x
  generalize hs1 : flaggedDrop (s.hpost c a x) c (s.coach c).log.widx = s1 at e
  have h1 : otherCoaches s s1 c ∧ (∀ t, (s1.tile t).regs = (s.tile t).regs) ∧ s1.pkg.ports = s.pkg.ports ∧
      ∀ r rs, (s.coach c).log.recs = r :: rs → r ∈ (s1.coach c).log.recs := by
    subst hs1
    refine ⟨fun d hd => (flaggedDrop_coach_ne _ _ hd).trans (hp.others d hd), fun t => ?_, ?_, fun r rs h => ?_⟩
    · obtain ⟨v, hv⟩ := hp.tile t
      rw [flaggedDrop_tile, hv]
    · rw [flaggedDrop_pkg, hp.ports]
    · rw [flaggedDrop_recs _ hc]
      exact hpost_recs hc a x h
  rw [e]
  split <;> exact h1

theorem plain_refusal {code : Nat} (h : code < 0x20) :
    decide (0x20 ≤ (refuse1 code).code ∧ (refuse1 code).code ≤ 0x2C) = false :=
  decide_eq_false fun k => Nat.not_lt.mpr k.1 h
theorem refuseLaunch_plain (s : State) (c : Nat) {code : Nat} (h : code < 0x20) : s.refuseLaunch c (refuse1 code) =
    (((s.log c (refusal s c code)).complete c code).modLaunch c fun _ => Launch.reset).planIdle c := by
  unfold State.refuseLaunch
  simp only [plain_refusal h]
  rfl
theorem restoreFail_plain (s : State) (c : Nat) {code : Nat} (h : code < 0x20) : s.restoreFail c (refuse1 code) =
    (((s.log c (refusal s c code)).wipe c).modCoach c fun k => { k with
      hat := { k.hat with busy := false, code := code }, launch := Launch.reset }).planIdle c := by
  unfold State.restoreFail
  simp only [plain_refusal h]
  rfl

/-- A launch or a restore that is refused before frame cycle 0, up to the plan that may wait. -/
theorem refuseDomain_refused (s : State) {c : Nat} (hc : c < 16) {code : Nat} (h : code < 0x20) : ∃ s1,
    s.refuseDomain c code = s1.planIdle c ∧ Refused s s1 c ∧
    (∃ r ∈ (s1.coach c).log.recs, r.cls = 8 ∧ r.code = 0x40 ∧ r.d1 = wrapN code) ∧
    ((s.coach c).launch.restored = true → (s1.coach c).hat.code = code ∧ (s1.coach c).hat.busy = false) := by
  obtain ⟨b, hb⟩ := log_recs s hc (refusal s c code)
  have hother : otherCoaches s (s.log c (refusal s c code)) c := fun d hd => log_coach_ne s _ hd
  unfold State.refuseDomain
  split
  case isTrue =>
    rw [restoreFail_plain s c h]
    refine ⟨_, rfl, ⟨fun d hd => ?others, ?idle, fun t => ?regs, ?ports⟩, ⟨{ refusal s c code with first := b }, ?mem, rfl, rfl, rfl⟩, fun _ => ?hat⟩
    case others => rw [coach_modCoach_ne _ _ hd, State.wipe, coach_modTiles, hother d hd]
    case idle => rw [coach_modCoach _ hc]; rfl
    case regs =>
      rw [State.tile_modCoach, State.wipe]
      refine modTiles_keeps (g := Tile.regs) (fun x => ?_) _ _ t
      rfl
    case ports => exact congrArg Pkg.ports (modTiles_pkg _ _ _)
    case mem =>
      rw [coach_modCoach _ hc]
      dsimp only
      rw [State.wipe, coach_modTiles, hb]
      exact List.mem_cons_self
    case hat => rw [coach_modCoach _ hc]; exact ⟨rfl, rfl⟩
  case isFalse hr =>
    rw [refuseLaunch_plain s c h]
    obtain ⟨ho, hregs, hports, hrecs⟩ := complete_frame (s.log c (refusal s c code)) hc code
    refine ⟨_, rfl, ⟨fun d hd => ?others, ?idle, fun t => hregs t, hports⟩, ⟨{ refusal s c code with first := b }, ?mem, rfl, rfl, rfl⟩, fun h => absurd h hr⟩
    case others => exact (coach_modCoach_ne _ _ hd).trans ((ho d hd).trans (hother d hd))
    case idle => rw [State.modLaunch, coach_modCoach _ hc]; rfl
    case mem =>
      rw [State.modLaunch, coach_modCoach _ hc]
      exact hrecs _ _ hb

/-- A domain launch that is refused on every package. -/
theorem refuseAll_refused (s : State) {c : Nat} (hc : c < 16) {code : Nat} (h : code < 0x20) :
    ((s.refuseAll c code).coach c).launch.mode = .idle ∧ otherCoaches s (s.refuseAll c code) c ∧
    (∀ t, ((s.refuseAll c code).tile t).regs = (s.tile t).regs) ∧
    (∃ r ∈ ((s.refuseAll c code).coach c).log.recs, r.cls = 8 ∧ r.code = 0x40 ∧ r.d1 = wrapN code) ∧
    (∀ p ∈ s.pkg.treePorts, ∃ f, .flit p f ∈ (s.refuseAll c code).pkg.out ∧ f.kind = 0x04#8 ∧ flitGood f = true) ∧
    ((s.coach c).launch.restored = true →
      ((s.refuseAll c code).coach c).hat.code = code ∧ ((s.refuseAll c code).coach c).hat.busy = false) := by
  obtain ⟨s1, e, hr, hrec, hhat⟩ := refuseDomain_refused s hc h
  obtain ⟨r, hk⟩ := planIdle_coach s1 hc
  have hp := hr.planIdle hc
  unfold State.refuseAll
  dsimp only
  rw [e, tell_coach, hk]
  refine ⟨hr.idle, fun d hd => ?others, fun t => ?regs, hrec, fun p hq => tell_out _ _ ?tree, hhat⟩
  case others => rw [tell_coach, hp.others d hd]
  case regs => rw [tell_tile]; exact hp.regs t
  case tree => rwa [treePorts_congr hp.ports]

/-! ## SYNC and START -/

theorem execEpochSync_alone {s : State} {p : Nat} (n : Nat) (hp : p < 16) (hb : s.pkg.boot = 6) (hd : s.domains = []) :
    execEpochSync p n s = .next ((s.modPort p fun q => { q with unsynced := false }).modPkg fun k =>
      { k with epoch := n * 192 + (s.pkg.port p).pad }) := by
  have hd' : (s.modPort p fun q => { q with unsynced := false }).domains = [] := hd
  unfold execEpochSync
  rw [if_pos hp]
  dsimp only
  rw [if_neg (by simp [State.up, hb]), if_neg (by simp [hd'])]
  rfl
theorem port_modPort (s : State) {p q : Nat} (f : Port → Port) (hp : p < 16) :
    (s.modPort p f).pkg.port q = if q = p then f (s.pkg.port q) else s.pkg.port q :=
  getD_modify s.pkg.ports Port.reset f hp q
theorem setLineage_lineageOf (s : State) (x : Lineage) : (s.setLineage x).lineageOf x.id = some x := by
  unfold State.setLineage State.lineageOf State.modPkg
  dsimp only
  generalize s.pkg.flash.store = st
  split
  case isTrue h =>
    induction st with
    | nil => simp at h
    | cons y st ih =>
      by_cases hy : y.id = x.id
      · simp [hy]
      · simp only [List.any_cons, beq_eq_false_iff_ne.mpr hy, Bool.false_or] at h
        simpa [hy] using ih h
  case isFalse h =>
    have hn : st.find? (fun y => y.id == x.id) = none := by simpa using h
    simp [List.find?_append, hn]

/-- A START flit is taken by a domain launch that waits, at a boundary that is not over. -/
theorem execStartSync_waiting {s : State} {p c e : Nat} (v : Nat) (hp : p < 16) (hc : c < 16) (hb : s.pkg.boot = 6)
    (ht : (s.coach c).launch.lrec.type = 2) (he : s.pkg.epoch ≤ e * 192) (hm : (s.coach c).launch.mode = .waiting) :
    execStartSync p c e v s = .next (s.modLaunch c fun l => { l with startEpoch := some e }) := by
  have hm' : ((s.modLaunch c fun l => { l with startEpoch := some e }).coach c).launch.mode = .waiting := by
    rw [State.modLaunch, coach_modCoach s hc]; exact hm
  have hv : (s.modLaunch c fun l => { l with startEpoch := some e }).takeVariant c v =
      s.modLaunch c fun l => { l with startEpoch := some e } := by
    unfold State.takeVariant
    simp only [hm']
  have hlate : ¬ e * Config.epoch < s.pkg.epoch := Nat.not_lt.mpr he
  simp [execStartSync, hp, hc, hm, Launch.isDomain, ht, State.up, hb, hlate, hv]
theorem execStartSync_restore {s : State} {p c e : Nat} (v : Nat) (hp : p < 16) (hc : c < 16) (hb : s.pkg.boot = 6)
    (ht : (s.coach c).launch.lrec.type = 2) (he : s.pkg.epoch ≤ e * 192) (hm : (s.coach c).launch.mode = .starting)
    (hr : (s.coach c).launch.restoring = true) : execStartSync p c e v s = .next (s.restoreOn c) := by
  have hlate : ¬ e * Config.epoch < s.pkg.epoch := Nat.not_lt.mpr he
  simp [execStartSync, hp, hc, hm, Launch.isDomain, ht, State.up, hb, hlate, hr]
/-- A restore goes on to its relay point, with its image the last restored. -/
theorem restoreOn_coach (s : State) {c : Nat} (hc : c < 16) : (s.restoreOn c).coach c = { s.coach c with
    hat := { (s.coach c).hat with
      code := 0, relay := (s.coach c).launch.relayNo, moved := (s.coach c).launch.hatMoved
      ctr := wrapN (s.coach c).launch.hatCtr }
    launch := { (s.coach c).launch with
      mode := .relaying false, sinceWall := s.wall, reported := [], startEpoch := none, relayStep := 0, relayWall := 0 } } :=
  coach_modCoach _ hc _

/-! ## Reports -/

theorem report_reloadDone {s : State} {c n : Nat} {r : Report} (ht : (s.coach c).launch.lrec.type = 2)
    (hi : (s.coach c).launch.lrec.index = 0) (hm : (s.coach c).launch.mode = .waiting) (hk : r.kind = .reloadDone n) :
    s.report c r = if n < (s.coach c).log.cancels then s else if n = (s.coach c).log.cancels then s.takeReport c r
      else s.holdReport c r := by
  simp [State.report, hk, hm, Launch.isDomain, ht, hi]
/-- A report that is not the last to come is kept. -/
theorem takeReport_more {s : State} {c : Nat} {r : Report} (hc : c < 16) (hm : (s.coach c).launch.mode = .waiting)
    (htag : r.tag = (s.coach c).launch.sentTag) (hn : r.count = (s.coach c).launch.lrec.count) (hp : r.pkg < r.count)
    (hnew : ∀ x ∈ (s.coach c).launch.reported, x.pkg ≠ r.pkg) (hmore : (s.coach c).launch.reported.length + 1 < r.count) :
    s.takeReport c r = s.modLaunch c fun l => { l with reported := l.reported ++ [r] } := by
  have hok : reportOk (s.coach c).launch r = true := by
    simpa [reportOk, hn] using ⟨hn ▸ hp, hnew⟩
  have hl : ((s.modLaunch c fun l => { l with reported := l.reported ++ [r] }).coach c).launch.reported.length ≠
      (s.coach c).launch.lrec.count := by
    rw [State.modLaunch, coach_modCoach s hc]
    simp
    omega
  unfold State.takeReport
  simp only [hm, htag, hok, Bool.false_eq_true, if_false, Bool.not_true, reduceCtorEq, false_and, ne_eq, not_true, or_self]
  rw [← hm]
  exact if_neg hl

/-- Settles O59, by what each flit, report and timeout does to a launch that waits. -/
theorem domainLaunchesAgree : Obligations.DomainLaunchesAgree := by
  refine ⟨fun s p n hp hb hd => ?sync, fun s p c e v hp hc hb ht he => ⟨fun hm => ?start, fun hm hr => ?restore⟩,
    fun s c n r hc hb ht hi hm hk => ?reports, fun s c hc hm ht he => ?timeout⟩
  case sync =>
    exact ⟨_, execEpochSync_alone n hp hb hd, rfl, rfl, rfl, fun q _ => port_modPort s (fun q => { q with unsynced := false }) hp⟩
  case start => exact execStartSync_waiting v hp hc hb ht he hm
  case restore =>
    refine ⟨_, execStartSync_restore v hp hc hb ht he hm hr, rfl, fun d hd => coach_modCoach_ne _ _ hd, ?_⟩
    rw [restoreOn_coach s hc]
    exact ⟨rfl, hr, rfl, rfl, rfl, setLineage_lineageOf s ⟨(s.coach c).launch.lineage, (s.coach c).launch.hatCtr, false⟩⟩
  case reports =>
    have h : exec (.conditionReport c r) s = .next (s.report c r) := by
      show execConditionReport c r s = _
      simp [execConditionReport, hc, State.up, hb]
    rw [h, report_reloadDone ht hi hm hk]
    refine ⟨fun hn => by rw [if_pos hn], fun hn => ?_, fun hn htag hcount hpkg hnew hmore => ?_⟩
    · rw [if_neg (by omega), if_neg (by omega)]; rfl
    · rw [if_neg (by omega), if_pos hn, takeReport_more hc hm htag hcount hpkg hnew hmore]
  case timeout =>
    have h : exec (.startWaitTimeout c) s = .next (s.refuseAll c 0x0C) := by
      show execStartWaitTimeout c s = _
      simp [execStartWaitTimeout, hc, hm, Launch.isDomain, ht, he]
    exact ⟨_, h, refuseAll_refused s hc (by decide)⟩

end Sys2Proof.Proofs

/-! The commit of a launch (02 R45, 04 R98, R108): each tile's restart point, and what the frame cycle after it adds. -/
namespace Sys2Proof.Proofs
open Sys2Proof Sys2Proof.Machine Sys2Proof.Claims

/-! ## Turns over a list, each of which changes what is seen at its own index -/

section
variable {α β : Type} {v : α → Nat → β} {f : α → Nat → α}

theorem foldl_at_not_mem (hf : ∀ a d e, e ≠ d → v (f a d) e = v a e) {l : List Nat} {t : Nat} (ht : t ∉ l) (a : α) :
    v (l.foldl f a) t = v a t := by
  induction l generalizing a with
  | nil => rfl
  | cons d l ih =>
    obtain ⟨hd, hl⟩ := not_or.mp (mt List.mem_cons.mpr ht)
    exact (ih hl _).trans (hf a d t hd)
/-- An index in turn ends as its own turn leaves it, which finds it as it was at first, in a state of which P still holds. -/
theorem foldl_at_mem {P : α → Prop} (hP : ∀ a d, P a → P (f a d)) (hf : ∀ a d e, e ≠ d → v (f a d) e = v a e)
    {l : List Nat} (hl : l.Nodup) {t : Nat} (ht : t ∈ l) {a : α} (h : P a) :
    ∃ b, P b ∧ v b t = v a t ∧ v (l.foldl f a) t = v (f b t) t := by
  induction l generalizing a with
  | nil => simp at ht
  | cons d l ih =>
    obtain ⟨hd, hl⟩ := List.nodup_cons.mp hl
    rcases List.mem_cons.mp ht with e | ht
    · subst e
      exact ⟨a, h, rfl, foldl_at_not_mem hf hd _⟩
    · obtain ⟨b, h1, hs, hs'⟩ := ih hl ht (hP a d h)
      have htd : t ≠ d := fun e => hd (e ▸ ht)
      exact ⟨b, h1, hs.trans (hf a d t htd), hs'⟩
/-- What every turn keeps of a state, all of them keep. -/
theorem foldl_const {ι γ : Type} {f : α → ι → α} {g : α → γ} (hg : ∀ a i, g (f a i) = g a) (l : List ι) (a : α) :
    g (l.foldl f a) = g a := by
  induction l generalizing a with
  | nil => rfl
  | cons i l ih => exact (ih _).trans (hg a i)
end

/-! ## The commit -/

/-- Does the slot of the phase that begins still hold an unsettled phase? -/
def slotWaits (l : Launch) : Bool := l.unsettled.any fun u => u.phase + 1 == l.phase
/-- The commit of one tile, with the digest that its phase closes. -/
def commitTurn (l : Launch) (a : State × List (Nat × BitVec 128 × Nat)) (t : Nat) : State × List (Nat × BitVec 128 × Nat) :=
  let x := a.1.tile t
  match x.meet with
  | .commit rl os =>
    let y := x.commitAt l.frc (l.phase + 1) rl os (slotWaits l)
    (a.1.setTile t y.1, a.2 ++ [(t, y.2.1, y.2.2)])
  | _ => a
/-- The launch after its commit. -/
def committed (s : State) (c : Nat) : State :=
  let l := (s.coach c).launch
  let r := l.tiles.foldl (commitTurn l) (s, [])
  r.1.modLaunch c fun k => Launch.begin { k with
    unsettled := k.unsettled ++ [⟨k.phase, k.phaseStart, l.frc, s.wall, r.2⟩], phaseStart := l.frc + 1, phase := k.phase + 1 }
    (k.phase + 1)
theorem commitLaunch_eq (s : State) (c : Nat) : s.commitLaunch c =
    if (s.coach c).launch.lrec.type = 2 ∧ (s.coach c).launch.lrec.index ≠ 0 then
      (committed s c).tell ((s.coach c).launch.report (.committed (s.coach c).launch.phase) (s.coach c).launch.frc)
    else committed s c := rfl


theorem commitTurn_ne (l : Launch) (a : State × List (Nat × BitVec 128 × Nat)) {t u : Nat} (h : u ≠ t) :
    (commitTurn l a t).1.tile u = a.1.tile u := by
  unfold commitTurn
  dsimp only
  split
  · exact a.1.tile_setTile_ne _ h
  · rfl
theorem commitTurn_self (l : Launch) (a : State × List (Nat × BitVec 128 × Nat)) {t rl os : Nat} (h : (a.1.tile t).meet = .commit rl os) :
    (commitTurn l a t).1.tile t = ((a.1.tile t).commitAt l.frc (l.phase + 1) rl os (slotWaits l)).1 := by
  simp [commitTurn, h]
theorem commitTurn_coaches (l : Launch) (a : State × List (Nat × BitVec 128 × Nat)) (t : Nat) :
    (commitTurn l a t).1.coaches = a.1.coaches := by
  unfold commitTurn
  dsimp only
  split <;> rfl
theorem committed_tile {s : State} {c t rl os : Nat} (hn : (s.coach c).launch.tiles.Nodup) (ht : t ∈ (s.coach c).launch.tiles)
    (hm : (s.tile t).meet = .commit rl os) : (committed s c).tile t =
      ((s.tile t).commitAt (s.coach c).launch.frc ((s.coach c).launch.phase + 1) rl os (slotWaits (s.coach c).launch)).1 := by
  obtain ⟨b, -, hb, h⟩ := foldl_at_mem (v := fun a : State × List (Nat × BitVec 128 × Nat) => a.1.tile) (P := fun _ => True)
    (f := commitTurn (s.coach c).launch) (fun _ _ _ => trivial) (fun a d e h => commitTurn_ne _ a h) hn ht (a := (s, [])) trivial
  refine Eq.trans h ?_
  rw [commitTurn_self _ b (hb ▸ hm), hb]
/-- The ended phase joins the unsettled ones, and the next begins one cycle later. -/
theorem committed_launch (s : State) {c : Nat} (hc : c < 16) : ∃ ds, ((committed s c).coach c).launch =
    Launch.begin { (s.coach c).launch with
      unsettled := (s.coach c).launch.unsettled ++
        [⟨(s.coach c).launch.phase, (s.coach c).launch.phaseStart, (s.coach c).launch.frc, s.wall, ds⟩]
      phaseStart := (s.coach c).launch.frc + 1, phase := (s.coach c).launch.phase + 1 } ((s.coach c).launch.phase + 1) := by
  have hk := foldl_const (g := fun a : State × List (Nat × BitVec 128 × Nat) => a.1.coaches) (commitTurn_coaches (s.coach c).launch)
    (s.coach c).launch.tiles (s, [])
  have hk' : (((s.coach c).launch.tiles.foldl (commitTurn (s.coach c).launch) (s, [])).1).coach c = s.coach c :=
    congrArg (fun k : Vector Coach 16 => k.getD c Coach.reset) hk
  unfold committed
  dsimp only
  rw [State.modLaunch, coach_modCoach _ hc, hk']
  exact ⟨_, rfl⟩
theorem commitLaunch_tile (s : State) (c t : Nat) : (s.commitLaunch c).tile t = (committed s c).tile t := by
  rw [commitLaunch_eq]
  split
  · exact tell_tile _ _ t
  · rfl
theorem commitLaunch_coach (s : State) (c d : Nat) : (s.commitLaunch c).coach d = (committed s c).coach d := by
  rw [commitLaunch_eq]
  split
  · exact tell_coach _ _ d
  · rfl

/-! ## What the next frame cycle adds to the snapshot -/

/-- What a reader of the cycle after a commit sees of the carry set goes into its snapshot. -/
def withCarry (t : Tile) (f : Nat) (n : Snap) : Snap :=
  if n.frc = f ∧ n.valid then
    { n with s := Vector.ofFn fun i => t.regs.sAt (i.val + 1), ft := t.ft, ftmask := t.ftmask, acq := t.acq }
  else n
theorem snapCarry_after {t : Tile} {f : Nat} (h : t.seq.lastCommit = some f) : t.snapCarry (f + 1) =
    { t with snaps := t.snaps.map (withCarry t (f + 1)), nextSnap := t.nextSnap.map (withCarry t (f + 1)) } :=
  if_pos ⟨h, f.succ_ne_zero⟩

/-- Two tiles hold the same snapshots, of the same last commit. -/
def SameSnaps (x y : Tile) : Prop := x.snaps = y.snaps ∧ x.seq.lastCommit = y.seq.lastCommit
theorem SameSnaps.trans {x y z : Tile} (h : SameSnaps x y) (k : SameSnaps y z) : SameSnaps x z :=
  ⟨h.1.trans k.1, h.2.trans k.2⟩
theorem sameSnaps_foldl {ι : Type} {f : Tile → ι → Tile} (hf : ∀ t i, SameSnaps (f t i) t) (l : List ι) (t : Tile) :
    SameSnaps (l.foldl f t) t :=
  ⟨foldl_const (g := Tile.snaps) (fun t i => (hf t i).1) l t, foldl_const (g := fun t => t.seq.lastCommit) (fun t i => (hf t i).2) l t⟩
theorem apply_sameSnaps (t : Tile) (p : Pend) : SameSnaps (t.apply p) t := by
  unfold Tile.apply
  dsimp only
  split <;> exact ⟨rfl, rfl⟩
theorem write_sameSnaps (t : Tile) (p : Pend) : SameSnaps (t.write p) t := by
  unfold Tile.write
  split
  · exact apply_sameSnaps t p
  · exact apply_sameSnaps t p
theorem applyFlags_sameSnaps (t : Tile) (p : Pend) : SameSnaps (t.applyFlags p) t := by
  unfold Tile.applyFlags
  split <;> exact ⟨rfl, rfl⟩
theorem resolve_sameSnaps (t : Tile) (o : MmulOp) (ps : List Pend) : SameSnaps (t.resolve o ps) t := by
  unfold Tile.resolve
  split
  · exact ⟨rfl, rfl⟩
  · exact sameSnaps_foldl (fun t qs => (sameSnaps_foldl applyFlags_sameSnaps _ _).trans (sameSnaps_foldl apply_sameSnaps _ _)) _ _
theorem units_sameSnaps (t : Tile) (f : Nat) : SameSnaps (t.units f) t := by
  unfold Tile.units
  dsimp only
  repeat' split
  all_goals exact ⟨rfl, rfl⟩
theorem settleUndo_sameSnaps (t : Tile) (f : Nat) : SameSnaps (t.settleUndo f) t := by
  unfold Tile.settleUndo
  split
  · exact ⟨rfl, rfl⟩
  · have h := sameSnaps_foldl (fun t o => resolve_sameSnaps t o o.result)
      (t.mtx.mmuls.filter fun o => !o.dead && decide (o.c + o.lat ≤ f) && o.chunks.length == o.n && o.lastRead == f) t
    dsimp only
    split <;> exact h
/-- The snapshots are completed last in a frame cycle, from the tile as that cycle leaves it. -/
theorem landed_eq_snapCarry (t : Tile) (f n : Nat) : ∃ z a b, landed t f n = (z.snapCarry f).sram a b ∧ SameSnaps z t := by
  refine ⟨_, _, _, rfl, ?_⟩
  refine (settleUndo_sameSnaps _ f).trans ((units_sameSnaps _ f).trans ?_)
  refine (sameSnaps_foldl (fun t o => resolve_sameSnaps t o []) _ _).trans ?_
  exact (sameSnaps_foldl applyFlags_sameSnaps _ _).trans (sameSnaps_foldl write_sameSnaps _ _)
/-- The slot of a snapshot after the frame cycle that follows a commit. -/
theorem landed_snap {t : Tile} {f i : Nat} (n : Nat) (h : t.seq.lastCommit = some f) (hi : i < 2) :
    (landed t (f + 1) n).snaps.getD i Snap.reset = withCarry (landed t (f + 1) n) (f + 1) (t.snaps.getD i Snap.reset) := by
  obtain ⟨z, a, b, e, hs, hl⟩ := landed_eq_snapCarry t (f + 1) n
  rw [e, snapCarry_after (hl.trans h)]
  simp [Tile.sram, Vector.getD, hi, hs, withCarry]

/-! ## The statement -/

/-- The restart point that a commit takes. -/
def restartPoint (y : Tile) (f next rl os : Nat) : Snap :=
  { valid := true, settled := false, phase := next, frc := f + 1, sb := y.seq.markSb, h := !y.h
    addr := y.seq.markPc, ftmask := y.ftmask, s := Vector.replicate 16 0#64, ft := y.ft, acq := y.acq
    l := y.regs.l, banks := y.vault.banks, rl := rl, os := os, trigs := y.trigs }
theorem slotWaits_iff (l : Launch) : slotWaits l = true ↔ ∃ u ∈ l.unsettled, u.phase + 1 = l.phase := by
  simp [slotWaits]

/-- Settles O41, by the turn of the committing tile among those of its launch, and the last step of a frame cycle. -/
theorem commitBeginsThePhase : Obligations.CommitBeginsThePhase := by
  refine ⟨fun s c t rl os hc hn ht hm => ?commit, fun t f d i hl hi => ?carry⟩
  case commit =>
    obtain ⟨ds, hk⟩ := committed_launch s hc
    dsimp only
    rw [commitLaunch_tile, commitLaunch_coach, hk, committed_tile hn ht hm]
    refine ⟨rfl, rfl, rfl, rfl, rfl, rfl, rfl, ?_, ?_, ?_, ?_,
      ⟨restartPoint (s.tile t) (s.coach c).launch.frc ((s.coach c).launch.phase + 1) rl os, rfl, rfl, rfl, rfl, rfl, rfl, rfl, rfl, rfl,
        rfl, rfl, rfl, rfl, rfl, rfl, fun hw => ?waits, fun hw => ?takes⟩, rfl, rfl, _, rfl, rfl, rfl, rfl, rfl⟩
    case waits =>
      rw [(slotWaits_iff _).mpr hw]
      exact ⟨rfl, rfl⟩
    case takes =>
      have hf : slotWaits (s.coach c).launch = false := Bool.eq_false_iff.mpr fun h => by
        obtain ⟨u, hu, e⟩ := (slotWaits_iff _).mp h
        exact hw u hu e
      rw [hf]
      have h2 : ((s.coach c).launch.phase + 1) % 2 < 2 := Nat.mod_lt _ (by decide)
      refine ⟨rfl, ?_, ?_⟩
      · exact (getD_setIfInBounds _ _ _ h2 _).trans (if_pos rfl)
      · exact (getD_setIfInBounds _ _ _ h2 _).trans (if_neg (by omega))
    all_goals cases slotWaits (s.coach c).launch <;> rfl
  case carry =>
    dsimp only
    rw [landed_snap d hl hi]
    refine ⟨fun hv hf => ?_, fun hf => ?_⟩
    · rw [withCarry, if_pos ⟨hf, hv⟩]
      exact ⟨fun k hk => by simp [Vector.getD, hk], rfl⟩
    · rw [withCarry, if_neg fun h => hf h.1]

end Sys2Proof.Proofs

/-! Settling (02 R51, 04 R108, 11 R262): the digest record in host memory, and what a tile keeps of a settled phase. -/
namespace Sys2Proof.Proofs
open Sys2Proof Sys2Proof.Machine Sys2Proof.Claims

/-! ## Little-endian fields of a list of bytes written to a memory -/

theorem bytesOf_length (x n : Nat) : (bytesOf x n).length = n := by
  induction n generalizing x with
  | zero => rfl
  | succ n ih => rw [bytesOf, List.length_cons, ih]
theorem getN_congr {m m' : Mem} {a n : Nat} (h : ∀ j, j < n → m.get (a + j) = m'.get (a + j)) : m.getN a n = m'.getN a n := by
  induction n generalizing a with
  | zero => rfl
  | succ n ih =>
    have h0 := h 0 (Nat.succ_pos n)
    have hr : m.getN (a + 1) n = m'.getN (a + 1) n := ih fun j hj => by
      rw [Nat.add_right_comm]; exact h (j + 1) (Nat.succ_lt_succ hj)
    rw [Mem.getN, Mem.getN, hr]
    exact congrArg (fun b : Byte => b.toNat + 256 * m'.getN (a + 1) n) h0
theorem putL_append (m : Mem) (a : Nat) (xs ys : List Byte) : m.putL a (xs ++ ys) = (m.putL a xs).putL (a + xs.length) ys := by
  induction xs generalizing m a with
  | nil => rfl
  | cons x xs ih => rw [List.cons_append, Mem.putL, ih, List.length_cons, Nat.add_right_comm, Nat.add_assoc a]; rfl
theorem get_putL_above {m : Mem} (hm : m.wf = true) {a k : Nat} (xs : List Byte) (hk : a < k) : (m.putL k xs).get a = m.get a := by
  rw [Mem.get_putL xs k a hm, if_neg fun h => absurd h.1 (Nat.not_le.mpr hk)]
theorem getN_putL_bytesOf {m : Mem} (hm : m.wf = true) (a x n : Nat) : (m.putL a (bytesOf x n)).getN a n = x % 256 ^ n := by
  induction n generalizing m a x with
  | zero => simp [Mem.getN, Nat.mod_one]
  | succ n ih =>
    have hw := Mem.put_wf a (BitVec.ofNat 8 x) hm
    rw [bytesOf, Mem.putL, Mem.getN, ih hw, get_putL_above hw _ (Nat.lt_succ_self a), Mem.get_put a a _ hm, if_pos rfl,
      BitVec.toNat_ofNat, Nat.pow_succ' (m := 256), Nat.mod_mul (a := 256)]
/-- Fields, each with its number of bytes, one after the other. -/
def packed (fs : List (Nat × Nat)) : List Byte := fs.flatMap fun f => bytesOf f.1 f.2
theorem getN_packed {m : Mem} (hm : m.wf = true) (a : Nat) (fs gs : List (Nat × Nat)) (x n : Nat) :
    (m.putL a (packed (fs ++ (x, n) :: gs))).getN (a + (packed fs).length) n = x % 256 ^ n := by
  have hp : packed (fs ++ (x, n) :: gs) = packed fs ++ (bytesOf x n ++ packed gs) := by simp [packed]
  rw [hp, putL_append, putL_append]
  have hw := Mem.putL_wf (packed fs) a hm
  refine (getN_congr fun j hj => ?_).trans (getN_putL_bytesOf hw (a + (packed fs).length) x n)
  refine get_putL_above (Mem.putL_wf _ _ hw) _ ?_
  rw [bytesOf_length]
  omega
theorem get_putL_outside {m : Mem} (hm : m.wf = true) {p a : Nat} (xs : List Byte) (h : a < p ∨ p + xs.length ≤ a) :
    (m.putL p xs).get a = m.get a := by
  rw [Mem.get_putL xs p a hm, if_neg (by omega)]

/-! ## The digest record (11 Table 11-4) -/

theorem digestRecord_length (phase tile pkg replays : Nat) (d : BitVec 128) (w : Nat) :
    (digestRecord phase tile pkg replays d w).length = 32 := by
  simp only [digestRecord, List.length_append, bytesOf_length]
/-- The fields of a digest record in a memory that holds it. -/
theorem digestRecord_fields {m : Mem} (hm : m.wf = true) (p phase tile pkg replays : Nat) (d : BitVec 128) (w : Nat) :
    let h := m.putL p (digestRecord phase tile pkg replays d w)
    h.getN p 4 = phase % 2 ^ 32 ∧ h.getN (p + 4) 2 = tile % 2 ^ 16 ∧ h.getN (p + 6) 1 = pkg % 256 ∧ h.getN (p + 7) 1 = replays % 256 ∧
      h.getN (p + 8) 16 = d.toNat ∧ h.getN (p + 24) 8 = w % 2 ^ 64 ∧ ∀ a, (a < p ∨ p + 32 ≤ a) → h.get a = m.get a := by
  have hr : digestRecord phase tile pkg replays d w =
      packed [(phase, 4), (tile, 2), (pkg, 1), (replays, 1), (d.toNat, 16), (w, 8)] := by simp [digestRecord, packed]
  have hout : ∀ a, (a < p ∨ p + 32 ≤ a) → (m.putL p (digestRecord phase tile pkg replays d w)).get a = m.get a := fun a ha =>
    get_putL_outside hm _ (by rwa [digestRecord_length])
  rw [hr] at hout ⊢
  exact ⟨getN_packed hm p [] _ phase 4, getN_packed hm p [(phase, 4)] _ tile 2, getN_packed hm p [(phase, 4), (tile, 2)] _ pkg 1,
    getN_packed hm p [(phase, 4), (tile, 2), (pkg, 1)] _ replays 1,
    (getN_packed hm p [(phase, 4), (tile, 2), (pkg, 1), (replays, 1)] _ d.toNat 16).trans (Nat.mod_eq_of_lt d.isLt),
    getN_packed hm p [(phase, 4), (tile, 2), (pkg, 1), (replays, 1), (d.toNat, 16)] [] w 8, hout⟩

/-- A posted write in one piece of a range of the coach is not dropped. -/
theorem hpost_inRange {s : State} {c a p : Nat} {x : List Byte} (h : inRange (s.coach c) a x.length p) :
    (s.hpost c a x).pkg.host = s.pkg.host.putL p x := by
  obtain ⟨hp, h1, hfit⟩ := h
  have hlen : pieceLen a x.length = x.length := Nat.min_eq_left (by omega)
  have hne : x.isEmpty = false := by
    cases x with
    | nil => simp at h1
    | cons => rfl
  have ht : (s.coach c).translate s.pkg.host a true = .ok p := by simp [Coach.translate, hp]
  have hrest : ∀ (m : Mem) (b n : Nat), (s.coach c).hostWrite m b [] n = (m, none) := fun m b n => by
    cases n <;> rfl
  have hw : (s.coach c).hostWrite s.pkg.host a x (x.length / 256 + 2) = (s.pkg.host.putL p x, none) := by
    rw [Coach.hostWrite, hne]
    simp [hlen, ht, hrest]
  rw [State.hpost, hw]
  rfl
theorem posted_writeDigests (s : State) {c : Nat} (hc : c < 16) (u : Unsettled) : Posted s (s.writeDigests c u) c := by
  unfold State.writeDigests
  dsimp only
  generalize u.digests.zipIdx = ds
  generalize (s.coach c).launch = l
  induction ds generalizing s with
  | nil => exact Posted.refl s c
  | cons d ds ih => exact (posted_hpost s hc _ _).trans (ih _)

/-! ## A tile at a settling -/

/-- Two times over one update of a list of tiles does no more. -/
theorem tile_modTiles_not_mem {f : Tile → Tile} {ts : List Nat} {t : Nat} (h : t ∉ ts) (s : State) :
    (s.modTiles f ts).tile t = s.tile t := by
  induction ts generalizing s with
  | nil => rfl
  | cons u ts ih =>
    obtain ⟨hu, hts⟩ := not_or.mp (mt List.mem_cons.mpr h)
    exact (ih hts _).trans (s.tile_modTile_ne f hu)
theorem tile_modTiles_mem {f : Tile → Tile} {ts : List Nat} (hn : ts.Nodup) {t : Nat} (h : t ∈ ts) (s : State) :
    (s.modTiles f ts).tile t = f (s.tile t) := by
  induction ts generalizing s with
  | nil => simp at h
  | cons u ts ih =>
    obtain ⟨hu, hts⟩ := List.nodup_cons.mp hn
    rcases List.mem_cons.mp h with e | h
    · subst e; exact (tile_modTiles_not_mem hu _).trans (s.tile_modTile t f)
    · exact (ih hts h _).trans (congrArg f (s.tile_modTile_ne f fun e => hu (e ▸ h)))
/-- An update that does no more a second time, over a list that may name a tile twice. -/
theorem tile_modTiles_idem {f : Tile → Tile} (hf : ∀ x, f (f x) = f x) {ts : List Nat} {t : Nat} (h : t ∈ ts) (s : State) :
    (s.modTiles f ts).tile t = f (s.tile t) := by
  induction ts generalizing s with
  | nil => simp at h
  | cons u ts ih =>
    by_cases e : t = u
    · subst e
      by_cases ht : t ∈ ts
      · exact (ih ht _).trans (by rw [s.tile_modTile, hf])
      · exact (tile_modTiles_not_mem ht _).trans (s.tile_modTile t f)
    · have ht := (List.mem_cons.mp h).resolve_left e
      exact (ih ht _).trans (congrArg f (s.tile_modTile_ne f e))

/-- A snapshot slot of the phase that settles is marked. -/
def markSettled (k : Nat) (n : Snap) : Snap := if n.valid = true ∧ n.phase = k then { n with settled := true } else n
theorem markSettled_markSettled (k : Nat) (n : Snap) : markSettled k (markSettled k n) = markSettled k n := by
  by_cases h : n.valid = true ∧ n.phase = k <;> simp [markSettled, h]
/-- The errors that a settling leaves on a tile, with a snapshot that waits for the slot or without. -/
def keptErrs (k : Nat) (waits : Bool) (es : List StoreErr) : List StoreErr :=
  es.filter fun e => !(e.store == 6 && (e.idx == k + 2 || (waits && e.idx == k % 2)))
/-- A tile with the slots, the waiting snapshot and the errors that a settling leaves. -/
def settledWith (t : Tile) (k : Nat) (snaps : Vector Snap 2) (waits : Bool) (next : Option Snap) : Tile :=
  { t with
    own := { t.own with errs := keptErrs k waits t.own.errs }
    snaps := snaps, nextSnap := next
    blk := { t.blk with journal := t.blk.journal.filter fun j => decide (k < j.phase) } }
/-- Where a snapshot waits for the phase its slot takes it, else the slots are marked. -/
theorem settle_waiting {t : Tile} {k : Nat} {n : Snap} (hn : t.nextSnap = some n) (h : n.phase = k + 2) :
    t.settle k = settledWith t k ((t.snaps.map (markSettled k)).setIfInBounds (k % 2) n) true none := by
  simp only [Tile.settle, hn, h, if_true, Option.any_some, beq_self_eq_true, Option.filter_some, bne_self_eq_false]
  rfl
theorem settle_marking {t : Tile} {k : Nat} (h : ∀ n, t.nextSnap = some n → n.phase ≠ k + 2) :
    t.settle k = settledWith t k (t.snaps.map (markSettled k)) false t.nextSnap := by
  cases hn : t.nextSnap with
  | none => simp only [Tile.settle, hn, Option.any_none, Option.filter_none]; rfl
  | some n =>
    have hb : (n.phase == k + 2) = false := beq_eq_false_iff_ne.mpr (h n hn)
    simp only [Tile.settle, hn, Option.any_some, hb, h n hn, if_false, Option.filter_some, bne, Bool.not_false, if_true]
    rfl
theorem keptErrs_keptErrs (k : Nat) (b : Bool) (es : List StoreErr) : keptErrs k false (keptErrs k b es) = keptErrs k b es := by
  refine List.filter_eq_self.mpr fun e he => ?_
  have h := (List.mem_filter.mp he).2
  revert h
  cases b <;> cases e.store == 6 <;> cases e.idx == k + 2 <;> simp
/-- A tile whose slots are marked and for whose phase no snapshot waits settles no further. -/
theorem settle_settledWith {t : Tile} {k : Nat} {snaps : Vector Snap 2} {b : Bool} {next : Option Snap}
    (hs : snaps.map (markSettled k) = snaps) (hn : ∀ n, next = some n → n.phase ≠ k + 2) :
    (settledWith t k snaps b next).settle k = settledWith t k snaps b next := by
  rw [settle_marking (t := settledWith t k snaps b next) hn]
  simp only [settledWith, hs, keptErrs_keptErrs, List.filter_filter, Bool.and_self]
theorem settle_settle (k : Nat) (t : Tile) : (t.settle k).settle k = t.settle k := by
  have hm : (t.snaps.map (markSettled k)).map (markSettled k) = t.snaps.map (markSettled k) := by
    ext i hi; simp [markSettled_markSettled]
  by_cases hw : ∃ n, t.nextSnap = some n ∧ n.phase = k + 2
  · obtain ⟨n, hn, h⟩ := hw
    have hk : markSettled k n = n := if_neg fun e => by omega
    rw [settle_waiting hn h]
    refine settle_settledWith ?_ fun _ e => nomatch e
    ext i hi
    by_cases e : k % 2 = i <;> simp [e, hk, markSettled_markSettled]
  · have hw' : ∀ n, t.nextSnap = some n → n.phase ≠ k + 2 := fun n hn h => hw ⟨n, hn, h⟩
    rw [settle_marking hw']
    exact settle_settledWith hm hw'

/-! ## The settling of a phase -/

/-- A coach whose phase settles. -/
def settledCoach (u : Unsettled) (k : Coach) : Coach :=
  { k with
    log := { k.log with settled := (k.log.settled + 1) % 2 ^ 32 }
    launch := { k.launch with
      unsettled := k.launch.unsettled.filter fun x => x.phase != u.phase
      commits := k.launch.commits.filter fun x => x.2 != u.phase
      spans := (u.phase, u.start) :: k.launch.spans } }
/-- A phase settles: its digest records, its tiles, its launch. -/
def phaseSettled (s : State) (c : Nat) (u : Unsettled) : State :=
  ((s.writeDigests c u).modTiles (fun t => t.settle u.phase) ((s.writeDigests c u).coach c).launch.tiles).modCoach c (settledCoach u)
/-- Package 0 has heard of the commit of every package, or is none of a domain. -/
theorem silent_none {l : Launch} {k : Nat}
    (h : l.lrec.type ≠ 2 ∨ l.lrec.index ≠ 0 ∨ ∀ p, 0 < p → p < l.lrec.count → (p, k) ∈ l.commits) : l.silent k = none := by
  unfold Launch.silent
  split
  · next hd =>
    obtain ⟨ht, hi⟩ : l.lrec.type = 2 ∧ l.lrec.index = 0 := by simpa [Launch.isDomain] using hd
    have hall := (h.resolve_left (not_not.mpr ht)).resolve_left (not_not.mpr hi)
    refine List.find?_eq_none.mpr fun p hp => ?_
    by_cases h0 : p = 0
    · simp [h0]
    · simp [hall p (Nat.pos_of_ne_zero h0) (List.mem_range.mp hp)]
  · rfl
theorem bars_iff (l : Launch) (k : Nat) : l.bars k = true ↔ ∃ b, l.barred = some b ∧ b ≤ k := by
  unfold Launch.bars
  cases l.barred <;> simp
theorem execPhaseSettle_barred {s : State} {c : Nat} {u : Unsettled} {us : List Unsettled} (hc : c < 16)
    (hu : (s.coach c).launch.unsettled = u :: us) (hm : (s.coach c).launch.mode ≠ .finishing)
    (hb : (s.coach c).launch.bars u.phase = true) : execPhaseSettle c s = .next s := by
  simp [execPhaseSettle, hc, hu, hm, hb]
theorem execPhaseSettle_settled {s : State} {c : Nat} {u : Unsettled} {us : List Unsettled} (hc : c < 16)
    (hu : (s.coach c).launch.unsettled = u :: us) (hm : (s.coach c).launch.mode ≠ .finishing)
    (hb : (s.coach c).launch.bars u.phase = false) (hs : (s.coach c).launch.silent u.phase = none) :
    execPhaseSettle c s = .next (phaseSettled s c u) := by
  simp only [execPhaseSettle, hc, hu, hm, hb, hs, if_true, if_false, Bool.false_eq_true]
  rfl
/-- The coach and the tiles of a phase that settles. -/
theorem phaseSettled_coach (s : State) {c : Nat} (hc : c < 16) (u : Unsettled) : otherCoaches s (phaseSettled s c u) c ∧
    ((phaseSettled s c u).coach c).log.settled = ((s.coach c).log.settled + 1) % 2 ^ 32 ∧
    ((phaseSettled s c u).coach c).launch.unsettled = (s.coach c).launch.unsettled.filter (fun x => x.phase != u.phase) ∧
    ((phaseSettled s c u).coach c).launch.spans = (u.phase, u.start) :: (s.coach c).launch.spans := by
  have hp := posted_writeDigests s hc u
  have hk : (phaseSettled s c u).coach c = settledCoach u ((s.writeDigests c u).coach c) := by
    rw [phaseSettled, coach_modCoach _ hc, coach_modTiles]
  rw [hk]
  refine ⟨fun d hd => ?_, ?_, ?_, ?_⟩
  · rw [phaseSettled, coach_modCoach_ne _ _ hd, coach_modTiles, hp.others d hd]
  · rw [← hp.settled]; rfl
  · rw [← hp.unsettled]; rfl
  · rw [← hp.spans]; rfl
theorem phaseSettled_tile {s : State} {c t : Nat} (hc : c < 16) (u : Unsettled) (ht : t ∈ (s.coach c).launch.tiles) :
    ∃ v, (phaseSettled s c u).tile t = ({ s.tile t with vault := v } : Tile).settle u.phase := by
  have hp := posted_writeDigests s hc u
  obtain ⟨v, hv⟩ := hp.tile t
  refine ⟨v, ?_⟩
  rw [phaseSettled, State.tile_modCoach, hp.tiles, tile_modTiles_idem (f := fun t => t.settle u.phase) (settle_settle u.phase) ht, hv]
/-- The one digest record of a phase, where its place lies in a range. -/
theorem phaseSettled_host {s : State} {c t w p : Nat} {d : BitVec 128} {u : Unsettled} (hd : u.digests = [(t, d, w)])
    (hr : inRange (s.coach c) ((s.coach c).launch.lrec.ring.toNat +
      32 * (u.phase % (s.coach c).launch.lrec.np * (s.coach c).launch.tiles.length)) 32 p) :
    (phaseSettled s c u).pkg.host = s.pkg.host.putL p
      (digestRecord u.phase t (s.coach c).launch.lrec.index ((s.coach c).launch.replaysOf u.phase) d w) := by
  have hw : s.writeDigests c u = s.hpost c ((s.coach c).launch.lrec.ring.toNat +
      32 * (u.phase % (s.coach c).launch.lrec.np * (s.coach c).launch.tiles.length))
      (digestRecord u.phase t (s.coach c).launch.lrec.index ((s.coach c).launch.replaysOf u.phase) d w) := by
    simp [State.writeDigests, hd]
  rw [phaseSettled, State.modCoach_pkg, modTiles_pkg, hw, hpost_inRange (by rwa [digestRecord_length])]
theorem getD_map_markSettled (v : Vector Snap 2) (k : Nat) {i : Nat} (hi : i < 2) :
    (v.map (markSettled k)).getD i Snap.reset = markSettled k (v.getD i Snap.reset) := by
  simp [Vector.getD, hi]

end Sys2Proof.Proofs

/-! Strike reports (17 R331, 19 R349, R358): counted on the tile, and answered by a cancel or a record. -/
namespace Sys2Proof.Proofs
open Sys2Proof Sys2Proof.Machine Sys2Proof.Claims

/-! ## A cancel -/

/-- The machine as a cancel has been recorded and counted, with its target. -/
def cancelNoted (s : State) (c tile source t target : Nat) (struck : Option Nat) : State :=
  (s.log c (s.record c tile 0 t 0
    ⟨0x5, 0x01, source, BitVec.ofNat 64 (phaseAt (s.coach c).launch t), BitVec.ofNat 64 t⟩)).modCoach c fun x => { x with
      log := { x.log with cancels := (x.log.cancels + 1) % 2 ^ 32 }
      launch := { x.launch with pending := some target, struck := struck } }
/-- From RUN, with no replay under way, a cancel of an unsettled phase that has been replayed less than three times enters HALT. -/
theorem cancelAt_running {s : State} {c t : Nat} (tile source : Nat) (strike : Bool) (ports : List Nat)
    (hm : (s.coach c).launch.mode = .running) (hp : (s.coach c).launch.pending = none)
    (hs : (s.coach c).launch.settledAt t = false)
    (hr : Launch.replaysOf (s.coach c).launch (phaseAt (s.coach c).launch t) < 3) : ∃ struck,
    s.cancelAt c tile source t strike ports =
      (cancelNoted s c tile source t (phaseAt (s.coach c).launch t) struck).halt c (phaseAt (s.coach c).launch t) ports := by
  have hr' : ¬ Launch.replaysOf (s.coach c).launch (phaseAt (s.coach c).launch t) ≥ Config.maxReplays := Nat.not_le.mpr hr
  unfold State.cancelAt
  simp only [hm, hp, hs, hr', if_false, Bool.false_eq_true]
  exact ⟨_, rfl⟩

/-! ## HALT (17 Table 17-6) -/

theorem halt_coach (s : State) {c : Nat} (hc : c < 16) (target : Nat) (ports : List Nat) : ∃ recs, (s.halt c target ports).coach c =
    { s.coach c with
      pushes := [], log := { (s.coach c).log with recs := recs }
      launch := { (s.coach c).launch with
        mode := .closing, pending := some target, sinceWall := s.wall, hold := none, closingDone := none } } ∧
    (recs = (s.coach c).log.recs ∨ ∃ r, recs = markRec r (fun x => { x with superseded := true, stopped := false }) (s.coach c).log.recs) := by
  unfold State.halt
  dsimp only
  rw [coach_modCoach _ hc, State.coach_modPkg, coach_modTiles, State.modPkg_wall, modTiles_wall]
  refine ⟨_, rfl, ?_⟩
  split
  · exact .inr ⟨_, rfl⟩
  · exact .inl rfl
theorem halt_coach_ne (s : State) {c d : Nat} (target : Nat) (ports : List Nat) (h : d ≠ c) :
    (s.halt c target ports).coach d = s.coach d := by
  unfold State.halt
  dsimp only
  rw [coach_modCoach_ne _ _ h, State.coach_modPkg, coach_modTiles]
/-- A mark changes neither class nor code, tile nor details of a record. -/
theorem markRec_head (r x : Record) (f : Record → Record) (xs : List Record) :
    (markRec r f (x :: xs)).head? = some x ∨ (markRec r f (x :: xs)).head? = some (f x) := by
  rw [markRec]
  split
  · exact .inr rfl
  · exact .inl rfl

/-! ## Tiles keep their ownership and counters through a cancel -/

@[simp] theorem log_own (s : State) (c t : Nat) (r : Record) : ((s.log c r).tile t).own = (s.tile t).own := rfl
@[simp] theorem stopNow_own (s : State) (c t : Nat) (r : Record) : ((s.stopNow c r).tile t).own = (s.tile t).own :=
  stopNow_keeps (g := Tile.own) (fun _ => rfl) s c r t
@[simp] theorem closeTiles_own (s : State) (ts : List Nat) (t : Nat) :
    ((s.modTiles (fun t => { t with vault := t.vault.closeAll }) ts).tile t).own = (s.tile t).own := by
  refine modTiles_keeps (g := Tile.own) (fun x => ?_) ts s t
  rfl
@[simp] theorem halt_own (s : State) (c target t : Nat) (ports : List Nat) : ((s.halt c target ports).tile t).own = (s.tile t).own := by
  refine modTiles_keeps (g := Tile.own) (fun x => ?_) _ s t
  rfl
theorem cancelAt_own (s : State) (c tile source f : Nat) (strike : Bool) (ports : List Nat) (t : Nat) :
    ((s.cancelAt c tile source f strike ports).tile t).own = (s.tile t).own := by
  unfold State.cancelAt
  dsimp only
  repeat' split
  all_goals simp
theorem modLaunch_coach_ne (s : State) {c d : Nat} (f : Launch → Launch) (h : d ≠ c) : (s.modLaunch c f).coach d = s.coach d :=
  coach_modCoach_ne _ _ h
/-- A cancel leaves the other coaches. -/
theorem cancelAt_coach_ne (s : State) {c d : Nat} (tile source f : Nat) (strike : Bool) (ports : List Nat) (h : d ≠ c) :
    (s.cancelAt c tile source f strike ports).coach d = s.coach d := by
  unfold State.cancelAt
  dsimp only
  repeat' split
  all_goals simp [stopNow_coach_ne, halt_coach_ne, coach_modCoach_ne, modLaunch_coach_ne, log_coach_ne, h]
/-- The strike count of a coach is no other's business. -/
theorem stopNow_strikes (s : State) {c : Nat} (hc : c < 16) (r : Record) :
    ((s.stopNow c r).coach c).log.strikes = (s.coach c).log.strikes := by
  obtain ⟨ps, h⟩ := stopNow_coach s hc r
  rw [h]
theorem halt_strikes (s : State) {c : Nat} (hc : c < 16) (target : Nat) (ports : List Nat) :
    ((s.halt c target ports).coach c).log.strikes = (s.coach c).log.strikes := by
  obtain ⟨recs, h, -⟩ := halt_coach s hc target ports
  rw [h]
theorem cancelAt_strikes (s : State) {c : Nat} (hc : c < 16) (tile source f : Nat) (strike : Bool) (ports : List Nat) :
    ((s.cancelAt c tile source f strike ports).coach c).log.strikes = (s.coach c).log.strikes := by
  unfold State.cancelAt
  dsimp only
  repeat' split
  all_goals simp [stopNow_strikes, halt_strikes, coach_modCoach, State.modLaunch, log_coach, hc]

theorem told_frame (s : State) (r : Report) (p : Prop) [Decidable p] :
    (if p then s.tell r else s).tiles = s.tiles ∧ (if p then s.tell r else s).coaches = s.coaches := by
  split
  · exact ⟨(s.sendTree_frame _).1, (s.sendTree_frame _).2.1⟩
  · exact ⟨rfl, rfl⟩
/-- A cancel, of which the other packages hear first, does to this package what `cancelAt` does. -/
theorem cancel_eq (s : State) (c tile source f : Nat) (strike : Bool) (ports : List Nat) : ∃ s1 : State,
    s.cancel c tile source f strike ports = s1.cancelAt c tile source f strike ports ∧ s1.tiles = s.tiles ∧ s1.coaches = s.coaches :=
  ⟨_, rfl, told_frame s _ _⟩
theorem cancel_own (s : State) (c tile source f : Nat) (strike : Bool) (ports : List Nat) (t : Nat) :
    ((s.cancel c tile source f strike ports).tile t).own = (s.tile t).own := by
  obtain ⟨s1, e, ht, -⟩ := cancel_eq s c tile source f strike ports
  rw [e, cancelAt_own, State.tile, ht]
  rfl
/-- What a cancel from RUN does to the coach, and leaves of the others. -/
theorem cancel_running {s : State} {c f : Nat} (hc : c < 16) (tile source : Nat) (strike : Bool) (ports : List Nat)
    (hm : (s.coach c).launch.mode = .running) (hp : (s.coach c).launch.pending = none)
    (hs : (s.coach c).launch.settledAt f = false)
    (hr : Launch.replaysOf (s.coach c).launch (phaseAt (s.coach c).launch f) < 3) :
    let s' := s.cancel c tile source f strike ports
    otherCoaches s s' c ∧ (s'.coach c).launch.mode = .closing ∧
      (s'.coach c).launch.pending = some (phaseAt (s.coach c).launch f) ∧
      (s'.coach c).log.strikes = (s.coach c).log.strikes ∧
      (s'.coach c).log.cancels = ((s.coach c).log.cancels + 1) % 2 ^ 32 ∧ ∃ r, (s'.coach c).log.recs.head? = some r ∧
        r.cls = 5 ∧ r.code = 1 ∧ r.tile = tile ∧ r.d2 = wrapN f := by
  obtain ⟨s1, e, -, hcs⟩ := cancel_eq s c tile source f strike ports
  have hk : ∀ d, s1.coach d = s.coach d := fun d => by rw [State.coach, hcs, State.coach]
  obtain ⟨struck, e'⟩ := cancelAt_running (s := s1) tile source strike ports (hk c ▸ hm) (hk c ▸ hp) (hk c ▸ hs) (by rw [hk c]; exact hr)
  rw [hk c] at e'
  dsimp only
  rw [e, e']
  generalize hg : cancelNoted s1 c tile source f (phaseAt (s.coach c).launch f) struck = g
  have hgc : g.coach c = { s.coach c with
      launch := { (s.coach c).launch with logged := true, pending := some (phaseAt (s.coach c).launch f), struck := struck }
      log := (g.coach c).log } ∧ (g.coach c).log.strikes = (s.coach c).log.strikes ∧
      (g.coach c).log.cancels = ((s.coach c).log.cancels + 1) % 2 ^ 32 ∧
      ∃ r rs, (g.coach c).log.recs = r :: rs ∧ r.cls = 5 ∧ r.code = 1 ∧ r.tile = tile ∧ r.d2 = wrapN f := by
    subst hg
    rw [cancelNoted, coach_modCoach _ hc, log_coach _ hc, hk c]
    exact ⟨rfl, rfl, rfl, _, _, List.take_succ_cons, rfl, rfl, rfl, rfl⟩
  have hgd : otherCoaches s g c := fun d hd => by
    subst hg
    rw [cancelNoted, coach_modCoach_ne _ _ hd, log_coach_ne _ _ hd, hk d]
  obtain ⟨-, hst, hca, r, rs, hrs, h1, h2, h3, h4⟩ := hgc
  obtain ⟨recs, hh, hrec⟩ := halt_coach g hc (phaseAt (s.coach c).launch f) ports
  refine ⟨fun d hd => (halt_coach_ne g _ _ hd).trans (hgd d hd), ?_⟩
  rw [hh]
  refine ⟨rfl, rfl, hst, hca, ?_⟩
  dsimp only
  obtain e | ⟨q, e⟩ := hrec
  · exact ⟨r, by rw [e, hrs]; rfl, h1, h2, h3, h4⟩
  · rw [e, hrs]
    obtain e | e := markRec_head q r (fun x => { x with superseded := true, stopped := false }) rs
    · exact ⟨_, e, h1, h2, h3, h4⟩
    · exact ⟨_, e, h1, h2, h3, h4⟩

/-! ## The report -/

/-- The strike counted on its tile, and by its coach. -/
def strikeOn (s : State) (t : Nat) : State :=
  s.modTile t fun x => { x with own := { x.own with life := { x.own.life with strikes := bump x.own.life.strikes 32 } } }
def strikeCounted (s : State) (t c : Nat) : State :=
  (strikeOn s t).modCoach c fun k => { k with log := { k.log with strikes := (k.log.strikes + 1) % 2 ^ 32 } }
/-- A strike report of a phase that has settled. -/
def strikeLate (s : State) (c t f k : Nat) : State :=
  let p := BitVec.ofNat 64 (phaseAt (s.coach c).launch f)
  (s.log c (s.record c t 0 f 0 ⟨0x6, 0x09, 0x06, p, BitVec.ofNat 64 k⟩)).event 0x0009 1 0x06 (BitVec.ofNat 64 k) p
theorem execStrikeReport_down {s : State} {t : Nat} (f k : Nat) (ht : t < 384) (hb : s.pkg.boot ≠ 6) :
    execStrikeReport t f k s = .next s := by
  simp [execStrikeReport, ht, State.up, hb]
section
variable {s : State} {t : Nat} (f k : Nat) (ht : t < 384) (hb : s.pkg.boot = 6)
include ht hb

theorem execStrikeReport_nowhere (hr : s.rectCoach t = none) : execStrikeReport t f k s = .next (strikeOn s t) := by
  have hu : s.up = true := by simp [State.up, hb]
  have hrc : ∀ g, (s.modTile t g).rectCoach t = none := fun _ => hr
  simp only [execStrikeReport, ht, hu, hrc, if_true, Bool.not_true, Bool.false_eq_true, if_false]
  rfl
theorem execStrikeReport_late {c : Nat} (hr : s.rectCoach t = some c) (hm : (s.coach c).launch.mode = .idle ∨ (s.coach c).launch.mode = .starting) :
    execStrikeReport t f k s = .next ((strikeOn s t).latePast c t f k) := by
  have hu : s.up = true := by simp [State.up, hb]
  have hrc : ∀ g, (s.modTile t g).rectCoach t = some c := fun _ => hr
  rcases hm with hm | hm <;>
    simp only [execStrikeReport, ht, hu, hrc, State.coach_modTile, hm, if_true, Bool.not_true, Bool.false_eq_true, if_false] <;> rfl
/-- Of a launch: recorded where the phase has settled, void past the last commit, else a cancel. -/
theorem execStrikeReport_launch {c : Nat} (hr : s.rectCoach t = some c) (hi : (s.coach c).launch.mode ≠ .idle)
    (hs : (s.coach c).launch.mode ≠ .starting) : execStrikeReport t f k s =
      if ((strikeCounted s t c).coach c).launch.settledAt f then .next (strikeLate (strikeCounted s t c) c t f k)
      else if (s.coach c).launch.mode ≠ .finishing ∧ (strikeCounted s t c).pastPhases c f then .next (strikeCounted s t c)
      else .next ((strikeCounted s t c).cancel c t 0x06 f true ((strikeCounted s t c).portsOf c)) := by
  have hu : s.up = true := by simp [State.up, hb]
  have hrc : ∀ g, (s.modTile t g).rectCoach t = some c := fun _ => hr
  simp only [execStrikeReport, ht, hu, hrc, State.coach_modTile, if_true, Bool.not_true, Bool.false_eq_true, if_false]
  cases hm : (s.coach c).launch.mode
  case idle => exact absurd hm hi
  case starting => exact absurd hm hs
  all_goals rfl
end

theorem strikeCounted_coach (s : State) (t : Nat) {c : Nat} (hc : c < 16) : (strikeCounted s t c).coach c =
    { s.coach c with log := { (s.coach c).log with strikes := ((s.coach c).log.strikes + 1) % 2 ^ 32 } } :=
  coach_modCoach _ hc _
theorem strikeCounted_coach_ne (s : State) (t : Nat) {c d : Nat} (h : d ≠ c) : (strikeCounted s t c).coach d = s.coach d :=
  coach_modCoach_ne _ _ h
theorem strikeOn_strikes (s : State) (t : Nat) :
    ((strikeOn s t).tile t).own.life.strikes = min ((s.tile t).own.life.strikes + 1) (2 ^ 32 - 1) := by
  rw [strikeOn, State.tile_modTile]
  rfl
theorem strikeOn_seq (s : State) (t u : Nat) : ((strikeOn s t).tile u).seq = (s.tile u).seq := by
  by_cases h : u = t
  · subst h; rw [strikeOn, State.tile_modTile]
  · rw [strikeOn, State.tile_modTile_ne _ _ h]
theorem latePast_own (s : State) (c t f k u : Nat) : ((s.latePast c t f k).tile u).own = (s.tile u).own := by
  unfold State.latePast
  dsimp only
  split
  · rfl
  · rw [State.tile, event_tiles]; rfl
theorem strikeLate_own (s : State) (c t f k u : Nat) : ((strikeLate s c t f k).tile u).own = (s.tile u).own := by
  rw [strikeLate, State.tile, event_tiles]; rfl
/-- The strike stands in the counters of its tile whatever else its report does. -/
theorem execStrikeReport_strikes {s : State} {t : Nat} (f k : Nat) (ht : t < 384) (hb : s.pkg.boot = 6) : ∃ s',
    execStrikeReport t f k s = .next s' ∧
      (s'.tile t).own.life.strikes = min ((s.tile t).own.life.strikes + 1) (2 ^ 32 - 1) := by
  have hcount : ∀ c, ((strikeCounted s t c).tile t).own = ((strikeOn s t).tile t).own := fun _ => rfl
  cases hr : s.rectCoach t with
  | none => exact ⟨_, execStrikeReport_nowhere f k ht hb hr, strikeOn_strikes s t⟩
  | some c =>
    by_cases hm : (s.coach c).launch.mode = .idle ∨ (s.coach c).launch.mode = .starting
    · exact ⟨_, execStrikeReport_late f k ht hb hr hm, by rw [latePast_own, strikeOn_strikes]⟩
    · obtain ⟨hi, hs⟩ := not_or.mp hm
      rw [execStrikeReport_launch f k ht hb hr hi hs]
      split
      · exact ⟨_, rfl, by rw [strikeLate_own, hcount, strikeOn_strikes]⟩
      · split
        · exact ⟨_, rfl, by rw [hcount, strikeOn_strikes]⟩
        · exact ⟨_, rfl, by rw [cancel_own, hcount, strikeOn_strikes]⟩

/-! ## A report that finds no frame -/

theorem latePast_void {s : State} {c : Nat} (t f k : Nat)
    (h : (s.coach c).past.spans = [] ∨ Launch.settledAt (s.coach c).past f = false) : s.latePast c t f k = s := by
  unfold State.latePast
  dsimp only
  rw [if_pos (by simpa using h)]
theorem latePast_settled {s : State} {c : Nat} (t f k : Nat) (h1 : (s.coach c).past.spans ≠ [])
    (h2 : Launch.settledAt (s.coach c).past f = true) : s.latePast c t f k =
      (s.pastRecord c t f ⟨0x6, 0x09, 0x06, BitVec.ofNat 64 (phaseAt (s.coach c).past f), BitVec.ofNat 64 k⟩).event 0x0009 1 0x06
        (BitVec.ofNat 64 k) (BitVec.ofNat 64 (phaseAt (s.coach c).past f)) := by
  unfold State.latePast
  dsimp only
  rw [if_neg (by simp [h1, h2])]
/-- A record of the launch that is over joins the log alone. -/
theorem pastRecord_coach (s : State) {c : Nat} (hc : c < 16) (t f : Nat) (x : Fail) : ∃ r rs,
    ((s.pastRecord c t f x).coach c).log.recs = r :: rs ∧ r.cls = x.cls ∧ r.code = x.code ∧ r.tile = t ∧ r.d2 = x.d2 ∧
      ((s.pastRecord c t f x).coach c).launch = (s.coach c).launch := by
  rw [State.pastRecord]
  dsimp only
  rw [coach_modCoach _ hc]
  exact ⟨_, _, List.take_succ_cons, rfl, rfl, rfl, rfl, rfl⟩
theorem pastRecord_coach_ne (s : State) {c d : Nat} (t f : Nat) (x : Fail) (h : d ≠ c) : (s.pastRecord c t f x).coach d = s.coach d :=
  coach_modCoach_ne _ _ h
/-- The launch stays, and the report of a settled phase is recorded. -/
theorem latePast_coach (s : State) {c : Nat} (hc : c < 16) (t f k : Nat) :
    ((s.latePast c t f k).coach c).launch = (s.coach c).launch ∧
    ((s.coach c).past.spans = [] ∨ Launch.settledAt (s.coach c).past f = false → (s.latePast c t f k).coach c = s.coach c) ∧
    ((s.coach c).past.spans ≠ [] → Launch.settledAt (s.coach c).past f = true →
      ∃ r, ((s.latePast c t f k).coach c).log.recs.head? = some r ∧ r.cls = 6 ∧ r.code = 9 ∧ r.tile = t ∧ r.d2 = wrapN k) := by
  by_cases h : (s.coach c).past.spans = [] ∨ Launch.settledAt (s.coach c).past f = false
  · rw [latePast_void t f k h]
    exact ⟨rfl, fun _ => rfl, fun h1 h2 => absurd h (by simp [h1, h2])⟩
  · obtain ⟨h1, h2⟩ := not_or.mp h
    obtain ⟨r, rs, hrs, hcls, hcode, htile, hd2, hl⟩ := pastRecord_coach s hc t f
      ⟨0x6, 0x09, 0x06, BitVec.ofNat 64 (phaseAt (s.coach c).past f), BitVec.ofNat 64 k⟩
    rw [latePast_settled t f k h1 (by simpa using h2), event_coach]
    exact ⟨hl, fun h' => absurd h' h, fun _ _ => ⟨r, by rw [hrs]; rfl, hcls, hcode, htile, hd2⟩⟩
theorem latePast_coach_ne (s : State) {c d : Nat} (t f k : Nat) (h : d ≠ c) : (s.latePast c t f k).coach d = s.coach d := by
  unfold State.latePast
  dsimp only
  split
  · rfl
  · rw [event_coach, pastRecord_coach_ne _ _ _ _ h]

/-! ## The statement -/

theorem seq_endedAtCommit_iff (t : Tile) : t.seq.endedAtCommit = true ↔ endedAtCommit t := by
  simp only [SeqSt.endedAtCommit, endedAtCommit, Bool.and_eq_true, Option.any_eq_true, beq_iff_eq]
  exact and_congr_right fun _ => exists_congr fun f => and_congr_right fun _ => eq_comm
theorem pastPhases_iff (s : State) (c f : Nat) : s.pastPhases c f = true ↔
    (s.coach c).launch.phaseStart ≤ f ∧ ∀ x ∈ (s.coach c).launch.tiles, endedAtCommit (s.tile x) := by
  simp [State.pastPhases, seq_endedAtCommit_iff]
theorem rectCoach_lt {s : State} {t c : Nat} (h : s.rectCoach t = some c) : c < 16 :=
  List.mem_range.mp (List.mem_of_find?_eq_some h)

/-- What each report does to the coach of a running launch. -/
theorem strikeReport_running {s : State} {t c : Nat} (f k : Nat) (ht : t < 384) (hb : s.pkg.boot = 6) (hr : s.rectCoach t = some c)
    (hm : (s.coach c).launch.mode = .running) (hp : (s.coach c).launch.pending = none) {s' : State}
    (h : execStrikeReport t f k s = .next s') : otherCoaches s s' c ∧
      (s'.coach c).log.strikes = ((s.coach c).log.strikes + 1) % 2 ^ 32 ∧
      (Launch.settledAt (s.coach c).launch f = true → (s'.coach c).launch.mode = .running ∧ ∃ r, (s'.coach c).log.recs.head? = some r ∧
        r.cls = 6 ∧ r.code = 9 ∧ r.tile = t ∧ r.d2 = wrapN k) ∧
      (Launch.settledAt (s.coach c).launch f = false → (s.coach c).launch.phaseStart ≤ f →
        (∀ x ∈ (s.coach c).launch.tiles, endedAtCommit (s.tile x)) → (s'.coach c).launch = (s.coach c).launch) ∧
      (Launch.settledAt (s.coach c).launch f = false →
        (f < (s.coach c).launch.phaseStart ∨ ∃ x ∈ (s.coach c).launch.tiles, ¬ endedAtCommit (s.tile x)) →
        Launch.replaysOf (s.coach c).launch (phaseAt (s.coach c).launch f) < 3 →
        (s'.coach c).launch.mode = .closing ∧ (s'.coach c).launch.pending = some (phaseAt (s.coach c).launch f) ∧
        (s'.coach c).log.cancels = ((s.coach c).log.cancels + 1) % 2 ^ 32 ∧ ∃ r, (s'.coach c).log.recs.head? = some r ∧
          r.cls = 5 ∧ r.code = 1 ∧ r.tile = t ∧ r.d2 = wrapN f) := by
  have hc := rectCoach_lt hr
  have hk := strikeCounted_coach s t hc
  have hother : otherCoaches s (strikeCounted s t c) c := fun d hd => strikeCounted_coach_ne s t hd
  have hl : ((strikeCounted s t c).coach c).launch = (s.coach c).launch := by rw [hk]
  have hpast : (strikeCounted s t c).pastPhases c f = true ↔
      (s.coach c).launch.phaseStart ≤ f ∧ ∀ x ∈ (s.coach c).launch.tiles, endedAtCommit (s.tile x) := by
    have hseq : ∀ x, endedAtCommit ((strikeCounted s t c).tile x) ↔ endedAtCommit (s.tile x) := fun x => by
      rw [endedAtCommit, endedAtCommit, show ((strikeCounted s t c).tile x).seq = (s.tile x).seq from strikeOn_seq s t x]
    rw [pastPhases_iff, hl]
    simp only [hseq]
  rw [execStrikeReport_launch f k ht hb hr (by simp [hm]) (by simp [hm]), hl] at h
  by_cases hs : (s.coach c).launch.settledAt f = true
  case pos =>
    rw [if_pos hs] at h
    cases h
    have he : ∀ d, (strikeLate (strikeCounted s t c) c t f k).coach d = ((strikeCounted s t c).log c
      ((strikeCounted s t c).record c t 0 f 0 ⟨0x6, 0x09, 0x06, BitVec.ofNat 64 (phaseAt (s.coach c).launch f), BitVec.ofNat 64 k⟩)).coach d :=
      fun d => by rw [strikeLate, event_coach, hl]
    refine ⟨fun d hd => by rw [he, log_coach_ne _ _ hd, hother d hd], ?_⟩
    rw [he, log_coach _ hc, hk]
    exact ⟨rfl, fun _ => ⟨hm, _, congrArg List.head? List.take_succ_cons, rfl, rfl, rfl, rfl⟩, fun hn => absurd hs (by simp [hn]), fun hn => absurd hs (by simp [hn])⟩
  case neg =>
    rw [if_neg hs] at h
    by_cases hq : (strikeCounted s t c).pastPhases c f = true
    case pos =>
      rw [if_pos ⟨by simp [hm], hq⟩] at h
      cases h
      refine ⟨hother, by rw [hk], fun hn => absurd hn hs, fun _ _ _ => hl, fun _ hout => ?_⟩
      obtain ⟨h1, h2⟩ := hpast.mp hq
      exact absurd hout (by push Not; exact ⟨h1, h2⟩)
    case neg =>
      rw [if_neg fun hn => hq hn.2] at h
      cases h
      obtain ⟨s1, e, -, hcs⟩ := cancel_eq (strikeCounted s t c) c t 0x06 f true ((strikeCounted s t c).portsOf c)
      have hk1 : ∀ d, s1.coach d = (strikeCounted s t c).coach d := fun d => by rw [State.coach, hcs, State.coach]
      refine ⟨fun d hd => by rw [e, cancelAt_coach_ne _ _ _ _ _ _ hd, hk1, hother d hd],
        by rw [e, cancelAt_strikes _ hc, hk1, hk], fun hn => absurd hn hs, fun _ h1 h2 => absurd (hpast.mpr ⟨h1, h2⟩) hq, fun hn _ hrep => ?_⟩
      have hcan := cancel_running (s := strikeCounted s t c) hc t 0x06 true ((strikeCounted s t c).portsOf c) (hl ▸ hm) (hl ▸ hp) (hl ▸ hn)
        (by rw [hl]; exact hrep)
      obtain ⟨-, h1, h2, -, h3, h4⟩ := hcan
      rw [hl] at h2
      rw [hk] at h3
      exact ⟨h1, h2, h3, h4⟩

/-- Settles O49, by the settling of the earliest committed phase and the cases of a strike report. -/
theorem settlingAndStrikes : Obligations.SettlingAndStrikes := by
  refine ⟨fun s c u us hc hu hm hall => ⟨fun hb => ?barred, fun hb => ?settles⟩, fun s t f k ht => ⟨fun hb => ?down, fun hb => ?strike⟩⟩
  case barred => exact execPhaseSettle_barred hc hu hm ((bars_iff _ _).mpr hb)
  case settles =>
    have hb' : (s.coach c).launch.bars u.phase = false := Bool.eq_false_iff.mpr fun h => by
      obtain ⟨b, e, hle⟩ := (bars_iff _ _).mp h
      exact absurd (hb b e) (Nat.not_lt.mpr hle)
    obtain ⟨hother, hlog, hun, hspans⟩ := phaseSettled_coach s hc u
    refine ⟨_, execPhaseSettle_settled hc hu hm hb' (silent_none hall), hlog, fun x hx => ?_, hspans, hother, fun t ht => ?tile,
      fun t w p d hw hd hr => ?digest⟩
    · rw [hun] at hx
      simpa using (List.mem_filter.mp hx).2
    case tile =>
      obtain ⟨v, hv⟩ := phaseSettled_tile hc u ht
      rw [hv]
      refine ⟨fun n hn hph => ?_, fun hn => ?_, rfl, rfl, rfl, rfl⟩
      · rw [settle_waiting (t := { s.tile t with vault := v }) hn hph]
        exact ⟨(getD_setIfInBounds _ _ _ (Nat.mod_lt _ (by decide)) _).trans (if_pos rfl), rfl⟩
      · rw [settle_marking (t := { s.tile t with vault := v }) hn]
        exact ⟨rfl, fun i hi => getD_map_markSettled _ _ hi⟩
    case digest =>
      rw [phaseSettled_host hd hr]
      exact digestRecord_fields hw p _ _ _ _ _ _
  case down => exact execStrikeReport_down f k ht hb
  case strike =>
    obtain ⟨s', h, hst⟩ := execStrikeReport_strikes f k ht hb
    refine ⟨s', h, hst, fun hr c => ?nowhere, fun c hr hm => ?idle, fun c hr hm hp => strikeReport_running f k ht hb hr hm hp h⟩
    case nowhere =>
      rw [execStrikeReport_nowhere f k ht hb hr] at h
      cases h
      rfl
    case idle =>
      have hc := rectCoach_lt hr
      rw [execStrikeReport_late f k ht hb hr (.inl hm)] at h
      cases h
      obtain ⟨hl, hvoid, hrec⟩ := latePast_coach (strikeOn s t) hc t f k
      exact ⟨fun d hd => latePast_coach_ne _ _ _ _ hd, hl, hvoid, hrec⟩

end Sys2Proof.Proofs

/-! The relay point of a coach with a failed vertical group (13 R290, 19 R352): where the selected variant has more banks than the
tile's map, its lines move at once, and reading them from that group holds the launch. -/
namespace Sys2Proof.Proofs
open Sys2Proof Sys2Proof.Machine Sys2Proof.Claims

/-! ## A lost vertical group holds the launch -/

theorem stopRec_mem {rs : List Record} (h : rs ≠ []) : ∃ r ∈ rs, stopRec rs = some r := by
  induction rs with
  | nil => exact absurd rfl h
  | cons r rs ih =>
    cases hr : stopRec rs with
    | none => exact ⟨r, List.mem_cons_self, by simp [stopRec, hr]⟩
    | some x =>
      have hx : x ∈ rs := by
        obtain ⟨y, hy, e⟩ := ih (by rintro rfl; simp [stopRec] at hr)
        exact Option.some.inj (hr.symm.trans e) ▸ hy
      by_cases hb : x.stopsBefore r = true
      · exact ⟨x, List.mem_cons_of_mem _ hx, by simp [stopRec, hr, hb]⟩
      · exact ⟨r, List.mem_cons_self, by simp [stopRec, hr, hb]⟩

theorem failLayer_coach (s : State) (stack layer c : Nat) : (s.failLayer stack layer).coach c = s.coach c := by
  unfold State.failLayer
  rw [newConfig_coach]
  exact foldl_const (g := fun s : State => s.coach c) (fun s t => (event_coach _ _ _ _ _ _ c).trans (State.coach_modTile s t c _)) _ s
theorem groupLost_coach (s : State) (t pb c : Nat) : (s.groupLost t pb).1.coach c = s.coach c := by
  unfold State.groupLost
  dsimp only
  split
  · exact (event_coach _ _ _ _ _ _ c).trans ((failLayer_coach _ _ _ c).trans (event_coach _ _ _ _ _ _ c))
  · exact event_coach _ _ _ _ _ _ c
theorem layerStops_coach (s : State) (c stack : Nat) : (s.layerStops c stack).coach c = s.coach c := by
  unfold State.layerStops
  refine foldl_const (g := fun s : State => s.coach c) (fun s d => ?_) _ s
  by_cases hd : d = c
  · simp [hd]
  · have hn : c ≠ d := fun e => hd e.symm
    dsimp only
    split
    · rfl
    · split
      · rfl
      · rfl
      · rfl
      · rw [stopLaunch_coach_ne _ _ hn, announce_coach]
      · rw [modLaunch_coach_ne _ _ hn, announce_coach]
/-- A failed layer leaves the coach that found it as it was, and adds records of class 0x6 and code 0x08 alone. -/
theorem layerFaults_spec (s : State) (c : Nat) (rs : List Record) : (s.layerFaults c rs).1.coach c = s.coach c ∧
    ∀ r ∈ (s.layerFaults c rs).2, r.cls = 6 ∧ r.code = 8 := by
  unfold State.layerFaults
  refine List.foldlRecOn (motive := fun x : State × List Record => x.1.coach c = s.coach c ∧ ∀ r ∈ x.2, r.cls = 6 ∧ r.code = 8)
    _ _ ⟨rfl, by simp⟩ fun x hx r _ => ?_
  obtain ⟨hcoach, hrecs⟩ := hx
  have hg := (groupLost_coach x.1 r.tile r.d2.toNat c).trans hcoach
  dsimp only
  generalize x.1.groupLost r.tile r.d2.toNat = y at hg ⊢
  split
  · refine ⟨(layerStops_coach _ _ _).trans hg, fun q hq => ?_⟩
    rcases List.mem_append.1 hq with h | h
    · exact hrecs q h
    · rw [List.mem_singleton.1 h]; exact ⟨rfl, rfl⟩
  · exact ⟨hg, hrecs⟩

/-- Faults of held classes alone hold a launch at its relay point (17 R329). -/
theorem takeFaults_holds {s : State} {c : Nat} (hc : c < 16) (ports : List Nat) {rs : List Record} (hne : rs ≠ [])
    (hk : ∀ r ∈ rs, faultKind r.cls r.code = .stopping ∧ heldClass r.cls = true) (hm : (s.coach c).launch.mode = .relaying false) :
    ((s.takeFaults c ports rs).coach c).launch.mode = .held := by
  have hlog : (((sortRecs rs).foldl (fun s r => s.log c r) s).coach c).launch.mode = .relaying false :=
    (foldl_const (g := fun s : State => (s.coach c).launch.mode) (fun s r => by rw [log_coach s hc]) _ s).trans hm
  unfold State.takeFaults
  generalize (sortRecs rs).foldl (fun s r => s.log c r) s = s1 at hlog
  have hstop : rs.filter (fun r => decide (faultKind r.cls r.code = .stopping ∧
      !((s1.coach c).launch.mode == .held && heldClass r.cls))) = rs :=
    List.filter_eq_self.2 fun r hr => by simp [hk r hr, hlog]
  have hcancel : rs.filter (fun r => decide (faultKind r.cls r.code = .cancelling)) = [] :=
    List.filter_eq_nil_iff.2 fun r hr => by simp [hk r hr]
  obtain ⟨r, hr, hs⟩ := stopRec_mem hne
  dsimp only
  rw [hcancel, hstop, hs]
  dsimp only
  rw [hlog]
  dsimp only
  rw [if_pos ⟨(hk r hr).2, by simp⟩, sortRecs, sortBy, List.foldl_nil, State.modLaunch, coach_modCoach _ hc]

theorem takeAll_holds {s : State} {c : Nat} (hc : c < 16) {rs : List Record} (hne : rs ≠ [])
    (hk : ∀ r ∈ rs, faultKind r.cls r.code = .stopping ∧ heldClass r.cls = true) (hm : (s.coach c).launch.mode = .relaying false) :
    ((s.takeAll c rs).coach c).launch.mode = .held := by
  obtain ⟨hcoach, hrecs⟩ := layerFaults_spec s c rs
  unfold State.takeAll
  generalize s.layerFaults c rs = x at hcoach hrecs
  refine takeFaults_holds hc _ (by simp [hne]) (fun r hr => ?_) (by rw [hcoach, hm])
  rcases List.mem_append.1 hr with h | h
  · exact hk r h
  · obtain ⟨h1, h2⟩ := hrecs r h
    rw [h1, h2]
    exact ⟨rfl, rfl⟩
theorem groupsDown_holds {s : State} {c : Nat} (hc : c < 16) (t : Nat) {lost : List Nat} (hne : lost ≠ [])
    (hm : (s.coach c).launch.mode = .relaying false) : ((s.groupsDown c t lost).coach c).launch.mode = .held := by
  refine takeAll_holds hc (by simp [hne]) (fun r hr => ?_) hm
  obtain ⟨pb, _, rfl⟩ := List.mem_map.1 hr
  exact ⟨rfl, rfl⟩

/-! ## Moving lines out of a group whose lane parity fails -/

theorem meet_lost {x : Reading} (pb row prow : Nat) (e : StoreErr) (h : x.lost ≠ []) : (x.meet pb row prow e).lost ≠ [] := by
  unfold Reading.meet
  dsimp only
  split
  · split
    · simp
    · exact h
  · exact h
/-- Where every group's lane parity fails and none has been counted as failed yet, the first fatal column shows its group as failed. -/
theorem meet_lost_lane {x : Reading} (pb row prow : Nat) {e : StoreErr} (he : e.fatal = true) (hl : x.tile.own.lanes = 0xFF#8)
    (hg : x.tile.own.groups = 0#8) : (x.meet pb row prow e).lost ≠ [] := by
  have hbit : (0xFF#8).getLsbD (pb % 8) = true := (by decide : ∀ i, i < 8 → (0xFF#8).getLsbD i = true) _ (Nat.mod_lt _ (by decide))
  have hf : x.tile.own.groupFails pb = true := by
    unfold Own.groupFails
    rw [hl, hg, hbit]
    simp
  simp [Reading.meet, he, hf]
theorem mem_laneColumns {t : Tile} {no lo hi g : Nat} {ro : BitVec 32} (hl : t.own.lanes = 0xFF#8) (h1 : lo ≤ g) (h2 : g < hi)
    (hm : t.vault.moves no ro g = true) : laneErr ⟨g % t.vault.n, g / t.vault.n, 0⟩ ∈ t.laneColumns no ro lo hi := by
  have hbit : (0xFF#8).getLsbD (mapBank ro (g % no) % 8) = true :=
    (by decide : ∀ i, i < 8 → (0xFF#8).getLsbD i = true) _ (Nat.mod_lt _ (by decide))
  have hlane : t.movesLane no ro g = true := by
    unfold Tile.movesLane
    rw [hl, hbit, hm]
    rfl
  have hin : g ∈ (List.range (hi - lo)).map (lo + ·) := List.mem_map.2 ⟨g - lo, List.mem_range.2 (by omega), by omega⟩
  unfold Tile.laneColumns
  rw [hl, if_neg (by decide)]
  exact List.mem_flatMap.2 ⟨g, List.mem_filter.2 ⟨hin, hlane⟩, List.mem_map.2 ⟨0, by decide, rfl⟩⟩
theorem fatal_laneColumns {t : Tile} {no lo hi : Nat} {ro : BitVec 32} {e : StoreErr} (h : e ∈ t.laneColumns no ro lo hi) :
    e.fatal = true := by
  unfold Tile.laneColumns at h
  split at h
  · cases h
  · obtain ⟨g, _, hg⟩ := List.mem_flatMap.1 h
    obtain ⟨col, _, rfl⟩ := List.mem_map.1 hg
    rfl
theorem moveReads_lost {t : Tile} {no lo hi g : Nat} {ro : BitVec 32} (he : t.own.errs = []) (hl : t.own.lanes = 0xFF#8)
    (hg : t.own.groups = 0#8) (h1 : lo ≤ g) (h2 : g < hi) (hm : t.vault.moves no ro g = true) :
    (t.moveReads no ro lo hi).lost ≠ [] := by
  have hmem := mem_laneColumns hl h1 h2 hm
  have hfatal := fun e => fatal_laneColumns (t := t) (no := no) (lo := lo) (hi := hi) (ro := ro) (e := e)
  unfold Tile.moveReads
  dsimp only
  rw [he, List.filter_nil, List.nil_append]
  cases hc : t.laneColumns no ro lo hi with
  | nil => rw [hc] at hmem; cases hmem
  | cons e es =>
    rw [List.foldl_cons]
    exact List.foldlRecOn (motive := fun x : Reading => x.lost ≠ []) _ _
      (meet_lost_lane _ _ _ (hfatal e (hc ▸ List.mem_cons_self)) hl hg) fun x hx e _ => meet_lost _ _ _ _ hx
/-- A map that gives way to one of more banks reads its lines at once, and so the failed group is found. -/
theorem startMigration_lost {t : Tile} {no g : Nat} {ro : BitVec 32} (he : t.own.errs = []) (hl : t.own.lanes = 0xFF#8)
    (hg : t.own.groups = 0#8) (hn : no < t.vault.n) (h : g < no * Config.rows) (hm : t.vault.moves no ro g = true) :
    (t.startMigration no ro).lost ≠ [] := by
  have hk : t.rekey no = t := by
    unfold Tile.rekey
    rw [if_neg (Nat.ne_of_lt hn), he, List.filterMap_nil]
    cases t
    next own _ _ _ => cases own; subst he; rfl
  unfold Tile.startMigration
  rw [hk]
  unfold Tile.beginMigration
  rw [if_pos hn]
  exact moveReads_lost he hl hg (Nat.zero_le g) h hm

/-! ## The selection of a variant with more banks -/

/-- A launch with the set of variants that its report of a selection carries. -/
def reportsSet (vs : List Nat) (l : Launch) : Launch :=
  { l with relaySet := setOf vs, reported := l.reported.filter fun r => r.pkg != l.lrec.index }
/-- Variant v is selected for a coach of the one tile t, whose map gives way to one of n banks; line g moves from one of the tile's
groups, whose lane parity all fails. -/
structure SelectsMoreBanks (s : State) (c t v n no g : Nat) (ro : BitVec 32) : Prop where
  mode : (s.coach c).launch.mode = .relaying false
  plan : (s.coach c).cplan = (s.coach c).crect
  maps : (s.coach c).launch.relayMaps = [(t, no, ro)]
  banks : min ((s.coach c).launch.variantImg v).banks (32 - retiredCount (s.tile t).vault.retired) = n
  owner : (s.tile t).own.owner = some c
  errs : (s.tile t).own.errs = []
  lanes : (s.tile t).own.lanes = 0xFF#8
  groups : (s.tile t).own.groups = 0#8
  watermark : (s.tile t).vault.watermark = none
  more : no < n
  line : g < no * Config.rows
  moves : { (s.tile t).vault with n := n, watermark := none }.moves no ro g = true

section
variable {s : State} {c t v n no g : Nat} {ro : BitVec 32}
theorem remap_holds (hc : c < 16) (h : SelectsMoreBanks s c t v n no g ro) :
    ((s.remap c t n no ro).coach c).launch.mode = .held := by
  unfold State.remap
  dsimp only
  rw [h.watermark]
  exact groupsDown_holds hc t (startMigration_lost h.errs h.lanes h.groups h.more h.line h.moves) h.mode
theorem relayChoose_holds (hc : c < 16) (h : SelectsMoreBanks s c t v n no g ro) (named : Bool) :
    ((s.relayChoose c v named).coach c).launch.mode = .held := by
  have hplan (used : List Nat) : s.relayPlan c used = s := by
    unfold State.relayPlan State.planReady
    simp [h.plan]
  unfold State.relayChoose
  dsimp only
  rw [hplan, ite_self, h.maps, List.foldl_cons, List.foldl_nil]
  dsimp only
  rw [if_pos h.owner, h.banks, State.modLaunch, coach_modCoach _ hc, coach_modTiles, remap_holds hc h]
/-- What a report carries of a selection bears on no map. -/
theorem SelectsMoreBanks.modLaunch {f : Launch → Launch} (hc : c < 16) (h : SelectsMoreBanks s c t v n no g ro)
    (hf : ∀ l, (f l).mode = l.mode ∧ (f l).relayMaps = l.relayMaps ∧ (f l).variantImg v = l.variantImg v) :
    SelectsMoreBanks (s.modLaunch c f) c t v n no g ro := by
  obtain ⟨h1, h2, h3⟩ := hf (s.coach c).launch
  have hk : (s.modLaunch c f).coach c = { s.coach c with launch := f (s.coach c).launch } := coach_modCoach s hc _
  exact {
    mode := by rw [hk]; exact h1.trans h.mode
    plan := by rw [hk]; exact h.plan
    maps := by rw [hk]; exact h2.trans h.maps
    banks := by rw [hk, h3, State.tile_modLaunch, h.banks]
    owner := h.owner, errs := h.errs, lanes := h.lanes, groups := h.groups, watermark := h.watermark
    more := h.more, line := h.line, moves := h.moves }
theorem relaySelect_holds (hc : c < 16) (h : SelectsMoreBanks s c t v n no g ro) (hv : s.relayHolding c = [v]) :
    ((s.relaySelect c).coach c).launch.mode = .held := by
  have hsel : s.relaySelect c = (s.modLaunch c (reportsSet [v])).relayChoose c v
      (!((s.modLaunch c (reportsSet [v])).coach c).launch.isDomain) := by
    unfold State.relaySelect
    rw [hv]
    rfl
  rw [hsel]
  exact relayChoose_holds hc (h.modLaunch (f := reportsSet [v]) hc fun _ => ⟨rfl, rfl, rfl⟩) _
theorem relayOne_begins (h : (s.coach c).launch.relayStep = 0) : s.relayOne c = s.relayBegin c := by
  unfold State.relayOne
  dsimp only
  rw [h]
  rfl
theorem relayOne_selects (h : (s.coach c).launch.relayStep = 7) (hh : s.halfTraining c = false) : s.relayOne c = s.relaySelect c := by
  unfold State.relayOne
  dsimp only
  rw [h, hh]
  rfl
end
theorem exec_relayLoaderWork {s : State} {c step : Nat} (hc : c < 16) (h : relayAt s c step) :
    exec (.relayLoaderWork c) s = .next (s.relayGo c 10) := by
  obtain ⟨-, -, hu, -⟩ := h
  have hn : ((s.coach c).launch.unsettled.any fun u => decide (u.phase < (s.coach c).launch.phase)) = false :=
    List.any_eq_false.2 fun u hm => by simpa using hu u hm
  show execRelayLoaderWork c s = _
  unfold execRelayLoaderWork
  rw [if_pos hc]
  dsimp only
  rw [hn]
  rfl
theorem relayGo_stops {s : State} {c : Nat} (h : (s.coach c).launch.mode ≠ .relaying false) (n : Nat) : s.relayGo c n = s := by
  cases n with
  | zero => rfl
  | succ n =>
    unfold State.relayGo
    dsimp only
    split
    · contradiction
    · rfl
theorem relayGo_step {s : State} {c : Nat} (h : (s.coach c).launch.mode = .relaying false) (hw : (s.coach c).launch.relayWall ≤ s.wall)
    (n : Nat) : s.relayGo c (n + 1) = if ((s.relayOne c).coach c).launch.relayStep = (s.coach c).launch.relayStep then s.relayOne c
      else (s.relayOne c).relayGo c n := by
  rw [State.relayGo]
  dsimp only
  rw [h]
  dsimp only
  rw [if_pos (.inl hw)]
/-- A step that ends the relay work ends that of the cycle. -/
theorem relayGo_last {s : State} {c : Nat} (h : (s.coach c).launch.mode = .relaying false) (hw : (s.coach c).launch.relayWall ≤ s.wall)
    (hs : ((s.relayOne c).coach c).launch.mode ≠ .relaying false) (n : Nat) : s.relayGo c (n + 1) = s.relayOne c := by
  rw [relayGo_step h hw, relayGo_stops hs, ite_self]

/-! ## The counterexample -/

/-- A variant for forecast class 1 that asks for 32 banks of tile 0. -/
def wideVariant : VariantImg := ⟨1#64, 0#256, [0], 1, [], [], []⟩
/-- A tile in use with 29 of its 32 sound banks, the lane parity of whose vertical groups fails (19 R352). -/
def lanedTile : Tile := { Tile.reset with
  own := { Own.reset with owner := some 0, enabled := true, lanes := 0xFF#8 }
  vault := { Tile.reset.vault with n := 29 } }
/-- The relay point of a launch of one package on that tile. -/
def lanedLaunch : Launch := { Launch.reset with
  mode := .relaying false, tiles := [0], frc := 1000, lrec := { LaunchRec.reset with type := 1, count := 1, np := 1 }
  image := { Launch.reset.image with variants := [wideVariant] } }
/-- Coach 0 with tile 0 alone at the relay point, its stack's forecast class 1. -/
def lanedState : State := { State.reset with
  wall := 5000, todo := [], tiles := [(0, lanedTile)]
  coaches := (Vector.replicate 16 Coach.reset).setIfInBounds 0
    { Coach.reset with crect := 0x80000000#64, cplan := 0x80000000#64, launch := lanedLaunch }
  pkg := { Pkg.reset with boot := 6, fcst := Pkg.reset.fcst.setIfInBounds 0 1#64 } }
/-- That state after steps 2 and 3 of Table 13-3. -/
def lanedBegun : State := lanedState.relayBegin 0

theorem lanedState_tilesOf : lanedState.tilesOf 0 = [0] := by decide +kernel
theorem lanedState_relayAt : relayAt lanedState 0 0 :=
  ⟨rfl, Nat.zero_le _, fun _ h => (nomatch h), rfl⟩
theorem lanedState_noStart : noStart lanedState 0 := by
  unfold noStart
  decide +kernel
theorem lanedState_tilesWhole : tilesWhole lanedState 0 := by
  unfold tilesWhole
  rw [lanedState_tilesOf]
  decide +kernel
theorem lanedState_noRetrain : noRetrain lanedState 0 := fun p i hp hi =>
  (by decide +kernel : ∀ p, p < 16 → ∀ i, i < 4 → lanedState.coachHasPort 0 p = true →
    (lanedState.pkg.port p).hpend = false ∧ (lanedState.pkg.port (4 * (p / 4) + i)).half = none) p hp i hi
theorem lanedState_forecast {k : Nat} (h : coachForecast lanedState 0 k) : k = 1 := by
  obtain ⟨_, hk⟩ := h
  rw [lanedState_tilesOf] at hk
  rcases hk with hk | ⟨t, ht, hk⟩
  · exact hk
  · rw [List.mem_singleton.1 ht] at hk
    exact hk.trans (by decide +kernel)
theorem lanedState_holds : variantHolds lanedState 0 1 wideVariant :=
  ⟨by decide, fun g i hg hi => (by decide +kernel : ∀ g, g < 4 → ∀ i, i < 4 →
    wideVariant.req.toNat / 2 ^ (8 + 2 * g) % 4 ≤ min 2 (lanedState.pkg.port (4 * g + i)).rate) g hg i hi,
    by unfold inRect; decide +kernel⟩

theorem lanedBegun_launch : (lanedBegun.coach 0).launch.relayStep = 7 ∧ (lanedBegun.coach 0).launch.relayWall ≤ lanedBegun.wall ∧
    lanedBegun.relayHolding 0 = [0] ∧ lanedBegun.halfTraining 0 = false := by
  decide +kernel
theorem lanedBegun_selects : SelectsMoreBanks lanedBegun 0 0 0 32 29 29 0#32 where
  mode := by decide +kernel
  plan := by decide +kernel
  maps := by decide +kernel
  banks := by decide +kernel
  owner := by decide +kernel
  errs := by decide +kernel
  lanes := by decide +kernel
  groups := by decide +kernel
  watermark := by decide +kernel
  more := by decide
  line := by decide
  moves := by decide +kernel
theorem lanedState_relayGo : lanedState.relayGo 0 10 = lanedBegun.relaySelect 0 := by
  obtain ⟨hs, hw, hv, hh⟩ := lanedBegun_launch
  obtain ⟨hm0, hw0, -, hs0⟩ := lanedState_relayAt
  have hheld := relaySelect_holds (by decide) lanedBegun_selects hv
  have hone : lanedState.relayOne 0 = lanedBegun := relayOne_begins hs0
  have htwo : lanedBegun.relayOne 0 = lanedBegun.relaySelect 0 := relayOne_selects hs hh
  rw [relayGo_step hm0 hw0, hone, hs, hs0, if_neg (by decide),
    relayGo_last lanedBegun_selects.mode hw (by rw [htwo, hheld]; decide), htwo]
theorem lanedState_held {s' : State} (h : exec (.relayLoaderWork 0) lanedState = .next s') : (s'.coach 0).launch.mode = .held := by
  rw [exec_relayLoaderWork (by decide) lanedState_relayAt, lanedState_relayGo] at h
  rw [← Host.Outcome.next.inj h]
  obtain ⟨-, -, hv, -⟩ := lanedBegun_launch
  exact relaySelect_holds (by decide) lanedBegun_selects hv

/-- What O48 says of the selection: where the first variant holds, the relay point goes on. -/
theorem pausesEnd_selection_goes_on (h : Obligations.PausesEnd) {s : State} {c : Nat} {v : VariantImg} (hc : c < 16)
    (hn : (s.coach c).launch.tiles.Nodup) (hat : relayAt s c 0) (hstart : noStart s c) (hr : (s.coach c).launch.restoring = false)
    (hplan : (s.coach c).cplan = (s.coach c).crect) (hwhole : tilesWhole s c) (hports : noRetrain s c)
    (hv : (s.coach c).launch.image.variants[0]? = some v) (hholds : ∀ k, coachForecast s c k → variantHolds s c k v) :
    ∃ s', exec (.relayLoaderWork c) s = .next s' ∧ (s'.coach c).launch.mode = .relaying false := by
  unfold Obligations.PausesEnd at h
  obtain ⟨-, -, -, hbegin, -⟩ := h s c hc hn
  obtain ⟨s', k, hs', hk, -, -, -, -, -, hsel, -⟩ := hbegin hat hstart hr hplan hwhole hports
  obtain ⟨hmode, -⟩ := hsel 0 v hv (hholds k hk) fun _ _ hlt _ => absurd hlt (Nat.not_lt_zero _)
  exact ⟨s', hs', hmode⟩

/-- Refutes O48: at a relay point where a variant that holds has more banks than a tile's map (32 over 29, no bank retired), the moving
of the tile's lines reads vertical groups whose lane parity fails, and 0x6/0x07 holds the launch; `tilesWhole` asks for no error of a
code, but not that the lane parities hold, as `readsGood` does. -/
theorem not_pausesEnd : ¬ Obligations.PausesEnd := by
  intro h
  obtain ⟨s', hs', hmode⟩ := pausesEnd_selection_goes_on h (s := lanedState) (c := 0) (v := wideVariant) (by decide)
    (by decide +kernel) lanedState_relayAt lanedState_noStart (by decide +kernel) (by decide +kernel) lanedState_tilesWhole
    lanedState_noRetrain (by decide +kernel) fun k hk => lanedState_forecast hk ▸ lanedState_holds
  rw [lanedState_held hs'] at hmode
  cases hmode

end Sys2Proof.Proofs

/-! Rounding (03 R82, R83, Table 3-6): the rungs of a destination, the rung that a mode chooses, and the codes and flags of every type. -/
namespace Sys2Proof.Proofs
open Sys2Proof Sys2Proof.Machine Sys2Proof.Claims

/-! ## Comparison with a real magnitude -/

theorem realOrder_eq_iff {v : ℝ} {order : Nat → Ordering} (h : RealOrder v order) (t : Nat) : order t = .eq ↔ (t : ℝ) = v := by
  obtain ⟨hlt, hgt⟩ := h t
  constructor
  · intro he
    rw [he] at hlt hgt
    exact le_antisymm (not_lt.mp fun h => nomatch hgt.mpr h) (not_lt.mp fun h => nomatch hlt.mpr h)
  · intro he
    match ho : order t with
    | .eq => rfl
    | .lt => exact absurd (hlt.mp ho) (by rw [he]; exact lt_irrefl v)
    | .gt => exact absurd (hgt.mp ho) (by rw [he]; exact lt_irrefl v)

theorem realOrder_compare (n : Nat) : RealOrder (n : ℝ) fun t => compare t n := fun t => by
  rw [compare_lt_iff_lt, compare_gt_iff_gt, Nat.cast_lt, Nat.cast_lt]
  exact ⟨Iff.rfl, Iff.rfl⟩

/-- The comparison with a real number, as an order of rungs. -/
noncomputable def orderOf (v : ℝ) (t : Nat) : Ordering := cmp (t : ℝ) v
theorem realOrder_orderOf (v : ℝ) : RealOrder v (orderOf v) := fun _ => ⟨cmp_eq_lt_iff _ _, cmp_eq_gt_iff _ _⟩

/-! ## The choice between two rungs (03 Table 3-6) -/

/-- Does the mode choose Hi, where the discarded part is rem of the gap between the two rungs? -/
def roundsUp (mode : RMode) (thr rem gap : Nat) (tieUp : Bool) : Bool :=
  match mode with
  | .rtz => false
  | .dith => decide (256 * gap ≤ rem * 256 + thr * gap)
  | _ => decide (gap < 2 * rem) || (decide (2 * rem = gap) && tieUp)
/-- The chosen rung of the k-th and the next one. -/
def rungOf (mode : RMode) (thr rem gap : Nat) (tieUp : Bool) (k : Nat) : Nat :=
  if rem ≠ 0 ∧ roundsUp mode thr rem gap tieUp = true then k + 1 else k

theorem rungOf_add (mode : RMode) (thr rem gap : Nat) (tieUp : Bool) (k j : Nat) :
    rungOf mode thr rem gap tieUp (k + j) = k + rungOf mode thr rem gap tieUp j := by
  unfold rungOf; split <;> omega
theorem rungOf_zero (mode : RMode) (thr gap : Nat) (tieUp : Bool) (k : Nat) : rungOf mode thr 0 gap tieUp k = k := if_neg fun h => h.1 rfl

section
variable {rung : Nat → Nat} {order : Nat → Ordering} {k A G rem thr : Nat} {v s : ℝ}

theorem order_half (hs : 0 < s) (ho : RealOrder v order) (h0 : ((512 * rung k : Nat) : ℝ) = s * A)
    (h1 : ((512 * rung (k + 1) : Nat) : ℝ) = s * (A + G)) (hv : v = s * (A + rem)) :
    (order (256 * (rung k + rung (k + 1))) = .gt ↔ 2 * rem < G) ∧ (order (256 * (rung k + rung (k + 1))) = .lt ↔ G < 2 * rem) := by
  have ht : ((256 * (rung k + rung (k + 1)) : Nat) : ℝ) = s * (A + G / 2) := by push_cast at h0 h1 ⊢; linarith
  obtain ⟨hlt, hgt⟩ := ho (256 * (rung k + rung (k + 1)))
  rw [hlt, hgt, ht, hv, mul_lt_mul_iff_right₀ hs, mul_lt_mul_iff_right₀ hs, ← Nat.cast_lt (α := ℝ), ← Nat.cast_lt (α := ℝ)]
  push_cast
  constructor <;> constructor <;> intro h <;> linarith

theorem order_dith (hs : 0 < s) (ho : RealOrder v order) (hthr : thr ≤ 256) (h0 : ((512 * rung k : Nat) : ℝ) = s * A)
    (h1 : ((512 * rung (k + 1) : Nat) : ℝ) = s * (A + G)) (hv : v = s * (A + rem)) :
    order (512 * rung k + 2 * (256 - thr) * (rung (k + 1) - rung k)) = .gt ↔ ¬ 256 * G ≤ rem * 256 + thr * G := by
  have hG : (0 : ℝ) ≤ s * G := mul_nonneg hs.le (Nat.cast_nonneg _)
  have hle : rung k ≤ rung (k + 1) := by
    have : (512 * rung k : Nat) ≤ 512 * rung (k + 1) := Nat.cast_le.mp (by rw [h0, h1]; linarith : ((512 * rung k : Nat) : ℝ) ≤ _)
    omega
  have ht : ((512 * rung k + 2 * (256 - thr) * (rung (k + 1) - rung k) : Nat) : ℝ) = s * (A + (256 - thr) * G / 256) := by
    push_cast [Nat.cast_sub hthr, Nat.cast_sub hle] at h0 h1 ⊢
    linear_combination (thr / 256 : ℝ) * h0 + ((256 - thr) / 256 : ℝ) * h1
  rw [(ho _).2, ht, hv, mul_lt_mul_iff_right₀ hs, not_le, ← Nat.cast_lt (α := ℝ)]
  push_cast
  constructor <;> intro h <;> linarith

/-- A magnitude that stands rem of a gap G above the k-th rung rounds to the rung that the mode chooses. -/
theorem chosen_rungOf {tieLow : Nat → Bool} {tieUp : Bool} (mode : RMode) (hs : 0 < s) (ho : RealOrder v order) (hthr : thr ≤ 256)
    (hrem : rem < G) (h0 : ((512 * rung k : Nat) : ℝ) = s * A) (h1 : ((512 * rung (k + 1) : Nat) : ℝ) = s * (A + G))
    (hv : v = s * (A + rem)) (ht : tieLow k = !tieUp) :
    Chosen rung tieLow mode thr order k (rungOf mode thr rem G tieUp k) ∧ (order (512 * rung k) = .eq ↔ rem = 0) := by
  have hr : (0 : ℝ) ≤ rem := Nat.cast_nonneg _
  have hrG : (rem : ℝ) < G := Nat.cast_lt.mpr hrem
  have heq : order (512 * rung k) = .eq ↔ rem = 0 := by
    rw [realOrder_eq_iff ho, h0, hv, mul_right_inj' hs.ne', left_eq_add, Nat.cast_eq_zero]
  have hlo : order (512 * rung k) ≠ .gt := fun h => by
    have := ((ho _).2.mp h)
    rw [h0, hv, mul_lt_mul_iff_right₀ hs] at this
    linarith
  have hhi : order (512 * rung (k + 1)) = .gt := (ho _).2.mpr (by rw [h1, hv, mul_lt_mul_iff_right₀ hs]; linarith)
  obtain ⟨hgt, hlt⟩ := order_half hs ho h0 h1 hv
  have hd := order_dith hs ho hthr h0 h1 hv
  refine ⟨⟨hlo, hhi, ?_⟩, heq⟩
  by_cases h : rem = 0
  · rw [if_pos (heq.mpr h), h, rungOf_zero]
  · have near : rungOf .rne thr rem G tieUp k = match order (256 * (rung k + rung (k + 1))) with
        | .gt => k | .lt => k + 1 | .eq => if tieLow k then k else k + 1 := by
      rcases lt_trichotomy (2 * rem) G with hc | hc | hc
      · rw [hgt.mpr hc]; simp [rungOf, roundsUp, hc.ne, hc.le]
      · have he : order (256 * (rung k + rung (k + 1))) = .eq := by
          match ho' : order (256 * (rung k + rung (k + 1))) with
          | .eq => rfl
          | .gt => have := hgt.mp ho'; omega
          | .lt => have := hlt.mp ho'; omega
        rw [he, ht]; cases tieUp <;> simp [rungOf, roundsUp, hc, h]
      · rw [hlt.mpr hc]; simp [rungOf, roundsUp, hc, h]
    rw [if_neg (mt heq.mp h)]
    cases mode with
    | rtz => simp [rungOf, roundsUp]
    | dith =>
      by_cases hc : 256 * G ≤ rem * 256 + thr * G
      · simp [rungOf, roundsUp, h, hc, mt hd.mp (not_not.mpr hc)]
      · simp [rungOf, roundsUp, hc, hd.mpr hc]
    | rne => exact near
    | sat => exact near
    | ef => exact near
end

/-! ## The rungs of a floating-point type -/

theorem codeVal_add (ty : Ty) {a lo : Nat} (h : lo ≤ 2 * 2 ^ Ty.mbits ty) (ha : a = 0 ∨ 2 ^ Ty.mbits ty ≤ lo) :
    codeVal ty (a * 2 ^ Ty.mbits ty + lo) = lo * 2 ^ a := by
  have hM : 0 < 2 ^ Ty.mbits ty := Nat.two_pow_pos _
  unfold codeVal
  generalize 2 ^ Ty.mbits ty = M at *
  rcases lt_trichotomy lo M with hl | rfl | hl
  · obtain rfl : a = 0 := by omega
    simp [hl]
  · have e : a * lo + lo = lo * (a + 1) := by ring
    rw [if_neg (by rw [e]; exact Nat.not_lt.mpr (Nat.le_mul_of_pos_right _ (Nat.succ_pos a))), e, Nat.mul_mod_right, Nat.mul_div_cancel_left _ hM]
    simp
  · rcases Nat.lt_or_ge lo (2 * M) with h2 | h2
    · have e : a * M + lo = lo - M + M * (a + 1) := by rw [Nat.mul_succ, Nat.mul_comm M]; omega
      rw [if_neg (by rw [e, Nat.mul_succ]; omega), e, Nat.add_mul_mod_self_left, Nat.mod_eq_of_lt (by omega), Nat.add_mul_div_left _ _ hM,
        Nat.div_eq_of_lt (by omega), Nat.add_sub_cancel' hl.le]
      simp
    · obtain rfl : lo = 2 * M := by omega
      have e : a * M + 2 * M = M * (a + 2) := by ring
      rw [if_neg (by rw [e, Nat.mul_add]; omega), e, Nat.mul_mod_right, Nat.mul_div_cancel_left _ hM, Nat.add_zero,
        show a + 2 - 1 = a + 1 from rfl, pow_succ]
      ring

/-- Every code is a fraction of at most two binades at an exponent. -/
theorem code_split (ty : Ty) (k : Nat) : ∃ a lo, k = a * 2 ^ Ty.mbits ty + lo ∧ lo < 2 * 2 ^ Ty.mbits ty ∧ (a = 0 ∨ 2 ^ Ty.mbits ty ≤ lo) := by
  have hM : 0 < 2 ^ Ty.mbits ty := Nat.two_pow_pos _
  generalize 2 ^ Ty.mbits ty = M at *
  have hd := Nat.div_add_mod' k M
  have hm := Nat.mod_lt k hM
  rcases Nat.eq_zero_or_pos (k / M) with h | h
  · exact ⟨0, k, by omega, by rw [h] at hd; omega, .inl rfl⟩
  · refine ⟨k / M - 1, M + k % M, ?_, by omega, .inr (by omega)⟩
    obtain ⟨b, hb⟩ : ∃ b, k / M = b + 1 := ⟨k / M - 1, by omega⟩
    rw [hb, Nat.succ_mul] at hd
    rw [hb, Nat.add_sub_cancel]
    omega

theorem codeVal_lt_succ (ty : Ty) (k : Nat) : codeVal ty k < codeVal ty (k + 1) := by
  obtain ⟨a, lo, rfl, hlo, ha⟩ := code_split ty k
  rw [codeVal_add ty hlo.le ha, Nat.add_assoc, codeVal_add ty hlo (ha.imp_right fun h => h.trans (Nat.le_succ lo))]
  exact Nat.mul_lt_mul_of_pos_right (Nat.lt_succ_self lo) (Nat.two_pow_pos a)

/-! ## Multiples of a power of two -/

/-- The chosen multiple of 2^q of a magnitude m * 2^e, by the two multiples around it. -/
theorem roundAt_split (mode : RMode) (thr m : Nat) (e q : Int) : ∃ lo rem gap : Nat, rem < gap ∧
    (m : ℝ) * 2 ^ e * gap = 2 ^ q * (lo * gap + rem) ∧
    roundAt mode thr m e q = (rungOf mode thr rem gap (lo % 2 == 1) lo, rem == 0) := by
  unfold roundAt
  by_cases h : q ≤ e
  · refine ⟨m * 2 ^ (e - q).toNat, 0, 1, by omega, ?_, by rw [if_pos h, rungOf_zero]; rfl⟩
    have : (2 : ℝ) ^ e = 2 ^ q * 2 ^ (e - q).toNat := by
      rw [← zpow_natCast, ← zpow_add₀ two_ne_zero, Int.toNat_of_nonneg (by omega)]; congr 1; omega
    push_cast
    rw [this]; ring
  · refine ⟨m / 2 ^ (q - e).toNat, m % 2 ^ (q - e).toNat, 2 ^ (q - e).toNat, Nat.mod_lt _ (Nat.two_pow_pos _), ?_, ?_⟩
    · have : (2 : ℝ) ^ q = 2 ^ e * 2 ^ (q - e).toNat := by
        rw [← zpow_natCast, ← zpow_add₀ two_ne_zero, Int.toNat_of_nonneg (by omega)]; congr 1; omega
      have hm : ((m / 2 ^ (q - e).toNat * 2 ^ (q - e).toNat + m % 2 ^ (q - e).toNat : Nat) : ℝ) = m := by rw [Nat.div_add_mod']
      push_cast at hm ⊢
      rw [this, hm]; ring
    · rw [if_neg h]
      have : chooseHi mode thr (m % 2 ^ (q - e).toNat) (q - e).toNat (m / 2 ^ (q - e).toNat % 2 == 1) = true ↔
          m % 2 ^ (q - e).toNat ≠ 0 ∧ roundsUp mode thr (m % 2 ^ (q - e).toNat) (2 ^ (q - e).toNat) (m / 2 ^ (q - e).toNat % 2 == 1) = true := by
        have hp := Nat.two_pow_pos (q - e).toNat
        cases mode <;> simp [chooseHi, roundsUp] <;> omega
      simp only [rungOf, this]

/-! ## Rounding to a floating-point type (03 R83) -/

theorem leastAt_eq {ty : Ty} (h : Ty.isFloat ty = true) : (leastAt ty : Int) = 1 - Ty.bias ty - Ty.mbits ty + 800 := by
  cases ty <;> cases h <;> rfl
theorem even_twoPow_mbits {ty : Ty} (h : Ty.isFloat ty = true) : 2 ^ Ty.mbits ty % 2 = 0 := by
  cases ty <;> cases h <;> rfl
theorem signBit_eq {ty : Ty} (h : Ty.isFloat ty = true) (neg : Bool) : signBit ty neg = if neg then 2 ^ (ty.width - 1) else 0 := by
  cases ty <;> cases h <;> rfl

theorem log2_le_real {m : Nat} (h : m ≠ 0) : (2 : ℝ) ^ (Nat.log2 m : Int) ≤ m := by
  rw [zpow_natCast]; exact_mod_cast Nat.log2_self_le h
theorem lt_log2_real (m : Nat) : (m : ℝ) < 2 ^ (Nat.log2 m + 1 : Int) := by
  have := Nat.lt_log2_self (n := m)
  exact_mod_cast this

theorem two_zpow_pos (z : Int) : (0 : ℝ) < 2 ^ z := zpow_pos two_pos z
theorem zpow_two_add (a b : Int) : (2 : ℝ) ^ (a + b) = 2 ^ a * 2 ^ b := zpow_add₀ two_ne_zero a b

/-- The multiple of 2^q below a magnitude holds at most one bit more than the fraction, and that many where q follows the magnitude. -/
theorem multiple_bounds {m lo rem gap mb : Nat} {e q qmin : Int} (hm : m ≠ 0) (hrem : rem < gap)
    (hv : (m : ℝ) * 2 ^ e * gap = 2 ^ q * (lo * gap + rem)) (hq : q = max ((Nat.log2 m : Int) + e - mb) qmin) :
    lo < 2 * 2 ^ mb ∧ (q = qmin ∨ 2 ^ mb ≤ lo) := by
  have hg : (0 : ℝ) < gap := Nat.cast_pos.mpr (Nat.zero_lt_of_lt hrem)
  have hr : (rem : ℝ) < gap := Nat.cast_lt.mpr hrem
  have hr0 : (0 : ℝ) ≤ rem := Nat.cast_nonneg _
  have he := two_zpow_pos e
  have h2 := two_zpow_pos q
  constructor
  · have h1 : (m : ℝ) * 2 ^ e < 2 ^ q * (2 * 2 ^ mb : Nat) := by
      calc (m : ℝ) * 2 ^ e < 2 ^ (Nat.log2 m + 1 : Int) * 2 ^ e := mul_lt_mul_of_pos_right (lt_log2_real m) he
        _ = 2 ^ ((Nat.log2 m + e - mb) + (mb + 1 : Int)) := by rw [← zpow_two_add]; congr 1; ring
        _ ≤ 2 ^ (q + (mb + 1 : Int)) := zpow_le_zpow_right₀ one_le_two (by omega)
        _ = 2 ^ q * (2 * 2 ^ mb : Nat) := by rw [zpow_two_add]; push_cast; rw [zpow_add_one₀ two_ne_zero, zpow_natCast]; ring
    have h3 : (2 : ℝ) ^ q * (lo * gap) < 2 ^ q * ((2 * 2 ^ mb : Nat) * gap) := by nlinarith
    have h4 := lt_of_mul_lt_mul_right (lt_of_mul_lt_mul_left h3 h2.le) hg.le
    exact_mod_cast h4
  · by_cases hmin : q = qmin
    · exact .inl hmin
    · right
      have hq' : q = Nat.log2 m + e - mb := by omega
      have h1 : (2 : ℝ) ^ q * (2 ^ mb : Nat) ≤ m * 2 ^ e := by
        calc (2 : ℝ) ^ q * (2 ^ mb : Nat) = 2 ^ (Nat.log2 m : Int) * 2 ^ e := by
              rw [← zpow_two_add, hq']; push_cast; rw [← zpow_natCast, ← zpow_two_add]; congr 1; ring
          _ ≤ m * 2 ^ e := mul_le_mul_of_nonneg_right (log2_le_real hm) he.le
      have h3 : (2 : ℝ) ^ q * ((2 ^ mb : Nat) * gap) < 2 ^ q * ((lo + 1 : Nat) * gap) := by push_cast at h1 ⊢; nlinarith
      have h4 := lt_of_mul_lt_mul_right (lt_of_mul_lt_mul_left h3 h2.le) hg.le
      exact Nat.lt_succ_iff.mp (by exact_mod_cast h4)

theorem roundMag_rounds {ty : Ty} (hty : Ty.isFloat ty = true) (mode : RMode) {thr m : Nat} (hthr : thr ≤ 256) (hm : m ≠ 0) (e : Int)
    (neg : Bool) {order : Nat → Ordering} (ho : RealOrder ((m : ℝ) * 2 ^ (e + 809)) order) :
    FloatRounds ty mode thr neg order (signBit ty neg + (roundMag ty mode thr m e).1) (roundMag ty mode thr m e).2 := by
  have hleast := leastAt_eq hty
  generalize hmin : (1 - Ty.bias ty - Ty.mbits ty : Int) = qmin at hleast
  obtain ⟨q, hq⟩ : ∃ q, q = max ((Nat.log2 m : Int) + e - Ty.mbits ty) qmin := ⟨_, rfl⟩
  obtain ⟨lo, rem, gap, hrem, hv, hround⟩ := roundAt_split mode thr m e q
  obtain ⟨hlo, hnorm⟩ := multiple_bounds hm hrem hv hq
  obtain ⟨a, ha⟩ : ∃ a : Nat, a = (q - qmin).toNat := ⟨_, rfl⟩
  have hqa : q + 809 = a + leastAt ty + 9 := by omega
  have hg : (0 : ℝ) < gap := Nat.cast_pos.mpr (Nat.zero_lt_of_lt hrem)
  have hs : (2 : ℝ) ^ (q + 809) = 512 * (2 ^ a * 2 ^ leastAt ty) := by
    rw [hqa, zpow_two_add, zpow_two_add, zpow_natCast, zpow_natCast]; norm_num; ring
  have hnorm' : a = 0 ∨ 2 ^ Ty.mbits ty ≤ lo := hnorm.imp_left fun h => by omega
  have hk := codeVal_add ty hlo.le hnorm'
  have hk1 := codeVal_add ty (lo := lo + 1) hlo (hnorm'.imp_right fun h => h.trans (Nat.le_succ lo))
  obtain ⟨hch, heq⟩ := chosen_rungOf (rung := fun k => codeVal ty k * 2 ^ leastAt ty) (tieLow := fun k => k % 2 == 0)
    (k := a * 2 ^ Ty.mbits ty + lo) (A := lo * gap) (tieUp := lo % 2 == 1) (s := 2 ^ (q + 809) / gap) mode (div_pos (two_zpow_pos _) hg) ho hthr hrem
    (by rw [hk, hs]; push_cast; field_simp)
    (by rw [Nat.add_assoc, hk1, hs]; push_cast; field_simp)
    (by rw [zpow_two_add e, ← mul_assoc, zpow_two_add q]; push_cast; field_simp; linear_combination hv)
    (by
      have : (a * 2 ^ Ty.mbits ty + lo) % 2 = lo % 2 := by
        rw [Nat.add_mod, Nat.mul_mod, even_twoPow_mbits hty]; simp
      rw [this]; rcases Nat.mod_two_eq_zero_or_one lo with h | h <;> rw [h] <;> rfl)
  rw [rungOf_add] at hch
  refine ⟨_, _, hch, ?_⟩
  rw [signBit_eq hty]
  unfold roundMag
  simp only [heq, hmin, ← hq, hround, ← ha]
  generalize a * 2 ^ Ty.mbits ty + rungOf mode thr rem gap (lo % 2 == 1) lo = n
  by_cases hn : n ≤ Ty.maxFin ty
  · rw [if_neg (Nat.not_lt.mpr hn), if_pos hn, if_neg (Nat.not_lt.mpr hn)]
    by_cases h0 : rem = 0
    · simp [h0]
    · simp [h0]; split <;> simp [IX, UF]
  · rw [if_pos (Nat.lt_of_not_le hn), if_neg hn, if_pos (Nat.lt_of_not_le hn)]
    exact ⟨rfl, rfl⟩

/-! ## Rounding to an integer type -/

theorem zpow_two_809 : (2 : ℝ) ^ (809 : Int) = 512 * 2 ^ 800 := by
  rw [show (809 : Int) = (9 + 800 : Nat) from rfl, zpow_natCast, pow_add, show (2 : ℝ) ^ 9 = 512 by norm_num]


theorem tyMin_eq (ty : Ty) : Ty.intMin ty = tyMin ty := by cases ty <;> rfl
theorem tyMax_eq (ty : Ty) : Ty.intMax ty = tyMax ty := by cases ty <;> rfl
theorem wrap_cast (w : Nat) (x : Int) : (wrap w x : Int) = x % 2 ^ w := by
  unfold wrap
  rw [Int.toNat_of_nonneg (Int.emod_nonneg _ (by positivity))]
  push_cast; rfl

theorem roundInt_rounds (ty : Ty) (mode : RMode) {thr : Nat} (hthr : thr ≤ 256) (m : Nat) (e : Int) (neg : Bool) {order : Nat → Ordering}
    (ho : RealOrder ((m : ℝ) * 2 ^ (e + 809)) order) :
    IntRounds ty mode thr neg order (roundInt ty mode thr neg m e).1 (roundInt ty mode thr neg m e).2 := by
  obtain ⟨lo, rem, gap, hrem, hv, hround⟩ := roundAt_split mode thr m e 0
  have hg : (0 : ℝ) < gap := Nat.cast_pos.mpr (Nat.zero_lt_of_lt hrem)
  obtain ⟨hch, heq⟩ := chosen_rungOf (rung := fun k => k * 2 ^ 800) (tieLow := fun k => k % 2 == 0) (k := lo) (A := lo * gap)
    (tieUp := lo % 2 == 1) (s := 2 ^ (809 : Int) / gap) mode (div_pos (two_zpow_pos _) hg) ho hthr hrem
    (by rw [zpow_two_809]; push_cast; field_simp)
    (by rw [zpow_two_809]; push_cast; field_simp)
    (by rw [zpow_two_add e, ← mul_assoc]; push_cast; field_simp; linear_combination hv)
    (by rcases Nat.mod_two_eq_zero_or_one lo with h | h <;> rw [h] <;> rfl)
  refine ⟨_, _, hch, ?_⟩
  unfold roundInt
  simp only [heq, hround, tyMin_eq, tyMax_eq]
  generalize rungOf mode thr rem gap (lo % 2 == 1) lo = n
  have hmm : tyMin ty ≤ tyMax ty := by cases ty <;> decide
  by_cases h1 : signed neg n < tyMin ty
  · simp only [← signed.eq_1, h1, if_true, true_or, wrap_cast]
    exact ⟨by congr 1; omega, rfl⟩
  by_cases h2 : tyMax ty < signed neg n
  · simp only [← signed.eq_1, h1, h2, if_true, if_false, or_true, wrap_cast]
    exact ⟨by congr 1; omega, rfl⟩
  · simp only [← signed.eq_1, h1, h2, if_false, or_false, wrap_cast]
    refine ⟨by congr 1; omega, ?_⟩
    by_cases h0 : rem = 0 <;> simp [h0, IX]

/-! ## The magnitudes of P2S8 (03 R73 to R75) -/

/-- The magnitudes of P2S8 in units of 2^-6, in rising order. -/
def p2Mags : List Nat :=
  [0, 1, 2, 3, 4, 5, 6, 7, 8, 9, 10, 12, 14, 15, 16, 17, 18, 20, 24, 28, 30, 31, 32, 33, 34, 36, 40, 48, 56, 60, 62, 63, 64, 65, 66, 68, 72, 80,
    96, 128]
theorem p2Val_eq : ∀ b, b < 256 → p2Val b = p2Num b := by decide +kernel
theorem p2Terms_eq : ∀ b, b < 256 → p2Terms b = p2Count b := by decide +kernel
theorem p2Num_mem : ∀ b, b < 256 → p2Num b < 0 ∨ (p2Num b).toNat ∈ p2Mags := by decide +kernel
theorem p2Mags_hit : ∀ n ∈ p2Mags, n = 0 ∨ ∃ b, b < 128 ∧ p2Num b = (n : Int) := by decide +kernel
theorem p2Canon_signed : ∀ n ∈ p2Mags, ∀ neg, p2Canon (signed neg n) = p2Byte (signed neg n) := by
  unfold signed; decide +kernel
theorem p2Mags_lt : ∀ k, k < 39 → p2Mags.getD k 0 < p2Mags.getD (k + 1) 0 := by decide

theorem p2Num_mem_iff (n : Nat) : (∃ b, b < 256 ∧ p2Num b = (n : Int)) ↔ n ∈ p2Mags := by
  constructor
  · rintro ⟨b, hb, h⟩
    rcases p2Num_mem b hb with h1 | h1
    · omega
    · rwa [h, Int.toNat_natCast] at h1
  · intro h
    rcases p2Mags_hit n h with rfl | ⟨b, hb, h⟩
    · exact ⟨0x77, by decide, by decide⟩
    · exact ⟨b, by omega, h⟩

theorem p2Rung_eq (k : Nat) : p2Rung k = p2Mags.getD k (2 ^ 800) * 2 ^ 794 := by
  have h : ((List.range 129).filter fun n : Nat => (List.range 256).any fun b => p2Num b == (n : Int)) = p2Mags := by
    rw [List.filter_congr (q := fun n => p2Mags.contains n) fun n _ => ?_]
    · decide
    · rw [Bool.eq_iff_iff, List.any_eq_true, List.contains_iff_mem, ← p2Num_mem_iff]
      simp
  rw [← h]; rfl

theorem p2Canon_lt (v : Int) : p2Canon v < 256 := by
  unfold p2Canon
  split
  · decide
  · dsimp only
    split
    · next k h =>
      have := List.mem_range.mp (List.mem_of_find?_eq_some h)
      split <;> omega
    · decide

/-- A number of units is a magnitude of P2S8 where it is one of the list. -/
theorem p2Rep_iff (n : Nat) : p2Rep n = true ↔ n ∈ p2Mags := by
  unfold p2Rep
  rw [Bool.or_eq_true, beq_iff_eq, beq_iff_eq]
  constructor
  · rintro (rfl | h)
    · decide
    · rw [p2Val_eq _ (p2Canon_lt _)] at h
      exact (p2Num_mem_iff n).mp ⟨_, p2Canon_lt _, h⟩
  · intro h
    rcases p2Mags_hit n h with h0 | ⟨b, hb, hn⟩
    · exact .inl h0
    · rw [← p2Val_eq b (by omega)] at hn
      right
      unfold p2Canon
      split
      · next h0 => rw [h0]; decide
      · rw [if_neg (by omega)]
        dsimp only
        split
        · next k hk => simpa using List.find?_some hk
        · next hk =>
          have := List.find?_eq_none.mp hk b (List.mem_range.mpr hb)
          rw [Nat.zero_add] at this
          exact absurd hn (by simpa using this)

theorem p2Lo_between {a n : Nat} (ha : p2Rep a = true ∨ a = 0) (han : a ≤ n) (h : ∀ j, a < j → j ≤ n → p2Rep j = false) : p2Lo n = a := by
  induction n with
  | zero => rw [p2Lo]; omega
  | succ n ih =>
    rw [p2Lo]
    rcases Nat.lt_or_eq_of_le han with hl | rfl
    · rw [h (n + 1) hl (Nat.le_refl _), if_neg (by decide), ih (by omega) fun j h1 h2 => h j h1 (by omega)]
    · rw [if_pos (ha.resolve_right (by omega))]
theorem p2Lo_le (n : Nat) : p2Lo n ≤ n := by
  induction n with
  | zero => rfl
  | succ n ih => rw [p2Lo]; split <;> omega
theorem p2Hi_between {b : Nat} (hb : p2Rep b = true) {n k : Nat} (hn : n < b) (hk : b ≤ n + k) (h : ∀ j, n < j → j < b → p2Rep j = false) :
    p2Hi n k = b := by
  induction k generalizing n with
  | zero => omega
  | succ k ih =>
    rw [p2Hi]
    rcases Nat.lt_or_eq_of_le (Nat.succ_le_of_lt hn) with hl | he
    · rw [h (n + 1) (Nat.lt_succ_self n) hl, if_neg (by decide), ih hl (by omega) fun j h1 h2 => h j (by omega) h2]
    · rw [← he] at hb ⊢
      rw [if_pos hb]

/-- Between two neighbouring magnitudes there is none. -/
theorem p2Rep_gap {k j : Nat} (h : k < 39) (h1 : p2Mags.getD k 0 < j) (h2 : j < p2Mags.getD (k + 1) 0) : p2Rep j = false := by
  have hmono : ∀ a b, a ≤ b → b < 40 → p2Mags.getD a 0 ≤ p2Mags.getD b 0 := by
    intro a b hab hb
    induction b with
    | zero => rw [Nat.le_zero.mp hab]
    | succ b ih =>
      rcases Nat.lt_or_eq_of_le hab with hl | rfl
      · exact (ih (by omega) (by omega)).trans (p2Mags_lt b (by omega)).le
      · exact Nat.le_refl _
  refine Bool.eq_false_iff.mpr fun hj => ?_
  obtain ⟨i, hi, rfl⟩ := List.getElem_of_mem ((p2Rep_iff j).mp hj)
  have hi' : i < 40 := hi
  rw [← List.getD_eq_getElem _ 0 hi] at h1 h2
  have hki : k < i := Nat.lt_of_not_le fun h => absurd (hmono i k h (by omega)) (Nat.not_le.mpr h1)
  exact absurd (hmono (k + 1) i hki hi') (Nat.not_le.mpr h2)

/-- The first place at which a sequence rises above a number that it does not begin above. -/
theorem exists_bracket {f : Nat → Nat} {n N : Nat} (h0 : f 0 ≤ n) (hN : n < f N) : ∃ k, k < N ∧ f k ≤ n ∧ n < f (k + 1) := by
  induction N with
  | zero => omega
  | succ N ih =>
    by_cases h : n < f N
    · obtain ⟨k, hk, h1, h2⟩ := ih h
      exact ⟨k, by omega, h1, h2⟩
    · exact ⟨N, Nat.lt_succ_self N, Nat.not_lt.mp h, hN⟩

theorem p2Lo_top : p2Lo 128 = 128 := by
  rw [p2Lo, if_pos ((p2Rep_iff 128).mpr (by decide))]
/-- Below 2 a number of units lies between two neighbouring magnitudes. -/
theorem p2_bracket {n : Nat} (h : n < 128) : ∃ k, k < 39 ∧ p2Lo n = p2Mags.getD k 0 ∧ p2Hi (p2Lo n) 128 = p2Mags.getD (k + 1) 0 ∧
    p2Lo n ≤ n ∧ n < p2Hi (p2Lo n) 128 := by
  obtain ⟨k, hk, h1, h2⟩ := exists_bracket (f := fun k => p2Mags.getD k 0) (N := 39) (Nat.zero_le n) h
  have hrep (i : Nat) (hi : i < 40) : p2Rep (p2Mags.getD i 0) = true := (p2Rep_iff _).mpr (by
    rw [List.getD_eq_getElem _ 0 hi]; exact List.getElem_mem _)
  have hlo : p2Lo n = p2Mags.getD k 0 := p2Lo_between (.inl (hrep k (by omega))) h1 fun j h3 h4 => p2Rep_gap hk h3 (by omega)
  have hhi : p2Hi (p2Lo n) 128 = p2Mags.getD (k + 1) 0 := by
    rw [hlo]
    have : ∀ i, i < 40 → p2Mags.getD i 0 ≤ 128 := by decide
    exact p2Hi_between (hrep _ (by omega)) (p2Mags_lt k hk) (by have := this (k + 1) (by omega); omega) fun j h3 h4 => p2Rep_gap hk h3 h4
  exact ⟨k, hk, hlo, hhi, by rw [hlo]; exact h1, by rw [hhi]; exact h2⟩

/-! ## Rounding to P2S8 (03 R75, R83) -/

/-- Byte of a rung, as the statements write it. -/
def p2RungByte (neg : Bool) (k : Nat) : Nat := p2Byte (signed neg (p2Rung k / 2 ^ 794 : Nat))
theorem p2Rung_of_lt {k : Nat} (h : k < 40) : p2Rung k = p2Mags.getD k 0 * 2 ^ 794 := by
  have : k < p2Mags.length := h
  rw [p2Rung_eq, List.getD_eq_getElem _ _ this, List.getD_eq_getElem _ _ this]
theorem p2Rung_top : p2Rung 40 = 2 ^ 800 * 2 ^ 794 := by
  rw [p2Rung_eq, List.getD_eq_default _ _ (show p2Mags.length ≤ 40 by decide)]
theorem p2Mags_mem {k : Nat} (h : k < 40) : p2Mags.getD k 0 ∈ p2Mags := by
  rw [List.getD_eq_getElem _ 0 (show k < p2Mags.length from h)]; exact List.getElem_mem _
theorem p2RungByte_eq {k : Nat} (h : k < 40) (neg : Bool) : p2RungByte neg k = p2Canon (signed neg (p2Mags.getD k 0)) := by
  rw [p2RungByte, p2Rung_of_lt h, Nat.mul_div_cancel _ (Nat.two_pow_pos _), p2Canon_signed _ (p2Mags_mem h)]
theorem p2Mags_zero : ∀ k, k < 40 → (p2Mags.getD k 0 = 0 ↔ k = 0) := by decide

/-- A magnitude m * 2^e in units of 2^-6, and in units of 2^-809. -/
theorem p2_units (m : Nat) (e : Int) :
    (m : ℝ) * 2 ^ (e + 809) * 2 ^ (-(e + 6)).toNat = ((m * 2 ^ (e + 6).toNat : Nat) : ℝ) * 2 ^ 803 := by
  have h : (e + 809) + (-(e + 6)).toNat = (e + 6).toNat + 803 := by omega
  push_cast
  rw [mul_assoc, mul_assoc, ← zpow_natCast, ← zpow_two_add, h, zpow_two_add, zpow_natCast]
  rfl

/-- Rounding between the magnitudes lo and hi, or to lo where it is exact. -/
def p2Step (mode : RMode) (thr : Nat) (neg : Bool) (lo hi rem d : Nat) : Nat × Fl :=
  if rem = 0 then (p2Canon (signed neg lo), 0#6)
  else
    let r := if roundsUp mode thr rem ((hi - lo) * 2 ^ d) (decide (p2Terms (p2Canon (signed neg hi)) < p2Terms (p2Canon (signed neg lo)))) then hi else lo
    (p2Canon (signed neg r), if r = 0 then IX ||| UF else IX)

theorem roundP2_eq (mode : RMode) (thr : Nat) (neg : Bool) (m : Nat) (e : Int) {num d lo : Nat} (hn : num = m * 2 ^ (e + 6).toNat)
    (hd : d = (-(e + 6)).toNat) (hlo : lo = p2Lo (num / 2 ^ d)) (hle : lo * 2 ^ d ≤ num) : roundP2 mode thr neg m e =
      if num > 128 * 2 ^ d then (p2Canon (signed neg 128), OF ||| IX) else p2Step mode thr neg lo (p2Hi lo 128) (num - lo * 2 ^ d) d := by
  unfold roundP2 p2Step
  simp only [← hn, ← hd, ← hlo]
  split
  · rfl
  · by_cases h : num = lo * 2 ^ d
    · have hz : num - lo * 2 ^ d = 0 := by omega
      rw [if_pos h, if_pos hz]; rfl
    · have hz : ¬ num - lo * 2 ^ d = 0 := by omega
      rw [if_neg h, if_neg hz]
      cases mode <;> rfl

theorem p2Step_rounds (mode : RMode) {thr : Nat} (hthr : thr ≤ 256) (neg : Bool) {order : Nat → Ordering} {v : ℝ} (ho : RealOrder v order)
    {k lo hi rem d : Nat} (hk : k < 40) (hlo : lo = p2Mags.getD k 0) (hhi : k < 39 → hi = p2Mags.getD (k + 1) 0) (htop : k = 39 → rem = 0)
    (hrem : k < 39 → rem < (hi - lo) * 2 ^ d) (hv : v * 2 ^ d = (lo * 2 ^ d + rem : Nat) * 2 ^ 803) :
    ∃ k m, Chosen p2Rung (fun k => decide (p2Count (p2RungByte neg k) ≤ p2Count (p2RungByte neg (k + 1)))) mode thr order k m ∧
      (p2Step mode thr neg lo hi rem d).1 = p2RungByte neg m ∧
      (p2Step mode thr neg lo hi rem d).2 = if order (512 * p2Rung k) = .eq then 0#6 else if m = 0 then 0x18#6 else 0x10#6 := by
  obtain ⟨hi', hr1, hgap⟩ : ∃ hi', p2Rung (k + 1) = (lo + hi') * 2 ^ 794 ∧ (0 < hi') ∧ (k < 39 → lo + hi' = hi) := by
    rcases Nat.lt_or_eq_of_le (Nat.le_of_lt_succ hk) with h | rfl
    · have := p2Mags_lt k h
      rw [← hlo, ← hhi h] at this
      exact ⟨hi - lo, by rw [p2Rung_of_lt (by omega), ← hhi h]; congr 1; omega, by omega, fun _ => by omega⟩
    · have e : lo = 128 := hlo
      exact ⟨2 ^ 800 - 128, by rw [p2Rung_top, e]; decide +kernel, by decide +kernel, fun h => absurd h (lt_irrefl _)⟩
  have hr0 : p2Rung k = lo * 2 ^ 794 := by rw [p2Rung_of_lt hk, hlo]
  have hd : (0 : ℝ) < 2 ^ d := pow_pos two_pos d
  have hsplit : (2 : ℝ) ^ 803 = 512 * 2 ^ 794 := by rw [show (803 : Nat) = 9 + 794 from rfl, pow_add]; norm_num
  have hremG : rem < hi' * 2 ^ d := by
    rcases Nat.lt_or_eq_of_le (Nat.le_of_lt_succ hk) with h | h
    · rw [show hi' = hi - lo by have := hgap.2 h; omega]; exact hrem h
    · rw [htop h]; exact Nat.mul_pos hgap.1 (Nat.two_pow_pos d)
  obtain ⟨hch, heq⟩ := chosen_rungOf (rung := p2Rung) (k := k) (A := lo * 2 ^ d) (G := hi' * 2 ^ d) (rem := rem) (s := 2 ^ 803 / 2 ^ d)
    (tieLow := fun k => decide (p2Count (p2RungByte neg k) ≤ p2Count (p2RungByte neg (k + 1))))
    (tieUp := !decide (p2Count (p2RungByte neg k) ≤ p2Count (p2RungByte neg (k + 1)))) mode (div_pos (pow_pos two_pos _) hd) ho hthr hremG
    (by rw [hr0, hsplit]; push_cast; field_simp)
    (by rw [hr1, hsplit]; push_cast; field_simp)
    (by push_cast at hv ⊢; field_simp; linear_combination hv)
    (by rw [Bool.not_not])
  refine ⟨_, _, hch, ?_⟩
  simp only [heq]
  unfold p2Step rungOf
  by_cases h0 : rem = 0
  · simp [h0, p2RungByte_eq hk, hlo]
  · have hk39 : k < 39 := by
      rcases Nat.lt_or_eq_of_le (Nat.le_of_lt_succ hk) with h | h
      · exact h
      · exact absurd (htop h) h0
    have hk1 : k + 1 < 40 := by omega
    have hG : hi - lo = hi' := by have := hgap.2 hk39; omega
    have ht : (!decide (p2Count (p2RungByte neg k) ≤ p2Count (p2RungByte neg (k + 1)))) =
        decide (p2Terms (p2Canon (signed neg hi)) < p2Terms (p2Canon (signed neg lo))) := by
      rw [p2RungByte_eq hk, p2RungByte_eq hk1, ← hlo, ← hhi hk39, p2Terms_eq _ (p2Canon_lt _), p2Terms_eq _ (p2Canon_lt _),
        ← decide_not]
      simp only [Nat.not_le]
    rw [ht, if_neg h0, hG]
    simp only [h0, ne_eq, not_false_eq_true, true_and, if_false]
    split
    · simp only [p2RungByte_eq hk1, ← hhi hk39]
      rw [hhi hk39, if_neg (mt (p2Mags_zero _ hk1).mp (Nat.succ_ne_zero k)), if_neg (Nat.succ_ne_zero k)]
      exact ⟨trivial, rfl⟩
    · simp only [p2RungByte_eq hk, hlo, p2Mags_zero k hk]
      exact ⟨trivial, rfl⟩

theorem roundP2_rounds (mode : RMode) {thr : Nat} (hthr : thr ≤ 256) (neg : Bool) (m : Nat) (e : Int) {order : Nat → Ordering}
    (ho : RealOrder ((m : ℝ) * 2 ^ (e + 809)) order) :
    P2Rounds mode thr neg order (roundP2 mode thr neg m e).1 (roundP2 mode thr neg m e).2 := by
  have hv := p2_units m e
  obtain ⟨num, hnum⟩ : ∃ num, num = m * 2 ^ (e + 6).toNat := ⟨_, rfl⟩
  obtain ⟨d, hd⟩ : ∃ d, d = (-(e + 6)).toNat := ⟨_, rfl⟩
  rw [← hnum, ← hd] at hv
  generalize (m : ℝ) * 2 ^ (e + 809) = v at ho hv
  have h2d := Nat.two_pow_pos d
  have hdiv := Nat.div_mul_le_self num (2 ^ d)
  have hlt : num < (num / 2 ^ d + 1) * 2 ^ d := by rw [Nat.mul_comm]; exact Nat.lt_mul_div_succ num h2d
  have hbig : order (512 * 2 ^ 801) = .lt ↔ 128 * 2 ^ d < num := by
    have hd0 : (0 : ℝ) < 2 ^ d := pow_pos two_pos d
    have h803 : (0 : ℝ) < 2 ^ 803 := pow_pos two_pos _
    have h810 : ((512 * 2 ^ 801 : Nat) : ℝ) * 2 ^ d = ((128 * 2 ^ d : Nat) : ℝ) * 2 ^ 803 := by
      push_cast; rw [show (803 : Nat) = 801 + 2 from rfl, pow_add]; ring
    rw [(ho _).1, ← mul_lt_mul_iff_left₀ hd0, hv, h810, mul_lt_mul_iff_left₀ h803, Nat.cast_lt]
  unfold P2Rounds
  by_cases hn : 128 * 2 ^ d < num
  · have hlo : p2Lo (num / 2 ^ d) * 2 ^ d ≤ num := (Nat.mul_le_mul_right _ (p2Lo_le _)).trans hdiv
    rw [if_pos (hbig.mpr hn), roundP2_eq mode thr neg m e hnum hd rfl hlo, if_pos hn]
    exact ⟨p2Canon_signed 128 (by decide) neg, rfl⟩
  · rw [if_neg (mt hbig.mp hn)]
    have hle : num / 2 ^ d ≤ 128 := Nat.div_le_of_le_mul (by rw [Nat.mul_comm]; exact Nat.not_lt.mp hn)
    rcases Nat.lt_or_eq_of_le hle with h | h
    · obtain ⟨k, hk, hlo, hhi, h1, h2⟩ := p2_bracket h
      have hlod : p2Lo (num / 2 ^ d) * 2 ^ d ≤ num := (Nat.mul_le_mul_right _ h1).trans hdiv
      rw [roundP2_eq mode thr neg m e hnum hd rfl hlod, if_neg hn]
      refine p2Step_rounds mode hthr neg ho (k := k) (by omega) hlo (fun _ => hhi) (fun h => by omega) (fun _ => ?_) (by rw [Nat.add_sub_cancel' hlod]; exact hv)
      have : num < p2Hi (p2Lo (num / 2 ^ d)) 128 * 2 ^ d := hlt.trans_le (Nat.mul_le_mul_right _ h2)
      rw [Nat.sub_mul]; omega
    · have hlo : p2Lo (num / 2 ^ d) = 128 := by rw [h, p2Lo_top]
      have hlod : p2Lo (num / 2 ^ d) * 2 ^ d ≤ num := by rw [hlo, ← h]; exact hdiv
      rw [roundP2_eq mode thr neg m e hnum hd rfl hlod, if_neg hn]
      refine p2Step_rounds mode hthr neg ho (k := 39) (by decide) hlo (fun h => absurd h (lt_irrefl _)) (fun _ => ?_) (fun h => absurd h (lt_irrefl _))
        (by rw [Nat.add_sub_cancel' hlod]; exact hv)
      rw [hlo]; omega

/-! ## Values of the model and exact values of the statements -/

/-- A value that the model computes with means an exact value: the same NaN, infinity or zero, or the same real number. -/
inductive Means : Val → Exact → Prop
  | nan (i : Bool) : Means (.nan i) (.nan i)
  | inf (n : Bool) : Means (.inf n) (.inf n)
  | zero (n : Bool) (e : Int) : Means (.fin n 0 e) (.zero n)
  | num {n : Bool} {m : Nat} {e : Int} {y : Int} (hm : m ≠ 0) (hy : (y : ℝ) = (if n then -1 else 1) * m * 2 ^ (e + 800)) :
      Means (.fin n m e) (.num y)

section
variable {n : Bool} {m : Nat} {e y : Int}
theorem num_neg_iff (hm : m ≠ 0) (hy : (y : ℝ) = (if n then -1 else 1) * m * 2 ^ (e + 800)) : decide (y < 0) = n := by
  have hpos : (0 : ℝ) < m * 2 ^ (e + 800) := mul_pos (Nat.cast_pos.mpr (Nat.pos_of_ne_zero hm)) (two_zpow_pos _)
  have hc : y < 0 ↔ (y : ℝ) < 0 := Int.cast_lt_zero.symm
  cases n
  · rw [if_neg Bool.false_ne_true, one_mul] at hy
    rw [decide_eq_false_iff_not, hc, hy]; linarith
  · rw [if_pos rfl, mul_assoc] at hy
    rw [decide_eq_true_iff, hc, hy]; linarith
theorem num_natAbs (hy : (y : ℝ) = (if n then -1 else 1) * m * 2 ^ (e + 800)) :
    ((512 * y.natAbs : Nat) : ℝ) = m * 2 ^ (e + 809) := by
  have hpos : (0 : ℝ) ≤ m * 2 ^ (e + 800) := mul_nonneg (Nat.cast_nonneg _) (two_zpow_pos _).le
  have h9 : (2 : ℝ) ^ (e + 809) = 512 * 2 ^ (e + 800) := by
    rw [show e + 809 = 9 + (e + 800) by ring, zpow_two_add 9]; norm_num
  push_cast
  rw [Nat.cast_natAbs, Int.cast_abs, hy, mul_assoc, abs_mul, abs_of_nonneg hpos, h9]
  cases n <;> simp <;> ring
theorem num_ne_zero (hm : m ≠ 0) (hy : (y : ℝ) = (if n then -1 else 1) * m * 2 ^ (e + 800)) : y ≠ 0 := by
  rintro rfl
  have : (0 : ℝ) = m * 2 ^ (e + 809) := by rw [← num_natAbs hy]; simp
  exact (mul_pos (Nat.cast_pos.mpr (Nat.pos_of_ne_zero hm)) (two_zpow_pos _)).ne this
end

/-! ## RoundTo (03 R82, R83) -/

section
variable {ty : Ty} (mode : RMode) (thr : Nat)
theorem roundTo_nan (h : Ty.isFloat ty = true) (i : Bool) : roundTo ty mode thr (.nan i) = (Ty.canonNaN ty, if i then IV else 0#6) := by
  cases ty <;> cases h <;> rfl
theorem roundTo_inf (h : Ty.isFloat ty = true) (n : Bool) : roundTo ty mode thr (.inf n) =
    if mode = .sat then (signBit ty n + Ty.maxFin ty, OF ||| IX) else if ty = .e4m3 then (0x7F, IV) else (signBit ty n + Ty.infCode ty, 0#6) := by
  cases ty <;> cases h <;> rfl
theorem roundTo_zero (h : Ty.isFloat ty = true) (n : Bool) (e : Int) : roundTo ty mode thr (.fin n 0 e) = (signBit ty n, 0#6) := by
  cases ty <;> cases h <;> rfl
theorem roundTo_fin (h : Ty.isFloat ty = true) (n : Bool) {m : Nat} (hm : m ≠ 0) (e : Int) : roundTo ty mode thr (.fin n m e) =
    (signBit ty n + (roundMag ty mode thr m e).1, (roundMag ty mode thr m e).2) := by
  rcases hr : roundMag ty mode thr m e with ⟨b, f⟩
  cases ty <;> cases h <;> rw [roundTo, if_neg hm, hr]
end

theorem roundTo_p2 (mode : RMode) (thr : Nat) (n : Bool) (m : Nat) (e : Int) : roundTo .p2s8 mode thr (.fin n m e) = roundP2 mode thr n m e := rfl
theorem roundInt_zero (ty : Ty) (mode : RMode) (thr : Nat) (n : Bool) (e : Int) : roundInt ty mode thr n 0 e = (0, 0#6) := by
  have h : roundAt mode thr 0 e 0 = (0, true) := by
    unfold roundAt
    have hlo (d : Nat) : chooseHi mode thr 0 d false = false := by cases mode <;> simp [chooseHi]
    split
    · rw [Nat.zero_mul]
    · simp [hlo]
  have hz : (if n then -((0 : Nat) : Int) else ((0 : Nat) : Int)) = 0 := by cases n <;> rfl
  simp only [roundInt, h, hz]
  cases ty <;> decide

theorem roundP2_zero (mode : RMode) {thr : Nat} (n : Bool) (e : Int) : roundP2 mode thr n 0 e = (0x77, 0#6) := by
  rw [roundP2_eq mode thr n 0 e (num := 0) (d := (-(e + 6)).toNat) (lo := 0) (by rw [Nat.zero_mul]) rfl (by rw [Nat.zero_div]; rfl) (by omega),
    if_neg (by omega), p2Step, if_pos (by omega)]
  cases n <;> rfl

theorem roundTo_rounds (ty : Ty) (mode : RMode) {thr : Nat} (hthr : thr ≤ 256) {v : Val} {x : Exact} (h : Means v x) :
    Rounds ty mode thr x (roundTo ty mode thr v).1 (roundTo ty mode thr v).2 := by
  have hord {n : Bool} {m : Nat} {e y : Int} (hy : (y : ℝ) = (if n then -1 else 1) * m * 2 ^ (e + 800)) :
      RealOrder ((m : ℝ) * 2 ^ (e + 809)) fun t => compare t (512 * y.natAbs) := by
    rw [← num_natAbs hy]; exact realOrder_compare _
  by_cases hf : Ty.isFloat ty = true
  · have hp : ty ≠ .p2s8 := by rintro rfl; cases hf
    unfold Rounds
    rw [if_neg hp, if_pos hf]
    cases h with
    | nan i => rw [roundTo_nan mode thr hf]; exact ⟨rfl, rfl⟩
    | inf n =>
      rw [roundTo_inf mode thr hf, signBit_eq hf]
      dsimp only
      split
      · exact ⟨rfl, rfl⟩
      · split <;> exact ⟨rfl, rfl⟩
    | zero n e => rw [roundTo_zero mode thr hf, signBit_eq hf]; exact ⟨rfl, rfl⟩
    | num hm hy =>
      rw [roundTo_fin mode thr hf _ hm]
      dsimp only
      rw [num_neg_iff hm hy]
      exact roundMag_rounds hf mode hthr hm _ _ (hord hy)
  by_cases hp : ty = .p2s8
  · subst hp
    unfold Rounds
    rw [if_pos rfl]
    cases h with
    | nan i => exact ⟨rfl, rfl⟩
    | inf n =>
      show p2Canon (if n then -128 else 128) = p2Byte (signed n 128) ∧ _
      exact ⟨(p2Canon_signed 128 (by decide) n) ▸ by cases n <;> rfl, rfl⟩
    | zero n e => exact ⟨congrArg Prod.fst (roundP2_zero mode n e), congrArg Prod.snd (roundP2_zero mode n e)⟩
    | @num n m e y hm hy =>
      have ho := hord hy
      dsimp only
      generalize (fun t : Nat => compare t (512 * y.natAbs)) = order at ho ⊢
      rw [num_neg_iff hm hy, roundTo_p2]
      exact roundP2_rounds mode hthr n m e ho
  · have hint : ∀ v, roundTo ty mode thr v = match v with
        | .nan _ => (0, IV)
        | .inf n => (wrap ty.width (if n then Ty.intMin ty else Ty.intMax ty), IV)
        | .fin n m e => roundInt ty mode thr n m e := by
      intro v; cases ty <;> first | exact absurd rfl hf | exact absurd rfl hp | rfl
    unfold Rounds
    rw [if_neg hp, if_neg hf, hint]
    cases h with
    | nan i => exact ⟨rfl, rfl⟩
    | inf n => exact ⟨by rw [wrap_cast, tyMin_eq, tyMax_eq], rfl⟩
    | zero n e => exact ⟨congrArg Prod.fst (roundInt_zero ty mode thr n e), congrArg Prod.snd (roundInt_zero ty mode thr n e)⟩
    | num hm hy =>
      dsimp only
      rw [num_neg_iff hm hy]
      exact roundInt_rounds ty mode hthr _ _ _ (hord hy)

/-! ## A result is a lane -/

theorem roundMag_le (ty : Ty) (mode : RMode) (thr m : Nat) (e : Int) :
    (roundMag ty mode thr m e).1 ≤ Ty.maxFin ty ∨ (roundMag ty mode thr m e).1 = Ty.infCode ty := by
  unfold roundMag
  dsimp only
  split
  · split
    · exact .inr rfl
    · exact .inl le_rfl
  · next hn =>
    split <;> exact .inl (Nat.not_lt.mp hn)
theorem wrap_lt (w : Nat) (x : Int) : wrap w x < 2 ^ w := by
  have h1 := wrap_cast w x
  have h2 := Int.emod_lt_of_pos x (show (0 : Int) < 2 ^ w by positivity)
  have : ((wrap w x : Nat) : Int) < ((2 ^ w : Nat) : Int) := by rw [h1]; exact_mod_cast h2
  exact_mod_cast this

theorem roundTo_lt (ty : Ty) (mode : RMode) (thr : Nat) (v : Val) : (roundTo ty mode thr v).1 < 2 ^ ty.width := by
  by_cases hf : Ty.isFloat ty = true
  · have hb : ∀ n c, c ≤ Ty.maxFin ty ∨ c = Ty.infCode ty ∨ c = 0 → signBit ty n + c < 2 ^ ty.width := by
      intro n c hc
      rw [signBit_eq hf]
      cases ty <;> cases hf <;> cases n <;> simp [Ty.maxFin, Ty.infCode, Ty.width] at hc ⊢ <;> omega
    cases v with
    | nan i =>
      rw [roundTo_nan mode thr hf]
      show Ty.canonNaN ty < _
      cases ty <;> cases hf <;> decide
    | inf n =>
      rw [roundTo_inf mode thr hf]
      split
      · exact hb n _ (.inl le_rfl)
      · split
        · next h => rw [h]; decide
        · exact hb n _ (.inr (.inl rfl))
    | fin n m e =>
      by_cases hm : m = 0
      · rw [hm, roundTo_zero mode thr hf]; exact hb n 0 (.inr (.inr rfl))
      · rw [roundTo_fin mode thr hf n hm]
        exact hb n _ ((roundMag_le ty mode thr m e).imp_right .inl)
  by_cases hp : ty = .p2s8
  · subst hp
    cases v with
    | nan i => show 0x77 < 256; decide
    | inf n => exact p2Canon_lt _
    | fin n m e =>
      show (roundP2 mode thr n m e).1 < 256
      unfold roundP2
      dsimp only
      split
      · exact p2Canon_lt _
      · split <;> exact p2Canon_lt _
  · have hint : ∀ n m e, (roundInt ty mode thr n m e).1 < 2 ^ ty.width := by
      intro n m e
      unfold roundInt
      dsimp only
      generalize (if n then _ else _ : Int) = x
      split
      · exact wrap_lt _ _
      · split <;> exact wrap_lt _ _
    cases v with
    | nan i => cases ty <;> first | exact absurd rfl hf | exact absurd rfl hp | (show 0 < _; decide)
    | inf n => cases ty <;> first | exact absurd rfl hf | exact absurd rfl hp | exact wrap_lt _ _
    | fin n m e => cases ty <;> first | exact absurd rfl hf | exact absurd rfl hp | exact hint n m e

/-! ## The value of an encoding (03 R69 to R76) -/

/-- An integer in units of 2^e, as a value and exactly. -/
theorem means_scaled {r y e : Int} (hr : r ≠ 0) (hy : (y : ℝ) = r * 2 ^ (e + 800)) : Means (.fin (decide (r < 0)) r.natAbs e) (.num y) := by
  refine .num (Int.natAbs_ne_zero.mpr hr) ?_
  rw [hy, Nat.cast_natAbs, Int.cast_abs]
  congr 1
  by_cases h : r < 0
  · rw [if_pos (decide_eq_true h), abs_of_neg (Int.cast_lt_zero.mpr h), neg_one_mul, neg_neg]
  · rw [if_neg (by simpa using h), abs_of_nonneg (Int.cast_nonneg (not_lt.mp h)), one_mul]
theorem means_exactI {e : Int} {K : Nat} (x : Int) (h : e + 800 = K) : Means (.fin (decide (x < 0)) x.natAbs e) (exactI (x * 2 ^ K)) := by
  have hp : (2 : Int) ^ K ≠ 0 := pow_ne_zero _ two_ne_zero
  unfold exactI
  by_cases hx : x = 0
  · rw [hx, Int.zero_mul, if_pos rfl]; exact .zero _ _
  · rw [if_neg (mul_ne_zero hx hp)]
    exact means_scaled hx (by rw [h, zpow_natCast]; push_cast; rfl)

section
variable {ty : Ty} {n : Nat}
theorem magCode_fields (h : Ty.isFloat ty = true) (n : Nat) :
    magCode ty n = n / 2 ^ Ty.mbits ty % 2 ^ Ty.ebits ty * 2 ^ Ty.mbits ty + n % 2 ^ Ty.mbits ty := by
  have hw : ty.width - 1 = Ty.mbits ty + Ty.ebits ty := by cases ty <;> cases h <;> rfl
  rw [magCode, hw, pow_add, Nat.mod_mul]; ring

/-- A code is special above the greatest finite one: an infinity with no fraction, or a NaN. -/
theorem decodeFloat_eq (h : Ty.isFloat ty = true) (hn : n < 2 ^ ty.width) : decodeFloat ty n =
    if Ty.maxFin ty < magCode ty n then
      if ty ≠ .e4m3 ∧ n % 2 ^ Ty.mbits ty = 0 then .inf (negCode ty n) else .nan (ty ≠ .e4m3 ∧ n / 2 ^ (Ty.mbits ty - 1) % 2 = 0)
    else if n / 2 ^ Ty.mbits ty % 2 ^ Ty.ebits ty = 0 then .fin (negCode ty n) (n % 2 ^ Ty.mbits ty) (1 - (Ty.bias ty : Int) - Ty.mbits ty)
    else .fin (negCode ty n) (2 ^ Ty.mbits ty + n % 2 ^ Ty.mbits ty)
      ((n / 2 ^ Ty.mbits ty % 2 ^ Ty.ebits ty : Nat) - (Ty.bias ty : Int) - Ty.mbits ty) := by
  have hneg : (n / 2 ^ (Ty.mbits ty + Ty.ebits ty) % 2 == 1) = negCode ty n := by
    rw [negCode, Bool.eq_iff_iff, beq_iff_eq, decide_eq_true_iff]
    cases ty <;> cases h <;> simp only [Ty.mbits, Ty.ebits, Ty.width] at hn ⊢ <;> omega
  by_cases he : ty = .e4m3
  · subst he
    have hspec : Ty.maxFin .e4m3 < magCode .e4m3 n ↔ (n / 2 ^ Ty.mbits .e4m3 % 2 ^ Ty.ebits .e4m3 == 15 && n % 2 ^ Ty.mbits .e4m3 == 7) = true := by
      simp only [magCode, Ty.maxFin, Ty.mbits, Ty.ebits, Ty.width, Bool.and_eq_true, beq_iff_eq] at hn ⊢; omega
    simp only [decodeFloat, hneg, hspec, ne_eq, not_true_eq_false, false_and, if_false, decide_false]
  · have hspec : Ty.maxFin ty < magCode ty n ↔ (n / 2 ^ Ty.mbits ty % 2 ^ Ty.ebits ty == 2 ^ Ty.ebits ty - 1) = true := by
      cases ty <;> cases h <;> first | exact absurd rfl he | (simp only [magCode, Ty.maxFin, Ty.mbits, Ty.ebits, Ty.width, beq_iff_eq] at hn ⊢; omega)
    have hsig : n % 2 ^ Ty.mbits ty < 2 ^ (Ty.mbits ty - 1) ↔ n / 2 ^ (Ty.mbits ty - 1) % 2 = 0 := by
      cases ty <;> cases h <;> simp only [Ty.mbits] <;> omega
    have hd : decodeFloat ty n = if (n / 2 ^ Ty.mbits ty % 2 ^ Ty.ebits ty == 2 ^ Ty.ebits ty - 1) = true then
          if n % 2 ^ Ty.mbits ty = 0 then .inf (n / 2 ^ (Ty.mbits ty + Ty.ebits ty) % 2 == 1) else .nan (n % 2 ^ Ty.mbits ty < 2 ^ (Ty.mbits ty - 1))
        else if n / 2 ^ Ty.mbits ty % 2 ^ Ty.ebits ty = 0 then
          .fin (n / 2 ^ (Ty.mbits ty + Ty.ebits ty) % 2 == 1) (n % 2 ^ Ty.mbits ty) (1 - (Ty.bias ty : Int) - Ty.mbits ty)
        else .fin (n / 2 ^ (Ty.mbits ty + Ty.ebits ty) % 2 == 1) (2 ^ Ty.mbits ty + n % 2 ^ Ty.mbits ty)
          ((n / 2 ^ Ty.mbits ty % 2 ^ Ty.ebits ty : Nat) - (Ty.bias ty : Int) - Ty.mbits ty) := by
      cases ty <;> first | exact absurd rfl he | rfl
    simp only [hd, hneg, hspec, hsig, he, ne_eq, not_false_eq_true, true_and]

theorem decodeFloat_means (h : Ty.isFloat ty = true) (hn : n < 2 ^ ty.width) : Means (decodeFloat ty n) (exactOf ty n) := by
  have hp : ty ≠ .p2s8 := by rintro rfl; cases h
  have hmag := magCode_fields h n
  have hleast := leastAt_eq h
  have hf := Nat.mod_lt n (Nat.two_pow_pos (Ty.mbits ty))
  rw [decodeFloat_eq h hn, exactOf, if_neg hp, if_pos h]
  generalize n / 2 ^ Ty.mbits ty % 2 ^ Ty.ebits ty = e at *
  generalize n % 2 ^ Ty.mbits ty = f at *
  have hreal (k : Nat) (v : Nat) (z : Int) (hz : z + 800 = k + leastAt ty) :
      ((signed (negCode ty n) (v * 2 ^ k * 2 ^ leastAt ty) : Int) : ℝ) = (if negCode ty n then -1 else 1) * v * 2 ^ (z + 800) := by
    rw [hz, zpow_two_add, zpow_natCast, zpow_natCast]
    unfold signed
    cases negCode ty n <;> push_cast <;> simp <;> ring
  by_cases hfin : Ty.maxFin ty < magCode ty n
  · rw [if_pos hfin, if_neg (show ¬ magCode ty n = 0 by omega), if_neg (Nat.not_le.mpr hfin)]
    split
    · exact .inf _
    · exact .nan _
  · rw [if_neg hfin]
    by_cases he : e = 0
    · rw [if_pos he]
      rw [he, Nat.zero_mul, Nat.zero_add] at hmag
      by_cases hz : f = 0
      · rw [if_pos (hmag.trans hz), hz]; exact .zero _ _
      · have hc : codeVal ty (magCode ty n) = f * 2 ^ 0 := by
          rw [hmag, ← codeVal_add ty (a := 0) (lo := f) (by omega) (.inl rfl), Nat.zero_mul, Nat.zero_add]
        rw [if_neg (by omega), if_pos (by omega), hc]
        exact .num hz (hreal 0 f _ (by rw [hleast]; push_cast; ring))
    · rw [if_neg he]
      obtain ⟨a, rfl⟩ : ∃ a, e = a + 1 := ⟨e - 1, by omega⟩
      have hm : magCode ty n = a * 2 ^ Ty.mbits ty + (2 ^ Ty.mbits ty + f) := by rw [hmag]; ring
      have hpos := Nat.two_pow_pos (Ty.mbits ty)
      have hc : codeVal ty (magCode ty n) = (2 ^ Ty.mbits ty + f) * 2 ^ a := by rw [hm, codeVal_add ty (by omega) (.inr (by omega))]
      rw [if_neg (by omega), if_pos (by omega), hc]
      exact .num (by omega) (hreal a _ _ (by rw [hleast]; push_cast; ring))
end

theorem toInt_ofNat_of_lt {w n : Nat} (hw : 0 < w) (hn : n < 2 ^ w) : (BitVec.ofNat w n).toInt = toSigned w n := by
  obtain ⟨v, rfl⟩ : ∃ v, w = v + 1 := ⟨w - 1, by omega⟩
  rw [BitVec.toInt_eq_toNat_cond, BitVec.toNat_ofNat, Nat.mod_eq_of_lt hn, toSigned, Nat.add_sub_cancel, pow_succ]
  simp only [show 2 * n < 2 ^ v * 2 ↔ n < 2 ^ v by omega]

theorem exactOf_int (ty : Ty) {n : Nat} (h1 : ty ≠ .p2s8) (h2 : Ty.isFloat ty = false) :
    exactOf ty n = exactI ((if ty.signed then (BitVec.ofNat ty.width n).toInt else n) * 2 ^ 800) := by
  rw [exactOf, if_neg h1, h2, if_neg Bool.false_ne_true]
  generalize (if ty.signed then (BitVec.ofNat ty.width n).toInt else (n : Int)) = x
  have hp : (2 : Int) ^ 800 ≠ 0 := pow_ne_zero _ two_ne_zero
  unfold exactI
  by_cases hx : x = 0
  · rw [hx, Int.zero_mul, if_pos rfl]
  · rw [if_neg hx, if_neg (mul_ne_zero hx hp)]

/-- The value that the model reads from a lane is the exact value of its code. -/
theorem valueOf_means (ty : Ty) {n : Nat} (hn : n < 2 ^ ty.width) : Means (valueOf ty n) (exactOf ty n) := by
  by_cases hf : Ty.isFloat ty = true
  · have : valueOf ty n = decodeFloat ty n := by cases ty <;> cases hf <;> rfl
    rw [this]; exact decodeFloat_means hf hn
  by_cases hp : ty = .p2s8
  · subst hp
    have : exactOf .p2s8 n = exactI (p2Val n * 2 ^ 794) := by rw [exactOf, if_pos rfl, p2Val_eq n hn]
    rw [this]; exact means_exactI _ rfl
  · have hv : valueOf ty n = Val.ofInt (if ty.signed then toSigned ty.width n else n) := by
      cases ty <;> first | exact absurd rfl hf | exact absurd rfl hp | rfl
    have hw : 0 < ty.width := by cases ty <;> decide
    rw [hv, exactOf_int ty hp (Bool.not_eq_true _ ▸ hf), toInt_ofNat_of_lt hw hn]
    exact means_exactI _ rfl

end Sys2Proof.Proofs

/-! Exact arithmetic on lanes (07 R171): the model's sums, products and scalings mean the exact ones. -/
namespace Sys2Proof.Proofs
open Sys2Proof Sys2Proof.Machine Sys2Proof.Claims

/-! ## Finite values -/

theorem means_fin_real {n : Bool} {m : Nat} {e : Int} {x : Exact} (h : Means (.fin n m e) x) :
    (numOf x : ℝ) = (if n then -1 else 1) * m * 2 ^ (e + 800) := by
  cases h with
  | zero => simp [numOf]
  | num _ hy => exact hy
theorem scaled_real (n : Bool) (m : Nat) {e e0 : Int} (h : e0 ≤ e) :
    (scaled n m e e0 : ℝ) * 2 ^ e0 = (if n then -1 else 1) * m * 2 ^ e := by
  have he : (2 : ℝ) ^ e = 2 ^ (e - e0).toNat * 2 ^ e0 := by
    rw [← zpow_natCast, Int.toNat_of_nonneg (by omega), ← zpow_two_add]; congr 1; ring
  unfold scaled
  rw [he]
  cases n <;> simp <;> ring

theorem means_neg {v : Val} {x : Exact} (h : Means v x) : Means v.neg (negX x) := by
  cases h with
  | nan i => exact .nan i
  | inf n => exact .inf _
  | zero n e => exact .zero _ e
  | num hm hy => exact .num hm (by push_cast; rw [hy]; cases ‹Bool› <;> simp)

theorem means_scaleBy {v : Val} {x : Exact} (h : Means v x) {k : Int} (hk : -400 ≤ k) (hd : (2 : Int) ^ 400 ∣ numOf x) :
    Means (v.scaleBy k) (scaleX k x) := by
  cases h with
  | nan i => exact .nan i
  | inf n => exact .inf _
  | zero n e => exact .zero _ _
  | @num n m e y hm hy =>
    refine .num hm ?_
    rw [show e + k + 800 = (e + 800) + k by ring, zpow_two_add, ← mul_assoc, ← hy]
    by_cases h0 : 0 ≤ k
    · rw [if_pos h0]
      push_cast
      rw [← zpow_natCast, Int.toNat_of_nonneg h0]
    · rw [if_neg h0]
      have hdvd : (2 : Int) ^ (-k).toNat ∣ y := (pow_dvd_pow 2 (by omega)).trans hd
      rw [Int.cast_div hdvd (by positivity)]
      push_cast
      rw [← zpow_natCast, Int.toNat_of_nonneg (by omega), zpow_neg, div_inv_eq_mul]

/-! ## An exact result with its invalid flag -/

/-- A NaN has raised its invalid flag, or not; any other result raises none. -/
inductive Gives : Val × Fl → Exact → Prop
  | nan (i : Bool) : Gives (.nan false, if i then IV else 0#6) (.nan i)
  | val {v : Val} {x : Exact} (h : Means v x) (hn : v.isNaN = false) : Gives (v, 0#6) x

theorem gives_nan_of {i : Bool} {f : Fl} (h : f = if i then IV else 0#6) : Gives (.nan false, f) (.nan i) := h ▸ .nan i
theorem gives_neg {r : Val × Fl} {x : Exact} (h : Gives r x) : Gives (r.1.neg, r.2) (negX x) := by
  cases h with
  | nan i => exact .nan i
  | val h hn => exact .val (means_neg h) (by cases h <;> first | rfl | cases hn)

theorem means_addFin {n1 n2 : Bool} {m1 m2 : Nat} {e1 e2 : Int} {x y : Exact} (h1 : Means (.fin n1 m1 e1) x) (h2 : Means (.fin n2 m2 e2) y) :
    Means (addFin n1 m1 e1 n2 m2 e2) (sumX x y) := by
  have hr : ((scaled n1 m1 e1 (min e1 e2) + scaled n2 m2 e2 (min e1 e2) : Int) : ℝ) * 2 ^ (min e1 e2 + 800) = numOf x + numOf y := by
    rw [means_fin_real h1, means_fin_real h2, zpow_two_add, zpow_two_add e1, zpow_two_add e2]
    push_cast
    rw [add_mul, ← mul_assoc, ← mul_assoc, scaled_real n1 m1 (min_le_left _ _), scaled_real n2 m2 (min_le_right _ _)]
    ring
  unfold addFin
  dsimp only
  generalize scaled n1 m1 e1 (min e1 e2) + scaled n2 m2 e2 (min e1 e2) = r at hr
  by_cases hz : r = 0
  · have hsum : numOf x + numOf y = 0 := by
      rw [hz, Int.cast_zero, zero_mul] at hr
      exact_mod_cast hr.symm
    rw [if_pos hz]
    cases h1 with
    | zero n1 e1 =>
      cases h2 with
      | zero n2 e2 => simp only [beq_self_eq_true, Bool.and_true]; exact .zero _ _
      | num hm hy => exact absurd (by simpa [numOf] using hsum) (num_ne_zero hm hy)
    | num hm1 hy1 =>
      have hb : (m1 == 0) = false := by simpa using hm1
      cases h2 with
      | zero n2 e2 => exact absurd (by simpa [numOf] using hsum) (num_ne_zero hm1 hy1)
      | num hm2 hy2 =>
        simp only [numOf] at hsum
        rw [hb, Bool.and_false, Bool.false_and, sumX, exactI, if_pos hsum]
        exact .zero _ _
  · have hne : numOf x + numOf y ≠ 0 := fun h => by
      rw [← Int.cast_add, h, Int.cast_zero, mul_eq_zero] at hr
      exact hr.elim (fun h => hz (by exact_mod_cast h)) (two_zpow_pos _).ne'
    rw [if_neg hz]
    have hm := means_scaled hz (y := numOf x + numOf y) (e := min e1 e2) (by rw [hr]; push_cast; rfl)
    cases h1 with
    | zero n1 e1 =>
      cases h2 with
      | zero n2 e2 => exact absurd rfl hne
      | num hm2 hy2 => simpa only [numOf, zero_add, sumX] using hm
    | num hm1 hy1 =>
      cases h2 with
      | zero n2 e2 => simpa only [numOf, add_zero, sumX] using hm
      | num hm2 hy2 =>
        simp only [numOf] at hne hm
        rw [sumX, exactI, if_neg hne]; exact hm

theorem addFin_isNaN (n1 : Bool) (m1 : Nat) (e1 : Int) (n2 : Bool) (m2 : Nat) (e2 : Int) : (addFin n1 m1 e1 n2 m2 e2).isNaN = false := by
  unfold addFin; dsimp only; split <;> rfl
theorem gives_addFin {n1 n2 : Bool} {m1 m2 : Nat} {e1 e2 : Int} {x y : Exact} (h1 : Means (.fin n1 m1 e1) x) (h2 : Means (.fin n2 m2 e2) y) :
    Gives (addV (.fin n1 m1 e1) (.fin n2 m2 e2)) (sumX x y) := .val (means_addFin h1 h2) (addFin_isNaN _ _ _ _ _ _)

theorem gives_addV {a b : Val} {x y : Exact} (ha : Means a x) (hb : Means b y) : Gives (addV a b) (sumX x y) := by
  cases ha with
  | nan i =>
    cases hb with
    | nan j => exact .nan (i || j)
    | inf _ => simpa [addV, sumX, Val.isSig] using Gives.nan i
    | zero _ _ => simpa [addV, sumX, Val.isSig] using Gives.nan i
    | num _ _ => simpa [addV, sumX, Val.isSig] using Gives.nan i
  | inf n =>
    cases hb with
    | nan j => simpa [addV, sumX, Val.isSig] using Gives.nan j
    | inf k =>
      unfold addV sumX
      dsimp only
      split
      · exact .val (.inf n) rfl
      · exact .nan true
    | zero k e => exact .val (.inf n) rfl
    | num hm hy => exact .val (.inf n) rfl
  | zero n e =>
    cases hb with
    | nan j => simpa [addV, sumX, Val.isSig] using Gives.nan j
    | inf k => exact .val (.inf k) rfl
    | zero k e' => exact gives_addFin (.zero n e) (.zero k e')
    | num hm hy => exact gives_addFin (.zero n e) (.num hm hy)
  | num hm hy =>
    cases hb with
    | nan j => simpa [addV, sumX, Val.isSig] using Gives.nan j
    | inf k => exact .val (.inf k) rfl
    | zero k e' => exact gives_addFin (.num hm hy) (.zero k e')
    | num hm' hy' => exact gives_addFin (.num hm hy) (.num hm' hy')

/-! ## Products -/

theorem means_mul {n1 n2 : Bool} {m1 m2 : Nat} {e1 e2 y1 y2 : Int} (h1 : Means (.fin n1 m1 e1) (.num y1)) (h2 : Means (.fin n2 m2 e2) (.num y2))
    (hd1 : (2 : Int) ^ 400 ∣ y1) (hd2 : (2 : Int) ^ 400 ∣ y2) : Means (.fin (n1 != n2) (m1 * m2) (e1 + e2)) (.num (y1 * y2 / 2 ^ 800)) := by
  have hdvd : (2 : Int) ^ 800 ∣ y1 * y2 := by
    rw [show (800 : Nat) = 400 + 400 from rfl, pow_add]; exact mul_dvd_mul hd1 hd2
  have hr1 := means_fin_real h1
  have hr2 := means_fin_real h2
  cases h1 with
  | num hm1 _ =>
    cases h2 with
    | num hm2 _ =>
      refine .num (Nat.mul_ne_zero hm1 hm2) ?_
      have h800 : (2 : ℝ) ^ (e1 + 800) * 2 ^ (e2 + 800) / 2 ^ (800 : Nat) = 2 ^ (e1 + e2 + 800) := by
        rw [← zpow_natCast, ← zpow_two_add, ← zpow_sub₀ two_ne_zero]; congr 1; push_cast; ring
      rw [Int.cast_div hdvd (by positivity), ← h800]
      simp only [numOf] at hr1 hr2
      push_cast
      rw [hr1, hr2]
      cases n1 <;> cases n2 <;> simp <;> ring

theorem negOf_of_means {v : Val} {x : Exact} (h : Means v x) (hn : v.isNaN = false) : negOf x = v.sign := by
  cases h with
  | nan i => cases hn
  | inf n => rfl
  | zero n e => rfl
  | num hm hy => exact num_neg_iff hm hy

theorem gives_mulV {a b : Val} {x y : Exact} (ha : Means a x) (hb : Means b y) (hd1 : (2 : Int) ^ 400 ∣ numOf x) (hd2 : (2 : Int) ^ 400 ∣ numOf y) :
    Gives (mulV a b) (mulX x y) := by
  have hz {m : Nat} (h : m ≠ 0) : (m == 0) = false := by simpa using h
  cases ha with
  | nan i =>
    cases hb with
    | nan j => exact .nan (i || j)
    | inf _ => simpa [mulV, mulX, Val.isSig] using Gives.nan i
    | zero _ _ => simpa [mulV, mulX, Val.isSig] using Gives.nan i
    | num _ _ => simpa [mulV, mulX, Val.isSig] using Gives.nan i
  | inf n =>
    cases hb with
    | nan j => simpa [mulV, mulX, Val.isSig] using Gives.nan j
    | inf k => exact .val (.inf _) rfl
    | zero k e => exact .nan true
    | num hm hy =>
      simp only [mulV, mulX, Val.isZero, hz hm, Bool.false_eq_true, if_false, negOf, num_neg_iff hm hy]
      exact .val (.inf _) rfl
  | zero n e =>
    cases hb with
    | nan j => simpa [mulV, mulX, Val.isSig] using Gives.nan j
    | inf k => exact .nan true
    | zero k e' => exact .val (.zero _ _) rfl
    | num hm hy =>
      simp only [mulV, mulX, Nat.zero_mul, negOf, num_neg_iff hm hy]
      exact .val (.zero _ _) rfl
  | num hm hy =>
    cases hb with
    | nan j => simpa [mulV, mulX, Val.isSig] using Gives.nan j
    | inf k =>
      simp only [mulV, mulX, Val.isZero, hz hm, Bool.false_eq_true, if_false, negOf, num_neg_iff hm hy]
      exact .val (.inf _) rfl
    | zero k e' =>
      simp only [mulV, mulX, Nat.mul_zero, negOf, num_neg_iff hm hy]
      exact .val (.zero _ _) rfl
    | num hm' hy' => exact .val (means_mul (.num hm hy) (.num hm' hy') hd1 hd2) rfl

/-- A value plus a result that has raised its own flag. -/
theorem gives_add_result {d : Val} {p : Val × Fl} {x y : Exact} (hd : Means d x) (hp : Gives p y) :
    Gives ((addV d p.1).1, p.2 ||| (addV d p.1).2) (sumX x y) := by
  cases hp with
  | nan i =>
    cases hd with
    | nan j => exact gives_nan_of (i := j || i) (by cases i <;> cases j <;> decide)
    | inf _ => exact gives_nan_of (i := i) (by simp [addV, Val.isSig])
    | zero _ _ => exact gives_nan_of (i := i) (by simp [addV, Val.isSig])
    | num _ _ => exact gives_nan_of (i := i) (by simp [addV, Val.isSig])
  | val h hn => simpa using gives_addV hd h

end Sys2Proof.Proofs

/-! Vector operations lane by lane (07 R164 to R167): the lanes of a result, the enabled lanes, and the writes that an operation queues. -/
namespace Sys2Proof.Proofs
open Sys2Proof Sys2Proof.Machine Sys2Proof.Claims

/-! ## Lanes -/

theorem laneN_eq_lane (x : Vec) (w i : Nat) : laneN x w i = lane x w i := by
  rw [laneN, laneBits, BitVec.extractLsb'_toNat, Nat.shiftRight_eq_div_pow, lane]
theorem laneN_lt (x : Vec) (w i : Nat) : laneN x w i < 2 ^ w := (laneBits x w i).isLt
theorem ty_width_pos (ty : Ty) : 0 < ty.width := by cases ty <;> decide
theorem ty_lanes (ty : Ty) : ty.width * (2048 / ty.width) = 2048 := by cases ty <;> rfl

theorem testBit_packN_above {w n b : Nat} (f : Nat → Nat) (h : w * n ≤ b) : (packN w f n).testBit b = false :=
  Nat.testBit_lt_two_pow ((packN_lt w f n).trans_le (Nat.pow_le_pow_right two_pos h))
theorem laneN_ofLanes {w n k : Nat} (f : Nat → Nat) (hn : w * n ≤ 2048) (hk : k < n) (hf : f k < 2 ^ w) : laneN (ofLanes w n f) w k = f k := by
  refine Nat.eq_of_testBit_eq fun b => ?_
  by_cases hb : b < w
  · have hlt : w * k + b < 2048 := by
      have : w * (k + 1) ≤ w * n := Nat.mul_le_mul_left w hk
      rw [Nat.mul_succ] at this; omega
    rw [laneN, BitVec.testBit_toNat, laneBits, BitVec.getLsbD_extractLsb', decide_eq_true hb, Bool.true_and, ofLanes, BitVec.getLsbD_ofNat,
      decide_eq_true hlt, Bool.true_and, testBit_packN f hb hk]
  · have hp : 2 ^ w ≤ 2 ^ b := Nat.pow_le_pow_right two_pos (Nat.not_lt.mp hb)
    rw [Nat.testBit_lt_two_pow ((laneN_lt _ _ _).trans_le hp), Nat.testBit_lt_two_pow (hf.trans_le hp)]
theorem laneN_ofLanes_above {w n k : Nat} (f : Nat → Nat) (hk : n ≤ k) : laneN (ofLanes w n f) w k = 0 := by
  refine Nat.eq_of_testBit_eq fun b => ?_
  rw [Nat.zero_testBit, laneN, BitVec.testBit_toNat, laneBits, BitVec.getLsbD_extractLsb', ofLanes, BitVec.getLsbD_ofNat,
    testBit_packN_above f ((Nat.mul_le_mul_left w hk).trans (Nat.le_add_right _ _)), Bool.and_false, Bool.and_false]

/-! ## Enabled lanes and their flags (07 R165) -/

theorem laneOn_eq_anyOn (q : Mask) (w i : Nat) : laneOn q w i = anyOn q w i := by
  rw [Bool.eq_iff_iff, laneOn, decide_eq_true_iff, anyOn, List.any_eq_true]
  constructor
  · intro h
    obtain ⟨j, hj⟩ := Nat.exists_testBit_of_ne_zero h
    rw [Nat.testBit_mod_two_pow, Bool.and_eq_true, decide_eq_true_iff, Nat.testBit_div_two_pow] at hj
    exact ⟨j, List.mem_range.mpr hj.1, by rw [BitVec.getLsbD, Nat.add_comm]; exact hj.2⟩
  · rintro ⟨j, hj, hb⟩ h0
    have : (q.toNat / 2 ^ (w / 8 * i) % 2 ^ (w / 8)).testBit j = true := by
      rw [Nat.testBit_mod_two_pow, Bool.and_eq_true, decide_eq_true_iff, Nat.testBit_div_two_pow]
      exact ⟨List.mem_range.mp hj, by rw [Nat.add_comm]; exact hb⟩
    rw [h0, Nat.zero_testBit] at this
    cases this

theorem laneFl_eq_laneFlags (m : Mask) (w : Nat) (r : Nat → Nat × Fl) (n : Nat) : laneFl m w r n = laneFlags m w (fun k => (r k).2) n := by
  induction n with
  | zero => rfl
  | succ n ih =>
    show laneFl m w r n ||| _ = allFlags _ n ||| _
    rw [ih, laneOn_eq_anyOn]; rfl
theorem allFlags_congr {f g : Nat → BitVec 6} {n : Nat} (h : ∀ k, k < n → f k = g k) : allFlags f n = allFlags g n := by
  induction n with
  | zero => rfl
  | succ n ih => rw [allFlags, allFlags, ih fun k hk => h k (Nat.lt_succ_of_lt hk), h n (Nat.lt_succ_self n)]
theorem allFlags_eq_zero {f : Nat → BitVec 6} {n : Nat} (h : ∀ k, k < n → f k = 0#6) : allFlags f n = 0#6 := by
  rw [allFlags_congr h]
  induction n with
  | zero => rfl
  | succ n ih => rw [allFlags, ih fun k hk => h k (Nat.lt_succ_of_lt hk)]; rfl
theorem allFlags_above {f : Nat → BitVec 6} {n : Nat} (d : Nat) (h : ∀ k, n ≤ k → f k = 0#6) : allFlags f (n + d) = allFlags f n := by
  induction d with
  | zero => rfl
  | succ d ih => rw [← Nat.add_assoc, allFlags, ih, h _ (Nat.le_add_right n d), BitVec.or_zero]
theorem getLsbD_allFlags {f : Nat → BitVec 6} {n k b : Nat} (hk : k < n) (h : (f k).getLsbD b = true) : (allFlags f n).getLsbD b = true := by
  induction n with
  | zero => omega
  | succ n ih =>
    rw [allFlags, BitVec.getLsbD_or, Bool.or_eq_true]
    rcases Nat.lt_succ_iff_lt_or_eq.mp hk with h1 | rfl
    · exact .inl (ih h1)
    · exact .inr h

/-! ## The queued writes -/

theorem scV_eq_vsc (u : VSlot) : scV u = vsc u := by cases u <;> rfl
theorem postLanes_eq_queue (s : State) (u : VSlot) (lat : Nat) (d : BitVec 6) (m : Mask) (w n : Nat) (r : Nat → Nat × Fl) :
    s.postLanes u lat d m w n r =
      queue s ((lat, vsc u, .v d.toNat m (ofLanes w n fun i => (r i).1)) :: toF (vsc u) lat (laneFlags m w (fun i => (r i).2) n)) := by
  rw [State.postLanes, postV_eq_queue, postF_eq_queue, laneFl_eq_laneFlags, scV_eq_vsc, ← queue_append]; rfl
/-- What an operation lane by lane queues. -/
theorem opLanes_eq_queue {g : Guard} {s : State} (h : s.guard g = true) (u : VSlot) (d : BitVec 6) (q : BitVec 4) (w lat : Nat)
    (r : State → Nat → Nat × Fl) : opLanes g u d q w lat r s = .next (queue s ((lat, vsc u, .v d.toNat (s.qv q)
      (ofLanes w (2048 / w) fun i => (r s i).1)) :: toF (vsc u) lat (laneFlags (s.qv q) w (fun i => (r s i).2) (2048 / w)))) := by
  rw [opLanes, slotOp_true _ h, postLanes_eq_queue]; rfl

/-- Where each lane's result stands in a relation, the operation writes a vector whose lanes do, with the flags of the enabled ones. -/
theorem opLanes_gives {g : Guard} {s : State} (h : s.guard g = true) (u : VSlot) (d : BitVec 6) (q : BitVec 4) (ty : Ty) (lat : Nat)
    {r : State → Nat → Nat × Fl} {R : Nat → Nat → BitVec 6 → Prop}
    (hr : ∀ k, k < 2048 / ty.width → R k (r s k).1 (r s k).2 ∧ (r s k).1 < 2 ^ ty.width) :
    ∃ x fs, (∀ k, k < 2048 / ty.width → R k (laneN x ty.width k) (fs k)) ∧
      opLanes g u d q ty.width lat r s = .next (queue s ((lat, vsc u, .v d.toNat (s.qv q) x) ::
        toF (vsc u) lat (laneFlags (s.qv q) ty.width fs (2048 / ty.width)))) := by
  refine ⟨_, fun i => (r s i).2, fun k hk => ?_, opLanes_eq_queue h u d q ty.width lat r⟩
  rw [laneN_ofLanes _ (ty_lanes ty).le hk (hr k hk).2]
  exact (hr k hk).1

end Sys2Proof.Proofs

/-! The arithmetic group, `vscale` and `vtwosum` (07 R171, R174, R177): every lane rounds its exact value once. -/
namespace Sys2Proof.Proofs
open Sys2Proof Sys2Proof.Machine Sys2Proof.Claims

/-! ## One rounding of an exact result -/

theorem isFloat_of_isF {ty : Ty} (h : ty.isF = true) : Ty.isFloat ty = true := by cases ty <;> cases h <;> rfl
theorem roundWith_eq (ty : Ty) (mode : RMode) (r : Val × Fl) :
    roundWith ty mode r = ((roundTo ty mode 0 r.1).1, r.2 ||| (roundTo ty mode 0 r.1).2) := rfl
theorem rounds_nan {ty : Ty} (h : Ty.isFloat ty = true) (mode : RMode) (thr : Nat) (i : Bool) :
    Rounds ty mode thr (.nan i) (Ty.canonNaN ty) (if i then IV else 0#6) := by
  have := roundTo_rounds ty mode (Nat.zero_le 256) (Means.nan i)
  rw [roundTo_nan mode 0 h] at this
  unfold Rounds at this ⊢
  exact this
theorem roundWith_rounds {ty : Ty} (hty : Ty.isFloat ty = true) (mode : RMode) {r : Val × Fl} {x : Exact} (h : Gives r x) :
    Rounds ty mode 0 x (roundWith ty mode r).1 (roundWith ty mode r).2 := by
  rw [roundWith_eq]
  cases h with
  | nan i =>
    rw [roundTo_nan mode 0 hty]
    simpa using rounds_nan hty mode 0 i
  | val h hn => simpa using roundTo_rounds ty mode (Nat.zero_le 256) h
theorem roundWith_lt (ty : Ty) (mode : RMode) (r : Val × Fl) : (roundWith ty mode r).1 < 2 ^ ty.width := roundTo_lt ty mode 0 r.1

theorem means_lane (ty : Ty) (x : Vec) (k : Nat) : Means (valueOf ty (lane x ty.width k)) (exactOf ty (laneN x ty.width k)) := by
  rw [laneN_eq_lane]; exact valueOf_means ty (by rw [← laneN_eq_lane]; exact laneN_lt _ _ _)

/-! ## Fused operations and scaling -/

theorem dvd_exactOf {ty : Ty} (h : Ty.isFloat ty = true) (n : Nat) : (2 : Int) ^ 400 ∣ numOf (exactOf ty n) := by
  have hp : ty ≠ .p2s8 := by rintro rfl; cases h
  have hl : 400 ≤ leastAt ty := by cases ty <;> cases h <;> decide
  rw [exactOf, if_neg hp, if_pos h]
  by_cases h1 : magCode ty n = 0
  · rw [if_pos h1]; exact dvd_zero _
  rw [if_neg h1]
  by_cases h2 : magCode ty n ≤ Ty.maxFin ty
  · rw [if_pos h2]
    have : (2 : Int) ^ 400 ∣ ((codeVal ty (magCode ty n) * 2 ^ leastAt ty : Nat) : Int) := by
      push_cast; exact (pow_dvd_pow 2 hl).mul_left _
    unfold numOf signed
    cases negCode ty n
    · exact this
    · exact (Int.dvd_neg).mpr this
  · rw [if_neg h2]; split <;> exact dvd_zero _

theorem mulV_neg (a b : Val) : mulV a.neg b = ((mulV a b).1.neg, (mulV a b).2) := by
  cases a <;> cases b <;> simp only [mulV, Val.neg, Val.sign, Val.isZero, Val.isSig] <;> first | rfl | skip
  · simp
  · by_cases hm : (‹Nat› == 0) = true <;> simp [hm]
  · by_cases hm : (‹Nat› == 0) = true <;> simp [hm]
  · simp

theorem gives_fmaV {d a b : Val} {z x y : Exact} (hd : Means d z) (h : Gives (mulV a b) (mulX x y)) : Gives (fmaV d a b) (sumX z (mulX x y)) :=
  gives_add_result hd h
theorem gives_fmaV_neg {d a b : Val} {z x y : Exact} (hd : Means d z) (h : Gives (mulV a b) (mulX x y)) :
    Gives (fmaV d a.neg b) (sumX z (negX (mulX x y))) := by
  have := gives_add_result hd (gives_neg h)
  rw [← mulV_neg] at this
  exact this

theorem scaleLane_rounds {ty : Ty} (hty : Ty.isFloat ty = true) {n e : Nat} (hn : n < 2 ^ ty.width) (he : e < 256) (inv : Bool) :
    Rounds ty .rne 0 (if e = 255 then .nan true else scaleX (if inv then 127 - (e : Int) else (e : Int) - 127) (exactOf ty n))
      (scaleLane ty n e inv).1 (scaleLane ty n e inv).2 := by
  unfold scaleLane
  by_cases h : e = 255
  · rw [if_pos h, if_pos h]; exact rounds_nan hty .rne 0 true
  · rw [if_neg h, if_neg h]
    exact roundTo_rounds ty .rne (Nat.zero_le 256) (means_scaleBy (valueOf_means ty hn) (by cases inv <;> simp <;> omega) (dvd_exactOf hty n))
theorem scaleLane_lt (ty : Ty) (n e : Nat) (inv : Bool) : (scaleLane ty n e inv).1 < 2 ^ ty.width := by
  unfold scaleLane
  split
  · cases ty <;> decide
  · exact roundTo_lt _ _ _ _

/-! ## The arithmetic group -/

section
variable {g : Guard} {s : State} (h : s.guard g = true) {ty : Ty} (hty : ty.isF = true)
include h hty

theorem opArith_rounds (u : VSlot) (d a b : BitVec 6) (q : BitVec 4) (rz : Bool) (lat : Nat) {e : Val → Val → Val → Val × Fl} {E : Nat → Exact}
    (hE : ∀ {va vb vd : Val} {k : Nat}, Means va (exactOf ty (laneN (s.vv a) ty.width k)) → Means vb (exactOf ty (laneN (s.vv b) ty.width k)) →
      Means vd (exactOf ty (laneN (s.vv d) ty.width k)) → Gives (e va vb vd) (E k)) :
    ∃ x fs, (∀ k, k < 2048 / ty.width → Rounds ty (if rz then .rtz else .rne) 0 (E k) (laneN x ty.width k) (fs k)) ∧
      opArith g u d a b q ty rz lat e s = .next (queue s ((lat, vsc u, .v d.toNat (s.qv q) x) ::
        toF (vsc u) lat (laneFlags (s.qv q) ty.width fs (2048 / ty.width)))) :=
  opLanes_gives h u d q ty lat fun _ _ =>
    ⟨roundWith_rounds (isFloat_of_isF hty) _ (hE (means_lane ty _ _) (means_lane ty _ _) (means_lane ty _ _)), roundWith_lt _ _ _⟩
end

section
variable (g : Guard) (u : VSlot) (d a b : BitVec 6) (q : BitVec 4) (ty : Ty) (rz : Bool) (s : State)
theorem exec_vadd : exec (.vadd g u d a b q ty rz) s = opArith g u d a b q ty rz 3 (fun a b _ => addV a b) s := rfl
theorem exec_vsub : exec (.vsub g u d a b q ty rz) s = opArith g u d a b q ty rz 3 (fun a b _ => addV a b.neg) s := rfl
theorem exec_vmul : exec (.vmul g u d a b q ty rz) s = opArith g u d a b q ty rz 5 (fun a b _ => mulV a b) s := rfl
theorem exec_vfma : exec (.vfma g u d a b q ty rz) s = opArith g u d a b q ty rz 5 (fun a b d => fmaV d a b) s := rfl
theorem exec_vfms : exec (.vfms g u d a b q ty rz) s = opArith g u d a b q ty rz 5 (fun a b d => fmaV d a.neg b) s := rfl
theorem exec_vfnma : exec (.vfnma g u d a b q ty rz) s = opArith g u d a b q ty rz 5 (fun a b d => ((fmaV d a b).1.neg, (fmaV d a b).2)) s := rfl
theorem exec_vscale : exec (.vscale g u d a b q ty rz) s = opLanes g u d q ty.width 3
    (fun s i => scaleLane ty (lane (s.vv a) ty.width i) (lane (s.vv b) 8 (i / 32)) rz) s := rfl
end

theorem arithmetic_rounds {i : Instr} {s : State} {g : Guard} {sc lat : Nat} {d : BitVec 6} {q : BitVec 4} {ty : Ty} {rz : Bool} {e : Nat → Exact}
    (hi : arithOf s i = some (g, sc, lat, d, q, ty, rz, e)) (hwf : i.wf = true) (h : s.guard g = true) :
    ∃ x fs, (∀ k, k < 2048 / ty.width → Rounds ty (if rz then .rtz else .rne) 0 (e k) (laneN x ty.width k) (fs k)) ∧
      exec i s = .next (queue s ((lat, sc, .v d.toNat (s.qv q) x) ::
        toF sc lat (laneFlags (s.qv q) ty.width fs (2048 / ty.width)))) := by
  have hdvd {ty : Ty} (hF : ty.isF = true) (r : BitVec 6) (k : Nat) := dvd_exactOf (isFloat_of_isF hF) (laneN (s.vv r) ty.width k)
  unfold arithOf at hi
  split at hi <;> cases hi
  case h_1 =>
    rw [exec_vadd]
    exact opArith_rounds h hwf _ _ _ _ _ _ _ fun ha hb _ => gives_addV ha hb
  case h_2 =>
    rw [exec_vsub]
    exact opArith_rounds h hwf _ _ _ _ _ _ _ fun ha hb _ => gives_addV ha (means_neg hb)
  case h_3 =>
    rw [exec_vmul]
    exact opArith_rounds h hwf _ _ _ _ _ _ _ fun ha hb _ => gives_mulV ha hb (hdvd hwf _ _) (hdvd hwf _ _)
  case h_4 =>
    rw [exec_vfma]
    exact opArith_rounds h hwf _ _ _ _ _ _ _ fun ha hb hd => gives_fmaV hd (gives_mulV ha hb (hdvd hwf _ _) (hdvd hwf _ _))
  case h_5 =>
    rw [exec_vfms]
    exact opArith_rounds h hwf _ _ _ _ _ _ _ fun ha hb hd => gives_fmaV_neg hd (gives_mulV ha hb (hdvd hwf _ _) (hdvd hwf _ _))
  case h_6 =>
    rw [exec_vfnma]
    exact opArith_rounds h hwf _ _ _ _ _ _ _ fun ha hb hd => gives_neg (gives_fmaV hd (gives_mulV ha hb (hdvd hwf _ _) (hdvd hwf _ _)))
  case h_7 =>
    rw [exec_vscale]
    refine opLanes_gives (g := g) h _ d q ty 3 fun k _ => ⟨?_, scaleLane_lt _ _ _ _⟩
    rw [← laneN_eq_lane, ← laneN_eq_lane]
    exact scaleLane_rounds (isFloat_of_isF hwf) (laneN_lt _ _ _) (laneN_lt _ 8 _) _

/-! ## Sum and error (07 R174) -/

theorem numOf_exactI (x : Int) : numOf (exactI x) = x := by
  unfold exactI; split
  · next h => rw [h]; rfl
  · rfl
theorem isNaN_of_isFin {v : Val} (h : v.isFin = true) : v.isNaN = false := by
  cases v <;> first | rfl | cases h
theorem means_of_gives {r : Val × Fl} {x : Exact} (h : Gives r x) (hn : r.1.isNaN = false) : Means r.1 x := by
  cases h with
  | nan i => cases hn
  | val h hn => exact h
/-- What is left of a finite value when another is taken away. -/
theorem means_error {v w : Val} {x y : Exact} (hv : Means v x) (hw : Means w y) (hvf : v.isFin = true) (hwf : w.isFin = true) :
    ∃ z, Means (addV v w.neg).1 z ∧ (addV v w.neg).1.isFin = true ∧ numOf z = numOf x - numOf y := by
  cases v with
  | nan _ => cases hvf
  | inf _ => cases hvf
  | fin n m e =>
    cases w with
    | nan _ => cases hwf
    | inf _ => cases hwf
    | fin n' m' e' =>
      have hm := means_addFin hv (means_neg hw)
      refine ⟨_, hm, ?_, ?_⟩
      · show (addFin n m e (!n') m' e').isFin = true
        unfold addFin; dsimp only; split <;> rfl
      · cases hv <;> cases hw <;> simp only [negX, sumX, numOf_exactI] <;> simp [numOf, sub_eq_add_neg]
theorem isZero_iff {v : Val} {x : Exact} (h : Means v x) (hf : v.isFin = true) : v.isZero = true ↔ numOf x = 0 := by
  cases h with
  | nan _ => cases hf
  | inf _ => cases hf
  | zero n e => simp [Val.isZero, numOf]
  | num hm hy => simp [Val.isZero, numOf, hm, num_ne_zero hm hy]
theorem eq_num_of_ne {v : Val} {x : Exact} (h : Means v x) (h0 : numOf x ≠ 0) : x = .num (numOf x) := by
  cases h <;> first | exact absurd rfl h0 | rfl

/-- Only a finite value rounds to a finite code of a type with infinities. -/
theorem isFin_of_rounded {ty : Ty} (hty : ty.isF = true) {v : Val} (h : (valueOf ty (roundTo ty .rne 0 v).1).isFin = true) : v.isFin = true := by
  have hf := isFloat_of_isF hty
  cases v with
  | nan i =>
    rw [roundTo_nan .rne 0 hf] at h
    have : (valueOf ty (Ty.canonNaN ty)).isFin = false := by cases ty <;> cases hty <;> decide
    exact absurd (this.symm.trans h) (by decide)
  | inf n =>
    rw [roundTo_inf .rne 0 hf, if_neg (by decide), if_neg (by rintro rfl; cases hty)] at h
    have : (valueOf ty (signBit ty n + Ty.infCode ty)).isFin = false := by cases ty <;> cases hty <;> cases n <;> decide
    exact absurd (this.symm.trans h) (by decide)
  | fin n m e => rfl

/-- The error that a code leaves of a value that is finite where the code is. -/
theorem errorOf_sub {ty : Ty} {v : Val} {x : Exact} {c : Nat} (hc : Means (valueOf ty c) (exactOf ty c))
    (hv : (valueOf ty c).isFin = true → v.isFin = true ∧ Means v x) :
    ErrorOf ty x c (if (valueOf ty c).isNaN then Ty.canonNaN ty else if (valueOf ty c).isInf then 0
      else if (addV v (valueOf ty c).neg).1.isZero then 0 else (roundNE ty (addV v (valueOf ty c).neg).1).1) := by
  have fin (hf : (valueOf ty c).isFin = true) :
      if numOf x = numOf (exactOf ty c) then (if (addV v (valueOf ty c).neg).1.isZero then 0 else (roundNE ty (addV v (valueOf ty c).neg).1).1) = 0
      else ∃ f, Rounds ty .rne 0 (.num (numOf x - numOf (exactOf ty c)))
        (if (addV v (valueOf ty c).neg).1.isZero then 0 else (roundNE ty (addV v (valueOf ty c).neg).1).1) f := by
    obtain ⟨hvf, hm⟩ := hv hf
    obtain ⟨z, hz, hzf, hnum⟩ := means_error hm hc hvf hf
    have hiff : (addV v (valueOf ty c).neg).1.isZero = true ↔ numOf x = numOf (exactOf ty c) := by rw [isZero_iff hz hzf, hnum, sub_eq_zero]
    by_cases h : numOf x = numOf (exactOf ty c)
    · rw [if_pos h, if_pos (hiff.mpr h)]
    · rw [if_neg h, if_neg (mt hiff.mp h)]
      have hz0 : numOf z ≠ 0 := by rw [hnum]; exact sub_ne_zero.mpr h
      rw [← hnum, ← eq_num_of_ne hz hz0]
      exact ⟨_, roundTo_rounds ty .rne (Nat.zero_le 256) hz⟩
  unfold ErrorOf
  generalize hw : valueOf ty c = w at hc fin ⊢
  generalize exactOf ty c = y at hc fin ⊢
  cases hc with
  | nan i => rfl
  | inf n => rfl
  | zero n e => exact fin rfl
  | num hm hy => exact fin rfl

theorem twoSum_rounds {ty : Ty} (hty : ty.isF = true) {a b : Val} {x y : Exact} (ha : Means a x) (hb : Means b y) :
    Rounds ty .rne 0 (sumX x y) (twoSum ty a b).1.1 (twoSum ty a b).1.2 ∧ ErrorOf ty (sumX x y) (twoSum ty a b).1.1 (twoSum ty a b).2 := by
  have hg := gives_addV ha hb
  refine ⟨roundWith_rounds (isFloat_of_isF hty) .rne hg, errorOf_sub (v := (addV a b).1) (valueOf_means ty (roundWith_lt ty .rne _)) fun h => ?_⟩
  have hfin := isFin_of_rounded hty h
  exact ⟨hfin, means_of_gives hg (isNaN_of_isFin hfin)⟩
theorem twoSum_lt {ty : Ty} (a b : Val) : (twoSum ty a b).1.1 < 2 ^ ty.width ∧ (twoSum ty a b).2 < 2 ^ ty.width := by
  refine ⟨roundWith_lt ty .rne _, ?_⟩
  unfold twoSum
  dsimp only
  split
  · cases ty <;> decide
  split
  · exact Nat.two_pow_pos _
  split
  · exact Nat.two_pow_pos _
  · exact roundTo_lt _ _ _ _

theorem exec_vtwosum {s : State} {g : Guard} (h : s.guard g = true) (u : VSlot) (d a b : BitVec 6) (q : BitVec 4) (ty : Ty) {r : Nat → (Nat × Fl) × Nat}
    (hr : r = fun k => twoSum ty (valueOf ty (lane (s.vv a) ty.width k)) (valueOf ty (lane (s.vv b) ty.width k))) :
    exec (.vtwosum g u d a b q ty) s = .next (queue s ((4, vsc u, .v d.toNat (s.qv q) (ofLanes ty.width (2048 / ty.width) fun k => (r k).1.1)) ::
      (toF (vsc u) 4 (laneFlags (s.qv q) ty.width (fun k => (r k).1.2) (2048 / ty.width)) ++
        [(4, vsc u, .v (d + 1).toNat (s.qv q) (ofLanes ty.width (2048 / ty.width) fun k => (r k).2))]))) := by
  show execVtwosum g u d a b q ty s = _
  rw [execVtwosum, slotOp_true _ h, hr]
  dsimp only
  rw [postLanes_eq_queue, postV_eq_queue, scV_eq_vsc, ← queue_append]; rfl

theorem vtwosum_rounds {s : State} {g : Guard} (h : s.guard g = true) (u : VSlot) (d a b : BitVec 6) (q : BitVec 4) {ty : Ty} (hty : ty.isF = true) :
    ∃ x y fs, (∀ k, k < 2048 / ty.width →
        let e := sumX (exactOf ty (laneN (s.vv a) ty.width k)) (exactOf ty (laneN (s.vv b) ty.width k))
        Rounds ty .rne 0 e (laneN x ty.width k) (fs k) ∧ ErrorOf ty e (laneN x ty.width k) (laneN y ty.width k)) ∧
      exec (.vtwosum g u d a b q ty) s = .next (queue s ((4, vsc u, .v d.toNat (s.qv q) x) ::
        (toF (vsc u) 4 (laneFlags (s.qv q) ty.width fs (2048 / ty.width)) ++ [(4, vsc u, .v (d + 1).toNat (s.qv q) y)]))) := by
  refine ⟨_, _, _, fun k hk => ?_, exec_vtwosum h u d a b q ty rfl⟩
  rw [laneN_ofLanes _ (ty_lanes ty).le hk (twoSum_lt _ _).1, laneN_ofLanes _ (ty_lanes ty).le hk (twoSum_lt _ _).2]
  exact twoSum_rounds hty (means_lane ty _ _) (means_lane ty _ _)

end Sys2Proof.Proofs

/-! Conversion (03 R84, R85, 07 R178, R179): one rounding of each lane in its mode, and the residual of error feedback. -/
namespace Sys2Proof.Proofs
open Sys2Proof Sys2Proof.Machine Sys2Proof.Claims

/-! ## Thresholds (03 R85) -/

theorem carding_eq (y x : Nat) : carding y x = cardAt y x := by
  show _ + _ + _ + _ = 0 + _ + _ + _ + _
  simp only [Nat.zero_add]
theorem carding_le (y x : Nat) : carding y x ≤ 256 := by
  have hb : ∀ a b : Nat, 2 * ((a + b % 2) % 2) + b % 2 ≤ 3 := by omega
  have ht (k : Nat) : (2 * ((x / 2 ^ k % 2 + y / 2 ^ k % 2) % 2) + y / 2 ^ k % 2) * 4 ^ (3 - k) ≤ 3 * 4 ^ (3 - k) :=
    Nat.mul_le_mul_right _ (hb _ _)
  have h0 := ht 0
  have h1 := ht 1
  have h2 := ht 2
  have h3 := ht 3
  unfold carding
  dsimp only
  omega

/-! ## Error feedback (03 R84) -/

theorem roundAt_ef (thr m : Nat) (e q : Int) : roundAt .ef thr m e q = roundAt .rne thr m e q := rfl
theorem roundMag_ef (ty : Ty) (thr m : Nat) (e : Int) : roundMag ty .ef thr m e = roundMag ty .rne thr m e := by
  unfold roundMag
  dsimp only
  rw [roundAt_ef]
  split
  · by_cases he : ty = .e4m3 <;> simp [he]
  · rfl
/-- Error feedback rounds to nearest even (03 Table 3-6). -/
theorem roundTo_ef (ty : Ty) (thr : Nat) (v : Val) : roundTo ty .ef thr v = roundTo ty .rne thr v := by
  by_cases hf : Ty.isFloat ty = true
  · cases v with
    | nan i => rw [roundTo_nan _ _ hf, roundTo_nan _ _ hf]
    | inf n => rw [roundTo_inf _ _ hf, roundTo_inf _ _ hf]; rfl
    | fin n m e =>
      by_cases hm : m = 0
      · rw [hm, roundTo_zero _ _ hf, roundTo_zero _ _ hf]
      · rw [roundTo_fin _ _ hf n hm, roundTo_fin _ _ hf n hm, roundMag_ef]
  · cases ty <;> first | exact absurd rfl hf | rfl

theorem isFin_canonNaN {ty : Ty} (h : Ty.isFloat ty = true) : (valueOf ty (Ty.canonNaN ty)).isFin = false := by cases ty <;> cases h <;> decide
theorem isFin_infCode {ty : Ty} (h : Ty.isFloat ty = true) (he : ty ≠ .e4m3) (n : Bool) : (valueOf ty (signBit ty n + Ty.infCode ty)).isFin = false := by
  cases ty <;> cases h <;> cases n <;> first | exact absurd rfl he | rfl
/-- A NaN gives the value of Table 3-7, and IV where it signals. -/
theorem rounds_nan_or (ty : Ty) (mode : RMode) (thr : Nat) {i j : Bool} (h : j = true → i = true) :
    Rounds ty mode thr (.nan i) (roundTo ty mode thr (.nan j)).1 ((roundTo ty mode thr (.nan j)).2 ||| if i then IV else 0#6) := by
  by_cases hf : Ty.isFloat ty = true
  · have hor : ((if j then IV else 0#6) ||| if i then IV else 0#6) = if i then IV else 0#6 := by
      cases i <;> cases j <;> first | exact absurd (h rfl) Bool.false_ne_true | decide
    rw [roundTo_nan mode thr hf, hor]; exact rounds_nan hf mode thr i
  · have hor : (IV ||| if i then IV else 0#6) = IV := by cases i <;> decide
    unfold Rounds
    cases ty <;> first | exact absurd rfl hf | exact ⟨rfl, hor⟩

/-! ## Error feedback (03 R84) -/

/-- A residual is a finite value, of a number. -/
def Leaves (v : Val) (r : Int) : Prop := v.isFin = true ∧ ∃ z, Means v z ∧ numOf z = r
theorem leaves_zero : Leaves (.fin false 0 0) 0 := ⟨rfl, .zero false, .zero false 0, rfl⟩

/-- What a lane rounds under error feedback. -/
def fedVal (x res : Val) : Val := if res.isZero then x else (addV x res).1
def fed (x : Exact) (r : Int) : Exact := if r = 0 then x else sumX x (.num r)

theorem fed_nan (i : Bool) (r : Int) : fed (.nan i) r = .nan i := by unfold fed; split <;> rfl
theorem fedVal_nan (i : Bool) {res : Val} (h : res.isFin = true) : ∃ j, fedVal (.nan i) res = .nan j ∧ (j = true → i = true) := by
  unfold fedVal
  split
  · exact ⟨i, rfl, id⟩
  · cases res <;> cases h; exact ⟨false, rfl, fun h => nomatch h⟩
theorem addV_isNaN {v res : Val} (hv : v.isNaN = false) (hr : res.isFin = true) : (addV v res).1.isNaN = false := by
  cases res <;> cases hr
  cases v with
  | nan i => cases hv
  | inf n => rfl
  | fin n m e => exact addFin_isNaN _ _ _ _ _ _
theorem fed_means {v res : Val} {x : Exact} {r : Int} (hv : Means v x) (hn : v.isNaN = false) (hr : Leaves res r) : Means (fedVal v res) (fed x r) := by
  obtain ⟨hf, z, hz, rfl⟩ := hr
  have h0 := isZero_iff hz hf
  unfold fedVal fed
  by_cases h : numOf z = 0
  · rw [if_pos (h0.mpr h), if_pos h]; exact hv
  · rw [if_neg (mt h0.mp h), if_neg h]
    rw [eq_num_of_ne hz h] at hz
    exact means_of_gives (gives_addV hv hz) (addV_isNaN hn hf)

/-- Does a lane leave no residual? -/
def lost (f : BitVec 6) : Bool := f.getLsbD 2 || f.getLsbD 0
theorem lost_iff (f : BitVec 6) : lost f = true ↔ (f &&& OF) ≠ 0#6 ∨ (f &&& IV) ≠ 0#6 := by
  revert f; decide
theorem lost_or (f g : BitVec 6) : lost (f ||| g) = (lost f || lost g) := by
  simp only [lost, BitVec.getLsbD_or]
  cases f.getLsbD 2 <;> cases f.getLsbD 0 <;> cases g.getLsbD 2 <;> cases g.getLsbD 0 <;> rfl

/-- A lane of error feedback: what it rounds, its code and flags, and the residual that it leaves. -/
theorem efLane_eq (ty : Ty) (x res : Val) : efLane ty x res =
    ((roundTo ty .rne 0 (fedVal x res)).1, (roundTo ty .rne 0 (fedVal x res)).2 ||| (if x.isSig then IV else 0#6),
      if (fedVal x res).isFin && !lost (roundTo ty .rne 0 (fedVal x res)).2 then
        (addV (fedVal x res) (valueOf ty (roundTo ty .rne 0 (fedVal x res)).1).neg).1 else .fin false 0 0) := by
  have h : ∀ f : Fl, decide ((f &&& OF) ≠ 0#6 ∨ (f &&& IV) ≠ 0#6) = lost f := fun f => by
    rw [Bool.eq_iff_iff, decide_eq_true_iff, lost_iff]
  unfold efLane
  simp only [h]
  rfl

/-- A code that has not overflowed is finite where the value that it rounds is. -/
theorem isFin_of_kept {ty : Ty} {n : Bool} {m : Nat} {e : Int} (h : lost (roundTo ty .rne 0 (.fin n m e)).2 = false) :
    (valueOf ty (roundTo ty .rne 0 (.fin n m e)).1).isFin = true := by
  by_cases hf : Ty.isFloat ty = true
  · have hlt := roundTo_lt ty .rne 0 (.fin n m e)
    have hmag : magCode ty (roundTo ty .rne 0 (.fin n m e)).1 ≤ Ty.maxFin ty := by
      have hs (b : Nat) (hb : b ≤ Ty.maxFin ty) : magCode ty (signBit ty n + b) = b := by
        rw [signBit_eq hf, magCode]
        cases ty <;> cases hf <;> cases n <;> simp [Ty.maxFin, Ty.width] at hb ⊢ <;> omega
      by_cases hm : m = 0
      · rw [hm, roundTo_zero _ _ hf]
        have := hs 0 (Nat.zero_le _)
        rw [Nat.add_zero] at this; rw [this]; exact Nat.zero_le _
      · rw [roundTo_fin _ _ hf n hm] at h ⊢
        have hle : (roundMag ty .rne 0 m e).1 ≤ Ty.maxFin ty := by
          unfold roundMag at h ⊢
          dsimp only at h ⊢
          split at h
          · exact absurd (show lost (OF ||| IX) = false from h) (by decide)
          · next hb => rw [if_neg hb]; split <;> exact Nat.not_lt.mp hb
        rw [hs _ hle]; exact hle
    have hv : valueOf ty (roundTo ty .rne 0 (.fin n m e)).1 = decodeFloat ty (roundTo ty .rne 0 (.fin n m e)).1 := by cases ty <;> cases hf <;> rfl
    rw [hv, decodeFloat_eq hf hlt, if_neg (Nat.not_lt.mpr hmag)]
    split <;> rfl
  · cases ty <;> first | exact absurd rfl hf | rfl

/-- A lane that leaves a residual from no finite value leaves none. -/
theorem numOf_of_not_fin {ty : Ty} {v : Val} (hv : v.isFin = false) (h : lost (roundTo ty .rne 0 v).2 = false) :
    numOf (exactOf ty (roundTo ty .rne 0 v).1) = 0 := by
  have hc := valueOf_means ty (roundTo_lt ty .rne 0 v)
  have hnf : (valueOf ty (roundTo ty .rne 0 v).1).isFin = false := by
    by_cases hf : Ty.isFloat ty = true
    · cases v with
      | nan i => rw [roundTo_nan _ _ hf]; exact isFin_canonNaN hf
      | inf n =>
        rw [roundTo_inf _ _ hf, if_neg (by decide)] at h ⊢
        by_cases he : ty = .e4m3
        · rw [if_pos he] at h; exact absurd h (by decide)
        · rw [if_neg he]; exact isFin_infCode hf he n
      | fin n m e => cases hv
    · have hl : lost IV ≠ false := by decide
      cases v with
      | nan i => cases ty <;> first | exact absurd rfl hf | exact absurd h hl
      | inf n => cases ty <;> first | exact absurd rfl hf | exact absurd h hl
      | fin n m e => cases hv
  generalize valueOf ty (roundTo ty .rne 0 v).1 = w at hc hnf
  generalize exactOf ty (roundTo ty .rne 0 v).1 = y at hc ⊢
  cases hc <;> first | rfl | cases hnf

/-- The residual after a lane: what its code leaves of a finite value, and 0 where the lane has overflowed. -/
theorem leaves_after {ty : Ty} {w : Val} {Y : Exact} {c : Nat} {lostIt : Bool} (hm : Means w Y) (hc : Means (valueOf ty c) (exactOf ty c))
    (hkept : w.isFin = true → lostIt = false → (valueOf ty c).isFin = true) (hnone : w.isFin = false → lostIt = false → numOf (exactOf ty c) = 0) :
    Leaves (if w.isFin && !lostIt then (addV w (valueOf ty c).neg).1 else .fin false 0 0) (if lostIt then 0 else numOf Y - numOf (exactOf ty c)) := by
  cases lostIt with
  | true => rw [if_pos rfl, if_neg (by simp)]; exact leaves_zero
  | false =>
    rw [if_neg Bool.false_ne_true, Bool.not_false, Bool.and_true]
    by_cases hf : w.isFin = true
    · rw [if_pos hf]
      obtain ⟨z, hz, hzf, hnum⟩ := means_error hm hc hf (hkept hf rfl)
      exact ⟨hzf, z, hz, hnum⟩
    · have hY : numOf Y = 0 := by cases hm <;> first | rfl | exact absurd rfl hf
      rw [if_neg hf, hnone (Bool.not_eq_true _ ▸ hf) rfl, hY]; exact leaves_zero

theorem efLane_nan (ty : Ty) (i : Bool) {res : Val} {r : Int} (hr : Leaves res r) :
    Rounds ty .ef 0 (fed (.nan i) r) (efLane ty (.nan i) res).1 (efLane ty (.nan i) res).2.1 ∧
      Leaves (efLane ty (.nan i) res).2.2 (if lost (efLane ty (.nan i) res).2.1 then 0
        else numOf (fed (.nan i) r) - numOf (exactOf ty (efLane ty (.nan i) res).1)) := by
  obtain ⟨j, hj, hji⟩ := fedVal_nan i hr.1
  rw [efLane_eq, fed_nan, hj]
  refine ⟨by rw [← roundTo_ef]; exact rounds_nan_or ty .ef 0 hji, ?_⟩
  have hz := numOf_of_not_fin (ty := ty) (v := .nan j) rfl
  generalize roundTo ty .rne 0 (.nan j) = o at hz ⊢
  have h0 : (if lost (o.2 ||| if (Val.nan i).isSig then IV else 0#6) then 0 else numOf (.nan i) - numOf (exactOf ty o.1)) = 0 := by
    by_cases h : lost (o.2 ||| if (Val.nan i).isSig then IV else 0#6) = true
    · rw [if_pos h]
    · rw [if_neg h]
      rw [lost_or, Bool.or_eq_true, not_or, Bool.not_eq_true] at h
      rw [hz h.1]; rfl
  dsimp only
  rw [h0]; exact leaves_zero

theorem efLane_rounds (ty : Ty) {x res : Val} {X : Exact} {r : Int} (hx : Means x X) (hr : Leaves res r) :
    Rounds ty .ef 0 (fed X r) (efLane ty x res).1 (efLane ty x res).2.1 ∧
      Leaves (efLane ty x res).2.2 (if lost (efLane ty x res).2.1 then 0 else numOf (fed X r) - numOf (exactOf ty (efLane ty x res).1)) := by
  by_cases hn : x.isNaN = true
  · cases hx <;> first | exact efLane_nan ty _ hr | cases hn
  · rw [Bool.not_eq_true] at hn
    have hm := fed_means hx hn hr
    have hsig : x.isSig = false := by cases x <;> first | rfl | cases hn
    rw [efLane_eq, hsig, if_neg Bool.false_ne_true, BitVec.or_zero]
    generalize fedVal x res = w at hm ⊢
    refine ⟨by rw [← roundTo_ef]; exact roundTo_rounds ty .ef (Nat.zero_le 256) hm, ?_⟩
    have hc := valueOf_means ty (roundTo_lt ty .rne 0 w)
    have hkept : w.isFin = true → lost (roundTo ty .rne 0 w).2 = false → (valueOf ty (roundTo ty .rne 0 w).1).isFin = true := fun hf hl => by
      cases w with
      | nan i => cases hf
      | inf n => cases hf
      | fin n m e => exact isFin_of_kept hl
    have hnone := numOf_of_not_fin (ty := ty) (v := w)
    dsimp only
    generalize roundTo ty .rne 0 w = o at hc hkept hnone ⊢
    exact leaves_after (c := o.1) (lostIt := lost o.2) hm hc hkept hnone

/-- The residual before each lane: 0 at the start of a block of 32, else what the last enabled lane left. -/
def residual (ty : Ty) (v : Nat → Val) (en : Nat → Bool) : Nat → Val
  | 0 => .fin false 0 0
  | k + 1 => if (k + 1) % 32 = 0 then .fin false 0 0 else if en k then (efLane ty (v k) (residual ty v en k)).2.2 else residual ty v en k
/-- The same as a number, from the codes and flags of the lanes. -/
def residualNum (ty : Ty) (x : Nat → Exact) (en : Nat → Bool) (c : Nat → Nat) (f : Nat → BitVec 6) : Nat → Int
  | 0 => 0
  | k + 1 => if (k + 1) % 32 = 0 then 0 else if en k = false then residualNum ty x en c f k
      else if lost (f k) then 0 else numOf (fed (x k) (residualNum ty x en c f k)) - numOf (exactOf ty (c k))

theorem efLanes_getD (ty : Ty) (v : Nat → Val) (en : Nat → Bool) (n : Nat) {i : Nat} {res : Val}
    (hres : (if i % 32 = 0 then .fin false 0 0 else res) = residual ty v en i) {j : Nat} (hj : j < n) :
    (efLanes ty i res ((List.range' i n).map fun k => (v k, en k))).getD j (0, 0#6) =
      if en (i + j) then ((efLane ty (v (i + j)) (residual ty v en (i + j))).1, (efLane ty (v (i + j)) (residual ty v en (i + j))).2.1) else (0, 0#6) := by
  induction n generalizing i res j with
  | zero => omega
  | succ n ih =>
    rw [List.range'_succ, List.map_cons, efLanes, hres]
    have hnext : residual ty v en (i + 1) = if (i + 1) % 32 = 0 then .fin false 0 0
        else if en i then (efLane ty (v i) (residual ty v en i)).2.2 else residual ty v en i := rfl
    cases j with
    | zero =>
      rw [Nat.add_zero]
      cases hen : en i <;> rfl
    | succ j =>
      rw [show i + (j + 1) = i + 1 + j by omega]
      cases hen : en i with
      | true =>
        rw [hen, if_pos rfl] at hnext
        exact ih hnext.symm (by omega)
      | false =>
        rw [hen, if_neg Bool.false_ne_true] at hnext
        exact ih hnext.symm (by omega)
theorem efLanes_length (ty : Ty) (xs : List (Val × Bool)) (i : Nat) (res : Val) : (efLanes ty i res xs).length = xs.length := by
  induction xs generalizing i res with
  | nil => rfl
  | cons x xs ih =>
    obtain ⟨x, en⟩ := x
    rw [efLanes]
    cases en
    · exact congrArg (· + 1) (ih _ _)
    · exact congrArg (· + 1) (ih _ _)

section
variable {ty : Ty} {n : Nat} {v : Nat → Val} {en : Nat → Bool} {x : Nat → Exact} {c : Nat → Nat} {f : Nat → BitVec 6}
  (hv : ∀ k, k < n → Means (v k) (x k))
  (hc : ∀ k, k < n → en k = true → c k = (efLane ty (v k) (residual ty v en k)).1 ∧ f k = (efLane ty (v k) (residual ty v en k)).2.1)
include hv hc

theorem residual_leaves {k : Nat} (hk : k < n) : Leaves (residual ty v en k) (residualNum ty x en c f k) := by
  induction k with
  | zero => exact leaves_zero
  | succ k ih =>
    have ih := ih (by omega)
    rw [residual, residualNum]
    by_cases h : (k + 1) % 32 = 0
    · rw [if_pos h, if_pos h]; exact leaves_zero
    rw [if_neg h, if_neg h]
    cases hen : en k with
    | false => rw [if_neg Bool.false_ne_true, if_pos rfl]; exact ih
    | true =>
      obtain ⟨h1, h2⟩ := hc k (by omega) hen
      rw [if_pos rfl, if_neg (by decide), h1, h2]
      exact (efLane_rounds ty (hv k (by omega)) ih).2

/-- Lanes of the error feedback chain are as the statement's chain has them. -/
theorem feeds_of_residual : Feeds ty n en x c f := by
  refine ⟨residualNum ty x en c f, fun k hk => ⟨fun h => ?_, fun hen => ?_, fun h => ?_⟩⟩
  · cases k with
    | zero => rfl
    | succ k => rw [residualNum, if_pos h]
  · obtain ⟨h1, h2⟩ := hc k hk hen
    rw [h1, h2]
    exact (efLane_rounds ty (hv k hk) (residual_leaves hv hc hk)).1
  · rw [residualNum, if_neg h]; rfl
end

/-! ## `vcvt` (07 R178, R179) -/

theorem cvtAll_length (dt st : Ty) (mode : RMode) (x : Vec) (m : Mask) (row : Nat) : (cvtAll dt st mode x m row).length = 2048 / max dt.width st.width := by
  cases mode <;> simp [cvtAll, efLanes_length, cvtLanes]
/-- A lane of a conversion without error feedback. -/
theorem cvtAll_getD {dt st : Ty} {mode : RMode} (hmode : mode ≠ .ef) (x : Vec) (m : Mask) (row : Nat) {k : Nat} (hk : k < 2048 / max dt.width st.width) :
    (cvtAll dt st mode x m row).getD k (0, 0#6) =
      roundTo dt mode (if mode = .dith then cardAt row (k % 16) else 0) (valueOf st (lane x st.width k)) := by
  rw [List.getD_eq_getElem _ _ (by rw [cvtAll_length]; exact hk)]
  cases mode <;> first | exact absurd rfl hmode | simp [cvtAll, carding_eq]
theorem cvtAll_above (dt st : Ty) (mode : RMode) (x : Vec) (m : Mask) (row : Nat) {k : Nat} (hk : 2048 / max dt.width st.width ≤ k) :
    (cvtAll dt st mode x m row).getD k (0, 0#6) = (0, 0#6) := List.getD_eq_default _ _ (by rw [cvtAll_length]; exact hk)

/-- A lane of a conversion with error feedback. -/
theorem cvtAll_ef_getD (dt st : Ty) (x : Vec) (m : Mask) (row : Nat) {k : Nat} (hk : k < 2048 / max dt.width st.width) {v : Nat → Val} {en : Nat → Bool}
    (hv : v = fun k => valueOf st (lane x st.width k)) (hen : en = fun k => laneOn m dt.width k) :
    (cvtAll dt st .ef x m row).getD k (0, 0#6) =
      if en k then ((efLane dt (v k) (residual dt v en k)).1, (efLane dt (v k) (residual dt v en k)).2.1) else (0, 0#6) := by
  have := efLanes_getD dt v en (2048 / max dt.width st.width) (i := 0) (res := .fin false 0 0) rfl hk
  rw [Nat.zero_add] at this
  rw [← this, hv, hen, ← List.range_eq_range']; rfl
theorem cvtAll_lt {dt st : Ty} {mode : RMode} (x : Vec) (m : Mask) (row k : Nat) : ((cvtAll dt st mode x m row).getD k (0, 0#6)).1 < 2 ^ dt.width := by
  by_cases hk : k < 2048 / max dt.width st.width
  · by_cases hmode : mode = .ef
    · subst hmode
      rw [cvtAll_ef_getD dt st x m row hk rfl rfl]
      split
      · rw [efLane_eq]; exact roundTo_lt _ _ _ _
      · exact Nat.two_pow_pos _
    · rw [cvtAll_getD hmode x m row hk]; exact roundTo_lt _ _ _ _
  · rw [cvtAll_above dt st mode x m row (Nat.not_lt.mp hk)]; exact Nat.two_pow_pos _

theorem exec_vcvt {s : State} {g : Guard} (h : s.guard g = true) (u : VSlot) (d a : BitVec 6) (q : BitVec 4) (dt st : Ty) (mode : RMode)
    {m : Mask} (hm : m = if mode = .dith then BitVec.allOnes 256 else s.qv q) {r : Nat → Nat × Fl}
    (hr : r = fun k => (cvtAll dt st mode (s.vv a) m ((s.sv (q.zeroExtend 6)).toNat % 16)).getD k (0, 0#6)) :
    exec (.vcvt g u d a q dt st mode) s = .next (queue s ((if mode = .ef then 8 else 4, vsc u, .v d.toNat m
      (ofLanes dt.width (2048 / dt.width) fun k => (r k).1)) ::
        toF (vsc u) (if mode = .ef then 8 else 4) (laneFlags m dt.width (fun k => (r k).2) (2048 / max dt.width st.width)))) := by
  have hn : 2048 / dt.width = 2048 / max dt.width st.width + (2048 / dt.width - 2048 / max dt.width st.width) := by
    have : 2048 / max dt.width st.width ≤ 2048 / dt.width := Nat.div_le_div_left (le_max_left _ _) (ty_width_pos dt)
    omega
  have hfl : laneFlags m dt.width (fun k => (r k).2) (2048 / dt.width) = laneFlags m dt.width (fun k => (r k).2) (2048 / max dt.width st.width) := by
    rw [laneFlags, hn]
    refine allFlags_above _ fun k hk => ?_
    rw [hr]
    simp only [cvtAll_above dt st mode _ _ _ hk, ite_self]
  show execVcvt g u d a q dt st mode s = _
  rw [execVcvt, slotOp_true _ h, ← hfl, hr, hm]
  dsimp only
  rw [postLanes_eq_queue]; rfl

theorem vcvt_rounds {s : State} {g : Guard} (h : s.guard g = true) (u : VSlot) (d a : BitVec 6) (q : BitVec 4) (dt st : Ty) (mode : RMode) :
    let n := 2048 / max dt.width st.width
    let lat := if mode = .ef then 8 else 4
    let m : Mask := if mode = .dith then BitVec.allOnes 256 else s.qv q
    ∃ x fs, (∀ k, n ≤ k → k < 2048 / dt.width → laneN x dt.width k = 0) ∧
      (mode = .ef → Feeds dt n (anyOn (s.qv q) dt.width) (fun k => exactOf st (laneN (s.vv a) st.width k)) (laneN x dt.width) fs) ∧
      (mode ≠ .ef → ∀ k, k < n → Rounds dt mode (if mode = .dith then cardAt ((s.sv (q.zeroExtend 6)).toNat % 16) (k % 16) else 0)
        (exactOf st (laneN (s.vv a) st.width k)) (laneN x dt.width k) (fs k)) ∧
      exec (.vcvt g u d a q dt st mode) s = .next (queue s ((lat, vsc u, .v d.toNat m x) :: toF (vsc u) lat (laneFlags m dt.width fs n))) := by
  intro n lat m
  have hn : n ≤ 2048 / dt.width := Nat.div_le_div_left (le_max_left _ _) (ty_width_pos dt)
  have hlane {k : Nat} (hk : k < 2048 / dt.width) := laneN_ofLanes (fun k => ((cvtAll dt st mode (s.vv a) m ((s.sv (q.zeroExtend 6)).toNat % 16)).getD k (0, 0#6)).1)
    (ty_lanes dt).le hk (cvtAll_lt _ _ _ _)
  refine ⟨_, _, fun k h1 h2 => ?_, fun hmode => ?_, fun hmode k hk => ?_, exec_vcvt h u d a q dt st mode rfl rfl⟩
  · rw [hlane h2, cvtAll_above dt st mode _ _ _ h1]
  · have hm : m = s.qv q := if_neg (by rw [hmode]; decide)
    refine feeds_of_residual (v := fun k => valueOf st (lane (s.vv a) st.width k)) (fun k _ => means_lane st _ _) fun k hk hen => ?_
    have hon : anyOn (s.qv q) dt.width = fun k => laneOn m dt.width k := by funext k; rw [hm, laneOn_eq_anyOn]
    rw [hlane (hk.trans_le hn)]
    subst hmode
    rw [cvtAll_ef_getD dt st (s.vv a) m _ hk rfl hon, if_pos hen]
    exact ⟨rfl, rfl⟩
  · rw [hlane (hk.trans_le hn), cvtAll_getD hmode _ _ _ hk]
    refine roundTo_rounds dt mode ?_ (means_lane st _ _)
    split
    · rw [← carding_eq]; exact carding_le _ _
    · exact Nat.zero_le _

end Sys2Proof.Proofs

/-! Exact sums and products (03 R82): a result that has an encoding is that encoding, and raises no flag. -/
namespace Sys2Proof.Proofs
open Sys2Proof Sys2Proof.Machine Sys2Proof.Claims

/-! ## Codes of exact values -/

theorem codeVal_strictMono (ty : Ty) : StrictMono (codeVal ty) := strictMono_nat_of_lt_succ (codeVal_lt_succ ty)

/-- Where the magnitude is a rung, every mode chooses that rung. -/
theorem chosen_exact {rung : Nat → Nat} (hr : StrictMono rung) {tieLow : Nat → Bool} {mode : RMode} {thr k m j : Nat} {order : Nat → Ordering}
    (ho : RealOrder ((512 * rung j : Nat) : ℝ) order) (h : Chosen rung tieLow mode thr order k m) : k = j ∧ m = j ∧ order (512 * rung k) = .eq := by
  obtain ⟨h1, h2, hm⟩ := h
  have hle : rung k ≤ rung j := by
    by_contra hlt
    exact h1 ((ho _).2.mpr (Nat.cast_lt.mpr (by omega)))
  have hgt : rung j < rung (k + 1) := by
    have := Nat.cast_lt.mp ((ho _).2.mp h2)
    omega
  have hk : k = j := Nat.le_antisymm (hr.le_iff_le.mp hle) (Nat.lt_succ_iff.mp (hr.lt_iff_lt.mp hgt))
  have heq : order (512 * rung k) = .eq := (realOrder_eq_iff ho _).mpr (by rw [hk])
  rw [if_pos heq] at hm
  exact ⟨hk, hm.trans hk, heq⟩

theorem rounds_of_code {ty : Ty} (hty : Ty.isFloat ty = true) {mode : RMode} {n c : Nat} {f : BitVec 6} {y : Int} (hn : n < 2 ^ ty.width)
    (hx : exactOf ty n = .num y) (h : Rounds ty mode 0 (.num y) c f) : c = n ∧ f = 0#6 := by
  have hp : ty ≠ .p2s8 := by rintro rfl; cases hty
  rw [exactOf, if_neg hp, if_pos hty] at hx
  by_cases h0 : magCode ty n = 0
  · rw [if_pos h0] at hx; cases hx
  rw [if_neg h0] at hx
  by_cases hle : magCode ty n ≤ Ty.maxFin ty
  · rw [if_pos hle, Exact.num.injEq] at hx
    have hpos : 0 < codeVal ty (magCode ty n) * 2 ^ leastAt ty :=
      Nat.mul_pos (Nat.zero_lt_of_lt ((codeVal_strictMono ty) (Nat.pos_of_ne_zero h0))) (Nat.two_pow_pos _)
    have habs : y.natAbs = codeVal ty (magCode ty n) * 2 ^ leastAt ty := by
      rw [← hx, signed]; split <;> omega
    have hneg : decide (y < 0) = negCode ty n := by
      rw [← hx, signed]
      cases negCode ty n
      · rw [decide_eq_false_iff_not, if_neg Bool.false_ne_true]; omega
      · rw [decide_eq_true_iff, if_pos rfl]; omega
    have ho := realOrder_compare (512 * y.natAbs)
    unfold Rounds at h
    rw [if_neg hp, if_pos hty] at h
    dsimp only at h
    generalize (fun t : Nat => compare t (512 * y.natAbs)) = order at ho h
    rw [habs] at ho
    rw [hneg] at h
    obtain ⟨k, m, hch, hc, hf⟩ := h
    have hmono : StrictMono fun k => codeVal ty k * 2 ^ leastAt ty := fun a b hab =>
      Nat.mul_lt_mul_of_pos_right (codeVal_strictMono ty hab) (Nat.two_pow_pos _)
    obtain ⟨-, hm, heq⟩ := chosen_exact hmono ho hch
    rw [hm, if_pos hle] at hc
    rw [hm, if_neg (Nat.not_lt.mpr hle), if_pos heq] at hf
    refine ⟨hc.trans ?_, hf⟩
    have hw : (2 : Nat) ^ ty.width = 2 ^ (ty.width - 1) + 2 ^ (ty.width - 1) := by
      rw [← Nat.two_mul, ← Nat.pow_succ', Nat.succ_eq_add_one, Nat.sub_add_cancel (ty_width_pos ty)]
    rw [negCode, magCode]
    by_cases hs : 2 ^ (ty.width - 1) ≤ n
    · rw [if_pos (decide_eq_true hs), Nat.mod_eq_sub_mod hs, Nat.mod_eq_of_lt (by omega)]; omega
    · rw [if_neg (by simpa using hs), Nat.mod_eq_of_lt (by omega), Nat.zero_add]
  · rw [if_neg hle] at hx
    split at hx <;> cases hx

/-! ## Exact sums and products -/

theorem valueOf_exp {ty : Ty} (hty : Ty.isFloat ty = true) {n : Nat} (hn : n < 2 ^ ty.width) {s : Bool} {m : Nat} {e : Int}
    (h : valueOf ty n = .fin s m e) : -149 ≤ e := by
  have hv : valueOf ty n = decodeFloat ty n := by cases ty <;> cases hty <;> rfl
  have hb : (-149 : Int) ≤ 1 - (Ty.bias ty : Int) - Ty.mbits ty := by cases ty <;> cases hty <;> decide
  rw [hv, decodeFloat_eq hty hn] at h
  split at h
  · split at h <;> cases h
  · split at h <;> cases h <;> omega

/-- A finite lane in units of 2^-400. -/
theorem numOf_exactOf {ty : Ty} (hty : Ty.isFloat ty = true) {n : Nat} (hn : n < 2 ^ ty.width) (hf : (valueOf ty n).isFin = true) :
    numOf (exactOf ty n) = units (valueOf ty n) * 2 ^ 400 := by
  have hm := valueOf_means ty hn
  have he := @valueOf_exp ty hty n hn
  generalize valueOf ty n = v at hm he hf
  cases v with
  | nan i => cases hf
  | inf i => cases hf
  | fin s m e =>
    have he := he rfl
    have hr := means_fin_real hm
    have h2 : (2 : ℝ) ^ (e + 800) = 2 ^ (e + 400).toNat * 2 ^ 400 := by
      rw [← zpow_natCast, ← zpow_natCast, Int.toNat_of_nonneg (by omega), ← zpow_two_add]; congr 1; push_cast; ring
    have : ((numOf (exactOf ty n) : Int) : ℝ) = ((units (.fin s m e) * 2 ^ 400 : Int) : ℝ) := by
      rw [hr, h2, units]; push_cast; cases s <;> simp <;> ring
    exact_mod_cast this
theorem means_isFin_cases {v : Val} {x : Exact} (h : Means v x) (hf : v.isFin = true) : (∃ n, x = .zero n) ∨ x = .num (numOf x) := by
  cases h with
  | nan _ => cases hf
  | inf _ => cases hf
  | zero n e => exact .inl ⟨n, rfl⟩
  | num _ _ => exact .inr rfl

theorem exact_sum {ty : Ty} (hty : Ty.isFloat ty = true) {a b c : Nat} (ha : a < 2 ^ ty.width) (hb : b < 2 ^ ty.width) (h : exactly ty false a b c) :
    sumX (exactOf ty a) (exactOf ty b) = exactOf ty c ∧ exactOf ty c = .num (numOf (exactOf ty c)) := by
  obtain ⟨hc, hfa, hfb, hfc, h0, hsum⟩ := h
  rw [if_neg Bool.false_ne_true] at hsum
  have hp : (2 : Int) ^ 400 ≠ 0 := pow_ne_zero _ two_ne_zero
  have hnum : numOf (exactOf ty a) + numOf (exactOf ty b) = numOf (exactOf ty c) := by
    rw [numOf_exactOf hty ha hfa, numOf_exactOf hty hb hfb, numOf_exactOf hty hc hfc, ← hsum, add_mul]
  have hne : numOf (exactOf ty c) ≠ 0 := by rw [numOf_exactOf hty hc hfc]; exact mul_ne_zero h0 hp
  have hcn := eq_num_of_ne (valueOf_means ty hc) hne
  refine ⟨?_, hcn⟩
  rw [hcn, ← hnum]
  rw [← hnum] at hne
  rcases means_isFin_cases (valueOf_means ty ha) hfa with ⟨i, hi⟩ | hi <;> rcases means_isFin_cases (valueOf_means ty hb) hfb with ⟨j, hj⟩ | hj
  · rw [hi, hj] at hne; exact absurd rfl hne
  · rw [hi, hj]; simp [sumX, numOf]
  · rw [hi, hj]; simp [sumX, numOf]
  · rw [hi, hj] at hne ⊢
    exact if_neg hne
theorem exact_product {ty : Ty} (hty : Ty.isFloat ty = true) {a b c : Nat} (ha : a < 2 ^ ty.width) (hb : b < 2 ^ ty.width) (h : exactly ty true a b c) :
    mulX (exactOf ty a) (exactOf ty b) = exactOf ty c ∧ exactOf ty c = .num (numOf (exactOf ty c)) := by
  obtain ⟨hc, hfa, hfb, hfc, h0, hmul⟩ := h
  rw [if_pos rfl] at hmul
  have hp : (2 : Int) ^ 400 ≠ 0 := pow_ne_zero _ two_ne_zero
  have hna := numOf_exactOf hty ha hfa
  have hnb := numOf_exactOf hty hb hfb
  have hnc := numOf_exactOf hty hc hfc
  have hcn := eq_num_of_ne (valueOf_means ty hc) (by rw [hnc]; exact mul_ne_zero h0 hp)
  have hu : units (valueOf ty a) * units (valueOf ty b) ≠ 0 := by rw [hmul]; exact mul_ne_zero h0 hp
  have han := eq_num_of_ne (valueOf_means ty ha) (by rw [hna]; exact mul_ne_zero (left_ne_zero_of_mul hu) hp)
  have hbn := eq_num_of_ne (valueOf_means ty hb) (by rw [hnb]; exact mul_ne_zero (right_ne_zero_of_mul hu) hp)
  refine ⟨?_, hcn⟩
  rw [han, hbn, hcn]
  show Exact.num (_ * _ / 2 ^ 800) = _
  have h800 : (2 : Int) ^ 800 = 2 ^ 400 * 2 ^ 400 := by rw [← pow_add]
  rw [hna, hnb, hnc, mul_mul_mul_comm, hmul, h800, Int.mul_ediv_cancel _ (mul_ne_zero hp hp)]

/-- Lanes that round exact values give the codes that these have, and no flag where every lane has one. -/
theorem exact_lanes {ty : Ty} (hty : Ty.isFloat ty = true) {mode : RMode} {E : Nat → Exact} {P : Nat → Nat → Prop} {n : Nat} {x : Vec} {fs : Nat → BitVec 6}
    (q : Mask) (hR : ∀ k, k < n → Rounds ty mode 0 (E k) (laneN x ty.width k) (fs k))
    (hP : ∀ k c, P k c → c < 2 ^ ty.width ∧ E k = exactOf ty c ∧ exactOf ty c = .num (numOf (exactOf ty c))) :
    (∀ k c, k < n → P k c → laneN x ty.width k = c) ∧ ((∀ k, k < n → ∃ c, P k c) → laneFlags q ty.width fs n = 0#6) := by
  have hone {k c : Nat} (hk : k < n) (h : P k c) : laneN x ty.width k = c ∧ fs k = 0#6 := by
    obtain ⟨hc, hE, hnum⟩ := hP k c h
    have := hR k hk
    rw [hE, hnum] at this
    exact rounds_of_code hty hc hnum this
  refine ⟨fun k c hk h => (hone hk h).1, fun h => allFlags_eq_zero fun k hk => ?_⟩
  obtain ⟨c, hc⟩ := h k hk
  rw [(hone hk hc).2, ite_self]

/-- Settles O23: the arithmetic group, `vscale`, `vtwosum` and `vcvt` round each lane's exact value once. -/
theorem exactResultsAreUnrounded : Obligations.ExactResultsAreUnrounded := by
  unfold Obligations.ExactResultsAreUnrounded
  refine ⟨fun i s g sc lat d q ty rz e hi hwf h => arithmetic_rounds hi hwf h, fun s g u d a b q ty h hty => vtwosum_rounds h u d a b q hty,
    fun s g u d a q dt st mode _ h => vcvt_rounds h u d a q dt st mode, fun s g u d a b q ty rz h hty => ⟨?_, ?_⟩⟩
  · obtain ⟨x, fs, hR, hx⟩ := arithmetic_rounds (i := .vadd g u d a b q ty rz) (s := s) rfl hty h
    exact ⟨x, _, hx, exact_lanes (isFloat_of_isF hty) _ hR fun k c hc => ⟨hc.1, exact_sum (isFloat_of_isF hty) (laneN_lt _ _ _) (laneN_lt _ _ _) hc⟩⟩
  · obtain ⟨x, fs, hR, hx⟩ := arithmetic_rounds (i := .vmul g u d a b q ty rz) (s := s) rfl hty h
    exact ⟨x, _, hx, exact_lanes (isFloat_of_isF hty) _ hR fun k c hc => ⟨hc.1, exact_product (isFloat_of_isF hty) (laneN_lt _ _ _) (laneN_lt _ _ _) hc⟩⟩

end Sys2Proof.Proofs

/-! NaN operands (03 R70, R71, 07 R172, R190): a float lane operation gives the canonical NaN, and a signalling one raises invalid. -/
namespace Sys2Proof.Proofs
open Sys2Proof Sys2Proof.Machine Sys2Proof.Claims

/-! ## NaNs of the model's exact results -/

/-- A result is a NaN where one of its operands is, and raises invalid where one of them is signalling. -/
def NaNResult (xs : List Val) (r : Val × Fl) : Prop :=
  (xs.any Val.isNaN = true → r.1.isNaN = true) ∧ (xs.any Val.isSig = true → r.2.getLsbD 0 = true)

theorem getLsbD_ite_IV (b : Bool) : (if b then IV else 0#6).getLsbD 0 = b := by cases b <;> rfl
theorem eq_nan_of_isNaN {v : Val} (h : v.isNaN = true) : ∃ i, v = .nan i := by
  cases v with
  | nan i => exact ⟨i, rfl⟩
  | inf n => cases h
  | fin n m e => cases h
theorem isNaN_of_isSig {v : Val} (h : v.isSig = true) : v.isNaN = true := by
  cases v with
  | nan i => rfl
  | inf n => cases h
  | fin n m e => cases h

/-- A function of two operands that keeps a NaN of either. -/
theorem nanResult_binary {f : Val → Val → Val × Fl} (h1 : ∀ i y, f (.nan i) y = (.nan false, if i || y.isSig then IV else 0#6))
    (h2 : ∀ x i, x.isNaN = false → f x (.nan i) = (.nan false, if i || x.isSig then IV else 0#6)) (x y : Val) : NaNResult [x, y] (f x y) := by
  simp only [NaNResult, List.any_cons, List.any_nil, Bool.or_false, Bool.or_eq_true]
  by_cases hx : x.isNaN = true
  · obtain ⟨i, rfl⟩ := eq_nan_of_isNaN hx
    rw [h1, getLsbD_ite_IV]
    exact ⟨fun _ => rfl, (Bool.or_eq_true _ _).mpr⟩
  by_cases hy : y.isNaN = true
  · obtain ⟨i, rfl⟩ := eq_nan_of_isNaN hy
    rw [h2 x i (Bool.eq_false_iff.mpr hx), getLsbD_ite_IV]
    exact ⟨fun _ => rfl, fun h => (Bool.or_eq_true _ _).mpr h.symm⟩
  · exact ⟨fun h => (h.elim hx hy).elim, fun h => (h.elim (fun h => hx (isNaN_of_isSig h)) fun h => hy (isNaN_of_isSig h)).elim⟩
/-- A function of one operand that keeps a NaN. -/
theorem nanResult_unary {f : Val → Val × Fl} (hf : ∀ i, f (.nan i) = (.nan false, if i then IV else 0#6)) (v : Val) : NaNResult [v] (f v) := by
  simp only [NaNResult, List.any_cons, List.any_nil, Bool.or_false]
  by_cases hv : v.isNaN = true
  · obtain ⟨i, rfl⟩ := eq_nan_of_isNaN hv
    rw [hf, getLsbD_ite_IV]
    exact ⟨fun _ => rfl, id⟩
  · exact ⟨fun h => (hv h).elim, fun h => (hv (isNaN_of_isSig h)).elim⟩

theorem nanResult_addV : ∀ a b : Val, NaNResult [a, b] (addV a b) :=
  nanResult_binary (fun _ _ => rfl) fun
    | .nan _, _, h => nomatch h
    | .inf _, _, _ => rfl
    | .fin _ _ _, _, _ => rfl
theorem nanResult_mulV : ∀ a b : Val, NaNResult [a, b] (mulV a b) :=
  nanResult_binary (fun _ _ => rfl) fun
    | .nan _, _, h => nomatch h
    | .inf _, _, _ => rfl
    | .fin _ _ _, _, _ => rfl
theorem nanResult_divV : ∀ a b : Val, NaNResult [a, b] (divV a b) :=
  nanResult_binary (fun _ _ => rfl) fun
    | .nan _, _, h => nomatch h
    | .inf _, _, _ => rfl
    | .fin _ _ _, _, _ => rfl
theorem nanResult_minMaxV (isMax : Bool) : ∀ a b : Val, NaNResult [a, b] (minMaxV isMax false a b) := by
  refine nanResult_binary (fun i y => ?_) fun x i _ => ?_
  · have hf : sigFl [.nan i, y] = if i || y.isSig then IV else 0#6 := by simp [sigFl, Val.isSig]
    cases y.isNaN <;> simp [minMaxV, hf, Val.isNaN]
  · have hf : sigFl [x, .nan i] = if i || x.isSig then IV else 0#6 := by simp [sigFl, Val.isSig, or_comm]
    simp [minMaxV, hf, Val.isNaN]
theorem nanResult_fmaV (d a b : Val) : NaNResult [a, b, d] (fmaV d a b) := by
  have hm := nanResult_mulV a b
  have ha := nanResult_addV d (mulV a b).1
  simp only [NaNResult, List.any_cons, List.any_nil, Bool.or_false, Bool.or_eq_true] at hm ha ⊢
  refine ⟨?_, ?_⟩
  · rintro (h | h | h)
    · exact ha.1 (.inr (hm.1 (.inl h)))
    · exact ha.1 (.inr (hm.1 (.inr h)))
    · exact ha.1 (.inl h)
  · show _ → BitVec.getLsbD (_ ||| _) 0 = true
    rw [BitVec.getLsbD_or, Bool.or_eq_true]
    rintro (h | h | h)
    · exact .inl (hm.2 (.inl h))
    · exact .inl (hm.2 (.inr h))
    · exact .inr (ha.2 (.inl h))

theorem isNaN_neg (v : Val) : v.neg.isNaN = v.isNaN := by cases v <;> rfl
theorem isSig_neg (v : Val) : v.neg.isSig = v.isSig := by cases v <;> rfl

/-! ## NaN encodings -/

/-- A NaN encoding of a type of set F, and whether it is signalling. -/
theorem valueOf_of_isNaNCode {ty : Ty} (h : ty.isF = true) {n : Nat} (hn : n < 2 ^ ty.width) (ht : isNaNCode ty n) :
    valueOf ty n = .nan (decide (n / 2 ^ (Ty.mbits ty - 1) % 2 = 0)) := by
  obtain ⟨h1, h2⟩ := ht
  have hv : valueOf ty n = decodeFloat ty n := by cases ty <;> cases h <;> rfl
  have hmag : Ty.maxFin ty < magCode ty n := by
    cases ty <;> cases h <;> simp only [magCode, Ty.maxFin, Ty.mbits, Ty.ebits, Ty.width] at hn h1 h2 ⊢ <;> omega
  have he : ty ≠ .e4m3 := by rintro rfl; cases h
  rw [hv, decodeFloat_eq (isFloat_of_isF h) hn, if_pos hmag, if_neg fun h => h2 h.2]
  simp only [ne_eq, he, not_false_eq_true, true_and]

/-! ## Lanes -/

/-- The lane of the result of a float operation whose sources are the lanes k of registers rs. -/
def NaNLane (s : State) (ty : Ty) (rs : List (BitVec 6)) (k c : Nat) (f : BitVec 6) : Prop :=
  ((∃ r ∈ rs, isNaNCode ty (laneN (s.vv r) ty.width k)) → c = Ty.canonNaN ty) ∧
  ((∃ r ∈ rs, isSigCode ty (laneN (s.vv r) ty.width k)) → f.getLsbD 0 = true)

theorem nanLane_of_nanResult {s : State} {ty : Ty} (h : ty.isF = true) {rs : List (BitVec 6)} {k : Nat} (mode : RMode) {r : Val × Fl}
    (hr : NaNResult (rs.map fun j => valueOf ty (lane (s.vv j) ty.width k)) r) :
    NaNLane s ty rs k (roundWith ty mode r).1 (roundWith ty mode r).2 := by
  obtain ⟨hnan, hsig⟩ := hr
  rw [List.any_map, List.any_eq_true] at hnan hsig
  rw [roundWith_eq]
  constructor
  · rintro ⟨j, hj, hn⟩
    have := hnan ⟨j, hj, by rw [Function.comp, ← laneN_eq_lane]; exact congrArg Val.isNaN (valueOf_of_isNaNCode h (laneN_lt _ _ _) hn)⟩
    obtain ⟨v, f⟩ := r
    cases v with
    | nan i => rw [roundTo_nan mode 0 (isFloat_of_isF h)]
    | inf n => cases this
    | fin n m e => cases this
  · rintro ⟨j, hj, hn⟩
    have := hsig ⟨j, hj, by rw [Function.comp, ← laneN_eq_lane]; exact (congrArg Val.isSig (valueOf_of_isNaNCode h (laneN_lt _ _ _) hn.1)).trans (decide_eq_true hn.2)⟩
    rw [BitVec.getLsbD_or, this, Bool.true_or]

/-- A lane that the predicate enables wholly or in part is one that raises its flags. -/
theorem anyOn_of_getLsbD {q : Mask} {ty : Ty} (h : ty.isF = true) {k : Nat} (hq : q.getLsbD (ty.width / 8 * k) = true) : anyOn q ty.width k = true := by
  rw [anyOn, List.any_eq_true]
  exact ⟨0, List.mem_range.mpr (by cases ty <;> cases h <;> decide), hq⟩

/-- What the statement asks of an operation that rounds a result of its lanes. -/
theorem canonical_of_nanResult {g : Guard} {s : State} (hg : s.guard g = true) {ty : Ty} (h : ty.isF = true) (u : VSlot) (d : BitVec 6) (q : BitVec 4)
    (lat : Nat) (rs : List (BitVec 6)) {mode : RMode} {r : State → Nat → Val × Fl}
    (hr : ∀ k, NaNResult (rs.map fun j => valueOf ty (lane (s.vv j) ty.width k)) (r s k)) :
    ∃ x fl, opLanes g u d q ty.width lat (fun s k => roundWith ty mode (r s k)) s =
        .next (queue s ((lat, vsc u, .v d.toNat (s.qv q) x) :: toF (vsc u) lat fl)) ∧
      ∀ k, k < 2048 / ty.width →
        ((∃ r ∈ rs, isNaNCode ty (laneN (s.vv r) ty.width k)) → laneN x ty.width k = Ty.canonNaN ty) ∧
        ((∃ r ∈ rs, isSigCode ty (laneN (s.vv r) ty.width k)) → (s.qv q).getLsbD (ty.width / 8 * k) = true → fl.getLsbD 0 = true) := by
  obtain ⟨x, fs, hx, he⟩ := opLanes_gives (g := g) hg u d q ty lat (r := fun s k => roundWith ty mode (r s k)) (R := NaNLane s ty rs)
    fun k _ => ⟨nanLane_of_nanResult h mode (hr k), roundWith_lt _ _ _⟩
  refine ⟨x, _, he, fun k hk => ⟨(hx k hk).1, fun hs hq => ?_⟩⟩
  refine getLsbD_allFlags hk ?_
  rw [if_pos (anyOn_of_getLsbD h hq)]
  exact (hx k hk).2 hs

section
variable (g : Guard) (d a b : BitVec 6) (q : BitVec 4) (s : State)
theorem exec_vmin (u : VSlot) (ty : Ty) (num : Bool) : exec (.vmin g u d a b q ty num) s = opLanes g u d q ty.width 3 (fun s i =>
    roundWith ty .rne (minMaxV false num (valueOf ty (lane (s.vv a) ty.width i)) (valueOf ty (lane (s.vv b) ty.width i)))) s := rfl
theorem exec_vmax (u : VSlot) (ty : Ty) (num : Bool) : exec (.vmax g u d a b q ty num) s = opLanes g u d q ty.width 3 (fun s i =>
    roundWith ty .rne (minMaxV true num (valueOf ty (lane (s.vv a) ty.width i)) (valueOf ty (lane (s.vv b) ty.width i)))) s := rfl
theorem exec_vrcp : exec (.vrcp g d a q) s = opSpecial g d a q 16 rcpV s := rfl
theorem exec_vrsq : exec (.vrsq g d a q) s = opSpecial g d a q 16 rsqV s := rfl
theorem exec_vexp2 : exec (.vexp2 g d a q) s = opSpecial g d a q 16 exp2V s := rfl
theorem exec_vlog2 : exec (.vlog2 g d a q) s = opSpecial g d a q 16 log2V s := rfl
theorem exec_vsqrt : exec (.vsqrt g d a q) s = opSpecial g d a q 20 sqrtV s := rfl
theorem exec_vdiv : exec (.vdiv g d a b q) s = opLanes g .vb d q 32 20 (fun s i =>
    roundWith .f32 .rne (divV (valueOf .f32 (lane (s.vv a) 32 i)) (valueOf .f32 (lane (s.vv b) 32 i)))) s := rfl
end

theorem canonical_special {g : Guard} {s : State} (hg : s.guard g = true) (d a : BitVec 6) (q : BitVec 4) (lat : Nat) {f : Val → Val × Fl}
    (hf : ∀ s, f (.nan s) = (.nan false, if s then IV else 0#6)) :
    ∃ x fl, opSpecial g d a q lat f s = .next (queue s ((lat, 3, .v d.toNat (s.qv q) x) :: toF 3 lat fl)) ∧
      ∀ k, k < 2048 / Ty.width .f32 →
        ((∃ r ∈ [a], isNaNCode .f32 (laneN (s.vv r) (Ty.width .f32) k)) → laneN x (Ty.width .f32) k = Ty.canonNaN .f32) ∧
        ((∃ r ∈ [a], isSigCode .f32 (laneN (s.vv r) (Ty.width .f32) k)) → (s.qv q).getLsbD (Ty.width .f32 / 8 * k) = true → fl.getLsbD 0 = true) :=
  canonical_of_nanResult hg (ty := .f32) rfl .vb d q lat [a] (r := fun s i => f (valueOf .f32 (lane (s.vv a) 32 i))) fun _ => nanResult_unary hf _

theorem nan_lanes_canonical {i : Instr} {s : State} {g : Guard} {sc lat : Nat} {d : BitVec 6} {q : BitVec 4} {ty : Ty} {rs : List (BitVec 6)}
    (hi : floatOp i = some (g, sc, lat, d, q, ty, rs)) (hwf : i.wf = true) (hg : s.guard g = true) :
    ∃ x fl, exec i s = .next (queue s ((lat, sc, .v d.toNat (s.qv q) x) :: toF sc lat fl)) ∧
      ∀ k, k < 2048 / ty.width →
        ((∃ r ∈ rs, isNaNCode ty (laneN (s.vv r) ty.width k)) → laneN x ty.width k = Ty.canonNaN ty) ∧
        ((∃ r ∈ rs, isSigCode ty (laneN (s.vv r) ty.width k)) → (s.qv q).getLsbD (ty.width / 8 * k) = true → fl.getLsbD 0 = true) := by
  unfold floatOp at hi
  split at hi <;> cases hi
  case h_1 => rw [exec_vadd]; exact canonical_of_nanResult hg hwf _ _ _ _ [_, _] fun _ => nanResult_addV _ _
  case h_2 a b _ =>
    rw [exec_vsub]
    refine canonical_of_nanResult hg hwf _ _ _ _ [_, _] fun k => ?_
    have := nanResult_addV (valueOf ty (lane (s.vv a) ty.width k)) (valueOf ty (lane (s.vv b) ty.width k)).neg
    simpa only [NaNResult, List.map_cons, List.map_nil, List.any_cons, isNaN_neg, isSig_neg] using this
  case h_3 => rw [exec_vmul]; exact canonical_of_nanResult hg hwf _ _ _ _ [_, _] fun _ => nanResult_mulV _ _
  case h_4 => rw [exec_vfma]; exact canonical_of_nanResult hg hwf _ _ _ _ [_, _, _] fun _ => nanResult_fmaV _ _ _
  case h_5 a b _ =>
    rw [exec_vfms]
    refine canonical_of_nanResult hg hwf _ _ _ _ [_, _, _] fun k => ?_
    have := nanResult_fmaV (valueOf ty (lane (s.vv d) ty.width k)) (valueOf ty (lane (s.vv a) ty.width k)).neg (valueOf ty (lane (s.vv b) ty.width k))
    simpa only [NaNResult, List.map_cons, List.map_nil, List.any_cons, isNaN_neg, isSig_neg] using this
  case h_6 =>
    rw [exec_vfnma]
    refine canonical_of_nanResult hg hwf _ _ _ _ [_, _, _] fun k => ?_
    obtain ⟨h1, h2⟩ := nanResult_fmaV (valueOf ty (lane (s.vv d) ty.width k)) (valueOf ty (lane (s.vv _) ty.width k)) (valueOf ty (lane (s.vv _) ty.width k))
    exact ⟨fun h => (isNaN_neg _).trans (h1 h), h2⟩
  case h_7 => rw [exec_vmin]; exact canonical_of_nanResult hg hwf _ _ _ _ [_, _] fun _ => nanResult_minMaxV _ _ _
  case h_8 => rw [exec_vmax]; exact canonical_of_nanResult hg hwf _ _ _ _ [_, _] fun _ => nanResult_minMaxV _ _ _
  case h_9 => rw [exec_vrcp]; exact canonical_special hg _ _ _ _ fun _ => rfl
  case h_10 => rw [exec_vrsq]; exact canonical_special hg _ _ _ _ fun _ => rfl
  case h_11 => rw [exec_vexp2]; exact canonical_special hg _ _ _ _ fun _ => rfl
  case h_12 => rw [exec_vlog2]; exact canonical_special hg _ _ _ _ fun _ => rfl
  case h_13 => rw [exec_vsqrt]; exact canonical_special hg _ _ _ _ fun _ => rfl
  case h_14 => rw [exec_vdiv]; exact canonical_of_nanResult hg (ty := .f32) rfl .vb _ _ _ [_, _] fun _ => nanResult_divV _ _

end Sys2Proof.Proofs

/-! Rounding a value that is known by a floor and a sticky bit (07 R190): it rounds as the exact value does. -/
namespace Sys2Proof.Proofs
open Sys2Proof Sys2Proof.Machine Sys2Proof.Claims

/-! ## What a rounding to nearest depends on -/

/-- The order of a real number decides every comparison. -/
theorem order_congr {v w : ℝ} {o o' : Nat → Ordering} (ho : RealOrder v o) (ho' : RealOrder w o') {t : Nat} (hlt : (t : ℝ) < v ↔ (t : ℝ) < w)
    (hgt : v < t ↔ w < t) : o t = o' t := by
  rw [← (ho t).1, ← (ho' t).1] at hlt
  rw [← (ho t).2, ← (ho' t).2] at hgt
  cases h : o t with
  | lt => exact (hlt.mp h).symm
  | gt => exact (hgt.mp h).symm
  | eq =>
    rw [h] at hlt hgt
    cases h' : o' t with
    | lt => exact absurd (hlt.mpr h') nofun
    | gt => exact absurd (hgt.mpr h') nofun
    | eq => rfl

section
variable {rung : Nat → Nat} {tieLow : Nat → Bool} {order : Nat → Ordering} {v : ℝ} {k m thr : Nat}

/-- The rung nearest to a magnitude is the number of halfway points below it; it is the magnitude where one is. -/
theorem chosen_iff_halves (hr : StrictMono rung) (ho : RealOrder v order) (h : Chosen rung tieLow .rne thr order k m) :
    (∀ j, j < m ↔ order (256 * (rung j + rung (j + 1))) = .lt ∨ order (256 * (rung j + rung (j + 1))) = .eq ∧ tieLow j = false) ∧
    (order (512 * rung k) = .eq ↔ order (512 * rung m) = .eq) := by
  obtain ⟨hlo, hhi, hm⟩ := h
  have hkv : ((512 * rung k : Nat) : ℝ) ≤ v := not_lt.mp (mt (ho _).2.mpr hlo)
  have hvk : v < ((512 * rung (k + 1) : Nat) : ℝ) := (ho _).2.mp hhi
  have hstep (j : Nat) : rung j < rung (j + 1) := hr (Nat.lt_succ_self j)
  have hbelow {j : Nat} (hj : j < k) : order (256 * (rung j + rung (j + 1))) = .lt := by
    refine (ho _).1.mpr (lt_of_lt_of_le (Nat.cast_lt.mpr ?_) hkv)
    have := hr.monotone (show j + 1 ≤ k from hj)
    have := hstep j
    omega
  have habove {j : Nat} (hj : k < j) : order (256 * (rung j + rung (j + 1))) = .gt := by
    refine (ho _).2.mpr (lt_trans hvk (Nat.cast_lt.mpr ?_))
    have := hr.monotone (show k + 1 ≤ j from hj)
    have := hstep j
    omega
  have hat : (k < m ↔ order (256 * (rung k + rung (k + 1))) = .lt ∨ order (256 * (rung k + rung (k + 1))) = .eq ∧ tieLow k = false) ∧
      (m = k ∨ m = k + 1) ∧ (order (512 * rung k) = .eq ↔ order (512 * rung m) = .eq) := by
    by_cases he : order (512 * rung k) = .eq
    · rw [if_pos he] at hm
      have hgt : order (256 * (rung k + rung (k + 1))) = .gt :=
        (ho _).2.mpr (by rw [← (realOrder_eq_iff ho _).mp he]; exact Nat.cast_lt.mpr (by have := hstep k; omega))
      rw [hm, hgt]
      exact ⟨by simp, .inl rfl, Iff.rfl⟩
    · rw [if_neg he] at hm
      dsimp only at hm
      cases hc : order (256 * (rung k + rung (k + 1))) with
      | gt => rw [hc] at hm; rw [hm]; simp
      | lt => rw [hc] at hm; rw [hm]; simp [he, hhi]
      | eq =>
        rw [hc] at hm
        cases ht : tieLow k <;> rw [ht] at hm <;> rw [hm] <;> simp [he, hhi]
  obtain ⟨hk, hmk, heq⟩ := hat
  refine ⟨fun j => ?_, heq⟩
  rcases lt_trichotomy j k with hj | rfl | hj
  · rw [hbelow hj]; simp; omega
  · exact hk
  · rw [habove hj]; simp; omega
end

/-- Rungs and halfway points of FP32, in units of 2^-809. -/
def rung32 (j : Nat) : Nat := 512 * (codeVal .f32 j * 2 ^ leastAt .f32)
def half32 (j : Nat) : Nat := 256 * (codeVal .f32 j * 2 ^ leastAt .f32 + codeVal .f32 (j + 1) * 2 ^ leastAt .f32)

theorem rungs_strictMono (ty : Ty) : StrictMono fun k => codeVal ty k * 2 ^ leastAt ty := fun _ _ hab =>
  Nat.mul_lt_mul_of_pos_right (codeVal_strictMono ty hab) (Nat.two_pow_pos _)

theorem exists_chosen {rung : Nat → Nat} (hr : StrictMono rung) (h0 : rung 0 = 0) (tieLow : Nat → Bool) {order : Nat → Ordering} {v : ℝ} (hv : 0 ≤ v)
    (ho : RealOrder v order) : ∃ k m, Chosen rung tieLow .rne 0 order k m := by
  have hN : (Nat.floor v : Nat) < rung (Nat.floor v + 1) := Nat.lt_of_lt_of_le (Nat.lt_succ_self _) hr.le_apply
  obtain ⟨k, -, h1, h2⟩ := exists_bracket (f := fun k => 512 * rung k) (n := Nat.floor v) (N := Nat.floor v + 1) (by simp [h0]) (by omega)
  refine ⟨k, _, ?_, ?_, rfl⟩
  · intro h
    exact absurd ((ho _).2.mp h) (not_lt.mpr ((Nat.le_floor_iff hv).mp h1))
  · exact (ho _).2.mpr ((Nat.floor_lt hv).mp h2)

/-- Two magnitudes on the same side of every halfway point of FP32 round to one code; where one is a rung so is the other, and the flags agree. -/
theorem floatRounds_of_halves {v w : ℝ} {order order' : Nat → Ordering} (hv : 0 ≤ v) (ho : RealOrder v order) (ho' : RealOrder w order')
    (hhalf : ∀ j, order (half32 j) = order' (half32 j)) (hrung : ∀ j, order (rung32 j) = .eq ↔ order' (rung32 j) = .eq) {neg : Bool} {c : Nat}
    {f : BitVec 6} (h : FloatRounds .f32 .rne 0 neg order' c f) : FloatRounds .f32 .rne 0 neg order c f := by
  obtain ⟨k', m', hc', rfl, rfl⟩ := h
  obtain ⟨k, m, hc⟩ := exists_chosen (rungs_strictMono .f32) (by rw [codeVal]; simp) (fun k => k % 2 == 0) hv ho
  obtain ⟨hm', he'⟩ := chosen_iff_halves (rungs_strictMono .f32) ho' hc'
  obtain ⟨hm, he⟩ := chosen_iff_halves (rungs_strictMono .f32) ho hc
  have hmm : m = m' := eq_of_forall_lt_iff fun j => by rw [hm, hm']; exact hhalf j ▸ Iff.rfl
  subst hmm
  refine ⟨k, m, hc, rfl, ?_⟩
  have : order' (512 * (codeVal .f32 k' * 2 ^ leastAt .f32)) = .eq ↔ order (512 * (codeVal .f32 k * 2 ^ leastAt .f32)) = .eq :=
    he'.trans ((hrung m).symm.trans he.symm)
  simp only [this]

/-! ## The points of FP32 -/

/-- Rungs and halfway points are multiples of a power of two by less than 2^25. -/
theorem points32 (j : Nat) : ∃ c b : Nat, c < 2 ^ 25 ∧ rung32 j = c * 2 ^ b ∧ ∃ c', c' < 2 ^ 25 ∧ half32 j = c' * 2 ^ b := by
  obtain ⟨a, lo, rfl, hlo, ha⟩ := code_split .f32 j
  have h1 := codeVal_add .f32 hlo.le ha
  have h2 := codeVal_add .f32 (lo := lo + 1) hlo (ha.imp_right fun h => h.trans (Nat.le_succ lo))
  replace hlo : lo < 2 ^ 24 := hlo
  refine ⟨2 * lo, 8 + a + leastAt .f32, by omega, ?_, 2 * lo + 1, by omega, ?_⟩
  · rw [rung32, h1, pow_add, pow_add]; generalize 2 ^ leastAt .f32 = L; ring
  · rw [half32, h1, Nat.add_assoc, h2, pow_add, pow_add]; generalize 2 ^ leastAt .f32 = L; ring

/-- No such point stands between two neighbouring multiples of a unit, the lower by 2^25 or more. -/
theorem point_gap {c b q : Nat} {z : Int} (hc : c < 2 ^ 25) (hq : 2 ^ 25 ≤ q) :
    ((c * 2 ^ b : Nat) : ℝ) ≤ q * 2 ^ z ∨ ((q : ℝ) + 1) * 2 ^ z ≤ ((c * 2 ^ b : Nat) : ℝ) := by
  have hz := two_zpow_pos z
  by_cases hbz : z ≤ b
  · have e : ((c * 2 ^ b : Nat) : ℝ) = ((c * 2 ^ ((b : Int) - z).toNat : Nat) : ℝ) * 2 ^ z := by
      push_cast
      rw [mul_assoc, ← zpow_natCast (2 : ℝ) ((b : Int) - z).toNat, Int.toNat_of_nonneg (by omega), ← zpow_two_add, sub_add_cancel, zpow_natCast]
    rw [e]
    rcases Nat.lt_or_ge q (c * 2 ^ ((b : Int) - z).toNat) with h | h
    · exact .inr (mul_le_mul_of_nonneg_right (by exact_mod_cast h) hz.le)
    · exact .inl (mul_le_mul_of_nonneg_right (Nat.cast_le.mpr h) hz.le)
  · left
    push_cast
    rw [← zpow_natCast]
    exact mul_le_mul (by exact_mod_cast (hc.le.trans hq)) (zpow_le_zpow_right₀ one_le_two (by omega)) (two_zpow_pos _).le (Nat.cast_nonneg q)

/-- Where two magnitudes lie strictly between the same such multiples, FP32 rounds them alike. -/
theorem order_between {v w : ℝ} {order order' : Nat → Ordering} (ho : RealOrder v order) (ho' : RealOrder w order') {c b q : Nat} {z : Int} (hc : c < 2 ^ 25)
    (hq : 2 ^ 25 ≤ q) (hv : (q : ℝ) * 2 ^ z < v ∧ v < (q + 1) * 2 ^ z) (hw : (q : ℝ) * 2 ^ z < w ∧ w < (q + 1) * 2 ^ z) :
    order (c * 2 ^ b) = order' (c * 2 ^ b) := by
  obtain ⟨hv1, hv2⟩ := hv
  obtain ⟨hw1, hw2⟩ := hw
  refine order_congr ho ho' ?_ ?_ <;> rcases point_gap (b := b) (z := z) hc hq with h | h
  · exact iff_of_true (by linarith) (by linarith)
  · exact iff_of_false (by linarith) (by linarith)
  · exact iff_of_false (by linarith) (by linarith)
  · exact iff_of_true (by linarith) (by linarith)

/-! ## A floor with a sticky half -/

/-- A magnitude v is q units of 2^z, or lies above it by less than one unit. -/
def FloorOf (v : ℝ) (q : Nat) (z : Int) (exact : Bool) : Prop :=
  if exact then v = q * 2 ^ z else (q : ℝ) * 2 ^ z < v ∧ v < (q + 1) * 2 ^ z

theorem stick_pos {q : Nat} (h : 2 ^ 25 ≤ q) (exact : Bool) : stick q exact ≠ 0 := by
  unfold stick; split <;> omega

theorem stick_value {q : Nat} {e : Int} (exact : Bool) :
    (stick q exact : ℝ) * 2 ^ (e + 809) = (q + if exact then 0 else 1 / 2) * 2 ^ (e + 810) := by
  have h2 : (2 : ℝ) ^ (e + 810) = 2 * 2 ^ (e + 809) := by rw [show e + 810 = 1 + (e + 809) by ring, zpow_two_add 1, zpow_one]
  rw [h2]
  cases exact <;> simp [stick] <;> ring

theorem floatRounds_of_stick {v : ℝ} {order : Nat → Ordering} (ho : RealOrder v order) {q : Nat} {e : Int} {exact : Bool} (hq : 2 ^ 25 ≤ q)
    (hv : FloorOf v q (e + 810) exact) {neg : Bool} {c : Nat} {f : BitVec 6}
    (h : FloatRounds .f32 .rne 0 neg (orderOf ((stick q exact : ℝ) * 2 ^ (e + 809))) c f) : FloatRounds .f32 .rne 0 neg order c f := by
  have hz := two_zpow_pos (e + 810)
  rw [stick_value] at h
  cases exact with
  | true =>
    replace hv : v = q * 2 ^ (e + 810) := hv
    rw [if_pos rfl, add_zero, ← hv] at h
    rwa [show orderOf v = order from funext fun t => order_congr (realOrder_orderOf v) ho Iff.rfl Iff.rfl] at h
  | false =>
    replace hv : (q : ℝ) * 2 ^ (e + 810) < v ∧ v < (q + 1) * 2 ^ (e + 810) := hv
    rw [if_neg Bool.false_ne_true] at h
    have hw : (q : ℝ) * 2 ^ (e + 810) < (q + 1 / 2) * 2 ^ (e + 810) ∧ ((q : ℝ) + 1 / 2) * 2 ^ (e + 810) < (q + 1) * 2 ^ (e + 810) :=
      ⟨mul_lt_mul_of_pos_right (by linarith) hz, mul_lt_mul_of_pos_right (by linarith) hz⟩
    have hv0 : 0 ≤ v := le_trans (mul_nonneg (Nat.cast_nonneg q) hz.le) hv.1.le
    refine floatRounds_of_halves hv0 ho (realOrder_orderOf _) (fun j => ?_) (fun j => ?_) h
    · obtain ⟨-, b, -, -, c, hc, hj⟩ := points32 j
      rw [hj]; exact order_between ho (realOrder_orderOf _) hc hq hv hw
    · obtain ⟨c, b, hc, hj, -⟩ := points32 j
      rw [hj, order_between ho (realOrder_orderOf _) hc hq hv hw]

/-- RoundTo of a nonzero number rounds its magnitude. -/
theorem roundTo_floatRounds {ty : Ty} (hty : Ty.isFloat ty = true) {m : Nat} (hm : m ≠ 0) (e : Int) (neg : Bool) {order : Nat → Ordering}
    (ho : RealOrder ((m : ℝ) * 2 ^ (e + 809)) order) :
    FloatRounds ty .rne 0 neg order (roundTo ty .rne 0 (.fin neg m e)).1 (roundTo ty .rne 0 (.fin neg m e)).2 := by
  rw [roundTo_fin .rne 0 hty neg hm e]
  exact roundMag_rounds hty .rne (Nat.zero_le 256) hm e neg ho

/-- RoundTo of a floor with a sticky half rounds the magnitude. -/
theorem stick_rounds {v : ℝ} {order : Nat → Ordering} (ho : RealOrder v order) {q : Nat} {e : Int} {exact : Bool} (hq : 2 ^ 25 ≤ q)
    (hv : FloorOf v q (e + 810) exact) (neg : Bool) :
    FloatRounds .f32 .rne 0 neg order (roundTo .f32 .rne 0 (.fin neg (stick q exact) e)).1 (roundTo .f32 .rne 0 (.fin neg (stick q exact) e)).2 :=
  floatRounds_of_stick ho hq hv (roundTo_floatRounds rfl (stick_pos hq exact) e neg (realOrder_orderOf _))

end Sys2Proof.Proofs

/-! Reciprocals, square roots and quotients (07 R190): floors with a sticky half. -/
namespace Sys2Proof.Proofs
open Sys2Proof Sys2Proof.Machine Sys2Proof.Claims

/-! ## Floors of quotients and roots -/

theorem floorOf_scaled {x : ℝ} {q : Nat} {exact : Bool} (z : Int) (h1 : exact = true → x = q) (h2 : exact = false → (q : ℝ) < x ∧ x < q + 1) :
    FloorOf (x * 2 ^ z) q z exact := by
  have hz := two_zpow_pos z
  cases exact with
  | true => exact congrArg (· * (2 : ℝ) ^ z) (h1 rfl)
  | false => exact ⟨mul_lt_mul_of_pos_right (h2 rfl).1 hz, mul_lt_mul_of_pos_right (h2 rfl).2 hz⟩

theorem floorOf_div (a : Nat) {m : Nat} (hm : 0 < m) (z : Int) : FloorOf ((a : ℝ) / m * 2 ^ z) (a / m) z (a % m == 0) := by
  have hm' : (0 : ℝ) < m := Nat.cast_pos.mpr hm
  have hdm : (m : ℝ) * (a / m : Nat) + (a % m : Nat) = a := by exact_mod_cast Nat.div_add_mod a m
  refine floorOf_scaled z (fun h => ?_) (fun h => ⟨?_, ?_⟩)
  · rw [beq_iff_eq] at h
    rw [h, Nat.cast_zero, add_zero] at hdm
    rw [div_eq_iff hm'.ne', ← hdm, mul_comm]
  · have : 0 < a % m := Nat.pos_of_ne_zero (by simpa using h)
    rw [lt_div_iff₀ hm', ← hdm, mul_comm]
    exact lt_add_of_pos_right _ (Nat.cast_pos.mpr this)
  · have : ((a % m : Nat) : ℝ) < m := Nat.cast_lt.mpr (Nat.mod_lt a hm)
    rw [div_lt_iff₀ hm', ← hdm, add_mul, one_mul, mul_comm (m : ℝ)]
    linarith

theorem isqrtGo_spec (n : Nat) : ∀ k r, r * r ≤ n → n < (r + 2 ^ k) * (r + 2 ^ k) →
    isqrtGo n k r * isqrtGo n k r ≤ n ∧ n < (isqrtGo n k r + 1) * (isqrtGo n k r + 1)
  | 0, r, h1, h2 => ⟨h1, h2⟩
  | k + 1, r, h1, h2 => by
    rw [isqrtGo]
    split
    · next h => exact isqrtGo_spec n k _ h (by rw [Nat.add_assoc, ← Nat.two_mul, ← Nat.pow_succ']; exact h2)
    · next h => exact isqrtGo_spec n k r h1 (Nat.lt_of_not_le h)
theorem isqrt_spec (n : Nat) : isqrt n * isqrt n ≤ n ∧ n < (isqrt n + 1) * (isqrt n + 1) := by
  refine isqrtGo_spec n _ 0 (Nat.zero_le n) ?_
  rw [Nat.zero_add, ← Nat.pow_add]
  exact Nat.lt_of_lt_of_le Nat.lt_log2_self (Nat.pow_le_pow_right two_pos (by omega))
theorem le_isqrt {n b : Nat} (h : b * b ≤ n) : b ≤ isqrt n := by
  by_contra hlt
  have := (isqrt_spec n).2
  have := Nat.mul_le_mul (show isqrt n + 1 ≤ b by omega) (show isqrt n + 1 ≤ b by omega)
  omega

/-- The floor of the root of N/m, by the root of the floor of N/m. -/
theorem floorOf_sqrt (N : Nat) {m : Nat} (hm : 0 < m) (z : Int) :
    FloorOf (√((N : ℝ) / m) * 2 ^ z) (isqrt (N / m)) z (isqrt (N / m) * isqrt (N / m) * m == N) := by
  obtain ⟨h1, h2⟩ := isqrt_spec (N / m)
  generalize isqrt (N / m) = r at h1 h2 ⊢
  have hm' : (0 : ℝ) < m := Nat.cast_pos.mpr hm
  have hr : (0 : ℝ) ≤ r := Nat.cast_nonneg r
  refine floorOf_scaled z (fun h => ?_) (fun h => ⟨?_, ?_⟩)
  · rw [beq_iff_eq] at h
    rw [← h]; push_cast
    rw [mul_div_assoc, div_self hm'.ne', mul_one, Real.sqrt_mul_self hr]
  · have hne : r * r * m ≠ N := by simpa using h
    have hle : r * r * m ≤ N := (Nat.le_div_iff_mul_le hm).mp h1
    refine Real.lt_sqrt_of_sq_lt ?_
    rw [lt_div_iff₀ hm', sq]
    exact_mod_cast Nat.lt_of_le_of_ne hle hne
  · have : N < (r + 1) * (r + 1) * m := (Nat.div_lt_iff_lt_mul hm).mp h2
    rw [Real.sqrt_lt' (by positivity), div_lt_iff₀ hm', sq]
    exact_mod_cast this

/-! ## Comparison with a quotient or a root -/

theorem realOrder_quotient (A : Nat) {B : Nat} (hB : 0 < B) : RealOrder ((A : ℝ) / B) fun t => compare (t * B) A := fun t => by
  have hB' : (0 : ℝ) < B := Nat.cast_pos.mpr hB
  rw [compare_lt_iff_lt, compare_gt_iff_gt, lt_div_iff₀ hB', div_lt_iff₀ hB', ← Nat.cast_lt (α := ℝ), ← Nat.cast_lt (α := ℝ), Nat.cast_mul]
  exact ⟨Iff.rfl, Iff.rfl⟩
theorem realOrder_root (A : Nat) {B : Nat} (hB : 0 < B) : RealOrder (√((A : ℝ) / B)) fun t => compare (t * t * B) A := fun t => by
  have hB' : (0 : ℝ) < B := Nat.cast_pos.mpr hB
  have ht : (0 : ℝ) ≤ t := Nat.cast_nonneg t
  rw [compare_lt_iff_lt, compare_gt_iff_gt, Real.lt_sqrt ht, Real.sqrt_lt (by positivity) ht, lt_div_iff₀ hB', div_lt_iff₀ hB',
    ← Nat.cast_lt (α := ℝ), ← Nat.cast_lt (α := ℝ), Nat.cast_mul, Nat.cast_mul, sq]
  exact ⟨Iff.rfl, Iff.rfl⟩

/-! ## The model's values round once -/

section
variable {order : Nat → Ordering} {m m1 m2 : Nat} {e e1 e2 : Int}

theorem divFin_rounds (n : Bool) (h1 : m1 ≠ 0) (h2 : m2 ≠ 0) (hm2 : m2 < 2 ^ 24) (ho : RealOrder ((m1 : ℝ) / m2 * 2 ^ (e1 - e2 + 809)) order) :
    FloatRounds .f32 .rne 0 n order (roundTo .f32 .rne 0 (divFin n m1 e1 m2 e2)).1 (roundTo .f32 .rne 0 (divFin n m1 e1 m2 e2)).2 := by
  unfold divFin
  refine stick_rounds ho ?_ ?_ n
  · refine (Nat.le_div_iff_mul_le (Nat.pos_of_ne_zero h2)).mpr ?_
    have := Nat.mul_le_mul_right (2 ^ 128) (Nat.pos_of_ne_zero h1)
    omega
  · convert floorOf_div (m1 * 2 ^ 128) (Nat.pos_of_ne_zero h2) (e1 - e2 - 128 - 1 + 810) using 1
    rw [show e1 - e2 + 809 = 128 + (e1 - e2 - 128 - 1 + 810) by ring, zpow_two_add 128]
    push_cast
    rw [show ((2 : ℝ) ^ (128 : Int)) = 2 ^ 128 from zpow_natCast 2 128]
    ring

/-- An even exponent: the significand takes the odd one. -/
theorem even_split (m : Nat) (e : Int) : ∃ E : Int, (if e % 2 = 1 then e - 1 else e) = 2 * E ∧
    (m : ℝ) * 2 ^ e = ((if e % 2 = 1 then 2 * m else m : Nat) : ℝ) * 2 ^ (2 * E) := by
  by_cases h : e % 2 = 1
  · refine ⟨(e - 1) / 2, by rw [if_pos h]; omega, ?_⟩
    rw [if_pos h, show e = 1 + 2 * ((e - 1) / 2) by omega, zpow_two_add 1, zpow_one]
    push_cast
    rw [show (1 + 2 * ((e - 1) / 2) - 1) / 2 = (e - 1) / 2 by omega]
    ring
  · refine ⟨e / 2, by rw [if_neg h]; omega, ?_⟩
    rw [if_neg h, show 2 * (e / 2) = e by omega]
theorem sqrt_zpow (E : Int) : √((2 : ℝ) ^ (2 * E)) = 2 ^ E := by
  rw [two_mul, zpow_two_add, Real.sqrt_mul_self (two_zpow_pos E).le]

theorem sqrtFin_rounds (hm : m ≠ 0) (ho : RealOrder (√((m : ℝ) * 2 ^ e) * 2 ^ (809 : Int)) order) :
    FloatRounds .f32 .rne 0 false order (roundTo .f32 .rne 0 (sqrtFin m e)).1 (roundTo .f32 .rne 0 (sqrtFin m e)).2 := by
  obtain ⟨E, hE, hv⟩ := even_split m e
  rw [hv, Real.sqrt_mul (Nat.cast_nonneg _), sqrt_zpow, mul_assoc, ← zpow_two_add] at ho
  unfold sqrtFin
  simp only [hE]
  have hm' : 1 ≤ if e % 2 = 1 then 2 * m else m := by split <;> omega
  generalize (if e % 2 = 1 then 2 * m else m) = m' at ho hm' ⊢
  rw [show (2 * E - 160) / 2 - 1 = E - 81 by omega]
  refine stick_rounds ho (le_isqrt (le_trans ?_ (Nat.mul_le_mul_right _ hm'))) ?_ false
  · norm_num
  · convert floorOf_sqrt (m' * 2 ^ 160) Nat.one_pos (E - 81 + 810) using 1
    · rw [Nat.cast_one, div_one, Nat.cast_mul, Real.sqrt_mul (Nat.cast_nonneg _), Nat.cast_pow, Nat.cast_ofNat,
        show (2 : ℝ) ^ 160 = 2 ^ (2 * 80 : Int) from (zpow_natCast 2 160).symm, sqrt_zpow, mul_assoc, ← zpow_two_add]
      congr 2; ring
    · rw [Nat.div_one]
    · rw [Nat.div_one, Nat.mul_one]

theorem rsqrtFin_rounds (hm : m ≠ 0) (hlt : m < 2 ^ 24) (ho : RealOrder (√(1 / ((m : ℝ) * 2 ^ e)) * 2 ^ (809 : Int)) order) :
    FloatRounds .f32 .rne 0 false order (roundTo .f32 .rne 0 (rsqrtFin m e)).1 (roundTo .f32 .rne 0 (rsqrtFin m e)).2 := by
  obtain ⟨E, hE, hv⟩ := even_split m e
  rw [hv] at ho
  unfold rsqrtFin
  simp only [hE]
  have hm' : 1 ≤ (if e % 2 = 1 then 2 * m else m) ∧ (if e % 2 = 1 then 2 * m else m) < 2 ^ 25 := by split <;> omega
  generalize (if e % 2 = 1 then 2 * m else m) = m' at ho hm' ⊢
  obtain ⟨hpos, hm'⟩ := hm'
  rw [show 2 * E / 2 = E by omega]
  refine stick_rounds ho (le_isqrt ((Nat.le_div_iff_mul_le hpos).mpr (le_trans (Nat.mul_le_mul_left _ hm'.le) ?_))) ?_ false
  · norm_num
  · convert floorOf_sqrt (2 ^ 256) hpos (-E - 128 - 1 + 810) using 1
    rw [Nat.cast_pow, Nat.cast_ofNat, show (2 : ℝ) ^ 256 = 2 ^ (2 * 128 : Int) from (zpow_natCast 2 256).symm, Real.sqrt_div (two_zpow_pos _).le,
      one_div, Real.sqrt_inv, Real.sqrt_mul (Nat.cast_nonneg _), sqrt_zpow, sqrt_zpow, mul_inv, ← zpow_neg, div_eq_mul_inv, mul_assoc, ← zpow_two_add,
      mul_comm ((2 : ℝ) ^ (128 : Int)), mul_assoc, ← zpow_two_add]
    congr 2; ring
end

end Sys2Proof.Proofs

/-! Reciprocals, square roots and quotients lane by lane (07 R190, Table 7-9). -/
namespace Sys2Proof.Proofs
open Sys2Proof Sys2Proof.Machine Sys2Proof.Claims

/-! ## FP32 operands -/

theorem f32_fin_bounds {n : Nat} (hn : n < 2 ^ 32) {s : Bool} {m : Nat} {e : Int} (h : valueOf .f32 n = .fin s m e) : m < 2 ^ 24 ∧ -149 ≤ e ∧ e ≤ 105 := by
  have hd : decodeFloat .f32 n = .fin s m e := h
  rw [decodeFloat_eq rfl hn] at hd
  have hm : n % 2 ^ Ty.mbits .f32 < 2 ^ 23 := Nat.mod_lt _ (by decide)
  have hx : n / 2 ^ Ty.mbits .f32 % 2 ^ Ty.ebits .f32 < 2 ^ 8 := Nat.mod_lt _ (by decide)
  generalize n % 2 ^ Ty.mbits .f32 = lo at hd hm
  generalize n / 2 ^ Ty.mbits .f32 % 2 ^ Ty.ebits .f32 = x at hd hx
  simp only [Ty.bias, Ty.mbits, Ty.ebits] at hd
  split at hd
  · split at hd <;> cases hd
  · split at hd <;> cases hd <;> exact ⟨by omega, by omega, by omega⟩

/-- The magnitude of a number, in units of 2^-800. -/
theorem natAbs_real {n : Bool} {m : Nat} {e y : Int} (hy : (y : ℝ) = (if n then -1 else 1) * m * 2 ^ (e + 800)) : (y.natAbs : ℝ) = m * 2 ^ (e + 800) := by
  have h := num_natAbs hy
  push_cast at h
  rw [show e + 809 = 9 + (e + 800) by ring, zpow_two_add 9, show (2 : ℝ) ^ (9 : Int) = 512 by norm_num] at h
  linarith
theorem natAbs_pos_of_num {n : Bool} {m : Nat} {e y : Int} (hm : m ≠ 0) (hy : (y : ℝ) = (if n then -1 else 1) * m * 2 ^ (e + 800)) : 0 < y.natAbs :=
  Int.natAbs_pos.mpr (num_ne_zero hm hy)

/-! ## Special cases -/

theorem roundWith_val (ty : Ty) (mode : RMode) (v : Val) : roundWith ty mode (v, 0#6) = roundTo ty mode 0 v := by
  rw [roundWith_eq, BitVec.zero_or]
theorem rounds_of_means {v : Val} {x : Exact} (h : Means v x) : Rounds .f32 .rne 0 x (roundWith .f32 .rne (v, 0#6)).1 (roundWith .f32 .rne (v, 0#6)).2 := by
  rw [roundWith_val]
  exact roundTo_rounds .f32 .rne (Nat.zero_le 256) h
theorem rounds_of_nan (i : Bool) : Rounds .f32 .rne 0 (.nan i) (roundWith .f32 .rne (.nan false, if i then IV else 0#6)).1
    (roundWith .f32 .rne (.nan false, if i then IV else 0#6)).2 := roundWith_rounds rfl .rne (.nan i)
theorem rounds_of_nan_or (i : Bool) : Rounds .f32 .rne 0 (.nan i) (roundWith .f32 .rne (.nan false, if i || false then IV else 0#6)).1
    (roundWith .f32 .rne (.nan false, if i || false then IV else 0#6)).2 := by simpa only [Bool.or_false] using rounds_of_nan i
/-- Division by zero: an infinity, and the flag DZ. -/
theorem roundWith_divide (n : Bool) : roundWith .f32 .rne (.inf n, DZ) = (Special.sign n + 0x7F800000, 0x02#6) := by
  rw [roundWith_eq, roundTo_inf .rne 0 rfl, signBit_eq rfl]
  cases n <;> rfl
theorem floatRounds_of_roundTo {v : Val} {neg : Bool} {order : Nat → Ordering} (h : FloatRounds .f32 .rne 0 neg order (roundTo .f32 .rne 0 v).1 (roundTo .f32 .rne 0 v).2) :
    FloatRounds .f32 .rne 0 neg order (roundWith .f32 .rne (v, 0#6)).1 (roundWith .f32 .rne (v, 0#6)).2 := by
  rw [roundWith_val]; exact h

/-! ## The lanes -/

/-- An FP32 operand, for the model and exactly. -/
theorem f32_operand {a : Nat} (ha : a < 2 ^ 32) : ∃ v x, valueOf .f32 a = v ∧ exactOf .f32 a = x ∧ Means v x ∧
    ∀ s m e, v = .fin s m e → m < 2 ^ 24 ∧ -149 ≤ e ∧ e ≤ 105 :=
  ⟨_, _, rfl, rfl, valueOf_means .f32 ha, fun _ _ _ h => f32_fin_bounds ha h⟩

section
variable (g : Guard) (d r r' : BitVec 6) (q : BitVec 4) {a : Nat} (ha : a < 2 ^ 32)
include ha

theorem special_vrcp (b : Nat) :
    Special (.vrcp g d r q) a b (roundWith .f32 .rne (rcpV (valueOf .f32 a))).1 (roundWith .f32 .rne (rcpV (valueOf .f32 a))).2 := by
  obtain ⟨v, x, hv, hx, hM, hb⟩ := f32_operand ha
  unfold Special
  dsimp only
  rw [hv, hx]
  cases hM with
  | nan i => exact rounds_of_nan i
  | inf n => exact rounds_of_means (.zero n 0)
  | zero n e => rw [rcpV, if_pos rfl, roundWith_divide]; exact ⟨rfl, rfl⟩
  | @num n m e y hm hy =>
    rw [rcpV, if_neg hm]
    dsimp only
    rw [num_neg_iff hm hy]
    refine floatRounds_of_roundTo (divFin_rounds n one_ne_zero hm (hb n m e rfl).1 ?_)
    convert realOrder_quotient (2 ^ 1609) (natAbs_pos_of_num hm hy) using 1
    rw [natAbs_real hy]
    push_cast
    rw [← zpow_natCast, show ((1609 : Nat) : Int) = (0 - e + 809) + (e + 800) by push_cast; ring, zpow_two_add _ (e + 800),
      mul_div_mul_right _ _ (two_zpow_pos _).ne']
    ring

theorem special_vrsq (b : Nat) :
    Special (.vrsq g d r q) a b (roundWith .f32 .rne (rsqV (valueOf .f32 a))).1 (roundWith .f32 .rne (rsqV (valueOf .f32 a))).2 := by
  obtain ⟨v, x, hv, hx, hM, hb⟩ := f32_operand ha
  unfold Special
  dsimp only
  rw [hv, hx]
  cases hM with
  | nan i => exact rounds_of_nan i
  | inf n => cases n with
    | false => exact rounds_of_means (.zero false 0)
    | true => exact rounds_of_nan true
  | zero n e => rw [rsqV, if_pos rfl, roundWith_divide]; exact ⟨rfl, rfl⟩
  | @num n m e y hm hy =>
    have hn := num_neg_iff hm hy
    rw [rsqV, if_neg hm]
    dsimp only
    cases n with
    | true => rw [if_pos rfl, if_pos (of_decide_eq_true hn)]; exact rounds_of_nan true
    | false =>
      rw [if_neg Bool.false_ne_true, if_neg (of_decide_eq_false hn)]
      refine floatRounds_of_roundTo (rsqrtFin_rounds hm (hb false m e rfl).1 ?_)
      convert realOrder_root (2 ^ 2418) (natAbs_pos_of_num hm hy) using 1
      rw [natAbs_real hy, Nat.cast_pow, Nat.cast_ofNat, ← zpow_natCast, show ((2418 : Nat) : Int) = 2 * 809 + 800 by norm_num, zpow_two_add, zpow_two_add e,
        ← mul_assoc (m : ℝ), mul_div_mul_right _ _ (two_zpow_pos _).ne', ← sqrt_zpow 809, ← Real.sqrt_mul (by positivity)]
      congr 1; ring

theorem special_vsqrt (b : Nat) :
    Special (.vsqrt g d r q) a b (roundWith .f32 .rne (sqrtV (valueOf .f32 a))).1 (roundWith .f32 .rne (sqrtV (valueOf .f32 a))).2 := by
  obtain ⟨v, x, hv, hx, hM, hb⟩ := f32_operand ha
  unfold Special
  dsimp only
  rw [hv, hx]
  cases hM with
  | nan i => exact rounds_of_nan i
  | inf n => cases n with
    | false => exact rounds_of_means (.inf false)
    | true => exact rounds_of_nan true
  | zero n e => rw [sqrtV, if_pos rfl]; exact rounds_of_means (.zero n 0)
  | @num n m e y hm hy =>
    have hn := num_neg_iff hm hy
    rw [sqrtV, if_neg hm]
    dsimp only
    cases n with
    | true => rw [if_pos rfl, if_pos (of_decide_eq_true hn)]; exact rounds_of_nan true
    | false =>
      rw [if_neg Bool.false_ne_true, if_neg (of_decide_eq_false hn)]
      refine floatRounds_of_roundTo (sqrtFin_rounds hm ?_)
      have ho := realOrder_root (y.natAbs * 2 ^ 818) Nat.one_pos
      simp only [Nat.mul_one, Nat.cast_one, div_one] at ho
      convert ho using 1
      rw [Nat.cast_mul, natAbs_real hy, Nat.cast_pow, Nat.cast_ofNat, ← zpow_natCast, mul_assoc, ← zpow_two_add,
        show e + 800 + ((818 : Nat) : Int) = e + 2 * 809 by push_cast; ring, zpow_two_add, ← sqrt_zpow 809, ← Real.sqrt_mul (by positivity)]
      congr 1; ring

theorem special_vdiv {b : Nat} (hb : b < 2 ^ 32) : Special (.vdiv g d r r' q) a b
    (roundWith .f32 .rne (divV (valueOf .f32 a) (valueOf .f32 b))).1 (roundWith .f32 .rne (divV (valueOf .f32 a) (valueOf .f32 b))).2 := by
  obtain ⟨v, x, hv, hx, hM, -⟩ := f32_operand ha
  obtain ⟨w, z, hw, hz, hN, hlt⟩ := f32_operand hb
  unfold Special
  dsimp only
  rw [hv, hx, hw, hz]
  cases hM with
  | nan i => cases hN with
    | nan j => exact rounds_of_nan (i || j)
    | inf j => exact rounds_of_nan_or i
    | zero j e => exact rounds_of_nan_or i
    | num hm hy => exact rounds_of_nan_or i
  | inf i => cases hN with
    | nan j => exact rounds_of_nan_or j
    | inf j => exact rounds_of_nan true
    | zero j e => exact rounds_of_means (.inf (i != j))
    | num hm hy =>
      dsimp only [negOf]
      rw [num_neg_iff hm hy]
      exact rounds_of_means (.inf _)
  | zero i e => cases hN with
    | nan j => exact rounds_of_nan_or j
    | inf j => exact rounds_of_means (.zero (i != j) 0)
    | zero j e' => exact rounds_of_nan true
    | num hm hy =>
      dsimp only [negOf, divV]
      rw [num_neg_iff hm hy, if_neg hm, if_pos rfl]
      exact rounds_of_means (.zero _ 0)
  | @num i m e y hm hy => cases hN with
    | nan j => exact rounds_of_nan_or j
    | inf j =>
      dsimp only [negOf, divV]
      rw [num_neg_iff hm hy]
      exact rounds_of_means (.zero _ 0)
    | zero j e' =>
      dsimp only [negOf, divV]
      rw [num_neg_iff hm hy, if_pos rfl, if_neg hm, roundWith_divide]
      exact ⟨rfl, rfl⟩
    | @num j m' e' y' hm' hy' =>
      dsimp only [negOf, divV]
      rw [num_neg_iff hm hy, num_neg_iff hm' hy', if_neg hm', if_neg hm]
      refine floatRounds_of_roundTo (divFin_rounds (i != j) hm hm' (hlt j m' e' rfl).1 ?_)
      convert realOrder_quotient (y.natAbs * 2 ^ 809) (natAbs_pos_of_num hm' hy') using 1
      rw [Nat.cast_mul, natAbs_real hy, natAbs_real hy', Nat.cast_pow, Nat.cast_ofNat, ← zpow_natCast, mul_assoc, ← zpow_two_add,
        show e + 800 + ((809 : Nat) : Int) = (e - e' + 809) + (e' + 800) by push_cast; ring, zpow_two_add _ (e' + 800), ← mul_assoc,
        mul_div_mul_right _ _ (two_zpow_pos _).ne']
      ring
end

end Sys2Proof.Proofs

/-! Powers of two (07 R190): the series of the model is nearer to the exact value than any point where the rounding changes. -/
namespace Sys2Proof.Proofs
open Sys2Proof Sys2Proof.Machine Sys2Proof.Claims

/-! ## An approximation that rounds as the exact value does -/

theorem half32_eq (j : Nat) : half32 j = 256 * (codeVal .f32 j + codeVal .f32 (j + 1)) * 2 ^ 651 := by
  show 256 * (codeVal .f32 j * 2 ^ 651 + codeVal .f32 (j + 1) * 2 ^ 651) = _
  ring

/-- A floor with a sticky half is no rung. -/
theorem orderOf_stick_ne {q : Nat} {e : Int} (hq : 2 ^ 25 ≤ q) (j : Nat) : orderOf ((stick q false : ℝ) * 2 ^ (e + 809)) (rung32 j) ≠ .eq := by
  intro h
  have hz := two_zpow_pos (e + 810)
  have hw := (realOrder_eq_iff (realOrder_orderOf _) _).mp h
  rw [stick_value, if_neg Bool.false_ne_true] at hw
  obtain ⟨c, b, hc, hj, -⟩ := points32 j
  rw [hj] at hw
  rcases point_gap (b := b) (z := e + 810) hc hq with h | h
  · rw [hw] at h; linarith [le_of_mul_le_mul_right h hz]
  · rw [hw] at h; linarith [le_of_mul_le_mul_right h hz]

/-- A value that is no rung and keeps off the halfway points rounds as a value nearer to it than that. -/
theorem floatRounds_of_near {v : ℝ} (hv : 0 < v) (hoff : OffHalves v) (hne : ∀ N : Nat, (N : ℝ) ≠ v) {q : Nat} {e : Int} (hq : 2 ^ 25 ≤ q)
    (hw : |(stick q false : ℝ) * 2 ^ (e + 809) - v| < v / 2 ^ 80) (neg : Bool) : ∃ order, RealOrder v order ∧
    FloatRounds .f32 .rne 0 neg order (roundWith .f32 .rne (.fin neg (stick q false) e, 0#6)).1 (roundWith .f32 .rne (.fin neg (stick q false) e, 0#6)).2 := by
  refine ⟨orderOf v, realOrder_orderOf v, floatRounds_of_roundTo (floatRounds_of_halves hv.le (realOrder_orderOf v)
    (realOrder_orderOf ((stick q false : ℝ) * 2 ^ (e + 809))) (fun j => ?_) (fun j => ?_)
    (roundTo_floatRounds rfl (stick_pos hq false) e neg (realOrder_orderOf _)))⟩
  · have hj := hoff j
    rw [← half32_eq] at hj
    rw [abs_lt] at hw
    have hp : 0 < v / 2 ^ 80 := by positivity
    rcases le_abs.mp hj with h | h
    · exact order_congr (realOrder_orderOf _) (realOrder_orderOf _) (iff_of_false (by linarith) (by linarith)) (iff_of_true (by linarith) (by linarith))
    · exact order_congr (realOrder_orderOf _) (realOrder_orderOf _) (iff_of_true (by linarith) (by linarith)) (iff_of_false (by linarith) (by linarith))
  · exact iff_of_false (fun h => hne _ ((realOrder_eq_iff (realOrder_orderOf v) _).mp h)) (orderOf_stick_ne hq j)

/-! ## Irrational powers -/

theorem eq_two_pow_of_pow {N D : Nat} (hD : D ≠ 0) {J : Int} (h : (N : ℝ) ^ D = 2 ^ J) : ∃ j : Nat, N = 2 ^ j ∧ J = j * D := by
  have hN : N ≠ 0 := by
    rintro rfl
    rw [Nat.cast_zero, zero_pow hD] at h
    exact (two_zpow_pos J).ne h
  have h1 : (1 : ℝ) ≤ (N : ℝ) ^ D := one_le_pow₀ (by exact_mod_cast Nat.pos_of_ne_zero hN)
  have hJ : 0 ≤ J := by
    by_contra hlt
    have := zpow_lt_one_of_neg₀ (one_lt_two (α := ℝ)) (Int.not_le.mp hlt)
    linarith
  obtain ⟨n, rfl⟩ := Int.eq_ofNat_of_zero_le hJ
  have hn : N ^ D = 2 ^ n := by rw [zpow_natCast] at h; exact_mod_cast h
  obtain ⟨j, -, rfl⟩ := (Nat.dvd_prime_pow Nat.prime_two).mp (hn ▸ dvd_pow_self N hD)
  rw [← pow_mul] at hn
  exact ⟨j, rfl, by rw [← Nat.pow_right_injective le_rfl hn]; push_cast; rfl⟩

/-- A power of two by a fraction that is no integer is irrational. -/
theorem natCast_ne_two_rpow (N : Nat) {D f : Nat} (hf : 0 < f) (hfD : f < D) (E : Int) : (N : ℝ) ≠ 2 ^ ((E : ℝ) + f / D) := by
  intro h
  have hD : D ≠ 0 := by omega
  have hpow : (N : ℝ) ^ D = 2 ^ (E * D + f : Int) := by
    rw [h, ← Real.rpow_natCast, ← Real.rpow_mul zero_le_two, ← Real.rpow_intCast]
    congr 1
    have : (D : ℝ) ≠ 0 := Nat.cast_ne_zero.mpr hD
    push_cast
    field_simp
  obtain ⟨j, -, hj⟩ := eq_two_pow_of_pow hD hpow
  have : ((f : Int)) % D = 0 := by
    have : (f : Int) = (j - E) * D := by linarith
    rw [this, Int.mul_emod_left]
  rw [Int.emod_eq_of_lt (by omega) (by omega)] at this
  omega

/-! ## The series of the model -/

theorem natDiv_bounds (a : Nat) {b : Nat} (hb : 0 < b) : ((a / b : Nat) : ℝ) ≤ a / b ∧ (a : ℝ) / b < (a / b : Nat) + 1 := by
  have hb' : (0 : ℝ) < b := Nat.cast_pos.mpr hb
  rw [le_div_iff₀ hb', div_lt_iff₀ hb']
  exact ⟨by exact_mod_cast Nat.div_mul_le_self a b, by exact_mod_cast (Nat.div_lt_iff_lt_mul hb).mp (Nat.lt_succ_self (a / b))⟩
/-- The next term of the series, rounded down. -/
theorem nextTerm_bounds (t x i : Nat) {P : Nat} (hP : 0 < P) : ((t * x / P / (i + 1) : Nat) : ℝ) ≤ t * (x / P) / (i + 1) ∧
    (t : ℝ) * (x / P) / (i + 1) < (t * x / P / (i + 1) : Nat) + 1 := by
  have hP' : (P : ℝ) ≠ 0 := Nat.cast_ne_zero.mpr hP.ne'
  have e : (t : ℝ) * (x / P) / (i + 1) = ((t * x : Nat) : ℝ) / ((P * (i + 1) : Nat) : ℝ) := by push_cast; field_simp
  rw [Nat.div_div_eq_div_mul, e]
  exact natDiv_bounds _ (Nat.mul_pos hP (Nat.succ_pos i))
theorem series_term (P y : ℝ) (i : Nat) : P * (y ^ (i + 1) / (i + 1).factorial) = P * (y ^ i / i.factorial) * y / (i + 1) := by
  rw [Nat.factorial_succ, pow_succ]
  push_cast
  rw [mul_comm ((i : ℝ) + 1), ← div_div]
  ring
/-- Each term of the series is the exact one, less at most twice its number. -/
theorem expSeries_bounds (x : Nat) (hx : x ≤ 2 ^ 192) : ∀ (k i t : Nat), (t : ℝ) ≤ 2 ^ 192 * ((x / 2 ^ 192 : ℝ) ^ i / i.factorial) →
    2 ^ 192 * ((x / 2 ^ 192 : ℝ) ^ i / i.factorial) ≤ t + 2 * i →
    (expSeries x k i t : ℝ) ≤ 2 ^ 192 * ∑ j ∈ Finset.range k, (x / 2 ^ 192 : ℝ) ^ (i + j) / (i + j).factorial ∧
    2 ^ 192 * ∑ j ∈ Finset.range k, (x / 2 ^ 192 : ℝ) ^ (i + j) / (i + j).factorial ≤ expSeries x k i t + 2 * k * (i + k)
  | 0, i, t, h1, h2 => by simp [expSeries]
  | k + 1, i, t, h1, h2 => by
    obtain ⟨y, hy⟩ : ∃ y : ℝ, y = x / 2 ^ 192 := ⟨_, rfl⟩
    have hy0 : 0 ≤ y := by rw [hy]; positivity
    have hy1 : y ≤ 1 := by rw [hy, div_le_one (by positivity)]; exact_mod_cast hx
    rw [← hy] at h1 h2 ⊢
    have hi : (0 : ℝ) < i + 1 := by positivity
    obtain ⟨τ, hτ⟩ : ∃ τ : ℝ, τ = 2 ^ 192 * (y ^ i / i.factorial) := ⟨_, rfl⟩
    have hτ' := (series_term (2 ^ 192) y i).trans (by rw [← hτ] : _ = τ * y / (i + 1))
    rw [← hτ] at h1 h2
    obtain ⟨t', ht'⟩ : ∃ t', t' = t * x / 2 ^ 192 / (i + 1) := ⟨_, rfl⟩
    obtain ⟨hu, hl⟩ := nextTerm_bounds t x i (Nat.two_pow_pos 192)
    rw [← ht', Nat.cast_pow, Nat.cast_ofNat, ← hy] at hu hl
    have hty : τ * y / (i + 1) ≤ t * y / (i + 1) + 2 * i / (i + 1) := by
      rw [← add_div]
      refine div_le_div_of_nonneg_right ?_ hi.le
      nlinarith
    have h2i : 2 * (i : ℝ) / (i + 1) ≤ 2 * i := div_le_self (by positivity) (by linarith)
    obtain ⟨ih1, ih2⟩ := expSeries_bounds x hx k (i + 1) t'
      (by rw [← hy, hτ']; exact hu.trans (div_le_div_of_nonneg_right (mul_le_mul_of_nonneg_right h1 hy0) hi.le))
      (by rw [← hy, hτ']; push_cast; linarith)
    rw [← hy] at ih1 ih2
    rw [expSeries, ← ht', Finset.sum_range_succ', mul_add]
    simp only [Nat.add_zero]
    rw [← hτ]
    simp only [Nat.add_assoc i, Nat.add_comm 1] at ih1 ih2
    push_cast at ih1 ih2 ⊢
    exact ⟨by linarith, by nlinarith⟩

theorem ln2_near : |(ln2 : ℝ) / 2 ^ 192 - Real.log 2| ≤ 1 / 2 ^ 190 := by
  have h := Real.abs_log_sub_add_sum_range_le (x := 1 / 2) (by rw [abs_of_pos] <;> norm_num) 200
  have hq : |(∑ i ∈ Finset.range 200, (1 / 2 : ℚ) ^ (i + 1) / (i + 1)) - ln2 / 2 ^ 192| < 1 / 2 ^ 191 := by decide +kernel
  have hr : |(∑ i ∈ Finset.range 200, (1 / 2 : ℝ) ^ (i + 1) / (i + 1)) - ln2 / 2 ^ 192| < 1 / 2 ^ 191 := by
    have := (Rat.cast_lt (K := ℝ)).mpr hq
    push_cast at this
    exact this
  rw [show (1 : ℝ) - 1 / 2 = 2⁻¹ by norm_num, Real.log_inv] at h
  have hp : |(1 / 2 : ℝ)| ^ (200 + 1) / (1 - |(1 / 2 : ℝ)|) ≤ 1 / 2 ^ 191 := by
    rw [abs_of_pos (by norm_num)]; norm_num
  generalize (∑ i ∈ Finset.range 200, (1 / 2 : ℝ) ^ (i + 1) / (i + 1)) = S at h hr
  rw [abs_le] at h ⊢
  rw [abs_lt] at hr
  have : (1 : ℝ) / 2 ^ 190 = 1 / 2 ^ 191 + 1 / 2 ^ 191 := by norm_num
  constructor <;> linarith [h.1, h.2, hr.1, hr.2]

/-! ## The model's power of two -/

theorem exp_sub_exp_le {y Y : ℝ} (hd : |y - Y| ≤ 1) (hY : Real.exp Y ≤ 2) : |Real.exp y - Real.exp Y| ≤ 4 * |y - Y| := by
  have e : Real.exp y - Real.exp Y = Real.exp Y * (Real.exp (y - Y) - 1) := by rw [mul_sub, ← Real.exp_add, mul_one]; congr 2; ring
  rw [e, abs_mul, abs_of_pos (Real.exp_pos Y)]
  calc Real.exp Y * |Real.exp (y - Y) - 1| ≤ 2 * (2 * |y - Y|) := mul_le_mul hY (Real.abs_exp_sub_one_le hd) (abs_nonneg _) zero_le_two
    _ = 4 * |y - Y| := by ring

/-- The 64 terms of the model's series. -/
theorem expSeries_near {x : Nat} (hx : x ≤ 2 ^ 192) : |(expSeries x 64 0 (2 ^ 192) : ℝ) / 2 ^ 192 - Real.exp (x / 2 ^ 192)| ≤ 1 / 2 ^ 178 := by
  have hP : (0 : ℝ) < 2 ^ 192 := by positivity
  have hy0 : (0 : ℝ) ≤ x / 2 ^ 192 := by positivity
  have hy1 : (x : ℝ) / 2 ^ 192 ≤ 1 := by rw [div_le_one hP]; exact_mod_cast hx
  obtain ⟨h1, h2⟩ := expSeries_bounds x hx 64 0 (2 ^ 192) (by norm_num) (by norm_num)
  have hexp := Real.exp_bound (x := (x : ℝ) / 2 ^ 192) (by rwa [abs_of_nonneg hy0]) (n := 64) (by norm_num)
  simp only [Nat.zero_add] at h1 h2
  generalize (x : ℝ) / 2 ^ 192 = y at *
  generalize (∑ j ∈ Finset.range 64, y ^ j / (j.factorial : ℝ)) = T at *
  generalize (expSeries x 64 0 (2 ^ 192) : ℝ) = S at *
  have hrem : |y| ^ 64 * (((64 : Nat).succ : ℝ) / ((Nat.factorial 64 : ℝ) * (64 : Nat))) ≤ 1 / 2 ^ 200 := by
    refine (mul_le_of_le_one_left (by positivity) (pow_le_one₀ (abs_nonneg y) (by rwa [abs_of_nonneg hy0]))).trans ?_
    norm_num [Nat.factorial]
  have hS1 : S / 2 ^ 192 ≤ T := by rw [div_le_iff₀ hP, mul_comm]; exact h1
  have hS2 : T ≤ S / 2 ^ 192 + 1 / 2 ^ 179 := by
    have e : (1 : ℝ) / 2 ^ 179 = 2 ^ 13 / 2 ^ 192 := by norm_num
    rw [e, ← add_div, le_div_iff₀ hP, mul_comm]
    refine h2.trans (le_of_eq ?_)
    norm_num
  have hexp := abs_le.mp (hexp.trans hrem)
  have e1 : (1 : ℝ) / 2 ^ 178 = 1 / 2 ^ 179 + 1 / 2 ^ 179 := by norm_num
  have e2 : (1 : ℝ) / 2 ^ 200 ≤ 1 / 2 ^ 179 := by norm_num
  rw [abs_le]
  constructor <;> linarith [hexp.1, hexp.2]

/-- 2 to a fraction of 2^192, from the product with the model's ln 2. -/
theorem exp2Series_near {f : Nat} (hf : f < 2 ^ 192) :
    |(expSeries (f * ln2 / 2 ^ 192) 64 0 (2 ^ 192) : ℝ) / 2 ^ 192 - 2 ^ ((f : ℝ) / 2 ^ 192)| ≤ 1 / 2 ^ 170 := by
  have hP : (0 : ℝ) < 2 ^ 192 := by positivity
  have hln : ln2 < 2 ^ 192 := by decide
  have hx : f * ln2 / 2 ^ 192 ≤ 2 ^ 192 := by
    refine (Nat.div_le_iff_le_mul_add_pred (Nat.two_pow_pos 192)).mpr ((Nat.mul_le_mul hf.le hln.le).trans (Nat.le_add_right _ _))
  obtain ⟨hx1, hx2⟩ := natDiv_bounds (f * ln2) (Nat.two_pow_pos 192)
  have hS := expSeries_near hx
  generalize f * ln2 / 2 ^ 192 = x at hx hx1 hx2 hS ⊢
  generalize (expSeries x 64 0 (2 ^ 192) : ℝ) / 2 ^ 192 = S at hS ⊢
  have hc0 : (0 : ℝ) ≤ f / 2 ^ 192 := by positivity
  have hc1 : (f : ℝ) / 2 ^ 192 ≤ 1 := by rw [div_le_one hP]; exact_mod_cast hf.le
  have hpow : (2 : ℝ) ^ ((f : ℝ) / 2 ^ 192) = Real.exp (f / 2 ^ 192 * Real.log 2) := by rw [Real.rpow_def_of_pos two_pos, mul_comm]
  have hle2 : Real.exp (f / 2 ^ 192 * Real.log 2) ≤ 2 := by
    rw [← hpow]
    exact (Real.rpow_le_rpow_of_exponent_le one_le_two hc1).trans_eq (Real.rpow_one 2)
  have hlog := abs_le.mp ln2_near
  have hprod : (((f * ln2 : Nat) : ℝ) / ((2 ^ 192 : Nat) : ℝ)) / 2 ^ 192 = f / 2 ^ 192 * (ln2 / 2 ^ 192) := by push_cast; ring
  have hd : |(x : ℝ) / 2 ^ 192 - f / 2 ^ 192 * Real.log 2| ≤ 1 / 2 ^ 188 := by
    have h1 : (x : ℝ) / 2 ^ 192 ≤ f / 2 ^ 192 * (ln2 / 2 ^ 192) := hprod ▸ div_le_div_of_nonneg_right hx1 hP.le
    have h2 : f / 2 ^ 192 * (ln2 / 2 ^ 192) ≤ (x : ℝ) / 2 ^ 192 + 1 / 2 ^ 192 := by
      rw [← hprod, ← add_div]; exact div_le_div_of_nonneg_right hx2.le hP.le
    have e1 : (1 : ℝ) / 2 ^ 188 = 4 * (1 / 2 ^ 190) := by norm_num
    have e2 : (1 : ℝ) / 2 ^ 192 ≤ 1 / 2 ^ 190 := by norm_num
    generalize (f : ℝ) / 2 ^ 192 = c at *
    generalize (ln2 : ℝ) / 2 ^ 192 = l at *
    have hpos : (0 : ℝ) < 1 / 2 ^ 190 := by positivity
    generalize (1 : ℝ) / 2 ^ 190 = ε at *
    rw [abs_le]
    constructor <;> nlinarith [hlog.1, hlog.2]
  have hexp := exp_sub_exp_le (hd.trans (by norm_num)) hle2
  rw [hpow]
  calc |S - Real.exp (f / 2 ^ 192 * Real.log 2)|
      ≤ |S - Real.exp (x / 2 ^ 192)| + |Real.exp (x / 2 ^ 192) - Real.exp (f / 2 ^ 192 * Real.log 2)| := abs_sub_le _ _ _
    _ ≤ 1 / 2 ^ 178 + 4 * (1 / 2 ^ 188) := add_le_add hS (hexp.trans (by linarith))
    _ ≤ 1 / 2 ^ 170 := by norm_num

/-- A power with a fraction rounds once. -/
theorem exp2_fraction_rounds {i : Int} {f : Nat} (h0 : 0 < f) (hf : f < 2 ^ 192) {v : ℝ} (hv : v = 2 ^ 809 * (2 : ℝ) ^ ((i : ℝ) + f / 2 ^ 192))
    (hoff : OffHalves v) : ∃ order, RealOrder v order ∧ FloatRounds .f32 .rne 0 false order
      (roundWith .f32 .rne (.fin false (2 * expSeries (f * ln2 / 2 ^ 192) 64 0 (2 ^ 192) + 1) (i - 193), 0#6)).1
      (roundWith .f32 .rne (.fin false (2 * expSeries (f * ln2 / 2 ^ 192) 64 0 (2 ^ 192) + 1) (i - 193), 0#6)).2 := by
  have hz := two_zpow_pos (i + 809)
  have hnear := abs_le.mp (exp2Series_near hf)
  have hone : (1 : ℝ) ≤ 2 ^ ((f : ℝ) / 2 ^ 192) := Real.one_le_rpow one_le_two (by positivity)
  have hne (N : Nat) : (N : ℝ) ≠ v := by
    have := natCast_ne_two_rpow N h0 hf (i + 809)
    rw [hv, ← Real.rpow_natCast 2 809, ← Real.rpow_add two_pos]
    convert this using 2
    push_cast; ring
  have hv' : v = 2 ^ (i + 809) * 2 ^ ((f : ℝ) / 2 ^ 192) := by
    rw [hv, Real.rpow_add two_pos, Real.rpow_intCast, zpow_two_add, show (2 : ℝ) ^ (809 : Int) = 2 ^ 809 from zpow_natCast 2 809]; ring
  generalize expSeries (f * ln2 / 2 ^ 192) 64 0 (2 ^ 192) = S at hnear ⊢
  generalize (2 : ℝ) ^ ((f : ℝ) / 2 ^ 192) = p at *
  have hvp : 0 < v := by rw [hv']; exact mul_pos hz (by linarith)
  refine floatRounds_of_near hvp hoff hne (q := S) (e := i - 193) ?_ ?_ false
  · have h2 : ((2 ^ 25 : Nat) : ℝ) ≤ S := by
      have h3 : 1 / 2 ≤ (S : ℝ) / 2 ^ 192 := by
        have : (1 : ℝ) / 2 ^ 170 ≤ 1 / 2 := by norm_num
        linarith [hnear.1]
      rw [le_div_iff₀ (by positivity)] at h3
      exact le_trans (by norm_num) h3
    exact_mod_cast h2
  · have hw : (stick S false : ℝ) * 2 ^ (i - 193 + 809) = 2 ^ (i + 809) * ((S + 1 / 2) / 2 ^ 192) := by
      rw [stick_value, if_neg Bool.false_ne_true, show i - 193 + 810 = i + 809 + (-192) by ring, zpow_two_add, zpow_neg,
        show (2 : ℝ) ^ (192 : Int) = 2 ^ 192 from zpow_natCast 2 192]
      ring
    rw [hw, hv', ← mul_sub, abs_mul, abs_of_pos hz, mul_div_assoc]
    refine mul_lt_mul_of_pos_left (lt_of_lt_of_le (b := 1 / 2 ^ 80) ?_ (div_le_div_of_nonneg_right hone (by positivity))) hz
    have e1 : ((S : ℝ) + 1 / 2) / 2 ^ 192 = S / 2 ^ 192 + 1 / 2 ^ 193 := by ring
    have e2 : (1 : ℝ) / 2 ^ 193 + 1 / 2 ^ 170 < 1 / 2 ^ 80 := by norm_num
    have e3 : (0 : ℝ) < 1 / 2 ^ 193 := by positivity
    rw [e1, abs_lt]
    constructor <;> linarith [hnear.1, hnear.2]

/-! ## `vexp2` on a lane (07 R190, Table 7-9) -/

/-- Is an exact value the number x, or its zero? -/
def exactIs (e : Exact) (x : Int) : Bool :=
  match e with
  | .num y => y == x && x != 0
  | .zero n => !n && x == 0
  | _ => false
theorem eq_of_exactIs {e : Exact} {x : Int} (h : exactIs e x = true) : e = exactI x := by
  cases e with
  | nan i => cases h
  | inf n => cases h
  | zero n =>
    obtain ⟨hn, hx⟩ := (Bool.and_eq_true _ _).mp h
    rw [Bool.not_eq_true'] at hn
    rw [hn, exactI, if_pos (eq_of_beq hx)]
  | num y =>
    obtain ⟨hy, hx⟩ := (Bool.and_eq_true _ _).mp h
    rw [eq_of_beq hy, exactI, if_neg (by simpa using hx)]

/-- The powers of two that FP32 holds, and the one below, which is a tie. -/
theorem roundTo_pow : ∀ j : Nat, j < 277 → exactIs (exactOf .f32 (roundTo .f32 .rne 0 (.fin false 1 ((j : Int) - 149))).1) (2 ^ (651 + j)) = true ∧
    (roundTo .f32 .rne 0 (.fin false 1 ((j : Int) - 149))).2 = 0#6 := by decide +kernel
theorem roundTo_tie : roundTo .f32 .rne 0 (.fin false 1 (-150)) = (0, 0x18#6) := by decide +kernel
theorem roundTo_infinity : roundTo .f32 .rne 0 (.inf false) = (0x7F800000, 0#6) := by decide +kernel
theorem roundTo_one : roundTo .f32 .rne 0 (.fin false 1 0) = (0x3F800000, 0#6) := by decide +kernel

/-- Every magnitude below the first halfway point rounds to zero. -/
theorem tiny_rounds {v w : ℝ} (hv : 0 < v) (hw : 0 < w) (hv1 : v < 2 ^ 600) (hw1 : w < 2 ^ 600) {neg : Bool} {c : Nat} {f : BitVec 6}
    (h : FloatRounds .f32 .rne 0 neg (orderOf w) c f) : FloatRounds .f32 .rne 0 neg (orderOf v) c f := by
  have hcode (j : Nat) : 1 ≤ codeVal .f32 (j + 1) := le_trans (Nat.le_add_left 1 j) (codeVal_strictMono .f32).le_apply
  have hle {t : Nat} (ht : 2 ^ 600 ≤ t) : v < t ∧ w < t := by
    have : (2 : ℝ) ^ 600 ≤ t := by exact_mod_cast ht
    exact ⟨hv1.trans_le this, hw1.trans_le this⟩
  have hpow : (2 : Nat) ^ 600 ≤ 2 ^ 651 := Nat.pow_le_pow_right two_pos (by decide)
  refine floatRounds_of_halves hv.le (realOrder_orderOf v) (realOrder_orderOf w) (fun j => ?_) (fun j => ?_) h
  · have ht : 2 ^ 600 ≤ half32 j := by
      rw [half32_eq]
      exact hpow.trans (Nat.le_mul_of_pos_left _ (by have := hcode j; omega))
    exact order_congr (realOrder_orderOf v) (realOrder_orderOf w) (iff_of_false (hle ht).1.le.not_gt (hle ht).2.le.not_gt)
      (iff_of_true (hle ht).1 (hle ht).2)
  · rw [realOrder_eq_iff (realOrder_orderOf v), realOrder_eq_iff (realOrder_orderOf w)]
    cases j with
    | zero =>
      have h0 : rung32 0 = 0 := by rw [rung32, codeVal]; simp
      rw [h0, Nat.cast_zero]
      exact iff_of_false hv.ne hw.ne
    | succ j =>
      have ht : 2 ^ 600 ≤ rung32 (j + 1) := by
        show 2 ^ 600 ≤ 512 * (codeVal .f32 (j + 1) * 2 ^ 651)
        rw [← Nat.mul_assoc]
        exact hpow.trans (Nat.le_mul_of_pos_left _ (by have := hcode j; omega))
      exact iff_of_false (hle ht).1.ne' (hle ht).2.ne'

/-- A number in units of 2^-192, which holds every FP32 value. -/
theorem num_eq_scaled {n : Bool} {m : Nat} {e y : Int} (he : -149 ≤ e) (hy : (y : ℝ) = (if n then -1 else 1) * m * 2 ^ (e + 800)) :
    y = scaled n m e (-192) * 2 ^ 608 := by
  have h := scaled_real n m (show -192 ≤ e by omega)
  have : (y : ℝ) = ((scaled n m e (-192) * 2 ^ 608 : Int) : ℝ) := by
    rw [hy, zpow_two_add, ← mul_assoc, ← h, mul_assoc, ← zpow_two_add]
    push_cast
    rw [← zpow_natCast]
    norm_num
  exact_mod_cast this

theorem exp2V_fin (n : Bool) (m : Nat) (e : Int) : exp2V (.fin n m e) =
    if 128 * 2 ^ 192 ≤ scaled n m e (-192) then (.inf false, OF ||| IX) else (exp2Fin n m e, 0#6) := by
  rw [exp2V]
  cases n with
  | false => simp only [Bool.not_false, Bool.true_and, decide_eq_true_eq, ge_iff_le]
  | true =>
    have : scaled true m e (-192) ≤ 0 := by rw [scaled, if_pos rfl]; exact Int.neg_nonpos_of_nonneg (Int.natCast_nonneg _)
    rw [if_neg (by rw [Bool.not_true, Bool.false_and]; exact Bool.false_ne_true), if_neg (not_le.mpr (this.trans_lt (by positivity)))]

/-- 2^x in units of 2^-809, for x in units of 2^-192. -/
theorem exp2_units {a y : Int} (hy : y = a * 2 ^ 608) : (y : ℝ) / 2 ^ 800 = a / 2 ^ 192 := by
  rw [hy, show (2 : ℝ) ^ 800 = 2 ^ 192 * 2 ^ 608 by rw [← pow_add]]
  push_cast
  exact mul_div_mul_right _ _ (by positivity)

/-- The model's power of two below 128 rounds once. -/
theorem exp2Fin_rounds {n : Bool} {m : Nat} {e : Int} {v : ℝ} (hv : v = 2 ^ 809 * (2 : ℝ) ^ ((scaled n m e (-192) : ℝ) / 2 ^ 192)) (hoff : OffHalves v) :
    ∃ order, RealOrder v order ∧ FloatRounds .f32 .rne 0 false order (roundWith .f32 .rne (exp2Fin n m e, 0#6)).1
      (roundWith .f32 .rne (exp2Fin n m e, 0#6)).2 := by
  unfold exp2Fin
  dsimp only
  generalize scaled n m e (-192) = a at hv ⊢
  have hP : (0 : ℝ) < 2 ^ 192 := by positivity
  split
  · next hlt =>
    have hvp : 0 < v := by rw [hv]; positivity
    have hexp : (a : ℝ) / 2 ^ 192 ≤ ((-256 : Int) : ℝ) := by
      rw [div_le_iff₀ hP]
      have : a ≤ -256 * 2 ^ 192 := by omega
      exact_mod_cast this
    have hv2 : v ≤ 2 ^ (553 : Int) := by
      rw [hv, show (553 : Int) = 809 + -256 by norm_num, zpow_two_add, show (2 : ℝ) ^ (809 : Int) = 2 ^ 809 from zpow_natCast 2 809,
        ← Real.rpow_intCast 2 (-256)]
      exact mul_le_mul_of_nonneg_left (Real.rpow_le_rpow_of_exponent_le one_le_two hexp) (by positivity)
    have hlt600 : (2 : ℝ) ^ (553 : Int) < 2 ^ 600 := by
      rw [← zpow_natCast]; exact zpow_lt_zpow_right₀ one_lt_two (by norm_num)
    have hw : ((1 : Nat) : ℝ) * 2 ^ (-256 + 809 : Int) = 2 ^ (553 : Int) := by rw [Nat.cast_one, one_mul]; norm_num
    refine ⟨orderOf v, realOrder_orderOf v, floatRounds_of_roundTo (tiny_rounds hvp (two_zpow_pos 553) (hv2.trans_lt hlt600) hlt600 ?_)⟩
    exact roundTo_floatRounds rfl one_ne_zero (-256) false (by rw [hw]; exact realOrder_orderOf _)
  · have hdm : (2 : Int) ^ 192 * (a / 2 ^ 192) + a % 2 ^ 192 = a := Int.mul_ediv_add_emod a _
    have hpos : 0 ≤ a % 2 ^ 192 := Int.emod_nonneg _ (by positivity)
    have hlt : a % 2 ^ 192 < 2 ^ 192 := Int.emod_lt_of_pos _ (by positivity)
    generalize a / 2 ^ 192 = i at hdm ⊢
    obtain ⟨f, hf⟩ := Int.eq_ofNat_of_zero_le hpos
    rw [hf] at hdm hlt ⊢
    have ha : (a : ℝ) / 2 ^ 192 = i + f / 2 ^ 192 := by
      rw [← hdm, Int.cast_add, Int.cast_mul, Int.cast_pow, Int.cast_ofNat, Int.cast_natCast, add_div, mul_div_cancel_left₀ _ hP.ne']
    rw [ha] at hv
    rw [Int.toNat_natCast]
    by_cases h0 : f = 0
    · rw [if_pos h0]
      refine ⟨orderOf v, realOrder_orderOf v, floatRounds_of_roundTo (roundTo_floatRounds rfl one_ne_zero i false ?_)⟩
      convert realOrder_orderOf v using 1
      rw [hv, h0, Nat.cast_zero, zero_div, add_zero, Real.rpow_intCast, zpow_two_add, show (2 : ℝ) ^ (809 : Int) = 2 ^ 809 from zpow_natCast 2 809]
      push_cast; ring
    · rw [if_neg h0]
      exact exp2_fraction_rounds (Nat.pos_of_ne_zero h0) (by exact_mod_cast hlt) hv hoff

/-- An integer exponent gives its power of two. -/
theorem exp2Fin_integer {n : Bool} {m : Nat} {e k : Int} (ha : scaled n m e (-192) = k * 2 ^ 192) (hk : -256 ≤ k) : exp2Fin n m e = .fin false 1 k := by
  unfold exp2Fin
  dsimp only
  rw [ha, if_neg (by omega), Int.mul_ediv_cancel _ (by positivity), Int.mul_emod_left]
  rfl

theorem special_vexp2 (g : Guard) (d r : BitVec 6) (q : BitVec 4) {a : Nat} (ha : a < 2 ^ 32) (b : Nat) :
    Special (.vexp2 g d r q) a b (roundWith .f32 .rne (exp2V (valueOf .f32 a))).1 (roundWith .f32 .rne (exp2V (valueOf .f32 a))).2 := by
  obtain ⟨v, x, hv, hx, hM, hb⟩ := f32_operand ha
  unfold Special
  dsimp only
  rw [hv, hx]
  cases hM with
  | nan i => exact rounds_of_nan i
  | inf n => cases n with
    | false => exact rounds_of_means (.inf false)
    | true => exact rounds_of_means (.zero false 0)
  | zero n e =>
    have h0 : scaled n 0 e (-192) = 0 := by cases n <;> simp [scaled]
    rw [exp2V_fin, h0, if_neg (by norm_num), exp2Fin_integer (k := 0) (by rw [h0, zero_mul]) (by norm_num), roundWith_val, roundTo_one]
    exact ⟨rfl, rfl⟩
  | @num n m e y hm hy =>
    have hya := num_eq_scaled (hb n m e rfl).2.1 hy
    have h800 : (2 : Int) ^ 800 = 2 ^ 192 * 2 ^ 608 := by rw [← pow_add]
    have hk (k : Int) : k * 2 ^ 800 = k * 2 ^ 192 * 2 ^ 608 := by rw [h800, mul_assoc]
    have hp : (0 : Int) < 2 ^ 608 := by positivity
    rw [exp2V_fin]
    refine ⟨fun h => ?_, fun k h h1 h2 => ?_, fun h => ?_, fun h hoff => ?_⟩
    · rw [hya, hk] at h
      rw [if_pos (le_of_mul_le_mul_right h hp), roundWith_eq, roundTo_infinity]
      exact ⟨rfl, rfl⟩
    · rw [hya, hk] at h
      have hs := mul_right_cancel₀ hp.ne' h
      rw [if_neg (by rw [hs]; omega), exp2Fin_integer hs (by omega), roundWith_val]
      obtain ⟨j, hj⟩ := Int.eq_ofNat_of_zero_le (show 0 ≤ k + 149 by omega)
      obtain rfl : k = (j : Int) - 149 := by omega
      obtain ⟨hc, hf⟩ := roundTo_pow j (by omega)
      refine ⟨(eq_of_exactIs hc).trans ?_, hf⟩
      rw [exactI, if_neg (by positivity), show (800 + ((j : Int) - 149)).toNat = 651 + j by omega]
    · rw [hya, hk] at h
      have hs := mul_right_cancel₀ hp.ne' h
      rw [if_neg (by rw [hs]; norm_num), exp2Fin_integer hs (by norm_num), roundWith_val, roundTo_tie]
      exact ⟨rfl, rfl⟩
    · rw [hya, hk] at h
      rw [if_neg (not_le.mpr (lt_of_mul_lt_mul_right h hp.le))]
      exact exp2Fin_rounds (by rw [exp2_units hya]) hoff

end Sys2Proof.Proofs

/-! Logarithms (07 R190): the bits of the model are nearer to the exact value than any point where the rounding changes. -/
namespace Sys2Proof.Proofs
open Sys2Proof Sys2Proof.Machine Sys2Proof.Claims

/-! ## The bits of the model -/

theorem half_le_log_two : (1 : ℝ) / 2 ≤ Real.log 2 := by
  have := Real.one_sub_inv_le_log_of_pos (two_pos (α := ℝ))
  norm_num at this ⊢; exact this
theorem log_two_le_one : Real.log 2 ≤ 1 := by
  have := Real.log_le_sub_one_of_pos (two_pos (α := ℝ))
  norm_num at this ⊢; exact this

/-- The logarithm of a quotient rounded down. -/
theorem logb_natDiv {a b P : Nat} (hb : 0 < b) (hP : 0 < P) (h : P ≤ a / b) :
    Real.logb 2 ((a : ℝ) / b) - 2 / P ≤ Real.logb 2 (a / b : Nat) ∧ Real.logb 2 (a / b : Nat) ≤ Real.logb 2 ((a : ℝ) / b) := by
  obtain ⟨h1, h2⟩ := natDiv_bounds a hb
  have hPr : (0 : ℝ) < P := Nat.cast_pos.mpr hP
  have hPn : (P : ℝ) ≤ (a / b : Nat) := Nat.cast_le.mpr h
  generalize ((a / b : Nat) : ℝ) = n at h1 h2 hPn ⊢
  generalize (a : ℝ) / b = x at h1 h2 ⊢
  have hn : 0 < n := hPr.trans_le hPn
  have hx : 0 < x := hn.trans_le h1
  refine ⟨?_, Real.logb_le_logb_of_le one_lt_two hn h1⟩
  rw [sub_le_comm, ← Real.logb_div hx.ne' hn.ne', Real.logb, div_le_iff₀ (Real.log_pos one_lt_two)]
  have hlog : Real.log (x / n) ≤ 1 / P := by
    refine (Real.log_le_sub_one_of_pos (div_pos hx hn)).trans ?_
    rw [div_sub_one hn.ne']
    exact div_le_div₀ zero_le_one (by linarith) hPr hPn
  have h2P : (1 : ℝ) / P ≤ 2 / P * Real.log 2 := by
    rw [div_mul_eq_mul_div]
    exact div_le_div_of_nonneg_right (by linarith [half_le_log_two]) hPr.le
  exact hlog.trans h2P

theorem logb_two_pow (n : Nat) : Real.logb 2 (2 ^ n) = n := by
  rw [← Real.rpow_natCast, Real.logb_rpow two_pos (by norm_num)]

/-- A square in units of 2^-b. -/
theorem logb_square {y b P : Nat} (hy : 0 < y) (hP : 0 < P) (h : P ≤ y * y / 2 ^ b) :
    2 * Real.logb 2 y - b - 2 / P ≤ Real.logb 2 (y * y / 2 ^ b : Nat) ∧ Real.logb 2 (y * y / 2 ^ b : Nat) ≤ 2 * Real.logb 2 y - b := by
  have hy' : (y : ℝ) ≠ 0 := Nat.cast_ne_zero.mpr hy.ne'
  have := logb_natDiv (Nat.two_pow_pos b) hP h
  rwa [Nat.cast_mul, Nat.cast_pow, Nat.cast_ofNat, Real.logb_div (mul_ne_zero hy' hy') (by positivity), Real.logb_mul hy' hy', logb_two_pow,
    ← two_mul] at this

theorem log2Bits_bounds : ∀ (k y acc : Nat), 2 ^ 192 ≤ y → y < 2 ^ 193 →
    (acc : ℝ) * 2 ^ k + 2 ^ k * (Real.logb 2 y - 192) - 1 - 2 ^ k * (2 / (2 ^ 192 : Nat)) ≤ log2Bits k y acc ∧
    (log2Bits k y acc : ℝ) ≤ acc * 2 ^ k + 2 ^ k * (Real.logb 2 y - 192)
  | 0, y, acc, h1, h2 => by
    have hy : (0 : ℝ) < y := Nat.cast_pos.mpr (Nat.lt_of_lt_of_le (Nat.two_pow_pos 192) h1)
    have hge : (2 : ℝ) ^ 192 ≤ y := by exact_mod_cast h1
    have hle : (y : ℝ) ≤ 2 ^ 193 := by exact_mod_cast h2.le
    have l1 := (logb_two_pow 192).symm.trans_le (Real.logb_le_logb_of_le one_lt_two (by positivity) hge)
    have l2 := (Real.logb_le_logb_of_le one_lt_two hy hle).trans_eq (logb_two_pow 193)
    have hδ : (0 : ℝ) ≤ 2 / (2 ^ 192 : Nat) := by positivity
    generalize (2 : ℝ) / (2 ^ 192 : Nat) = δ at hδ ⊢
    rw [log2Bits]
    push_cast at l1 l2
    constructor <;> linarith
  | k + 1, y, acc, h1, h2 => by
    have hy : 0 < y := Nat.lt_of_lt_of_le (Nat.two_pow_pos 192) h1
    have hsq1 : 2 ^ 192 * 2 ^ 192 ≤ y * y := Nat.mul_le_mul h1 h1
    have hsq2 : y * y < 2 ^ 193 * 2 ^ 193 := Nat.mul_lt_mul_of_lt_of_lt h2 h2
    have hp : (0 : ℝ) < 2 ^ k := by positivity
    rw [log2Bits]
    by_cases hz : y * y / 2 ^ 192 ≥ 2 ^ 193
    · rw [if_pos hz]
      have hhalf : y * y / 2 ^ 192 / 2 = y * y / 2 ^ 193 := by
        rw [Nat.div_div_eq_div_mul, ← Nat.pow_succ]
      have l1 : 2 ^ 192 ≤ y * y / 2 ^ 193 := by rw [← hhalf]; omega
      have l2 : y * y / 2 ^ 193 < 2 ^ 193 := Nat.div_lt_of_lt_mul hsq2
      rw [hhalf]
      obtain ⟨ih1, ih2⟩ := log2Bits_bounds k (y * y / 2 ^ 193) (2 * acc + 1) l1 l2
      obtain ⟨s1, s2⟩ := logb_square hy (Nat.two_pow_pos 192) l1
      generalize Real.logb 2 ((y * y / 2 ^ 193 : Nat) : ℝ) = z at *
      generalize (log2Bits k (y * y / 2 ^ 193) (2 * acc + 1) : ℝ) = R at *
      generalize (2 : ℝ) / (2 ^ 192 : Nat) = δ at *
      rw [pow_succ]
      push_cast at *
      constructor <;> nlinarith
    · rw [if_neg hz]
      have l1 : 2 ^ 192 ≤ y * y / 2 ^ 192 := (Nat.le_div_iff_mul_le (Nat.two_pow_pos 192)).mpr hsq1
      obtain ⟨ih1, ih2⟩ := log2Bits_bounds k (y * y / 2 ^ 192) (2 * acc) l1 (Nat.lt_of_not_le hz)
      obtain ⟨s1, s2⟩ := logb_square hy (Nat.two_pow_pos 192) l1
      generalize Real.logb 2 ((y * y / 2 ^ 192 : Nat) : ℝ) = z at *
      generalize (log2Bits k (y * y / 2 ^ 192) (2 * acc) : ℝ) = R at *
      generalize (2 : ℝ) / (2 ^ 192 : Nat) = δ at *
      rw [pow_succ]
      push_cast at *
      constructor <;> nlinarith

/-! ## Logarithms that are no rung -/

theorem natCast_ne_logb {m D : Nat} (hm : m ≠ 0) (hpow : ∀ j, m ≠ 2 ^ j) (hD : D ≠ 0) (e : Int) (N : Nat) : (N : ℝ) ≠ D * |Real.logb 2 m + e| := by
  intro h
  have hD' : (D : ℝ) ≠ 0 := Nat.cast_ne_zero.mpr hD
  have hm' : (0 : ℝ) < m := Nat.cast_pos.mpr (Nat.pos_of_ne_zero hm)
  obtain ⟨J, hJ⟩ : ∃ J : Int, (D : ℝ) * (Real.logb 2 m + e) = J := by
    rcases abs_choice (Real.logb 2 m + e) with ha | ha <;> rw [ha] at h
    · exact ⟨N, by rw [← h]; push_cast; rfl⟩
    · exact ⟨-N, by push_cast; rw [h]; ring⟩
  have hlog : Real.logb 2 m = ((J - e * D : Int) : ℝ) / D := by
    push_cast; rw [← hJ]; field_simp; ring
  have : (m : ℝ) ^ D = 2 ^ (J - e * D) := by
    rw [← Real.rpow_logb two_pos (by norm_num) hm', hlog, ← Real.rpow_natCast, ← Real.rpow_mul zero_le_two, div_mul_cancel₀ _ hD', Real.rpow_intCast]
  obtain ⟨j, hj, -⟩ := eq_two_pow_of_pow hD this
  exact hpow j hj

/-! ## `vlog2` on a lane (07 R190, Table 7-9) -/

theorem sub_inv_le_logb {u : ℝ} (hu : 1 ≤ u) : 1 - u⁻¹ ≤ Real.logb 2 u := by
  have h := Real.one_sub_inv_le_log_of_pos (zero_lt_one.trans_le hu)
  have h0 : 0 ≤ Real.log u := Real.log_nonneg hu
  rw [Real.logb, le_div_iff₀ (Real.log_pos one_lt_two)]
  have := mul_le_mul_of_nonneg_left log_two_le_one (sub_nonneg.mpr (inv_le_one_of_one_le₀ hu))
  linarith

section
variable {m : Nat} (hm : m ≠ 0)
include hm

theorem logb_log2_bounds : (Nat.log2 m : ℝ) ≤ Real.logb 2 m ∧ Real.logb 2 m < Nat.log2 m + 1 := by
  have hpos : (0 : ℝ) < m := Nat.cast_pos.mpr (Nat.pos_of_ne_zero hm)
  have h1 : (2 : ℝ) ^ Nat.log2 m ≤ m := by exact_mod_cast Nat.log2_self_le hm
  have h2 : (m : ℝ) < 2 ^ (Nat.log2 m + 1) := by exact_mod_cast Nat.lt_log2_self (n := m)
  have l1 := Real.logb_le_logb_of_le one_lt_two (by positivity) h1
  have l2 := Real.logb_lt_logb one_lt_two hpos h2
  rw [logb_two_pow] at l1 l2
  exact ⟨l1, by exact_mod_cast l2⟩

/-- A number of 24 bits that is no power of two is off every power of two by 2^-24 of itself, and so is its logarithm off every integer. -/
theorem logb_off_integer (hlt : m < 2 ^ 24) (hpow : m ≠ 2 ^ Nat.log2 m) (e : Int) : 1 / 2 ^ 24 ≤ |Real.logb 2 m + e| := by
  have hpos : (0 : ℝ) < m := Nat.cast_pos.mpr (Nat.pos_of_ne_zero hm)
  have h1 := Nat.log2_self_le hm
  have h2 := Nat.lt_log2_self (n := m)
  have hk : Nat.log2 m + 1 ≤ 24 := (Nat.log2_lt hm).mpr hlt
  generalize Nat.log2 m = k at h1 h2 hk hpow
  have hp : (0 : ℝ) < 2 ^ k := by positivity
  have hge : (2 : ℝ) ^ k + 1 ≤ m := by exact_mod_cast Nat.lt_of_le_of_ne h1 hpow.symm
  have hle : (m : ℝ) + 1 ≤ 2 ^ (k + 1) := by exact_mod_cast h2
  rcases le_or_gt 0 ((k : Int) + e) with he | he
  · have hu : (1 : ℝ) ≤ m / 2 ^ k := by rw [le_div_iff₀ hp]; linarith
    have hl := sub_inv_le_logb hu
    rw [Real.logb_div hpos.ne' hp.ne', logb_two_pow, inv_div, one_sub_div hpos.ne'] at hl
    have hm24 : (m : ℝ) ≤ 2 ^ 24 := by exact_mod_cast hlt.le
    have h3 : (1 : ℝ) / 2 ^ 24 ≤ (m - 2 ^ k) / m := div_le_div₀ (by linarith) (by linarith) hpos hm24
    have he' : (0 : ℝ) ≤ k + e := by exact_mod_cast he
    exact le_trans (by linarith) (le_abs_self _)
  · have hp1 : (0 : ℝ) < 2 ^ (k + 1) := by positivity
    have hu : (1 : ℝ) ≤ 2 ^ (k + 1) / m := by rw [le_div_iff₀ hpos]; linarith
    have hl := sub_inv_le_logb hu
    rw [Real.logb_div hp1.ne' hpos.ne', logb_two_pow, inv_div, one_sub_div hp1.ne'] at hl
    have h24 : (2 : ℝ) ^ (k + 1) ≤ 2 ^ 24 := pow_le_pow_right₀ one_le_two hk
    have h3 : (1 : ℝ) / 2 ^ 24 ≤ (2 ^ (k + 1) - m) / 2 ^ (k + 1) := div_le_div₀ (by linarith) (by linarith) hp1 h24
    have he' : (k : ℝ) + e + 1 ≤ 0 := by exact_mod_cast he
    push_cast at hl
    exact le_trans (by linarith) (neg_le_abs _)

/-- The fraction of a logarithm, in 128 bits. -/
theorem log2_fraction (hk : Nat.log2 m ≤ 192) :
    |(log2Bits 128 (m * 2 ^ (192 - Nat.log2 m)) 0 : ℝ) / 2 ^ 128 - (Real.logb 2 m - Nat.log2 m)| ≤ 1 / 2 ^ 127 ∧
    log2Bits 128 (m * 2 ^ (192 - Nat.log2 m)) 0 < 2 ^ 128 := by
  have hm' : (m : ℝ) ≠ 0 := Nat.cast_ne_zero.mpr hm
  obtain ⟨l1, l2⟩ := logb_log2_bounds hm
  have h1 := Nat.log2_self_le hm
  have h2 := Nat.lt_log2_self (n := m)
  generalize Nat.log2 m = k at *
  have hy1 : 2 ^ 192 ≤ m * 2 ^ (192 - k) := by
    have := Nat.mul_le_mul_right (2 ^ (192 - k)) h1
    rwa [← Nat.pow_add, Nat.add_sub_cancel' hk] at this
  have hy2 : m * 2 ^ (192 - k) < 2 ^ 193 := by
    have := Nat.mul_lt_mul_of_pos_right h2 (Nat.two_pow_pos (192 - k))
    rwa [← Nat.pow_add, show k + 1 + (192 - k) = 193 by omega] at this
  have hlog : Real.logb 2 ((m * 2 ^ (192 - k) : Nat) : ℝ) = Real.logb 2 m + 192 - k := by
    rw [Nat.cast_mul, Nat.cast_pow, Nat.cast_ofNat, Real.logb_mul hm' (by positivity), logb_two_pow, Nat.cast_sub hk]
    push_cast; ring
  obtain ⟨b1, b2⟩ := log2Bits_bounds 128 _ 0 hy1 hy2
  rw [hlog] at b1 b2
  generalize log2Bits 128 (m * 2 ^ (192 - k)) 0 = fr at b1 b2 ⊢
  have hfr : (fr : ℝ) < 2 ^ 128 := by
    refine b2.trans_lt ?_
    push_cast
    have := mul_lt_mul_of_pos_left (show Real.logb 2 m + 192 - k - 192 < 1 by linarith) (show (0 : ℝ) < 2 ^ 128 by positivity)
    linarith
  refine ⟨?_, by exact_mod_cast hfr⟩
  have e1 : (fr : ℝ) = fr / 2 ^ 128 * 2 ^ 128 := by field_simp
  generalize (fr : ℝ) / 2 ^ 128 = x at *
  rw [e1] at b1 b2
  norm_num at b1 b2 ⊢
  rw [abs_le]
  constructor <;> linarith
end

/-- The model's logarithm of a number that is no power of two. -/
def logTotal (m : Nat) (e : Int) : Int := 2 * (((Nat.log2 m : Int) + e) * 2 ^ 128 + log2Bits 128 (m * 2 ^ (192 - Nat.log2 m)) 0) + 1
theorem log2Fin_fraction {m : Nat} (hpow : m ≠ 2 ^ Nat.log2 m) (e : Int) :
    log2Fin m e = .fin (decide (logTotal m e < 0)) (logTotal m e).natAbs (-129) := if_neg hpow
theorem log2Fin_pow {m : Nat} (hpow : m = 2 ^ Nat.log2 m) (e : Int) : log2Fin m e = .ofInt ((Nat.log2 m : Int) + e) := if_pos hpow

theorem logTotal_near {m : Nat} (hm : m ≠ 0) (hk : Nat.log2 m ≤ 192) (e : Int) : |(logTotal m e : ℝ) / 2 ^ 129 - (Real.logb 2 m + e)| ≤ 1 / 2 ^ 126 := by
  have h := abs_le.mp (log2_fraction hm hk).1
  unfold logTotal
  generalize log2Bits 128 (m * 2 ^ (192 - Nat.log2 m)) 0 = fr at h ⊢
  have e1 : ((2 * (((Nat.log2 m : Int) + e) * 2 ^ 128 + fr) + 1 : Int) : ℝ) / 2 ^ 129 = Nat.log2 m + e + fr / 2 ^ 128 + 1 / 2 ^ 129 := by
    push_cast; ring
  rw [e1, abs_le]
  generalize (fr : ℝ) / 2 ^ 128 = x at *
  norm_num at h ⊢
  constructor <;> linarith [h.1, h.2]
theorem logTotal_neg_iff {m : Nat} (hm : m ≠ 0) (hk : Nat.log2 m ≤ 192) (e : Int) : logTotal m e < 0 ↔ (Nat.log2 m : Int) + e < 0 := by
  have h := (log2_fraction hm hk).2
  unfold logTotal
  omega

/-- A logarithm that is no integer rounds once. -/
theorem log2_fraction_rounds {m : Nat} (hm : m ≠ 0) (hlt : m < 2 ^ 24) (hpow : m ≠ 2 ^ Nat.log2 m) (e : Int) {v : ℝ}
    (hv : v = 2 ^ 809 * |Real.logb 2 m + e|) (hoff : OffHalves v) (neg : Bool) : ∃ order, RealOrder v order ∧
    FloatRounds .f32 .rne 0 neg order (roundWith .f32 .rne (.fin neg (logTotal m e).natAbs (-129), 0#6)).1
      (roundWith .f32 .rne (.fin neg (logTotal m e).natAbs (-129), 0#6)).2 := by
  have hk : Nat.log2 m < 24 := (Nat.log2_lt hm).mpr hlt
  have hoffint := logb_off_integer hm hlt hpow e
  have hnear := (abs_abs_sub_abs_le _ _).trans (logTotal_near hm (by omega) e)
  have hne (N : Nat) : (N : ℝ) ≠ v := by
    have hall (j : Nat) : m ≠ 2 ^ j := fun h => hpow (by rw [h, Nat.log2_two_pow])
    have := natCast_ne_logb hm hall (D := 2 ^ 809) (pow_ne_zero _ two_ne_zero) e N
    rwa [Nat.cast_pow, Nat.cast_ofNat, ← hv] at this
  have hodd : (logTotal m e).natAbs = stick ((logTotal m e).natAbs / 2) false := by
    rw [stick, if_neg Bool.false_ne_true]
    unfold logTotal; omega
  rw [abs_div, abs_of_pos (show (0 : ℝ) < 2 ^ 129 by positivity), ← Int.cast_abs, Int.abs_eq_natAbs, Int.cast_natCast] at hnear
  rw [hodd] at hnear ⊢
  generalize (logTotal m e).natAbs / 2 = Q at hnear ⊢
  generalize |Real.logb 2 m + e| = L at *
  have hL : 0 < L := lt_of_lt_of_le (by positivity) hoffint
  have hP : (0 : ℝ) < 2 ^ 809 := by positivity
  have hvp : 0 < v := by rw [hv]; exact mul_pos hP hL
  have hnear' := abs_le.mp hnear
  refine floatRounds_of_near hvp hoff hne (q := Q) (e := -129) ?_ ?_ neg
  · have h1 : (1 : ℝ) / 2 ^ 25 ≤ (stick Q false : ℝ) / 2 ^ 129 := by
      have : (1 : ℝ) / 2 ^ 25 + 1 / 2 ^ 126 ≤ 1 / 2 ^ 24 := by norm_num
      linarith [hnear'.1]
    rw [le_div_iff₀ (by positivity)] at h1
    have h2 : ((2 ^ 27 : Nat) : ℝ) ≤ (stick Q false : ℝ) := le_trans (by norm_num) h1
    have h3 : 2 ^ 27 ≤ stick Q false := by exact_mod_cast h2
    rw [stick, if_neg Bool.false_ne_true] at h3
    omega
  · have hw : (stick Q false : ℝ) * 2 ^ (-129 + 809 : Int) = 2 ^ 809 * (stick Q false / 2 ^ 129) := by
      rw [add_comm, zpow_two_add, zpow_neg, show (2 : ℝ) ^ (809 : Int) = 2 ^ 809 from zpow_natCast 2 809,
        show (2 : ℝ) ^ (129 : Int) = 2 ^ 129 from zpow_natCast 2 129]
      ring
    rw [hw, hv, ← mul_sub, abs_mul, abs_of_pos hP, mul_div_assoc]
    refine mul_lt_mul_of_pos_left (hnear.trans_lt ?_) hP
    have : (1 : ℝ) / 2 ^ 126 < 1 / 2 ^ 24 / 2 ^ 80 := by norm_num
    exact this.trans_le (div_le_div_of_nonneg_right hoffint (by positivity))

/-- FP32 holds every integer logarithm. -/
theorem roundTo_integer : ∀ j : Nat, j < 278 → exactIs (exactOf .f32 (roundTo .f32 .rne 0 (.ofInt ((j : Int) - 149))).1) (((j : Int) - 149) * 2 ^ 800) = true ∧
    (roundTo .f32 .rne 0 (.ofInt ((j : Int) - 149))).2 = 0#6 := by decide +kernel

/-- Zero is the least rung. -/
theorem chosen_zero {rung : Nat → Nat} (hr : StrictMono rung) (h0 : rung 0 = 0) (tieLow : Nat → Bool) :
    Chosen rung tieLow .rne 0 (orderOf 0) 0 0 ∧ orderOf 0 (512 * rung 0) = .eq := by
  have ho := realOrder_orderOf 0
  have heq : orderOf 0 (512 * rung 0) = .eq := (realOrder_eq_iff ho _).mpr (by rw [h0]; simp)
  have hpos : rung 0 < rung 1 := hr Nat.zero_lt_one
  refine ⟨⟨?_, (ho _).2.mpr (Nat.cast_pos.mpr ?_), (if_pos heq).symm⟩, heq⟩
  · rw [heq]; exact nofun
  · show 0 < 512 * rung 1
    omega
theorem zero_rounds : FloatRounds .f32 .rne 0 false (orderOf 0) (roundWith .f32 .rne (.fin false 0 0, 0#6)).1 (roundWith .f32 .rne (.fin false 0 0, 0#6)).2 := by
  obtain ⟨hch, heq⟩ := chosen_zero (rungs_strictMono .f32) (by rw [codeVal]; simp) fun k => k % 2 == 0
  rw [roundWith_val, roundTo_zero .rne 0 rfl, signBit_eq rfl]
  exact ⟨0, 0, hch, rfl, by rw [if_neg (Nat.not_lt_zero _), if_pos heq]⟩

section
variable {m : Nat} {e y : Int} (hm : m ≠ 0) (hy : (y : ℝ) = m * 2 ^ (e + 800))
include hm hy

theorem logb_number : Real.logb 2 ((y : ℝ) / 2 ^ 800) = Real.logb 2 m + e := by
  have hm' : (m : ℝ) ≠ 0 := Nat.cast_ne_zero.mpr hm
  rw [hy, zpow_two_add, show (2 : ℝ) ^ (800 : Int) = 2 ^ 800 from zpow_natCast 2 800, ← mul_assoc, mul_div_cancel_right₀ _ (by positivity),
    Real.logb_mul hm' (two_zpow_pos e).ne', ← Real.rpow_intCast 2 e, Real.logb_rpow two_pos (by norm_num)]
theorem number_lt_one_iff : y < 2 ^ 800 ↔ (Nat.log2 m : Int) + e < 0 := by
  have hpos : 0 < (y : ℝ) / 2 ^ 800 := by
    rw [hy]; exact div_pos (mul_pos (Nat.cast_pos.mpr (Nat.pos_of_ne_zero hm)) (two_zpow_pos _)) (by positivity)
  obtain ⟨l1, l2⟩ := logb_log2_bounds hm
  have h1 : y < 2 ^ 800 ↔ (y : ℝ) / 2 ^ 800 < 1 := by rw [div_lt_one (by positivity)]; exact_mod_cast Iff.rfl
  rw [h1, ← Real.logb_neg_iff one_lt_two hpos, logb_number hm hy]
  constructor
  · intro h
    have : ((Nat.log2 m : Int) : ℝ) + e < 0 := by push_cast; linarith
    exact_mod_cast this
  · intro h
    have : ((Nat.log2 m : Int) : ℝ) + e + 1 ≤ 0 := by exact_mod_cast h
    push_cast at this
    linarith
end

theorem logb_pow {m : Nat} (h : m = 2 ^ Nat.log2 m) : Real.logb 2 m = Nat.log2 m := by
  conv_lhs => rw [h, Nat.cast_pow, Nat.cast_ofNat, logb_two_pow]

/-- The logarithm of a power of two rounds once, without an error. -/
theorem log2_integer_rounds {i : Int} {v : ℝ} (hv : v = 2 ^ 809 * |(i : ℝ)|) : FloatRounds .f32 .rne 0 (decide (i < 0)) (orderOf v)
    (roundWith .f32 .rne (.ofInt i, 0#6)).1 (roundWith .f32 .rne (.ofInt i, 0#6)).2 := by
  by_cases h0 : i = 0
  · rw [h0, Int.cast_zero, abs_zero, mul_zero] at hv
    rw [hv, h0]
    exact zero_rounds
  · have hv' : (i.natAbs : ℝ) * 2 ^ (0 + 809 : Int) = v := by
      rw [hv, zero_add, show (2 : ℝ) ^ (809 : Int) = 2 ^ 809 from zpow_natCast 2 809, Nat.cast_natAbs, Int.cast_abs, mul_comm]
    refine floatRounds_of_roundTo (roundTo_floatRounds rfl (Int.natAbs_ne_zero.mpr h0) 0 _ ?_)
    rw [hv']; exact realOrder_orderOf v

theorem special_vlog2 (g : Guard) (d r : BitVec 6) (q : BitVec 4) {a : Nat} (ha : a < 2 ^ 32) (b : Nat) :
    Special (.vlog2 g d r q) a b (roundWith .f32 .rne (log2V (valueOf .f32 a))).1 (roundWith .f32 .rne (log2V (valueOf .f32 a))).2 := by
  obtain ⟨v, x, hv, hx, hM, hb⟩ := f32_operand ha
  unfold Special
  dsimp only
  rw [hv, hx]
  cases hM with
  | nan i => exact rounds_of_nan i
  | inf n => cases n with
    | false => exact rounds_of_means (.inf false)
    | true => exact rounds_of_nan true
  | zero n e =>
    rw [log2V, if_pos rfl, roundWith_divide]
    exact ⟨rfl, rfl⟩
  | @num n m e y hm hy =>
    have hn := num_neg_iff hm hy
    rw [log2V, if_neg hm]
    dsimp only
    cases n with
    | true =>
      have hlt := of_decide_eq_true hn
      rw [if_pos rfl]
      refine ⟨fun _ => rounds_of_nan true, fun k h => absurd h ?_, fun h => absurd hlt h.le.not_gt⟩
      exact (hlt.trans (by positivity)).ne
    | false =>
      rw [if_neg Bool.false_ne_true]
      obtain ⟨hlt, he1, he2⟩ := hb false m e rfl
      rw [if_neg Bool.false_ne_true, one_mul] at hy
      have hsign := number_lt_one_iff hm hy
      refine ⟨fun h => absurd h (of_decide_eq_false hn), fun k h => ?_, fun _ => ?_⟩
      · have hmk : (m : ℝ) ^ 1 = 2 ^ ((k : Int) - e - 800) := by
          rw [pow_one, show (k : Int) - e - 800 = k + -(e + 800) by ring, zpow_two_add, zpow_neg, ← div_eq_mul_inv, eq_div_iff (two_zpow_pos _).ne', ← hy, h]
          push_cast; rw [zpow_natCast]
        obtain ⟨j, rfl, hj⟩ := eq_two_pow_of_pow one_ne_zero hmk
        have hj24 : j < 24 := (Nat.pow_lt_pow_iff_right one_lt_two).mp hlt
        rw [log2Fin_pow (by rw [Nat.log2_two_pow]), Nat.log2_two_pow, roundWith_val]
        obtain ⟨i, hi⟩ := Int.eq_ofNat_of_zero_le (show 0 ≤ (j : Int) + e + 149 by omega)
        obtain ⟨hc, hf⟩ := roundTo_integer i (by omega)
        rw [show (j : Int) + e = i - 149 by omega, show (k : Int) - 800 = i - 149 by omega]
        exact ⟨eq_of_exactIs hc, hf⟩
      · rw [logb_number hm hy]
        intro hoff
        by_cases hpow : m = 2 ^ Nat.log2 m
        · rw [log2Fin_pow hpow, decide_eq_decide.mpr hsign]
          exact ⟨_, realOrder_orderOf _, log2_integer_rounds (by rw [logb_pow hpow]; push_cast; rfl)⟩
        · have hk : Nat.log2 m < 24 := (Nat.log2_lt hm).mpr hlt
          rw [log2Fin_fraction hpow, decide_eq_decide.mpr (hsign.trans (logTotal_neg_iff hm (by omega) e).symm)]
          exact log2_fraction_rounds hm hlt hpow e rfl hoff _

/-! ## The obligation -/

/-- A special function of one operand, lane by lane. -/
theorem special_lanes {g : Guard} {s : State} (hg : s.guard g = true) (d r : BitVec 6) (q : BitVec 4) (lat : Nat) {f : Val → Val × Fl} {i : Instr}
    {B : Nat → Nat}
    (hf : ∀ {a : Nat}, a < 2 ^ 32 → ∀ b, Special i a b (roundWith .f32 .rne (f (valueOf .f32 a))).1 (roundWith .f32 .rne (f (valueOf .f32 a))).2) :
    ∃ x fs, (∀ k, k < 64 → Special i (laneN (s.vv r) 32 k) (B k) (laneN x 32 k) (fs k)) ∧
      opSpecial g d r q lat f s = .next (queue s ((lat, 3, .v d.toNat (s.qv q) x) :: toF 3 lat (laneFlags (s.qv q) 32 fs 64))) :=
  opLanes_gives (ty := .f32) (g := g) hg .vb d q lat (R := fun k c f => Special i (laneN (s.vv r) 32 k) (B k) c f) fun k _ =>
    ⟨by rw [laneN_eq_lane]; exact hf (by rw [← laneN_eq_lane]; exact laneN_lt _ _ _) _, roundWith_lt _ _ _⟩

theorem special_functions_round {i : Instr} {s : State} {g : Guard} {lat : Nat} {d : BitVec 6} {q : BitVec 4} {rs : List (BitVec 6)}
    (hi : floatOp i = some (g, 3, lat, d, q, .f32, rs)) (hlat : 16 ≤ lat) (hg : s.guard g = true) :
    ∃ x fs, (∀ k, k < 64 → Special i (laneN (s.vv (rs.getD 0 0#6)) 32 k) (laneN (s.vv (rs.getD 1 0#6)) 32 k) (laneN x 32 k) (fs k)) ∧
      exec i s = .next (queue s ((lat, 3, .v d.toNat (s.qv q) x) :: toF 3 lat (laneFlags (s.qv q) 32 fs 64))) := by
  unfold floatOp at hi
  split at hi
  case h_9 => cases hi; rw [exec_vrcp]; exact special_lanes hg _ _ _ _ fun ha => special_vrcp _ _ _ _ ha
  case h_10 => cases hi; rw [exec_vrsq]; exact special_lanes hg _ _ _ _ fun ha => special_vrsq _ _ _ _ ha
  case h_11 => cases hi; rw [exec_vexp2]; exact special_lanes hg _ _ _ _ fun ha => special_vexp2 _ _ _ _ ha
  case h_12 => cases hi; rw [exec_vlog2]; exact special_lanes hg _ _ _ _ fun ha => special_vlog2 _ _ _ _ ha
  case h_13 => cases hi; rw [exec_vsqrt]; exact special_lanes hg _ _ _ _ fun ha => special_vsqrt _ _ _ _ ha
  case h_14 a b _ =>
    cases hi
    rw [exec_vdiv]
    refine opLanes_gives (ty := .f32) (g := g) hg .vb d q 20 (R := fun k c f => Special _ (laneN (s.vv a) 32 k) (laneN (s.vv b) 32 k) c f) fun k _ =>
      ⟨?_, roundWith_lt _ _ _⟩
    rw [← laneN_eq_lane, ← laneN_eq_lane]
    exact special_vdiv _ _ _ _ _ (laneN_lt _ _ _) (laneN_lt _ _ _)
  case h_15 => cases hi
  all_goals
    simp only [Option.some.injEq, Prod.mk.injEq] at hi
    omega

/-- Settles O22: a NaN operand gives the canonical NaN, and the special functions give their special cases or the value rounded once. -/
theorem naNsAreCanonical : Obligations.NaNsAreCanonical := by
  unfold Obligations.NaNsAreCanonical
  exact ⟨fun i s g lat d q rs hi hlat hg => special_functions_round hi hlat hg, fun i s g sc lat d q ty rs hi hwf hg => nan_lanes_canonical hi hwf hg⟩

end Sys2Proof.Proofs

/-! Slot operations keep every memory in canonical form (05 R120, 06 to 10): they queue writes, raise records, or change registers, row
states and the lists of pending work; the block table and the vault columns change through `Mem.put` alone. -/
namespace Sys2Proof.Machine
open Sys2Proof

/-! ## Outcomes -/

theorem allNext_slotOp {g : Guard} {s : State} {f : State → State} (h : s.memOk) (hf : (f s).memOk) :
    allNext State.memOk (slotOp g s f) := by
  show (if s.guard g then f s else s).memOk
  exact State.memOk_ite hf h
theorem allNext_ite {P : State → Prop} {p : Prop} [Decidable p] {a b : Host.Outcome State Fault Refusal} (ha : allNext P a)
    (hb : allNext P b) : allNext P (if p then a else b) := by
  split
  · exact ha
  · exact hb
/-- An event of a unit that the package may not have: only its effect on a unit of the package matters. -/
theorem allNext_unit {P : State → Prop} {p : Prop} [Decidable p] {a : Host.Outcome State Fault Refusal} (ha : allNext P a) :
    allNext P (if p then a else .fault .noSuchUnit) := allNext_ite ha trivial

theorem State.memOk_checked {s : State} {f : State → State} (slot : Nat) (xs : List Fail) (h : s.memOk) (hf : (f s).memOk) :
    (s.checked slot xs f).memOk := by
  unfold State.checked
  split
  · exact hf
  · exact memOk_foldl (fun _ x hs => memOk_raise slot x hs) _ h

/-! ## S slot (06 R139 to R146) -/

theorem allNext_opS3 {g : Guard} {sd sa sb : BitVec 6} {lat : Nat} {f : Word → Word → Word} {s : State} (h : s.memOk) :
    allNext State.memOk (opS3 g sd sa sb lat f s) := allNext_slotOp h (State.memOk_postS _ _ _ _ h)
theorem allNext_opS2 {g : Guard} {sd sa : BitVec 6} {f : Word → Word} {s : State} (h : s.memOk) :
    allNext State.memOk (opS2 g sd sa f s) := allNext_slotOp h (State.memOk_postS _ _ _ _ h)
theorem allNext_opDiv {g : Guard} {sd sa sb : BitVec 6} {f : Word → Word → Word} {s : State} (h : s.memOk) :
    allNext State.memOk (opDiv g sd sa sb f s) :=
  have hs := State.memOk_postS _ _ _ _ h
  allNext_slotOp h (State.memOk_ite (State.memOk_postF _ _ _ hs) hs)
theorem State.memOk_postCmp {s : State} (d : CmpDest) (c : Bool) (h : s.memOk) : (s.postCmp d c).memOk := by
  cases d with
  | pair k => exact memOk_postP _ _ _ _ (memOk_postP _ _ _ _ h)
  | steer n => exact memOk_post _ _ _ h
theorem allNext_opPL {g : Guard} {pd pa pb : BitVec 5} {na nb : Bool} {f : Bool → Bool → Bool} {s : State} (h : s.memOk) :
    allNext State.memOk (opPL g pd pa pb na nb f s) := allNext_slotOp h (State.memOk_postP _ _ _ _ h)

/-- A journalled operation keeps the form where its effect on the block table does. -/
theorem State.memOk_blkApply {s : State} {f : BlkSt → BlkSt} (key : Word) (sd : BitVec 6) (at_ : List Nat) (r : Word) (h : s.memOk)
    (hf : ∀ b : BlkSt, b.mem.wf = true → (f b).mem.wf = true) : (s.blkApply key sd at_ f r).memOk :=
  memOk_ite (memOk_raise _ _ h)
    (memOk_postS _ _ _ _ (memOk_modCt h fun _ hy => ⟨hy.1, hy.2.1, hf _ hy.2.2⟩))
theorem execBlkx_keeps (g : Guard) (sd sa : BitVec 6) {s : State} (h : s.memOk) : allNext State.memOk (execBlkx g sd sa s) := by
  refine allNext_slotOp h ?_
  split
  · exact State.memOk_raise _ _ h
  · exact State.memOk_postS _ _ _ _ h
theorem execBlkalloc_keeps (g : Guard) (sd sa : BitVec 6) {s : State} (h : s.memOk) :
    allNext State.memOk (execBlkalloc g sd sa s) := by
  refine allNext_slotOp h ?_
  dsimp only
  split
  · exact State.memOk_raise _ _ h
  · refine State.memOk_ite (State.memOk_blkApply _ _ _ _ h fun _ hb => hb) ?_
    exact State.memOk_blkApply _ _ _ _ h fun _ _ => Mem.putN_wf _ _ _ (Mem.putN_wf _ _ _ (h.1 _).2.2)
theorem execBlkref_keeps (g : Guard) (sd sa sb : BitVec 6) {s : State} (h : s.memOk) :
    allNext State.memOk (execBlkref g sd sa sb s) := by
  refine allNext_slotOp h ?_
  dsimp only
  split
  · exact State.memOk_raise _ _ h
  · refine State.memOk_ite (State.memOk_raise _ _ h) ?_
    exact State.memOk_blkApply _ _ _ _ h fun _ _ => Mem.putN_wf _ _ _ (Mem.putN_wf _ _ _ (h.1 _).2.2)
theorem execBlkfree_keeps (g : Guard) (sd sa : BitVec 6) {s : State} (h : s.memOk) :
    allNext State.memOk (execBlkfree g sd sa s) := by
  refine allNext_slotOp h ?_
  dsimp only
  split
  · exact State.memOk_raise _ _ h
  · refine State.memOk_blkApply _ _ _ _ h fun _ _ => ?_
    split <;> exact Mem.putN_wf _ _ _ (Mem.putN_wf _ _ _ (h.1 _).2.2)

/-! ## Vector slots (07) -/

theorem State.memOk_postLanes {s : State} (u : VSlot) (lat : Nat) (vd : BitVec 6) (m : Mask) (w n : Nat) (r : Nat → Nat × Fl)
    (h : s.memOk) : (s.postLanes u lat vd m w n r).memOk := memOk_postF _ _ _ (memOk_postV _ _ _ _ _ h)
theorem State.memOk_postCmpQ {s : State} (u : VSlot) (lat : Nat) (qd q : BitVec 4) (w : Nat) (r : Nat → Bool × Fl) (h : s.memOk) :
    (s.postCmpQ u lat qd q w r).memOk := memOk_postF _ _ _ (memOk_postQ _ _ _ _ _ h)
theorem allNext_opLanes {g : Guard} {u : VSlot} {vd : BitVec 6} {q : BitVec 4} {w lat : Nat} {r : State → Nat → Nat × Fl} {s : State}
    (h : s.memOk) : allNext State.memOk (opLanes g u vd q w lat r s) := allNext_slotOp h (State.memOk_postLanes _ _ _ _ _ _ _ h)
theorem allNext_opPlain {g : Guard} {u : VSlot} {vd : BitVec 6} {q : BitVec 4} {w lat : Nat} {r : State → Nat → Nat} {s : State}
    (h : s.memOk) : allNext State.memOk (opPlain g u vd q w lat r s) := allNext_slotOp h (State.memOk_postV _ _ _ _ _ h)
theorem allNext_opLogic {g : Guard} {u : VSlot} {vd va vb : BitVec 6} {q : BitVec 4} {f : Vec → Vec → Vec} {s : State} (h : s.memOk) :
    allNext State.memOk (opLogic g u vd va vb q f s) := allNext_slotOp h (State.memOk_postV _ _ _ _ _ h)
theorem allNext_opVq {g : Guard} {u : VSlot} {qd qa qb : BitVec 4} {f : Mask → Mask → Mask} {s : State} (h : s.memOk) :
    allNext State.memOk (opVq g u qd qa qb f s) := allNext_slotOp h (State.memOk_postQ _ _ _ _ _ h)

/-! ## L slot (08 R191 to R197) -/

theorem State.memOk_postInc {s : State} (base : BitVec 5) (off : BitVec 12) (pi : Bool) (h : s.memOk) :
    (s.postInc base off pi).memOk := memOk_ite (memOk_postS _ _ _ _ h) h
theorem State.memOk_postLine {s : State} (sc lat kind a : Nat) (mask : Mask) (x : Vec) (h : s.memOk) :
    (s.postLine sc lat kind a mask x).memOk := memOk_post _ _ _ h
theorem allNext_opLM {opc len : Nat} {g : Guard} {base : BitVec 5} {off : BitVec 12} {pi : Bool} {s : State} {f : State → Nat → State}
    (h : s.memOk) (hf : ∀ a, (f s a).memOk) : allNext State.memOk (opLM opc len g base off pi s f) := by
  refine allNext_slotOp h ?_
  dsimp only
  split
  · exact State.memOk_raise _ _ h
  · exact State.memOk_postInc _ _ _ (hf _)
theorem allNext_opLG {opc : Nat} {g : Guard} {vi : BitVec 6} {base : BitVec 5} {q : BitVec 4} {w : Nat} {s : State}
    {f : State → Word → Vec → Mask → State} (h : s.memOk) (hf : ∀ b ix m, (f s b ix m).memOk) :
    allNext State.memOk (opLG opc g vi base q w s f) := by
  refine allNext_slotOp h ?_
  dsimp only
  split
  · exact State.memOk_raise _ _ h
  · exact hf _ _ _
theorem execStgV_keeps (g : Guard) (vs vi : BitVec 6) (base : BitVec 5) (q : BitVec 4) (ty : Ty) {s : State} (h : s.memOk) :
    allNext State.memOk (execStgV g vs vi base q ty s) :=
  allNext_opLG h fun _ _ _ => State.memOk_foldl (fun _ _ hs => State.memOk_post _ _ _ hs) _ h
theorem execLcopy_keeps (g : Guard) (sd ss : BitVec 6) (cnt : BitVec 12) {s : State} (h : s.memOk) :
    allNext State.memOk (execLcopy g sd ss cnt s) :=
  allNext_slotOp h (State.memOk_checked _ _ h (State.memOk_modCt h fun _ hy => hy))
theorem State.memOk_sendPush {s : State} (x : Word) (data : Vec) (h : s.memOk) : (s.sendPush x data).memOk :=
  memOk_modCoach (memOk_modPkg h fun _ hp => hp) fun _ hk => hk
theorem execPushV_keeps (g : Guard) (vs dsc : BitVec 6) {s : State} (h : s.memOk) : allNext State.memOk (execPushV g vs dsc s) := by
  refine allNext_slotOp h ?_
  split
  · exact State.memOk_raise _ _ h
  · exact State.memOk_sendPush _ _ h
theorem execPushl_keeps (g : Guard) (sl dsc : BitVec 6) {s : State} (h : s.memOk) : allNext State.memOk (execPushl g sl dsc s) :=
  allNext_slotOp h (State.memOk_checked _ _ h (State.memOk_sendPush _ _ h))

/-! ## M slot (09) and X slot (08 R206, R207) -/

theorem State.memOk_withExtent {s : State} {f : State → State} (opc : Nat) (a : Word) (len : Nat) (h : s.memOk) (hf : (f s).memOk) :
    (s.withExtent opc a len f).memOk := memOk_checked _ _ h hf
theorem execMldb_keeps (g : Guard) (ty : Ty) (x : BitVec 1) (f : BitVec 3) (sa : BitVec 6) (n : BitVec 4) (sb : Bool) {s : State}
    (h : s.memOk) : allNext State.memOk (execMldb g ty x f sa n sb s) :=
  allNext_slotOp h (State.memOk_checked _ _ h (State.memOk_modCt h fun _ hy => hy))
theorem State.memOk_startMmul {s : State} (sa : BitVec 6) (op : MmulOp) (h : s.memOk) : (s.startMmul sa op).memOk :=
  memOk_checked _ _ h (memOk_modCt h fun _ hy => hy)
theorem execMmulTableMode_keeps (g : Guard) (ad : BitVec 3) (x : BitVec 1) (sa : BitVec 6) (n : BitVec 4) (c : Bool) (l : BitVec 2)
    {s : State} (h : s.memOk) : allNext State.memOk (execMmulTableMode g ad x sa n c l s) := by
  refine allNext_slotOp h ?_
  dsimp only
  split
  · exact State.memOk_raise _ _ h
  · exact State.memOk_startMmul _ _ h
theorem State.memOk_postA {s : State} (lat : Nat) (ad : BitVec 3) (x : Acc) (h : s.memOk) : (s.postA lat ad x).memOk := memOk_post _ _ _ h
theorem State.memOk_postBlock {s : State} (lat a w : Nat) (es : Array Nat) (n k : Nat) (h : s.memOk) :
    (s.postBlock lat a w es k n).memOk := by
  induction n generalizing s k with
  | zero => exact h
  | succ n ih => exact ih _ (memOk_postLine _ _ _ _ _ _ h)
theorem State.memOk_storeAcc {s : State} (as : BitVec 3) (sa : BitVec 6) (i32 : Bool) (ty : Ty) (mode : RMode) (lat : Nat) (h : s.memOk) :
    (s.storeAcc as sa i32 ty mode lat).memOk := memOk_withExtent _ _ _ h (memOk_postF _ _ _ (memOk_postBlock _ _ _ _ _ _ h))
theorem execMstTableMode_keeps (g : Guard) (as : BitVec 3) (sa : BitVec 6) (l : BitVec 2) {s : State} (h : s.memOk) :
    allNext State.memOk (execMstTableMode g as sa l s) := by
  refine allNext_slotOp h ?_
  split
  · exact State.memOk_raise _ _ h
  · exact State.memOk_storeAcc _ _ _ _ _ _ h
theorem State.memOk_mapAcc {s : State} (ad : BitVec 3) (f : Nat → W32 → W32 × Fl) (h : s.memOk) : (s.mapAcc ad f).memOk :=
  memOk_postF _ _ _ (memOk_postA _ _ _ h)
theorem execXin_keeps (g : Guard) (vs : BitVec 6) {s : State} (h : s.memOk) : allNext State.memOk (execXin g vs s) :=
  allNext_slotOp h (State.memOk_ite (State.memOk_raise _ _ h) (State.memOk_modCt h fun _ hy => hy))
theorem execXout_keeps (g : Guard) (vd : BitVec 6) {s : State} (h : s.memOk) : allNext State.memOk (execXout g vd s) :=
  allNext_slotOp h (State.memOk_ite (State.memOk_raise _ _ h) (State.memOk_ite (State.memOk_raise _ _ h)
    (State.memOk_postV _ _ _ _ _ (State.memOk_modCt h fun _ hy => hy))))

end Sys2Proof.Machine

/-! Vault and sequencer slots (DR, DC, C) keep every memory in canonical form: 06 R147 to R163, 10 R229 to R246. -/
namespace Sys2Proof.Machine
open Sys2Proof

/-! ## Row and column commands (10) -/

theorem VaultSt.preas_cells (bs : List Nat) (f : Nat) (v : VaultSt) : (bs.foldl (fun v b => v.precharge b f) v).cells = v.cells := by
  induction bs generalizing v with
  | nil => rfl
  | cons b r ih => exact ih (v.precharge b f)
theorem State.memOk_rowCmd {s : State} {f : VaultSt → VaultSt} (opc : Nat) (a : VAddr) (bad : List Bad) (h : s.memOk)
    (hf : ∀ v, (f v).cells = v.cells) : (s.rowCmd opc a bad f).memOk := by
  unfold State.rowCmd
  split
  · exact memOk_raise _ _ h
  · refine memOk_modCt h fun y hy => ⟨hy.1, ?_, hy.2.2⟩
    rw [hf]
    exact hy.2.1
theorem State.memOk_bankCmd {s : State} {f : VaultSt → VaultSt} (opc : Nat) (a : VAddr) (bad : List Bad) (h : s.memOk)
    (hf : ∀ v, (f v).cells = v.cells) : (s.bankCmd opc a bad f).memOk := memOk_ite (memOk_raise _ _ h) (memOk_rowCmd _ _ _ h hf)
theorem execPrea_keeps (g : Guard) {s : State} (h : s.memOk) : allNext State.memOk (execPrea g s) :=
  allNext_slotOp h (State.memOk_rowCmd _ _ _ h fun _ => VaultSt.preas_cells _ _ _)
theorem execStop_keeps (g : Guard) (sm : BitVec 6) (len : BitVec 16) {s : State} (h : s.memOk) :
    allNext State.memOk (execStop g sm len s) :=
  allNext_slotOp h (State.memOk_ite (State.memOk_raise _ _ h) (State.memOk_rowCmd _ _ _ h fun _ => rfl))

theorem State.memOk_colCmd {s : State} {f : State → VAddr → State} (opc : Nat) (write : Bool) (sv : BitVec 6) (h : s.memOk)
    (hf : ∀ (s : State) (a : VAddr), s.memOk → (f s a).memOk) : (s.colCmd opc write sv f).memOk := by
  unfold State.colCmd
  extract_lets x a v s1
  refine memOk_ite (memOk_raise _ _ h) ?_
  split
  · exact memOk_raise _ _ h
  · exact hf _ _ (memOk_modCt h fun _ hy => hy)
theorem State.memOk_dcBack {s : State} (ai : Bool) (sv : BitVec 6) (h : s.memOk) : (s.dcBack ai sv).memOk :=
  memOk_ite (memOk_postS _ _ _ _ h) h
theorem State.memOk_lineBack {s : State} (ai : Bool) (sl : BitVec 6) (h : s.memOk) : (s.lineBack ai sl).memOk :=
  memOk_ite (memOk_postS _ _ _ _ h) h
theorem State.memOk_withLine {s : State} {f : State → Nat → State} (opc : Nat) (sl : BitVec 6) (h : s.memOk)
    (hf : ∀ l, (f s l).memOk) : (s.withLine opc sl f).memOk := by
  unfold State.withLine
  split
  · exact memOk_raise _ _ h
  · exact hf _
theorem State.memOk_columnLost {s : State} (a : VAddr) (pb prow : Nat) (h : s.memOk) : (s.columnLost a pb prow).memOk :=
  memOk_note _ _ _ _ _ (memOk_modCt h fun _ hy => hy)
theorem State.memOk_readColumn {s : State} {f : State → Vec → State} (a : VAddr) (h : s.memOk)
    (hf : ∀ (s : State) (x : Vec), s.memOk → (f s x).memOk) : (s.readColumn a f).memOk := by
  unfold State.readColumn
  dsimp only
  split
  · exact memOk_ite (memOk_columnLost _ _ _ h) (hf _ _ (memOk_modCt h fun _ hy => hy))
  · exact hf _ _ h
theorem State.memOk_writeColumn {s : State} (a : VAddr) (x : Vec) (h : s.memOk) : (s.writeColumn a x).memOk :=
  memOk_modCt h fun _ hy => ⟨hy.1, VaultSt.setColumn_wf a x hy.2.1, hy.2.2⟩
theorem execRd_keeps (g : Guard) (vd sv : BitVec 6) (ai : Bool) {s : State} (h : s.memOk) : allNext State.memOk (execRd g vd sv ai s) :=
  allNext_slotOp h (State.memOk_colCmd _ _ _ h fun _ _ hs =>
    State.memOk_dcBack _ _ (State.memOk_readColumn _ hs fun _ _ hs => State.memOk_postV _ _ _ _ _ hs))
theorem execRds_keeps (g : Guard) (sl sv : BitVec 6) (ai : Bool) {s : State} (h : s.memOk) :
    allNext State.memOk (execRds g sl sv ai s) :=
  allNext_slotOp h (State.memOk_withLine _ _ h fun _ => State.memOk_colCmd _ _ _ h fun _ _ hs =>
    State.memOk_lineBack _ _ (State.memOk_dcBack _ _ (State.memOk_readColumn _ hs fun _ _ hs => State.memOk_postLine _ _ _ _ _ _ hs)))
theorem execWr_keeps (g : Guard) (vs sv : BitVec 6) (ai : Bool) {s : State} (h : s.memOk) : allNext State.memOk (execWr g vs sv ai s) :=
  allNext_slotOp h (State.memOk_colCmd _ _ _ h fun _ _ hs => State.memOk_dcBack _ _ (State.memOk_writeColumn _ _ hs))
theorem execWrs_keeps (g : Guard) (sl sv : BitVec 6) (ai : Bool) {s : State} (h : s.memOk) :
    allNext State.memOk (execWrs g sl sv ai s) :=
  allNext_slotOp h (State.memOk_withLine _ _ h fun _ => State.memOk_colCmd _ _ _ h fun _ _ hs =>
    State.memOk_lineBack _ _ (State.memOk_dcBack _ _ (State.memOk_writeColumn _ _ hs)))

/-! ## Steering and loops (06 R147 to R152) -/

theorem State.memOk_redirect {s : State} (target words : Nat) (h : s.memOk) : (s.redirect target words).memOk :=
  memOk_modCt h fun _ hy => hy
theorem State.memOk_steer {s : State} (st : BitVec 4) (h : s.memOk) : (s.steer st).memOk := by
  unfold State.steer
  dsimp only
  split
  · exact memOk_ite (memOk_redirect _ _ h) (memOk_raise _ _ h)
  · exact memOk_redirect _ _ h
theorem execPrepr_keeps (g : Guard) (st : BitVec 4) (sa : BitVec 6) {s : State} (h : s.memOk) :
    allNext State.memOk (execPrepr g st sa s) :=
  allNext_slotOp h (State.memOk_ite (State.memOk_post _ _ _ h) (State.memOk_raise _ _ h))
theorem execBr_keeps (g : Guard) (st : BitVec 4) {s : State} (h : s.memOk) : allNext State.memOk (execBr g st s) :=
  allNext_slotOp h (State.memOk_ite (State.memOk_steer st h) h)
theorem execBrn_keeps (g : Guard) (st : BitVec 4) {s : State} (h : s.memOk) : allNext State.memOk (execBrn g st s) :=
  allNext_slotOp h (State.memOk_ite h (State.memOk_steer st h))
theorem execLper_keeps (g : Guard) (l : BitVec 2) (per : BitVec 16) {s : State} (h : s.memOk) :
    allNext State.memOk (execLper g l per s) :=
  allNext_slotOp h (State.memOk_ite (State.memOk_raise _ _ h) (State.memOk_post _ _ _ h))
theorem execLoop_keeps (g : Guard) (l : BitVec 2) (count : LoopCount) (len : BitVec 14) {s : State} (h : s.memOk) :
    allNext State.memOk (execLoop g l count len s) := by
  refine allNext_slotOp h ?_
  extract_lets c n start
  have hr (x : Fail) : (s.raise scC x).memOk := State.memOk_raise _ _ h
  refine State.memOk_ite (hr _) (State.memOk_ite (hr _) (State.memOk_ite (hr _) (State.memOk_ite (hr _) ?_)))
  exact State.memOk_ite (State.memOk_redirect _ _ h) (State.memOk_modCt h fun _ hy => hy)
theorem execLbrk_keeps (g : Guard) (l : BitVec 2) {s : State} (h : s.memOk) : allNext State.memOk (execLbrk g l s) :=
  allNext_slotOp h (State.memOk_ite (State.memOk_modCt (State.memOk_redirect _ _ h) fun _ hy => hy) (State.memOk_raise _ _ h))

/-! ## Meetings (06 R153 to R155) -/

/-- The tile as it stood before the bundle joins the kept ones: it is the one that the bundle would restore, or the present one. -/
theorem State.memOk_meetAs {s : State} (m : Meet) (h : s.memOk) : (s.meetAs m).memOk := by
  have hb : (match s.cur.save with | some (x, _) => x | none => s.ct).memOk := by
    split
    · next x k e => exact (h.2.2.1 _ e).1
    · exact h.1 _
  refine memOk_modLaunch (memOk_modCt h fun _ hy => hy) fun l hl => ⟨fun p hp => ?_, hl.2⟩
  rcases List.mem_append.1 hp with hp | hp
  · exact hl.1 p hp
  · obtain rfl := List.mem_singleton.1 hp
    exact hb
theorem execCommit_keeps (g : Guard) (rl : BitVec 8) (os : BitVec 4) {s : State} (h : s.memOk) :
    allNext State.memOk (execCommit g rl os s) := by
  refine allNext_slotOp h ?_
  split
  · exact State.memOk_raise _ _ h
  · exact State.memOk_meetAs _ h
theorem execRelay_keeps (g : Guard) {s : State} (h : s.memOk) : allNext State.memOk (execRelay g s) := by
  refine allNext_slotOp h (State.memOk_ite (State.memOk_raise _ _ h) (State.memOk_ite (State.memOk_raise _ _ h) ?_))
  split
  · exact State.memOk_raise _ _ h
  · exact State.memOk_meetAs _ h
theorem execRdv_keeps (g : Guard) (id : BitVec 8) (cond : RdvCond) {s : State} (h : s.memOk) :
    allNext State.memOk (execRdv g id cond s) := by
  refine allNext_slotOp h ?_
  split
  · exact State.memOk_raise _ _ h
  · exact State.memOk_meetAs _ h

/-! ## Timelines, format table, system registers (06 R156 to R163) -/

theorem State.memOk_trigger {s : State} {f : State → Nat → State} (opc : Nat) (tl : BitVec 3) (h : s.memOk)
    (hf : ∀ (s : State) (n : Nat), s.memOk → (f s n).memOk) : (s.trigger opc tl f).memOk := by
  unfold State.trigger
  extract_lets i n count num
  have hc : (count s).memOk := memOk_modCt h fun _ hy => hy
  exact memOk_ite hc (memOk_ite (memOk_raise _ _ h) (hf _ _ (memOk_modCoach hc fun _ hk => hk)))
theorem State.memOk_accept {s : State} (tl num : Nat) (kind : OpKind) (host : Word) (va len : Nat) (desc : Vec) (h : s.memOk) :
    (s.accept tl num kind host va len desc).memOk := memOk_modCoach h fun _ hk => hk
theorem execTlsig_keeps (g : Guard) (tl : BitVec 3) {s : State} (h : s.memOk) : allNext State.memOk (execTlsig g tl s) :=
  allNext_slotOp h (State.memOk_trigger _ _ h fun _ _ hs => State.memOk_modCoach hs fun _ hk => hk)
theorem allNext_opAcopy {g : Guard} {kind : OpKind} {tl : BitVec 3} {sh sv sn : BitVec 6} {s : State} (h : s.memOk) :
    allNext State.memOk (opAcopy g kind tl sh sv sn s) := by
  refine allNext_slotOp h ?_
  split
  · exact State.memOk_raise _ _ h
  · exact State.memOk_trigger _ _ h fun _ _ hs => State.memOk_accept _ _ _ _ _ _ _ hs
theorem allNext_opFar {opc : Nat} {kind : OpKind} {g : Guard} {tl : BitVec 3} {sd : BitVec 6} {s : State} (h : s.memOk) :
    allNext State.memOk (opFar opc kind g tl sd s) := by
  refine allNext_slotOp h ?_
  dsimp only
  split
  · exact State.memOk_raise _ _ h
  · exact State.memOk_trigger _ _ h fun _ _ hs => State.memOk_accept _ _ _ _ _ _ _ hs
theorem execFtload_keeps (g : Guard) (sa : BitVec 6) (mask : BitVec 16) {s : State} (h : s.memOk) :
    allNext State.memOk (execFtload g sa mask s) := by
  refine allNext_slotOp h ?_
  dsimp only
  split
  · exact State.memOk_raise _ _ h
  · split
    · exact State.memOk_raise _ _ h
    · exact State.memOk_post _ _ _ h
theorem execWrsys_keeps (g : Guard) (sa : BitVec 6) (idx : BitVec 10) {s : State} (h : s.memOk) :
    allNext State.memOk (execWrsys g sa idx s) := allNext_slotOp h (State.memOk_ite (State.memOk_post _ _ _ h) h)

end Sys2Proof.Machine

/-! The sequencer and the frame cycle around the bundles keep every memory in canonical form (02 R41 to R60, 05 R113 to R121, 08, 09):
what a bundle or a meeting restores was in that form when it was kept. -/
namespace Sys2Proof.Machine
open Sys2Proof

/-! ## The sequencer (05 R113 to R121) -/

theorem Tile.memOk_loopEnds {t : Tile} (f n : Nat) (h : t.memOk) : (t.loopEnds f n).memOk := by
  induction n generalizing t with
  | zero => exact h
  | succ n ih =>
    unfold Tile.loopEnds
    split
    · exact h
    · dsimp only
      split
      · exact h
      · exact ih h
theorem Tile.memOk_skip {t : Tile} (f by_ : Nat) (h : t.memOk) : (t.skip f by_).memOk := memOk_loopEnds f 5 h
theorem Tile.memOk_advance {t : Tile} (f words : Nat) (h : t.memOk) : (t.advance f words).memOk := by
  unfold Tile.advance
  extract_lets n on
  change Tile.memOk (if t.meet = .relay then t else if t.loopsLost n then on else on.loopEnds f 5)
  split
  · exact h
  · split
    · exact h
    · exact memOk_loopEnds f 5 h
theorem State.memOk_loopCodes {s : State} (words : Nat) (h : s.memOk) : (s.loopCodes words).memOk :=
  memOk_ite h (memOk_foldl (fun _ _ hs => memOk_note _ _ _ _ _ hs) _ (memOk_modCt h fun _ hy => hy))
theorem execIdle_keeps (n : BitVec 10) {s : State} (h : s.memOk) : allNext State.memOk (execIdle n s) :=
  State.memOk_modCt h fun _ hy => Tile.memOk_skip _ _ hy
theorem execSeg_keeps (n : BitVec 10) {s : State} (h : s.memOk) : allNext State.memOk (execSeg n s) :=
  State.memOk_modCt h fun _ hy => Tile.memOk_skip _ _ hy
theorem execEndStream_keeps {s : State} (h : s.memOk) : allNext State.memOk (execEndStream s) := State.memOk_modCt h fun _ hy => hy
/-- The bundle being issued keeps its tile and coach as they stand. -/
theorem State.memOk_startBundle {s : State} (b : Bundle) (words : Nat) (h : s.memOk) : (s.startBundle b words).memOk := by
  have hm : (s.modCt fun t => t.modSeq fun q =>
      { q with buf := q.buf - (q.need + words), need := 0, minIssue := s.frc + 1, redirected := false }).memOk :=
    memOk_modCt h fun _ hy => hy
  refine ⟨hm.1, hm.2.1, fun x e => ?_, hm.2.2.2⟩
  obtain rfl := Option.some.inj e
  exact ⟨h.1 _, h.2.1 _⟩
theorem execIssue_keeps (n : BitVec 12) {s : State} (h : s.memOk) : allNext State.memOk (execIssue n s) := by
  unfold execIssue
  split
  · exact State.memOk_startBundle _ _ h
  · trivial
theorem execEscape_keeps {s : State} (h : s.memOk) : allNext State.memOk (execEscape s) := by
  unfold execEscape
  split
  · exact State.memOk_startBundle _ _ h
  · trivial
theorem State.memOk_setApart {s : State} (h : s.memOk) : s.setApart.memOk := by
  unfold State.setApart
  split
  · exact memOk_ite (memOk_modCoach h fun _ hk => hk) h
  · exact h
theorem State.memOk_endBundle {s : State} (h : s.memOk) : s.endBundle.memOk := by
  unfold State.endBundle
  split
  · next r rs t k hf hs => exact memOk_setCoach (memOk_setTile h (h.2.2.1 _ hs).1) (h.2.2.1 _ hs).2
  · extract_lets f n s1 s2
    have h1 : s1.memOk := memOk_ite h (memOk_todo _ h)
    have h2 : s2.memOk := memOk_setApart (memOk_ite h1 (memOk_loopCodes _ h1))
    clear_value s1 s2
    exact memOk_modLaunch (memOk_modCt h2 fun _ hy => Tile.memOk_advance _ _ hy) fun _ hl => hl
theorem State.memOk_seqFault {s : State} (code addr d1 d2 : Nat) (h : s.memOk) : (s.seqFault code addr d1 d2).memOk :=
  memOk_note _ _ _ _ _ h

section
variable {ex : Instr → State → Host.Outcome State Fault Refusal}
  (hex : ∀ (i : Instr) (s : State), s.memOk → allNext State.memOk (ex i s))
include hex

theorem State.consume_keeps (c t : Nat) (i : Instr) (more : Bool) {s : State} (h : s.memOk) :
    allNext State.memOk (s.consume ex c t i more) := by
  unfold State.consume
  extract_lets es skips s1 s2
  split
  · exact memOk_note _ _ _ _ _ (memOk_modCt h fun _ hy => hy)
  · have h1 : s1.memOk := memOk_ite h (memOk_modCt h fun _ hy => hy)
    have h2 : s2.memOk := memOk_ite (memOk_loopCodes _ h1) h1
    clear_value s1 s2
    exact allNext_ite (memOk_loopCodes _ h1) (hex _ _ (memOk_ite (memOk_todo _ h2) h2))
theorem State.runTile_keeps (c t : Nat) {s : State} (h : s.memOk) : allNext State.memOk (s.runTile ex c t) := by
  unfold State.runTile
  extract_lets cur s1 x f usable
  have h1 : s1.memOk := h
  clear_value s1
  refine allNext_ite h1 ?_
  split
  · trivial
  · next i _ =>
    extract_lets go
    have hgo (more : Bool) (s : State) (hs : s.memOk) : allNext State.memOk (go more s) := consume_keeps hex c t i more hs
    have hseq (code addr d1 d2 : Nat) : allNext State.memOk (.next (s1.seqFault code addr d1 d2)) := memOk_seqFault _ _ _ _ h1
    clear_value go
    split
    · refine allNext_ite (allNext_ite (hgo _ _ h1) h1) (allNext_ite (hseq _ _ _ _) (allNext_ite (hseq _ _ _ _) ?_))
      exact allNext_ite (hseq _ _ _ _) (allNext_ite (allNext_ite (hgo _ _ h1) h1) (allNext_ite (hgo _ _ h1) h1))
    · refine allNext_ite ?_ h1
      split
      · exact hgo _ _ h1
      · exact hgo _ _ (memOk_modCt h1 fun _ hy => hy)
    · exact allNext_ite (hgo _ _ h1) h1
theorem State.runSlot_keeps (sl : Slot) (ftl : BitVec 2) (w : SlotWord) {s : State} (h : s.memOk) :
    allNext State.memOk (s.runSlot ex sl ftl w) := by
  unfold State.runSlot
  split
  · trivial
  · refine allNext_ite (hex _ _ h) ?_
    extract_lets es
    split
    · exact memOk_note _ _ _ _ _ (memOk_modCt h fun _ hy => hy)
    · exact hex _ _ (memOk_modCt h fun _ hy => hy)
end

/-! ## Results become visible (02 R41) and the units at work (08 R196, 09) -/

theorem Tile.memOk_foldl {α : Type} {f : Tile → α → Tile} (hf : ∀ (t : Tile) (a : α), t.memOk → (f t a).memOk) (l : List α)
    {t : Tile} (h : t.memOk) : (l.foldl f t).memOk := by
  induction l generalizing t with
  | nil => exact h
  | cons a r ih => exact ih (hf t a h)
theorem Tile.memOk_apply {t : Tile} (p : Pend) (h : t.memOk) : (t.apply p).memOk := by
  unfold Tile.apply
  dsimp only
  split
  case h_8 l m x _ _ =>
    have hw := Mem.putVec_wf 256 (256 * l) m x 0 h.1
    generalize t.sp.putVec (256 * l) m x 0 256 = sp at hw
    exact ⟨hw, h.2⟩
  all_goals exact h
theorem Tile.memOk_write {t : Tile} (p : Pend) (h : t.memOk) : (t.write p).memOk := by
  unfold Tile.write
  split <;> exact memOk_apply p h
theorem Tile.memOk_applyFlags {t : Tile} (p : Pend) (h : t.memOk) : (t.applyFlags p).memOk := by
  unfold Tile.applyFlags
  split <;> exact h
theorem Tile.memOk_replayWrites {t : Tile} (ps : List Pend) (h : t.memOk) : (t.replayWrites ps).memOk :=
  memOk_foldl (fun _ p ht => memOk_applyFlags p ht) _ (memOk_foldl (fun _ p ht => memOk_apply p ht) _ h)
theorem Tile.memOk_resolve {t : Tile} (o : MmulOp) (ps : List Pend) (h : t.memOk) : (t.resolve o ps).memOk := by
  unfold Tile.resolve
  split
  · exact h
  · exact memOk_foldl (fun _ g ht => memOk_replayWrites g ht) _ h
theorem Tile.memOk_settleUndo {t : Tile} (f : Nat) (h : t.memOk) : (t.settleUndo f).memOk := by
  unfold Tile.settleUndo
  split
  · exact h
  · extract_lets t1
    have h1 : t1.memOk := memOk_foldl (fun _ o ht => memOk_resolve o _ ht) _ h
    clear_value t1
    split <;> exact h1
theorem Tile.memOk_units {t : Tile} (f : Nat) (h : t.memOk) : (t.units f).memOk := by
  unfold Tile.units
  extract_lets t1 t2
  have h1 : t1.memOk := by
    unfold t1
    split
    · exact h
    · split <;> exact h
  have h2 : t2.memOk := by
    clear_value t1
    unfold t2
    split
    · exact h1
    · dsimp only
      split <;> exact h1
  exact h2
theorem Tile.memOk_snapCarry {t : Tile} (f : Nat) (h : t.memOk) : (t.snapCarry f).memOk := by
  unfold Tile.snapCarry
  dsimp only
  split <;> exact h
theorem Tile.memOk_landing {t : Tile} (f draw : Nat) (h : t.memOk) : (t.landing f draw).1.memOk := by
  unfold Tile.landing
  extract_lets due hits late good undo src t1 t2 t3 t4 bad errs lost
  have h1 : t1.memOk := h
  clear_value t1
  have h2 : t2.memOk := memOk_foldl (fun _ p ht => memOk_write p ht) _ h1
  have h3 : t3.memOk := memOk_foldl (fun _ p ht => memOk_applyFlags p ht) _ h2
  have h4 : t4.memOk := memOk_foldl (fun _ o ht => memOk_resolve o _ ht) _ h3
  clear_value t4
  exact memOk_snapCarry f (memOk_settleUndo f (memOk_units f h4))
theorem State.memOk_land {s : State} (c : Nat) (h : s.memOk) : (s.land c).memOk := by
  unfold State.land
  refine memOk_foldl (fun u t hu => ?_) _ h
  have hr := Tile.memOk_landing (s.coach c).launch.frc u.draws (hu.1 t)
  dsimp only
  generalize (u.tile t).landing _ _ = r at hr ⊢
  refine memOk_foldl (fun _ _ hs => memOk_note _ _ _ _ _ hs) _ ?_
  exact memOk_setTile hu hr

/-! ## Commit, rendezvous and relay (02 R44 to R46, R55 to R60) -/

theorem Tile.memOk_commitAt {t : Tile} (f next rl os : Nat) (wait : Bool) (h : t.memOk) : (t.commitAt f next rl os wait).1.memOk := by
  unfold Tile.commitAt
  dsimp only
  split <;> exact h
theorem State.memOk_commitLaunch {s : State} (c : Nat) (h : s.memOk) : (s.commitLaunch c).memOk := by
  unfold State.commitLaunch
  extract_lets l f wait r s1
  have hr : r.1.memOk := by
    refine List.foldlRecOn (motive := fun a : State × List (Nat × BitVec 128 × Nat) => a.1.memOk) _ _ h fun a ha t _ => ?_
    dsimp only
    split
    · exact memOk_setTile ha (Tile.memOk_commitAt _ _ _ _ _ (ha.1 _))
    · exact ha
  clear_value r
  have h1 : s1.memOk := memOk_modLaunch hr fun _ hl => hl
  exact memOk_ite (memOk_tell _ h1) h1
/-- The tiles that a meeting puts back are ones that the launch has kept. -/
theorem State.memOk_undoMeets {s : State} (c : Nat) (who : Tile → Bool) (h : s.memOk) : (s.undoMeets c who).memOk := by
  unfold State.undoMeets
  extract_lets l undone s1 last
  have h1 : s1.memOk := List.foldlRecOn (motive := State.memOk) _ _ h fun s hs p hp =>
    memOk_setTile hs ((h.2.1 c).1 p (List.mem_filter.1 hp).1)
  clear_value s1
  exact memOk_modCoach h1 fun _ hk => hk
theorem State.memOk_meetCommit {s : State} (c : Nat) (h : s.memOk) : (s.meetCommit c).memOk := by
  unfold State.meetCommit
  dsimp only
  refine memOk_ite ?_ h
  split
  · exact memOk_ite (memOk_commitLaunch c h) h
  · exact memOk_foldl (fun _ _ hs => memOk_note _ _ _ _ _ hs) _ (memOk_undoMeets _ _ h)
theorem State.memOk_meetRdv {s : State} (c : Nat) (h : s.memOk) : (s.meetRdv c).memOk := by
  unfold State.meetRdv
  dsimp only
  split
  · exact h
  · split
    · exact memOk_modLaunch h fun _ hl => hl
    · exact memOk_foldl (fun _ _ hs => memOk_note _ _ _ _ _ hs) _ (memOk_undoMeets _ _ h)
theorem State.memOk_meetRelay {s : State} (c : Nat) (h : s.memOk) : (s.meetRelay c).memOk :=
  memOk_ite (memOk_modLaunch h fun _ hl => hl) h
theorem State.memOk_groupFound {s : State} (c t pb : Nat) (h : s.memOk) : (s.groupFound c t pb).memOk :=
  have hg := memOk_groupLost t pb h
  memOk_ite (memOk_layerStops _ _ hg) hg
theorem State.memOk_endCycle {s : State} (c : Nat) (h : s.memOk) : (s.endCycle c).memOk := by
  unfold State.endCycle
  extract_lets tiles s1 s2 s3 rs s4
  have h1 : s1.memOk := memOk_meetCommit c h
  have h2 : s2.memOk := memOk_ite (memOk_meetRelay c (memOk_meetRdv c h1)) (memOk_meetRdv c h1)
  have h3 : s3.memOk := memOk_modTiles (f := fun t => { t.fetch with meet := .none }) (fun _ hy => hy) _ h2
  have h4 : s4.memOk := memOk_modCoach h3 fun k hk => by
    refine ⟨fun p hp => ?_, hk.2⟩
    dsimp only at hp
    split at hp
    · exact hk.1 p hp
    · exact nomatch hp
  exact memOk_syncMirrors c (memOk_takeAll c rs h4)

/-! ## Pushes (08 R198 to R205) -/

theorem State.memOk_egress {s : State} (c : Nat) (p : Push) (h : s.memOk) : (s.egress c p).memOk := by
  unfold State.egress
  split
  · exact h
  · extract_lets port set recent f
    have hset (q : Port) {s : State} (hs : s.memOk) : (set q s).memOk := memOk_modPkg hs fun _ hp => hp
    clear_value set
    exact memOk_ite (memOk_ite (hset _ h) (memOk_note _ _ _ _ _ h)) (memOk_out _ (hset _ h))
theorem State.memOk_meshCycle {s : State} (c : Nat) (h : s.memOk) : (s.meshCycle c).memOk := by
  unfold State.meshCycle
  extract_lets ps f s1 live s2
  have h1 : s1.memOk := memOk_foldl (fun _ _ hs => memOk_note _ _ _ _ _ hs) _ h
  have h2 : s2.memOk := memOk_modCoach h1 fun _ hk => hk
  clear_value s2
  refine memOk_foldl (fun s p hs => ?_) _ h2
  split
  · exact memOk_ite (memOk_egress c p hs) hs
  · exact hs
theorem execPushArrival_keeps (id : Nat) {s : State} (h : s.memOk) : allNext State.memOk (execPushArrival id s) := by
  unfold execPushArrival
  split
  · exact h
  · next c p _ =>
    have h1 : (s.modCoach c fun k => { k with pushes := k.pushes.filter (fun q => q.id != id) }).memOk :=
      State.memOk_modCoach h fun _ hk => hk
    exact allNext_ite (State.memOk_modTile h1 fun _ hy => hy) (State.memOk_note _ _ _ _ _ h1)

end Sys2Proof.Machine

/-! Pauses, settling, strikes, replay, holds and the end of a launch keep every memory in canonical form (02 R51 to R66,
17 R327 to R334, 19 R358). -/
namespace Sys2Proof.Machine
open Sys2Proof

/-! ## Folds and tiles whose list the goal gives: the function is then known before its own argument is read -/

theorem State.memOk_foldl' {α : Type} {f : State → α → State} {l : List α} {s : State} (h : s.memOk)
    (hf : ∀ (s : State) (a : α), s.memOk → (f s a).memOk) : (l.foldl f s).memOk := memOk_foldl hf l h
theorem State.memOk_modTiles' {f : Tile → Tile} {ts : List Nat} {s : State} (h : s.memOk)
    (hf : ∀ y : Tile, y.memOk → (f y).memOk) : (s.modTiles f ts).memOk := memOk_modTiles hf ts h

/-! ## Events of the banks (10) and saved lane rates (19) -/

theorem execBankRefreshDone_keeps (tile bank : Nat) {s : State} (h : s.memOk) : allNext State.memOk (execBankRefreshDone tile bank s) :=
  allNext_unit (State.memOk_modTile h fun _ hy => hy)
theorem execStopWindowEnd_keeps (tile : Nat) {s : State} (h : s.memOk) : allNext State.memOk (execStopWindowEnd tile s) :=
  allNext_unit (State.memOk_modTile h fun _ hy => hy)
theorem execRefreshDeadlineMiss_keeps (tile bank : Nat) {s : State} (h : s.memOk) :
    allNext State.memOk (execRefreshDeadlineMiss tile bank s) := by
  refine allNext_unit ?_
  split
  · exact h
  · exact State.memOk_note _ _ _ _ _ h
theorem State.memOk_saveRates {s : State} (h : s.memOk) : s.saveRates.memOk := memOk_newConfig _ h

/-! ## Reports of a domain and pauses (02 R55 to R64) -/

theorem State.memOk_nameEpoch {s : State} (c variant : Nat) (h : s.memOk) : (s.nameEpoch c variant).memOk := by
  unfold State.nameEpoch
  exact memOk_sendTree _ (memOk_modLaunch h fun _ hl => hl)
theorem State.memOk_reportNow {s : State} (c : Nat) (k : ReportKind) (v : BitVec 8) (h : s.memOk) : (s.reportNow c k v).memOk := by
  unfold State.reportNow
  extract_lets l ports r
  exact memOk_ite h (memOk_ite (memOk_todo _ h) (memOk_tell _ h))
theorem execPauseRefb_keeps (tile bank : Nat) {s : State} (h : s.memOk) : allNext State.memOk (execPauseRefb tile bank s) := by
  refine allNext_unit (State.memOk_modTile h fun _ hy => ?_)
  dsimp only
  split <;> exact hy
theorem execIdleTileRefb_keeps (tile bank : Nat) {s : State} (h : s.memOk) : allNext State.memOk (execIdleTileRefb tile bank s) :=
  allNext_unit (State.memOk_modTile h fun _ hy => hy)
theorem State.memOk_resumeAt {s : State} (c f : Nat) (h : s.memOk) : (s.resumeAt c f).memOk :=
  memOk_modLaunch h fun _ hl => ⟨List.forall_mem_nil _, hl.2⟩
theorem State.memOk_closeTiles {s : State} (c : Nat) (ts : List Nat) (h : s.memOk) : (s.closeTiles c ts).memOk :=
  memOk_ite h (memOk_modTiles' h fun _ hy => hy)
theorem execPauseResume_keeps (c : Nat) {s : State} (h : s.memOk) : allNext State.memOk (execPauseResume c s) := by
  refine allNext_unit (allNext_ite ?_ h)
  exact State.memOk_resumeAt _ _ (State.memOk_foldl' (State.memOk_closeTiles _ _ h) fun _ _ hs => State.memOk_modTile hs fun _ hy => hy)
theorem execRdvTimeout_keeps (c : Nat) {s : State} (h : s.memOk) : allNext State.memOk (execRdvTimeout c s) :=
  allNext_unit (allNext_ite (State.memOk_stopEvent _ _ _ h) h)

/-! ## Settling and strikes (02 R51, 19 R358) -/

theorem State.memOk_commitFault {s : State} (c phase first pkg tile : Nat) (h : s.memOk) :
    (s.commitFault c phase first pkg tile).memOk := by
  unfold State.commitFault
  extract_lets r s1
  have h1 : s1.memOk := memOk_ite (memOk_announce _ _ h) h
  exact memOk_takeFaults _ _ _ (memOk_modLaunch h1 fun _ hl => hl)
theorem execPhaseSettle_keeps (c : Nat) {s : State} (h : s.memOk) : allNext State.memOk (execPhaseSettle c s) := by
  refine allNext_unit ?_
  split
  · exact h
  · refine allNext_ite h ?_
    split
    · exact State.memOk_ite h (State.memOk_commitFault _ _ _ _ _ h)
    · refine State.memOk_modCoach (State.memOk_modTiles' (State.memOk_writeDigests c _ h) ?_) fun _ hk => hk
      exact fun _ hy => Tile.memOk_settle _ hy
theorem State.memOk_pastRecord {s : State} (c tile frame : Nat) (x : Fail) (h : s.memOk) : (s.pastRecord c tile frame x).memOk :=
  memOk_modCoach h fun _ hk => hk
theorem State.memOk_latePast {s : State} (c tile frame sensor : Nat) (h : s.memOk) : (s.latePast c tile frame sensor).memOk :=
  memOk_ite h (memOk_event _ _ _ _ _ (memOk_pastRecord _ _ _ _ h))
theorem execStrikeReport_keeps (tile frame sensor : Nat) {s : State} (h : s.memOk) :
    allNext State.memOk (execStrikeReport tile frame sensor s) := by
  refine allNext_unit (allNext_ite h ?_)
  extract_lets s1
  have h1 : s1.memOk := State.memOk_modTile h fun _ hy => hy
  clear_value s1
  split
  · exact h1
  · split
    · exact State.memOk_latePast _ _ _ _ h1
    · exact State.memOk_latePast _ _ _ _ h1
    · extract_lets s2 l k
      have h2 : s2.memOk := State.memOk_modCoach h1 fun _ hk => hk
      clear_value s2
      exact allNext_ite (State.memOk_event _ _ _ _ _ (State.memOk_log _ _ h2)) (allNext_ite h2 (State.memOk_cancel _ _ _ _ _ _ h2))

/-! ## Replay (17 R331 to R334) -/

theorem execReplayCloseDone_keeps (c : Nat) {s : State} (h : s.memOk) : allNext State.memOk (execReplayCloseDone c s) := by
  refine allNext_unit ?_
  dsimp only
  split
  · exact State.memOk_modLaunch (State.memOk_modTiles' h fun _ hy => hy) fun _ hl => hl
  · exact h
/-- The image that a launch holds for a tile, or the empty one. -/
theorem Launch.dataOf_wf {l : Launch} (t : Nat) (h : l.memOk) : (l.dataOf t).sp.wf = true ∧ (l.dataOf t).bt.wf = true := by
  unfold Launch.dataOf
  split
  · next p hp => exact h.2 p (List.mem_of_find?_eq_some hp)
  · exact ⟨rfl, rfl⟩
theorem State.memOk_reloadTiles {s : State} (c k : Nat) (ts : List Nat) (h : s.memOk) : (s.reloadTiles c k ts).memOk := by
  unfold State.reloadTiles
  extract_lets l done s1
  have h1 : s1.memOk := List.foldlRecOn (motive := State.memOk) _ _ h fun u hu x hx => by
    obtain ⟨t, _, rfl⟩ := List.mem_map.1 hx
    exact memOk_setTile hu (Tile.memOk_reload k s.wall (h.1 t) (Launch.dataOf_wf t (h.2.1 c)).1)
  clear_value s1
  split
  · exact memOk_takeAll _ _ h1
  · exact memOk_modLaunch h1 fun _ hl => hl
theorem execReloadDone_keeps (c : Nat) {s : State} (h : s.memOk) : allNext State.memOk (execReloadDone c s) := by
  refine allNext_unit ?_
  dsimp only
  split
  · split
    · exact State.memOk_reloadTiles _ _ _ (State.memOk_modTiles' h fun _ hy => hy)
    · exact State.memOk_takeFaults _ _ _ (State.memOk_modTiles' h fun _ hy => hy)
  · exact h
theorem execReplayRestart_keeps (c : Nat) {s : State} (h : s.memOk) : allNext State.memOk (execReplayRestart c s) := by
  refine allNext_unit ?_
  dsimp only
  split
  · exact allNext_ite h (State.memOk_modTiles' (State.memOk_modCoach h fun _ hk => hk) fun _ hy => hy)
  · exact h

/-! ## Holds and the end of a launch (17 R327 to R329) -/

theorem execFaultHoldExpiry_keeps (c : Nat) {s : State} (h : s.memOk) : allNext State.memOk (execFaultHoldExpiry c s) := by
  refine allNext_unit ?_
  split
  · exact State.memOk_stopLaunch _ _ h
  · exact h
theorem execLaunchCompletion_keeps (c : Nat) {s : State} (h : s.memOk) : allNext State.memOk (execLaunchCompletion c s) := by
  refine allNext_unit ?_
  extract_lets l s1 s2 s3 s4 tiles s5
  refine allNext_ite ?_ h
  have h1 : s1.memOk := State.memOk_complete _ _ (State.memOk_writeMirrors c h)
  have h2 : s2.memOk := State.memOk_modTiles' h1 fun _ hy => hy
  have h3 : s3.memOk := State.memOk_foldl' h2 fun _ _ hs => State.memOk_modPort _ _ hs
  have h4 : s4.memOk := State.memOk_modCoach h3 fun _ _ => Proofs.memOk_launch_reset
  have h5 : s5.memOk := State.memOk_foldl' h4 fun _ _ hs => State.memOk_modTile (State.memOk_repairIdle _ _ hs) fun _ hy => hy
  exact State.memOk_planIdle c (State.memOk_retrainHalf c h5)
theorem State.memOk_undoRdv {s : State} (c : Nat) (h : s.memOk) : (s.undoRdv c).memOk :=
  memOk_modLaunch (memOk_foldl' h fun _ _ hs => memOk_modTile hs fun _ hy => hy) fun _ hl => ⟨List.forall_mem_nil _, hl.2⟩
theorem execStopMessage_keeps (n : StopNote) {s : State} (h : s.memOk) : allNext State.memOk (execStopMessage n s) := by
  refine allNext_unit (allNext_ite h ?_)
  extract_lets l s1 s2 r hold
  have h1 : s1.memOk := State.memOk_ite (State.memOk_undoRdv _ h) h
  have h2 : s2.memOk := State.memOk_ite (State.memOk_modLaunch h1 fun _ hl => hl) h1
  have hh : (hold s2).memOk := State.memOk_modLaunch h2 fun _ hl => hl
  have hstop : (s2.stopLaunch n.coach r).memOk := State.memOk_stopLaunch _ _ h2
  clear_value s2 hold
  have hrep : (if l.struck.any fun t => decide (t ≤ n.frame) then s2 else hold s2).memOk := State.memOk_ite h2 hh
  split
  · exact h2
  · exact h2
  · exact hstop
  · exact allNext_ite hstop hrep
  · exact allNext_ite hstop hrep
  · exact allNext_ite hstop hrep
  · exact allNext_ite (State.memOk_ite h2 hh) hstop

end Sys2Proof.Machine

/-! The loader and the host's registers keep every memory in canonical form (12 R263 to R270, R279, 13 R283 to R291): what an image or
an aperture write gives to a memory is put there byte by byte. -/
namespace Sys2Proof.Machine
open Sys2Proof

/-! ## Images (12 R267, R269) -/

theorem readTile_wf (x : Bytes) (ss : List Section) (t : Nat) : (readTile x ss t).sp.wf = true ∧ (readTile x ss t).bt.wf = true := by
  unfold readTile
  dsimp only
  refine ⟨readRuns_wf _ _ _ _ rfl, ?_⟩
  split
  · rfl
  · exact Mem.putL_wf _ _ rfl
theorem parseImage_wf {x : Bytes} {g : Image} (e : parseImage x = .ok g) : ∀ p ∈ g.data, p.2.sp.wf = true ∧ p.2.bt.wf = true := by
  unfold parseImage at e
  split at e
  · cases e
  · extract_lets hash vs tiles data at e
    have hd : ∀ p ∈ data, p.2.sp.wf = true ∧ p.2.bt.wf = true := fun p hp => by
      obtain ⟨t, _, rfl⟩ := List.mem_map.1 hp
      exact readTile_wf _ _ _
    clear_value data
    split at e
    · cases e
    · split at e
      · cases e
      · split at e
        · cases e
        · split at e
          · cases e
          · split at e
            · cases e
            · cases e
              exact hd
theorem State.loadChecks_wf {s : State} {c : Nat} {r : LaunchRec} {g : Image} (e : s.loadChecks c r = .ok g) :
    ∀ p ∈ g.data, p.2.sp.wf = true ∧ p.2.bt.wf = true := by
  unfold State.loadChecks at e
  split at e
  · cases e
  · split at e
    · cases e
    · split at e
      · cases e
      · split at e
        · cases e
        · next i he =>
          split at e
          · cases e
          · split at e
            · cases e
            · split at e
              · cases e
              · cases e
                exact parseImage_wf he

/-! ## Placement and loading (12 R269, R270, 20 R367) -/

theorem Tile.memOk_again {t : Tile} (old : Tile) (h : t.memOk) : (t.again old).memOk := by
  unfold Tile.again
  exact ⟨h.1, h.2.1, h.2.2⟩
theorem Tile.memOk_setBanks {t : Tile} (n : Nat) (h : t.memOk) : (t.setBanks n).memOk := ⟨h.1, VaultSt.finishMigration_wf h.2.1, h.2.2⟩
theorem State.memOk_placeAll {s : State} (c n : Nat) (ts : List Nat) (h : s.memOk) : (s.placeAll c n ts).memOk := by
  unfold State.placeAll
  dsimp only
  split
  · exact h
  · next v _ =>
    have hl := h.2.1 c
    refine memOk_modCoach (memOk_modTiles' (memOk_foldl' h fun u t hu => memOk_modTile hu fun y hy => ?_) ?_) fun _ hk => hk
    · have hp := Tile.memOk_place (look [] v.code t) (look [] v.dict t) v.banks (s.coachClass c) u.wall hy
        (Launch.dataOf_wf t hl).1 (Launch.dataOf_wf t hl).2
      split
      · exact Tile.memOk_again _ hp
      · exact hp
    · exact fun _ hy => Tile.memOk_setBanks _ hy
theorem State.memOk_refuseLaunch {s : State} (c : Nat) (e : Refuse) (h : s.memOk) : (s.refuseLaunch c e).memOk := by
  unfold State.refuseLaunch
  exact memOk_planIdle _ (memOk_modLaunch (memOk_complete _ _ (memOk_log _ _ h)) fun _ _ => Proofs.memOk_launch_reset)
theorem State.memOk_await {s : State} (c : Nat) (vs : List Nat) (h : s.memOk) : (s.await c vs).memOk := by
  unfold State.await
  extract_lets s1
  have h1 : s1.memOk := memOk_modCoach h fun _ hk => hk
  exact memOk_reportNow _ _ _ (memOk_writeMirrors _ h1)
theorem State.memOk_load {s : State} (c fn : Nat) (r : LaunchRec) (w : Nat) (h : s.memOk) : (s.load c fn r w).memOk := by
  unfold State.load
  have h1 := memOk_draw h
  generalize s.draw = d at h1 ⊢
  obtain ⟨n, s1⟩ := d
  dsimp -zeta only at h1 ⊢
  extract_lets reset s2
  have h2 : s2.memOk := memOk_modLaunch h1 fun _ _ => ⟨List.forall_mem_nil _, List.forall_mem_nil _⟩
  clear_value s2
  split
  · exact memOk_refuseLaunch _ _ h2
  · next g hg =>
    have h3 : (s2.modLaunch c fun l => { l with image := g }).memOk :=
      memOk_modLaunch h2 fun _ hl => ⟨hl.1, loadChecks_wf hg⟩
    dsimp only
    split
    · exact memOk_ite (memOk_await _ _ h3) (memOk_refuseLaunch _ _ h3)
    · exact memOk_ite (memOk_refuseLaunch _ _ h3) (memOk_await _ _ (memOk_placeAll _ _ _ h3))
theorem State.memOk_startLaunch {s : State} (c : Nat) (h : s.memOk) : (s.startLaunch c).memOk := by
  unfold State.startLaunch
  extract_lets ports s1
  have h1 : s1.memOk := memOk_modPkg h fun _ hp => hp
  exact memOk_modCoach h1 fun _ hk => hk

/-! ## Queues and coach control blocks (12 R263 to R265, 13 R291, 14 R293) -/

theorem State.memOk_queueWrite {s : State} (fn q : Nat) (f : Queue → Queue) (h : s.memOk) : (s.queueWrite fn q f).memOk := by
  unfold State.queueWrite
  extract_lets old x s1
  have h1 : s1.memOk := memOk_setQueue _ _ h
  exact memOk_ite (memOk_ite h1 (memOk_newConfig _ h1)) h
theorem execQueueTailWrite_keeps (fn q : Nat) (tail : BitVec 32) {s : State} (h : s.memOk) :
    allNext State.memOk (execQueueTailWrite fn q tail s) := allNext_unit (State.memOk_queueWrite _ _ _ h)
theorem execQueueEnable_keeps (fn q : Nat) {s : State} (h : s.memOk) : allNext State.memOk (execQueueEnable fn q s) :=
  allNext_unit (State.memOk_queueWrite _ _ _ h)
theorem execQueueDisable_keeps (fn q : Nat) {s : State} (h : s.memOk) : allNext State.memOk (execQueueDisable fn q s) :=
  allNext_unit (State.memOk_queueWrite _ _ _ h)
theorem State.memOk_writePlan {s : State} (c : Nat) (x : Word) (h : s.memOk) : (s.writePlan c x).memOk := by
  unfold State.writePlan
  extract_lets s1
  have h1 : s1.memOk := memOk_modCoach h fun _ hk => hk
  exact memOk_ite (memOk_planIdle _ h1) h1
theorem execCplanWrite_keeps (fn c : Nat) (x : Word) {s : State} (h : s.memOk) : allNext State.memOk (execCplanWrite fn c x s) :=
  allNext_unit (State.memOk_ite (State.memOk_writePlan _ _ h) h)
theorem State.memOk_hatRequest {s : State} (fn c : Nat) (x : Word) (h : s.memOk) : (s.hatRequest fn c x).memOk :=
  memOk_ite (memOk_modCoach h fun _ hk => hk) h
theorem execHatboxKeepRequest_keeps (fn c : Nat) {s : State} (h : s.memOk) : allNext State.memOk (execHatboxKeepRequest fn c s) :=
  allNext_unit (State.memOk_hatRequest _ _ _ h)
theorem execHatboxHandoffRequest_keeps (fn c : Nat) {s : State} (h : s.memOk) : allNext State.memOk (execHatboxHandoffRequest fn c s) :=
  allNext_unit (State.memOk_hatRequest _ _ _ h)
theorem Coach.write_launch (k : Coach) (off : Nat) (x : Word) : (k.write off x).launch = k.launch := by
  unfold Coach.write
  dsimp only
  split
  · rfl
  · split
    · rfl
    · split
      · rfl
      · split
        · split <;> rfl
        · rfl
/-- A write of BAR0 keeps the form where the restore does that HBRST begins. -/
theorem State.memOk_bar0 {s : State} (fn off : Nat) (x : Word) {k : State → Nat → Word → State} (h : s.memOk)
    (hk : ∀ c, (k s c x).memOk) : (s.bar0 fn off x k).memOk := by
  unfold State.bar0
  extract_lets c o
  refine memOk_ite (memOk_queueWrite _ _ _ h) (memOk_ite ?_ (memOk_ite (memOk_modPkg h fun _ hp => hp) h))
  refine memOk_ite h (memOk_ite (memOk_writePlan _ _ h) (memOk_ite (memOk_hatRequest _ _ _ h) (memOk_ite (hk _) ?_)))
  exact memOk_modCoach h fun k hl => (Coach.write_launch k o x).symm ▸ hl

/-! ## Tile aperture and far sessions (12 R275, R279) -/

theorem Tile.memOk_apCodes {t : Tile} (sp o n : Nat) (h : t.memOk) : (t.apCodes sp o n).tile.memOk := by
  unfold Tile.apCodes
  split
  · refine Reading.memOk_foldl (fun y i hy => ?_) _ h
    split
    · exact Reading.memOk_read _ hy
    · exact hy
  · exact h
theorem Tile.memOk_btst {t : Tile} (head free ops : Nat) (h : t.memOk) :
    ({ t with blk := { t.blk with head := head, free := free, ops := ops } } : Tile).memOk := ⟨h.1, h.2.1, h.2.2⟩
theorem Tile.memOk_apPut {t : Tile} (sp o : Nat) (x : Byte) (h : t.memOk) : (t.apPut sp o x).memOk := by
  unfold Tile.apPut
  split
  · split
    · exact h
    · exact ⟨h.1, Mem.put_wf _ _ h.2.1, h.2.2⟩
  · exact ⟨Mem.put_wf _ _ h.1, h.2⟩
  · extract_lets t1 src k w
    split
    · exact ⟨h.1, h.2.1, Mem.put_wf _ _ h.2.2⟩
    · exact memOk_btst (t := t1) _ _ _ (memOk_recode _ h)
theorem Tile.memOk_apPutL (bs : List Byte) {t : Tile} (sp o : Nat) (h : t.memOk) : (t.apPutL sp o bs).memOk := by
  induction bs generalizing t o with
  | nil => exact h
  | cons x r ih => exact ih _ (memOk_apPut _ _ _ h)
theorem State.memOk_apRepairs {s : State} (t : Nat) (lost : List Nat) (h : s.memOk) : (s.apRepairs t lost).memOk := by
  unfold State.apRepairs
  split
  · exact memOk_foldl (fun _ _ hs => memOk_groupFound _ _ _ hs) _ h
  · next c _ =>
    have h1 := memOk_groupsDown c t lost h
    exact memOk_ite (memOk_repairIdle _ _ h1) h1
theorem execApertureRead_keeps (fn off len : Nat) {s : State} (h : s.memOk) : allNext State.memOk (execApertureRead fn off len s) := by
  refine allNext_unit (allNext_ite h ?_)
  split
  · exact State.memOk_out _ h
  · next t sp o _ =>
    have h1 := State.memOk_draw h
    generalize s.draw = d at h1 ⊢
    obtain ⟨n, s1⟩ := d
    dsimp -zeta only at h1 ⊢
    extract_lets x s2
    have h2 : s2.memOk := State.memOk_out _ h1
    have hx : x.tile.memOk := Tile.memOk_apCodes sp o len (h1.1 t)
    clear_value s2 x
    exact State.memOk_apRepairs _ _ (State.memOk_setTile h2 hx)
theorem execApertureWrite_keeps (fn off : Nat) (data : List Byte) {s : State} (h : s.memOk) :
    allNext State.memOk (execApertureWrite fn off data s) := by
  refine allNext_unit ?_
  split
  · exact h
  · exact State.memOk_modTile h fun _ hy => Tile.memOk_apPutL _ _ _ hy
theorem execFarSessionProgram_keeps (fn row : Nat) (peer : BitVec 48) (proof : PeerProof) (ends : List (Nat × BitVec 48)) {s : State}
    (h : s.memOk) : allNext State.memOk (execFarSessionProgram fn row peer proof ends s) :=
  allNext_unit (State.memOk_ite (State.memOk_modPkg (State.memOk_draw h) fun _ hp => hp) h)

end Sys2Proof.Machine

/-! The engines, the far operations and the dispatcher keep every memory in canonical form (11 R252 to R257, 12 R265 to R278): a column that
an engine writes and a byte that it delivers to the host are put there byte by byte. -/
namespace Sys2Proof.Machine
open Sys2Proof

/-! ## Operations and columns (11 R253, 20 R363, R364) -/

theorem State.memOk_modOp {s : State} (c tl num : Nat) (f : AsyncOp → AsyncOp) (h : s.memOk) : (s.modOp c tl num f).memOk :=
  memOk_modCoach h fun _ hk => hk
theorem State.memOk_finishOp {s : State} (c : Nat) (o : AsyncOp) (h : s.memOk) : (s.finishOp c o).memOk := by
  unfold State.finishOp
  extract_lets s1
  have h1 : s1.memOk := memOk_syncMirrors _ (memOk_modCoach h fun _ hk => hk)
  clear_value s1
  exact memOk_modCoach h1 fun _ hk => hk
theorem State.memOk_engineFault {s : State} (c : Nat) (o : AsyncOp) (code d1 d2 : Nat) (h : s.memOk) :
    (s.engineFault c o code d1 d2).memOk := memOk_stopEvent _ _ _ (memOk_finishOp _ _ h)
theorem State.memOk_tagFault {s : State} (c : Nat) (o : AsyncOp) (h : s.memOk) : (s.tagFault c o).memOk :=
  memOk_engineFault _ _ _ _ _ h
theorem State.memOk_portWrite {s : State} (o : AsyncOp) (a : VAddr) (x : Vec) (h : s.memOk) : (s.portWrite o a x).memOk := by
  unfold State.portWrite
  refine memOk_modTile h fun y hy => ?_
  have hv := VaultSt.setColumn_wf a x hy.2.1
  generalize y.vault.setColumn a x = v at hv ⊢
  exact ⟨hy.1, hv, hy.2.2⟩
/-- A column that an engine reads keeps the form where its use does. -/
theorem State.memOk_portRead {s : State} (c : Nat) (o : AsyncOp) (a : VAddr) {f : State → Vec → State} (h : s.memOk)
    (hf : ∀ (s : State) (x : Vec), s.memOk → (f s x).memOk) : (s.portRead c o a f).memOk := by
  unfold State.portRead
  extract_lets v pb s1 group s2 s3
  have h1 : s1.memOk := memOk_modTile h fun _ hy => hy
  split
  · exact hf _ _ h1
  · split
    · have h2 : s2.memOk := memOk_modTile h1 fun _ hy => hy
      exact memOk_engineFault _ _ _ _ _ (memOk_ite (memOk_groupFound _ _ _ h2) h2)
    · exact hf _ _ (memOk_modTile h1 fun _ hy => hy)

/-! ## The copy engine and host memory (11 R258, 12 R274) -/

theorem State.memOk_copied {s : State} (c : Nat) (o : AsyncOp) (k : Nat) (h : s.memOk) : (s.copied c o k).memOk := by
  unfold State.copied
  extract_lets s1
  have h1 : s1.memOk := memOk_modOp _ _ _ _ h
  exact memOk_ite (memOk_todo _ h1) h1
theorem State.memOk_heldBytes {s : State} (c p : Nat) (now : Nat → List Byte) (h : s.memOk) : (s.heldBytes c p now).2.memOk := by
  unfold State.heldBytes
  dsimp only
  split
  · exact h
  · exact memOk_draw h
theorem State.memOk_copyColumn {s : State} (c : Nat) (o : AsyncOp) (k : Nat) (h : s.memOk) : (s.copyColumn c o k).memOk := by
  unfold State.copyColumn
  dsimp only
  split
  · exact memOk_engineFault _ _ _ _ _ h
  · split
    · exact memOk_engineFault _ _ _ _ _ h
    · refine memOk_ite (memOk_tagFault _ _ h) (memOk_ite h (memOk_ite ?_ ?_))
      · exact memOk_copied _ _ _ (memOk_portWrite _ _ _ (memOk_heldBytes _ _ _ h))
      · refine memOk_portRead _ _ _ h fun s x hs => memOk_copied _ _ _ (memOk_modPkg (memOk_heldBytes _ _ _ hs) ?_)
        exact fun _ hp => Mem.putL_wf _ _ hp
theorem execCopyEngineColumn_keeps (c tl num k : Nat) {s : State} (h : s.memOk) :
    allNext State.memOk (execCopyEngineColumn c tl num k s) := by
  refine allNext_unit ?_
  split
  · exact h
  · exact State.memOk_ite (State.memOk_copyColumn _ _ _ h) h
theorem execAcopyComplete_keeps (c tl num : Nat) {s : State} (h : s.memOk) : allNext State.memOk (execAcopyComplete c tl num s) := by
  refine allNext_unit ?_
  split
  · exact h
  · exact State.memOk_ite (State.memOk_finishOp _ _ h) h
theorem State.memOk_hostWrites {s : State} (busy : Bool) (h : s.memOk) : (s.hostWrites busy).memOk := by
  unfold State.hostWrites
  extract_lets due s1
  have h1 : s1.memOk := memOk_modPkg h fun _ hp => hp
  clear_value s1
  refine memOk_ite h1 ?_
  dsimp only
  refine memOk_modPkg (memOk_draw h1) fun p hp => Mem.foldl_wf (fun m x hm => ?_) _ hp
  split <;> exact Mem.put_wf _ _ hm

/-! ## Row commands of the engines (10 R245, R246) -/

theorem VaultSt.engPres_cells (wall : Nat) (bs : List Nat) (v : VaultSt) : (bs.foldl (fun v b => v.engPre wall b) v).cells = v.cells := by
  induction bs generalizing v with
  | nil => rfl
  | cons b r ih => exact ih _
theorem State.memOk_portRow {s : State} (t : Nat) (act : Bool) (bank row : Nat) (h : s.memOk) : (s.portRow t act bank row).memOk := by
  unfold State.portRow
  split
  · exact h
  · refine memOk_ite (memOk_tagFault _ _ h) ?_
    split
    · exact h
    · exact memOk_ite (memOk_ite (memOk_modTile h fun _ hy => hy) h) (memOk_ite (memOk_modTile h fun _ hy => hy) h)
theorem State.memOk_closeEngine {s : State} (c f t : Nat) (h : s.memOk) : (s.closeEngine c f t).memOk := by
  unfold State.closeEngine
  split
  · exact h
  · extract_lets on
    have ho : on.memOk := memOk_modTile h fun _ hy => ⟨hy.1, (congrArg Mem.wf (VaultSt.engPres_cells _ _ _)).trans hy.2.1, hy.2.2⟩
    clear_value on
    split
    · exact memOk_ite ho (memOk_tagFault _ _ h)
    · exact memOk_ite ho h
theorem State.memOk_closeEngines {s : State} (c : Nat) (h : s.memOk) : (s.closeEngines c).memOk :=
  memOk_foldl' h fun _ _ hs => memOk_ite hs (memOk_closeEngine _ _ _ hs)

/-! ## Far operations (12 R275 to R278) -/

theorem State.memOk_farSend {s : State} (n : Nat) (plain : List Byte) (h : s.memOk) : (s.farSend n plain).memOk := by
  unfold State.farSend
  exact memOk_out _ (memOk_modPkg h fun _ hp => hp)
theorem State.memOk_farFix {s : State} (c tl num : Nat) (ended : Bool) (h : s.memOk) : (s.farFix c tl num ended).memOk := by
  unfold State.farFix
  split
  · exact h
  · extract_lets s1
    have h1 : s1.memOk := memOk_modOp _ _ _ _ h
    exact memOk_ite h (memOk_ite (memOk_farSend _ _ h1) h1)
theorem State.memOk_contribute {s : State} (c : Nat) (o : AsyncOp) (k : Nat) (src resid : Vec) (h : s.memOk) :
    (s.contribute c o k src resid).memOk := by
  unfold State.contribute
  extract_lets fmt n x y wire v left s1
  have h1 : s1.memOk := memOk_farSend _ _ (memOk_modOp _ _ _ _ h)
  exact memOk_farFix _ _ _ _ h1
theorem State.memOk_farRead {s : State} (c : Nat) (o : AsyncOp) (k : Nat) (h : s.memOk) : (s.farRead c o k).memOk := by
  unfold State.farRead
  extract_lets l fmt4 j slot a other
  refine memOk_ite h (memOk_ite h (memOk_portRead _ _ _ h fun s x hs => ?_))
  extract_lets s1
  have h1 : s1.memOk := memOk_modOp _ _ _ _ hs
  clear_value s1 fmt4 other
  split
  · exact memOk_contribute _ _ _ _ _ h1
  · exact memOk_ite (memOk_contribute _ _ _ _ _ h1) (memOk_contribute _ _ _ _ _ h1)
  · exact h1
theorem State.memOk_farWrite {s : State} (c : Nat) (o : AsyncOp) (k : Nat) (h : s.memOk) : (s.farWrite c o k).memOk := by
  unfold State.farWrite
  split
  · exact h
  · exact memOk_ite h (memOk_modOp _ _ _ _ (memOk_portWrite _ _ _ h))
theorem State.memOk_farStep {s : State} (c : Nat) (o : AsyncOp) (h : s.memOk) : (s.farStep c o).memOk := by
  unfold State.farStep
  split
  · exact memOk_engineFault _ _ _ _ _ h
  · exact memOk_ite (memOk_finishOp _ _ h) h
theorem execFarOpComplete_keeps (c tl num : Nat) {s : State} (h : s.memOk) : allNext State.memOk (execFarOpComplete c tl num s) := by
  refine allNext_unit ?_
  split
  · exact h
  · exact State.memOk_ite h (State.memOk_farStep _ _ h)
theorem execFarmMemberWaitExpiry_keeps (c tl num : Nat) {s : State} (h : s.memOk) :
    allNext State.memOk (execFarmMemberWaitExpiry c tl num s) := allNext_unit (State.memOk_farFix _ _ _ _ h)
theorem execEngineVaultCommand_keeps (tile : Nat) (cmd : EngineCmd) {s : State} (h : s.memOk) :
    allNext State.memOk (execEngineVaultCommand tile cmd s) := by
  refine allNext_unit ?_
  extract_lets col
  have hcol (tl num : Nat) (f : Nat → AsyncOp → State) (hf : ∀ c o, (f c o).memOk) : (col tl num f).memOk := by
    unfold col
    split
    · exact h
    · refine State.memOk_ite h (State.memOk_ite (State.memOk_tagFault _ _ h) ?_)
      split
      · exact State.memOk_engineFault _ _ _ _ _ h
      · exact hf _ _
  clear_value col
  cases cmd with
  | act bank row => exact State.memOk_portRow _ _ _ _ h
  | pre bank => exact State.memOk_portRow _ _ _ _ h
  | rdCol tl num k => exact hcol _ _ _ fun _ _ => State.memOk_farRead _ _ _ h
  | wrCol tl num k => exact hcol _ _ _ fun _ _ => State.memOk_farWrite _ _ _ h
theorem State.memOk_farAck {s : State} (f : FarFrame) (h : s.memOk) : (s.farAck f).memOk :=
  memOk_foldl' h fun _ _ hs => memOk_modCoach hs fun _ hk => hk
theorem State.memOk_farFrame {s : State} (f : FarFrame) (h : s.memOk) : (s.farFrame f).memOk := by
  unfold State.farFrame
  extract_lets se put s1
  have hput (x : Session) {s : State} (hs : s.memOk) : (put x s).memOk := memOk_modPkg hs fun _ hp => hp
  have h1 : s1.memOk := hput _ h
  clear_value put s1
  refine memOk_ite h (memOk_ite (hput _ h) (memOk_ite (memOk_farAck _ h1) ?_))
  split
  · exact h1
  · split
    · exact memOk_modOp _ _ _ _ h1
    · have hstage (c tl num : Nat) (g : AsyncOp → AsyncOp) := memOk_modOp c tl num g h1
      exact memOk_ite (memOk_ite (memOk_engineFault _ _ _ _ _ h1) (memOk_ite (hstage _ _ _ _) h1))
        (memOk_ite (memOk_farFix _ _ _ _ (hstage _ _ _ _)) h1)
theorem execFarFrameReceive_keeps (f : FarFrame) {s : State} (h : s.memOk) : allNext State.memOk (execFarFrameReceive f s) :=
  allNext_unit (State.memOk_farFrame _ h)

/-! ## The dispatcher (12 R265, R268) -/

theorem State.memOk_dispatch {s : State} (c : Nat) (h : s.memOk) : (s.dispatch c).memOk := by
  unfold State.dispatch
  extract_lets qs s1 again
  have h1 : s1.memOk := memOk_foldl' h fun _ _ hs => memOk_setQueue _ _ hs
  clear_value s1
  split
  · exact h1
  · extract_lets s2
    have h2 : s2.memOk := memOk_modCoach h1 fun _ hk => hk
    have hagain {s : State} (hs : s.memOk) : (again s).memOk := memOk_todo _ hs
    clear_value s2 again
    split
    · exact hagain (memOk_setQueue _ _ h2)
    · have h3 := fun (q : Nat) (x : Queue) => memOk_setQueue q x h2
      refine memOk_ite (memOk_load _ _ _ _ (h3 _ _)) (hagain (memOk_refuseLaunch _ _ (memOk_modLaunch (h3 _ _) ?_)))
      exact fun _ _ => ⟨List.forall_mem_nil _, List.forall_mem_nil _⟩
theorem execDispatchDecision_keeps (c : Nat) {s : State} (h : s.memOk) : allNext State.memOk (execDispatchDecision c s) := by
  refine allNext_unit ?_
  split
  · exact State.memOk_ite (State.memOk_dispatch _ h) h
  · exact h

end Sys2Proof.Machine

/-! Hatbox images and relay points keep every memory in canonical form (13 R283 to R292, 14 R294 to R305): a restored memory is built
by puts into an empty one. -/
namespace Sys2Proof.Machine
open Sys2Proof

/-! ## Sealing (14 R296 to R301) -/

theorem State.memOk_setLineage {s : State} (x : Lineage) (h : s.memOk) : (s.setLineage x).memOk := memOk_modPkg h fun _ hp => hp
theorem State.memOk_hatDone {s : State} (c code : Nat) (h : s.memOk) : (s.hatDone c code).memOk := memOk_modCoach h fun _ hk => hk
theorem Tile.memOk_sealReads {t : Tile} (phase : Nat) (h : t.memOk) : (t.sealReads phase).1.memOk := by
  unfold Tile.sealReads
  extract_lets es lost t1 x src own life t2
  have hx : x.1.tile.memOk := List.foldlRecOn (motive := fun a : Reading × List Fail => a.1.tile.memOk) _ _ h
    fun _ ha _ _ => Reading.memOk_meet _ _ _ _ ha
  clear_value x
  show t2.memOk
  unfold t2
  split <;> exact hx
theorem State.memOk_sealReads {s : State} (c : Nat) (h : s.memOk) : (s.sealReads c).1.memOk := by
  unfold State.sealReads
  extract_lets l
  exact List.foldlRecOn (motive := fun a : State × List Record => a.1.memOk) _ _ h
    fun _ ha t _ => memOk_setTile ha (Tile.memOk_sealReads _ (h.1 t))
theorem State.memOk_seal {s : State} (c : Nat) (h : s.memOk) : (s.seal c).memOk := by
  unfold State.seal
  extract_lets l handoff
  refine memOk_ite (memOk_hatDone _ _ h) ?_
  split
  · exact memOk_hatDone _ _ h
  · exact memOk_hatDone _ _ h
  · next rid ek k _ _ =>
    have h1 := memOk_sealReads c h
    generalize s.sealReads c = x at h1 ⊢
    obtain ⟨s1, bad⟩ := x
    refine memOk_ite (memOk_takeAll _ _ h1) ?_
    have h2 := memOk_draw h1
    dsimp -zeta only at h1 h2 ⊢
    generalize s1.draw = d at h2 ⊢
    obtain ⟨n1, s2⟩ := d
    have h3 := memOk_draw h2
    dsimp -zeta only at h3 ⊢
    generalize s2.draw = d at h3 ⊢
    obtain ⟨n2, s3⟩ := d
    dsimp -zeta only at h3 ⊢
    extract_lets image s4 s5 s6 s7
    have h4 : s4.memOk := memOk_modPkg h3 fun _ _ => Coach.hostWrite_wf _ _ _ _ h3.2.2.2
    have h5 : s5.memOk := memOk_modPkg (memOk_hatDone _ _ h4) fun _ hp => hp
    have h6 : s6.memOk := memOk_hatDone _ _ (memOk_setLineage _ h4)
    have h7 : s7.memOk := memOk_modCoach h6 fun _ hk => hk
    clear_value s4 s5 s7
    split
    · exact memOk_stopEvent _ _ _ (memOk_hatDone _ _ h4)
    · exact memOk_ite (memOk_stopEvent _ _ _ (memOk_event _ _ _ _ _ h5))
        (memOk_ite (memOk_modLaunch h7 fun _ hl => Launch.memOk_finish _ _ hl) h7)

/-! ## Restore (14 R302 to R305) -/

theorem VaultSt.foldl_wf {α : Type} {f : VaultSt → α → VaultSt}
    (hf : ∀ (v : VaultSt) (a : α), v.cells.wf = true → (f v a).cells.wf = true) (l : List α) {v : VaultSt} (h : v.cells.wf = true) : (l.foldl f v).cells.wf = true := by
  induction l generalizing v with
  | nil => exact h
  | cons a r ih => exact ih (hf v a h)
/-- A restored tile holds what its segments say and nothing of what it held. -/
theorem Tile.memOk_ofHat (t : Tile) (gs : List Segment) (tile : Nat) (va vb : Vector Word 16) (img : TileImg) (code : List CodeWord)
    (dict : List Bundle) : (t.ofHat gs tile va vb img code dict).memOk := by
  unfold Tile.ofHat
  dsimp only
  refine ⟨Mem.putL_wf _ _ rfl, ?_, Mem.putL_wf _ _ rfl⟩
  exact VaultSt.foldl_wf (fun _ _ hv => VaultSt.foldl_wf (fun _ _ hv => VaultSt.setColumn_wf _ _ hv) _ hv) _ rfl
theorem State.memOk_restoreFail {s : State} (c : Nat) (e : Refuse) (h : s.memOk) : (s.restoreFail c e).memOk := by
  unfold State.restoreFail
  exact memOk_planIdle _ (memOk_modCoach (memOk_wipe _ (memOk_log _ _ h)) fun _ _ => Proofs.memOk_launch_reset)
theorem State.memOk_restorePlace {s : State} (c : Nat) (x : HatImage) (gs : List Segment) (h : s.memOk) :
    (s.restorePlace c x gs).memOk := by
  unfold State.restorePlace
  dsimp only
  refine memOk_writeMirrors _ (memOk_modCoach (memOk_foldl' h fun _ _ hs => memOk_modTile hs fun _ _ => ?_) fun _ hk => hk)
  exact Tile.memOk_ofHat _ _ _ _ _ _ _ _
theorem State.memOk_restoreOn {s : State} (c : Nat) (h : s.memOk) : (s.restoreOn c).memOk :=
  memOk_modCoach (memOk_setLineage _ h) fun _ hk => hk
theorem State.memOk_restore {s : State} (c fn : Nat) (rec : Word) (h : s.memOk) : (s.restore c fn rec).memOk := by
  unfold State.restore
  extract_lets s1 s2 read reset s3
  have h1 : s1.memOk := memOk_modCoach h fun _ hk => hk
  have h2 : s2.memOk := memOk_modCoach h1 fun _ hk => hk
  have h3 : s3.memOk := memOk_modLaunch h2 fun _ _ => ⟨List.forall_mem_nil _, List.forall_mem_nil _⟩
  clear_value s1 s2 read s3
  refine memOk_ite h1 (memOk_ite (memOk_restoreFail _ _ h3) ?_)
  split
  · exact memOk_restoreFail _ _ h3
  · refine memOk_ite (memOk_restoreFail _ _ h3) ?_
    split
    · exact memOk_restoreFail _ _ h3
    · next g hg =>
      extract_lets s4
      have h4 : s4.memOk := memOk_modLaunch h3 fun _ hl => ⟨hl.1, loadChecks_wf hg⟩
      clear_value s4
      split
      · exact memOk_restoreFail _ _ h4
      · split
        · exact memOk_restoreFail _ _ h4
        · next x _ _ gs _ =>
          have h5 := memOk_restorePlace c x gs h4
          dsimp only
          split
          · exact memOk_ite (memOk_reportNow _ _ _ h5) (memOk_restoreOn _ h5)
          · exact h5
theorem execHatboxRestore_keeps (fn c : Nat) (rec : Word) {s : State} (h : s.memOk) :
    allNext State.memOk (execHatboxRestore fn c rec s) := allNext_unit (State.memOk_ite (State.memOk_restore _ _ _ h) h)
theorem execRegisterWrite_keeps (fn off : Nat) (x : Word) {s : State} (h : s.memOk) :
    allNext State.memOk (execRegisterWrite fn off x s) :=
  allNext_unit (State.memOk_ite (State.memOk_bar0 _ _ _ h fun _ => State.memOk_restore _ _ _ h) h)

/-! ## Loader work at a relay point (13 Table 13-3) -/

theorem State.memOk_saveLives {s : State} (h : s.memOk) : s.saveLives.memOk := memOk_modPkg h fun _ hp => hp
theorem Tile.memOk_beginMigration {t : Tile} (no : Nat) (ro : BitVec 32) (h : t.memOk) : (t.beginMigration no ro).tile.memOk := by
  unfold Tile.beginMigration
  extract_lets x
  have hx : x.tile.memOk := by
    unfold x
    split
    · exact memOk_moveReads _ _ _ _ h
    · exact h
  exact ⟨hx.1, VaultSt.startMigration_wf _ _ hx.2.1, hx.2.2⟩
theorem State.memOk_remap {s : State} (c t n no : Nat) (ro : BitVec 32) (h : s.memOk) : (s.remap c t n no ro).memOk := by
  unfold State.remap
  extract_lets x v at_ s1
  have hat (y : Tile) (hy : y.memOk) : (at_ y).memOk := hy
  have h1 : s1.memOk := memOk_took _ _ h (Tile.memOk_finishMigration (h.1 t))
  clear_value at_ s1
  split
  · exact memOk_took _ _ h (Tile.memOk_startMigration _ _ (hat _ (h.1 t)))
  · refine memOk_ite ?_ ?_
    · exact memOk_took _ _ h (Tile.memOk_beginMigration _ _ (Tile.memOk_rekey _ (hat _ (h.1 t))))
    · exact memOk_took _ _ h1 (Tile.memOk_startMigration _ _ (hat _ (h1.1 t)))
theorem State.memOk_relayPlan {s : State} (c : Nat) (used : List Nat) (h : s.memOk) : (s.relayPlan c used).memOk := by
  unfold State.relayPlan
  exact memOk_ite (memOk_event _ _ _ _ _ h) (memOk_ite (memOk_modLaunch (memOk_applyPlan _ h) fun _ hl => hl) h)
theorem State.memOk_relayChoose {s : State} (c v : Nat) (named : Bool) (h : s.memOk) : (s.relayChoose c v named).memOk := by
  unfold State.relayChoose
  extract_lets l vi s1 s2 s3 maps
  have h1 : s1.memOk := memOk_ite h (memOk_relayPlan _ _ h)
  have h2 : s2.memOk := memOk_foldl' h1 fun _ _ hs => memOk_ite (memOk_remap _ _ _ _ _ hs) hs
  have h3 : s3.memOk := memOk_modTiles' h2 fun _ hy => Tile.memOk_setBanks _ hy
  clear_value s3
  exact memOk_modLaunch h3 fun _ hl => hl
theorem State.memOk_relayNone {s : State} (c : Nat) (h : s.memOk) : (s.relayNone c).memOk :=
  memOk_modLaunch (memOk_modTiles' h fun _ hy => hy) fun _ hl => hl
theorem State.memOk_relaySelect {s : State} (c : Nat) (h : s.memOk) : (s.relaySelect c).memOk := by
  unfold State.relaySelect
  extract_lets vs s1
  have h1 : s1.memOk := memOk_modLaunch h fun _ hl => hl
  clear_value s1 vs
  split
  · exact memOk_relayChoose _ _ _ h1
  · exact memOk_reportNow _ _ _ (memOk_relayNone _ h1)
theorem State.memOk_relayRepair {s : State} (c t : Nat) (h : s.memOk) : (s.relayRepair c t).memOk := by
  unfold State.relayRepair
  extract_lets s1 v s2
  have h1 : s1.memOk := memOk_took _ _ h (Tile.memOk_finishMigration (h.1 t))
  have h2 : s2.memOk := memOk_modTile (memOk_repairTile _ _ _ h1) fun _ hy => hy
  exact memOk_took _ _ h2 (Tile.memOk_startMigration _ _ (h2.1 t))
theorem State.memOk_relayBegin {s : State} (c : Nat) (h : s.memOk) : (s.relayBegin c).memOk := by
  unfold State.relayBegin
  extract_lets s1 maps cls s2 s3
  have h1 : s1.memOk := memOk_saveLives h
  have h2 : s2.memOk := memOk_modLaunch h1 fun _ hl => hl
  have h3 : s3.memOk := memOk_ite h2 (memOk_foldl' h2 fun _ _ hs => memOk_relayRepair _ _ hs)
  exact memOk_retrainHalf _ h3
theorem State.memOk_relayTile {s : State} (c t : Nat) (h : s.memOk) : (s.relayTile c t).memOk := by
  unfold State.relayTile
  extract_lets l vi e
  refine memOk_modTile h fun x hx => ?_
  split
  · exact hx
  · obtain ⟨hsp, hbt⟩ := Launch.dataOf_wf t (h.2.1 c)
    have hy := Tile.memOk_place (look [] vi.code t) (look [] vi.dict t) vi.banks x.vault.rfclass s.wall hx hsp hbt
    extract_lets y y1 n
    have h1 : y1.memOk := by
      unfold y1
      split
      · exact Tile.memOk_again _ hy
      · exact hy
    exact h1
theorem State.memOk_relayLoad {s : State} (c : Nat) (h : s.memOk) : (s.relayLoad c).memOk := by
  unfold State.relayLoad
  extract_lets l vi s1
  have h1 : s1.memOk := memOk_foldl' h fun _ _ hs => memOk_relayTile _ _ hs
  clear_value s1
  exact memOk_ite (memOk_modLaunch h fun _ hl => hl) (memOk_modLaunch h1 fun _ hl => hl)
theorem State.memOk_relayClose {s : State} (c : Nat) (h : s.memOk) : (s.relayClose c).memOk := by
  unfold State.relayClose
  extract_lets l s1 s2 done
  have h1 : s1.memOk := memOk_modTiles' h fun _ hy => hy
  have h2 : s2.memOk := memOk_closeTiles _ _ h1
  clear_value s2
  exact memOk_modCoach h2 fun _ hk => hk
theorem State.memOk_switchEvent {s : State} (c : Nat) (h : s.memOk) : (s.switchEvent c).memOk := memOk_ite h (memOk_event _ _ _ _ _ h)
theorem State.memOk_relayResume {s : State} (c : Nat) (h : s.memOk) : (s.relayResume c).memOk := by
  unfold State.relayResume
  extract_lets l vi s1 s2 s3 s4
  have h1 : s1.memOk := memOk_switchEvent _ h
  have h2 : s2.memOk := memOk_foldl' h1 fun _ _ hs => memOk_modTile hs fun _ hy => hy
  have h3 : s3.memOk := memOk_foldl' h2 fun _ _ hs => memOk_modTile hs fun _ hy => hy
  have h4 : s4.memOk := memOk_modCoach h3 fun _ hk => hk
  exact memOk_resumeAt _ _ h4
theorem State.memOk_relayHatbox {s : State} (c : Nat) (h : s.memOk) : (s.relayHatbox c).memOk := by
  unfold State.relayHatbox
  extract_lets k on
  have hon {s : State} (hs : s.memOk) : (on s).memOk := by
    unfold on
    split
    · exact memOk_modLaunch hs fun _ hl => hl
    · exact hs
  clear_value on
  exact memOk_ite (hon h) (memOk_ite (hon (memOk_seal _ h)) (memOk_modCoach h fun _ hk => hk))
theorem State.memOk_relayOne {s : State} (c : Nat) (h : s.memOk) : (s.relayOne c).memOk := by
  unfold State.relayOne
  extract_lets l
  split
  · exact memOk_relayBegin _ h
  · exact memOk_ite h (memOk_relaySelect _ h)
  · refine memOk_ite ?_ (memOk_ite ?_ (memOk_modLaunch h fun _ hl => hl))
    · exact memOk_modLaunch (memOk_foldl' h fun _ t hs => memOk_took _ _ hs (Tile.memOk_finishMigration (hs.1 t))) fun _ hl => hl
    · exact memOk_modLaunch (memOk_foldl' h fun _ t hs => memOk_took _ _ hs (Tile.memOk_migrateLine (hs.1 t))) fun _ hl => hl
  · exact memOk_relayHatbox _ h
  · exact memOk_relayLoad _ h
  · exact memOk_relayClose _ h
  · refine memOk_ite (memOk_relayResume _ h) (memOk_ite (memOk_modLaunch h fun _ hl => hl) (memOk_reportNow _ _ _ ?_))
    exact memOk_modLaunch h fun _ hl => hl
  · exact memOk_ite (memOk_relayResume _ h) h
theorem State.memOk_relayGo (n : Nat) {s : State} (c : Nat) (h : s.memOk) : (s.relayGo c n).memOk := by
  induction n generalizing s with
  | zero => exact h
  | succ n ih =>
    unfold State.relayGo
    extract_lets l s1
    have h1 : s1.memOk := memOk_relayOne _ h
    clear_value s1
    split
    · exact memOk_ite (memOk_ite h1 (ih h1)) h
    · exact h
theorem execRelayLoaderWork_keeps (c : Nat) {s : State} (h : s.memOk) : allNext State.memOk (execRelayLoaderWork c s) :=
  allNext_unit (State.memOk_ite h (State.memOk_relayGo _ _ h))
theorem execNoVariantTimeout_keeps (c : Nat) {s : State} (h : s.memOk) : allNext State.memOk (execNoVariantTimeout c s) :=
  allNext_unit (allNext_ite (State.memOk_stopEvent _ _ _ h) h)
theorem execForecastPublish_keeps (ws : List (Nat × Nat × Nat)) {s : State} (h : s.memOk) :
    allNext State.memOk (execForecastPublish ws s) := by
  refine allNext_ite h ?_
  extract_lets s1
  have h1 : s1.memOk := State.memOk_modPkg h fun _ hp => hp
  clear_value s1
  refine State.memOk_foldl' h1 fun s c hs => ?_
  split
  · exact State.memOk_relaySelect _ (State.memOk_modLaunch hs fun _ hl => hl)
  · exact hs

end Sys2Proof.Machine

/-! Tandem ports, epochs and the reports of a domain launch keep every memory in canonical form (02 R63, R64, 08 R202 to R204, 12 R270,
19 R354 to R357, 20 R366). -/
namespace Sys2Proof.Machine
open Sys2Proof

/-! ## Flits (19 R354, R355) -/

theorem State.memOk_takeAck {s : State} (p : Nat) (f : Flit) (h : s.memOk) : (s.takeAck p f).memOk := by
  unfold State.takeAck
  extract_lets s1 q s2
  have h1 : s1.memOk := memOk_modPort _ _ h
  have h2 : s2.memOk := memOk_foldl' h1 fun _ _ hs => memOk_out _ hs
  exact memOk_ite (memOk_modPort _ _ h2) h1
theorem State.memOk_sendAck {s : State} (p : Nat) (nak : Bool) (h : s.memOk) : (s.sendAck p nak).memOk := by
  unfold State.sendAck
  exact memOk_modPort _ _ (memOk_out _ h)
theorem State.memOk_linkCounts {s : State} (p : Nat) (f : Flit) (h : s.memOk) : (s.linkCounts p f).memOk := memOk_modPort _ _ h
theorem execIdleFlit_keeps (p : Nat) (f : Flit) {s : State} (h : s.memOk) : allNext State.memOk (execIdleFlit p f s) := by
  have h1 := State.memOk_linkCounts p f h
  exact allNext_unit (State.memOk_ite h (State.memOk_ite (State.memOk_takeAck _ _ h1) h1))
theorem State.memOk_lateFlit {s : State} (c p q f : Nat) (h : s.memOk) : (s.lateFlit c p q f).memOk := by
  unfold State.lateFlit
  extract_lets second s1 s2 r
  have h1 : s1.memOk := memOk_sendCtl _ _ (memOk_modPort _ _ h)
  have h2 : s2.memOk := memOk_ite (memOk_foldl' h1 fun _ _ hs => memOk_modPort _ _ hs) h1
  clear_value s2
  exact memOk_ite (memOk_modCoach h2 fun _ hk => hk) (memOk_takeFaults _ _ _ h2)
theorem State.memOk_awaitCopy {s : State} (p : Nat) (f : Flit) (h : s.memOk) : (s.awaitCopy p f).memOk := by
  unfold State.awaitCopy
  extract_lets s1
  have h1 : s1.memOk := memOk_modPort _ _ h
  clear_value s1
  split
  · dsimp only
    have h2 := fun g => memOk_modPort p g h1
    exact memOk_ite h1 (memOk_ite (h2 _) (memOk_lateFlit _ _ _ _ (h2 _)))
  · exact h1
theorem State.memOk_goodFlit {s : State} (p : Nat) (f : Flit) (h : s.memOk) : (s.goodFlit p f).memOk := by
  unfold State.goodFlit
  extract_lets s1
  have h1 : s1.memOk := memOk_modPort _ _ h
  clear_value s1
  split
  · exact h1
  · dsimp only
    have h2 := fun g => memOk_modPort p g h1
    exact memOk_ite (memOk_modPort _ _ (h2 _)) (memOk_ite (h2 _) (memOk_lateFlit _ _ _ _ (h2 _)))
theorem State.memOk_goodCtl {s : State} (p : Nat) (f : Flit) (h : s.memOk) : (s.goodCtl p f).memOk := by
  unfold State.goodCtl
  extract_lets s1
  have h1 : s1.memOk := memOk_modPort _ _ h
  clear_value s1
  split
  · exact memOk_todo _ h1
  · exact h1
theorem State.memOk_pushFlit {s : State} (p : Nat) (f : Flit) (h : s.memOk) : (s.pushFlit p f).memOk := by
  unfold State.pushFlit
  extract_lets next s1 s2 s3
  have h1 : s1.memOk := memOk_linkCounts _ _ h
  have h2 : s2.memOk := memOk_ite (memOk_awaitCopy _ _ h1) h1
  have h3 : s3.memOk := memOk_takeAck _ _ h1
  clear_value s2 s3
  refine memOk_ite (memOk_sendAck _ _ h2) (memOk_ite h1 (memOk_ite (memOk_sendAck _ _ ?_) (memOk_ite (memOk_awaitCopy _ _ h3) h3)))
  exact memOk_ite (memOk_goodFlit _ _ h3) (memOk_goodCtl _ _ h3)
theorem execTandemPushFlit_keeps (p : Nat) (f : Flit) {s : State} (h : s.memOk) : allNext State.memOk (execTandemPushFlit p f s) :=
  allNext_unit (State.memOk_ite (State.memOk_pushFlit _ _ h) h)
theorem State.memOk_inject {s : State} (c p : Nat) (f : Flit) (h : s.memOk) : (s.inject c p f).memOk := by
  unfold State.inject
  extract_lets i t pt why id s1 issued push
  have h1 : s1.memOk := memOk_modPkg h fun _ hp => hp
  have hpush (a : Nat) (ts : List (Nat × Res)) (l : Option (Nat × Nat)) : (push a ts l).memOk := memOk_modCoach h1 fun _ hk => hk
  clear_value push
  exact memOk_ite (hpush _ _ _) (memOk_note _ _ _ _ _ (hpush _ _ _))
theorem execFlitInject_keeps (p : Nat) {s : State} (h : s.memOk) : allNext State.memOk (execFlitInject p s) := by
  refine allNext_unit ?_
  split
  · exact h
  · refine State.memOk_foldl' (State.memOk_foldl' (State.memOk_modPort _ _ h) ?_) fun _ _ hs => State.memOk_lateFlit _ _ _ _ hs
    exact fun _ _ hs => State.memOk_inject _ _ _ hs

/-! ## Retraining and epochs (19 R357, Table 19-5) -/

theorem State.memOk_awaitSync {s : State} (p : Nat) (h : s.memOk) : (s.awaitSync p).memOk := memOk_modPort _ _ h
theorem State.memOk_syncPorts {s : State} (h : s.memOk) : s.syncPorts.memOk := by
  unfold State.syncPorts
  exact memOk_ite h (memOk_foldl' h fun _ _ hs => memOk_ite (memOk_modPort _ _ (memOk_sendCtl _ _ hs)) hs)
theorem State.memOk_retrained {s : State} (p : Nat) (half good : Bool) (h : s.memOk) : (s.retrained p half good).memOk := by
  unfold State.retrained
  extract_lets q group d s1 s2 s3 s4
  have hgroup (f : Port → Port) {s : State} (hs : s.memOk) : (group s f).memOk := memOk_foldl' hs fun _ _ hs => memOk_modPort _ _ hs
  have h1 : s1.memOk := memOk_modPort _ _ h
  have h2 : s2.memOk := memOk_awaitSync _ (memOk_modPort _ _ h1)
  have h3 : s3.memOk := hgroup _ h1
  have h4 : s4.memOk := memOk_event _ _ _ _ _ (memOk_modPort _ _ h3)
  clear_value group s2 s3 s4
  refine memOk_ite h ?_
  split
  · split
    · exact memOk_log _ _ h2
    · exact h2
  · exact memOk_modPort _ _ (hgroup _ h1)
  · exact memOk_event _ _ _ _ _ (memOk_saveRates (memOk_awaitSync _ (memOk_modPort _ _ h3)))
  · refine memOk_foldl' h4 fun s c hs => ?_
    dsimp only
    split
    · exact hs
    · exact memOk_ite (memOk_takeFaults _ _ _ hs) hs
theorem execRetrainFlit_keeps (p : Nat) (half good : Bool) {s : State} (h : s.memOk) :
    allNext State.memOk (execRetrainFlit p half good s) := allNext_unit (State.memOk_ite (State.memOk_retrained _ _ _ h) h)
theorem State.memOk_syncFault {s : State} (c p n : Nat) (h : s.memOk) : (s.syncFault c p n).memOk := memOk_takeFaults _ _ _ h
theorem execEpochSync_keeps (p n : Nat) {s : State} (h : s.memOk) : allNext State.memOk (execEpochSync p n s) := by
  refine allNext_unit ?_
  extract_lets k s1
  have h1 : s1.memOk := State.memOk_modPort _ _ h
  clear_value s1
  exact allNext_ite h (allNext_ite (State.memOk_foldl' h1 fun _ _ hs => State.memOk_syncFault _ _ _ hs)
    (State.memOk_modPkg h1 fun _ hp => hp))
theorem State.memOk_takeVariant {s : State} (c v : Nat) (h : s.memOk) : (s.takeVariant c v).memOk := by
  unfold State.takeVariant
  dsimp only
  split
  · exact memOk_ite h (memOk_placeAll _ _ _ h)
  · exact memOk_ite h (memOk_relayChoose _ _ _ h)
  · exact h
theorem execStartSync_keeps (p c epoch v : Nat) {s : State} (h : s.memOk) : allNext State.memOk (execStartSync p c epoch v s) := by
  have hgo : allNext State.memOk (
      if !(s.coach c).launch.isDomain ∨ !s.up then .next s
      else if epoch * Config.epoch < s.pkg.epoch then .next (s.syncFault c p epoch)
      else if (s.coach c).launch.mode = .starting ∧ (s.coach c).launch.restoring then .next (s.restoreOn c)
      else .next ((s.modLaunch c fun l => { l with startEpoch := some epoch }).takeVariant c v)) :=
    allNext_ite h (allNext_ite (State.memOk_syncFault _ _ _ h) (allNext_ite (State.memOk_restoreOn _ h)
      (State.memOk_takeVariant _ _ (State.memOk_modLaunch h fun _ hl => hl))))
  refine allNext_unit ?_
  dsimp only
  split
  case h_5 => exact h
  all_goals exact hgo

/-! ## Reports (02 R64, 12 R270, 17 Table 17-6, 20 R366) -/

theorem State.memOk_refuseDomain {s : State} (c code : Nat) (h : s.memOk) : (s.refuseDomain c code).memOk :=
  memOk_ite (memOk_restoreFail _ _ h) (memOk_refuseLaunch _ _ h)
theorem State.memOk_refuseAll {s : State} (c code : Nat) (h : s.memOk) : (s.refuseAll c code).memOk :=
  memOk_tell _ (memOk_refuseDomain _ _ h)
theorem State.memOk_rdvFault {s : State} (c frame : Nat) (x : Fail) (h : s.memOk) : (s.rdvFault c frame x).memOk := by
  unfold State.rdvFault
  extract_lets l s1
  have h1 : s1.memOk := memOk_ite (memOk_undoRdv _ h) h
  exact memOk_takeFaults _ _ _ h1
theorem State.memOk_rdvMissing {s : State} (c frame id pkg tile : Nat) (h : s.memOk) : (s.rdvMissing c frame id pkg tile).memOk :=
  memOk_rdvFault _ _ _ h
theorem State.memOk_allReported {s : State} (c : Nat) (h : s.memOk) : (s.allReported c).memOk := by
  unfold State.allReported
  extract_lets l rs s1 ids lo hi
  have h1 : s1.memOk := memOk_modLaunch h fun _ hl => hl
  clear_value s1 rs
  split
  · refine memOk_ite (memOk_refuseAll _ _ h1) (memOk_ite (memOk_restoreOn _ (memOk_nameEpoch _ _ h1)) ?_)
    split
    · exact memOk_refuseAll _ _ h1
    · exact memOk_takeVariant _ _ (memOk_nameEpoch _ _ h1)
  · split
    · exact memOk_tell _ (memOk_modLaunch (memOk_relayNone _ h) fun _ hl => hl)
    · exact memOk_takeVariant _ _ (memOk_nameEpoch _ _ h)
  · exact memOk_ite (memOk_nameEpoch _ _ h) (memOk_rdvFault _ _ _ h)
  · exact memOk_nameEpoch _ _ h
theorem State.memOk_takeReport {s : State} (c : Nat) (r : Report) (h : s.memOk) : (s.takeReport c r).memOk := by
  unfold State.takeReport
  extract_lets l again l1 s1
  have hl : l1.memOk := by
    unfold l1
    split
    · exact h.2.1 c
    · exact h.2.1 c
  have h1 : s1.memOk := memOk_modLaunch h fun _ _ => hl
  clear_value l1 s1
  exact memOk_ite (memOk_refuseAll _ _ h) (memOk_ite (memOk_ite (memOk_refuseAll _ _ h) h) (memOk_ite (memOk_allReported _ h1) h1))
theorem State.memOk_holdReport {s : State} (c : Nat) (r : Report) (h : s.memOk) : (s.holdReport c r).memOk := memOk_of_eq h rfl rfl rfl rfl
theorem State.memOk_failEnding {s : State} (c frame : Nat) (x : Fail) (h : s.memOk) : (s.failEnding c frame x).memOk := by
  unfold State.failEnding
  extract_lets l r s1
  have h1 : s1.memOk := memOk_log _ _ h
  clear_value s1
  exact memOk_ite h1 (memOk_modCoach (memOk_announce _ _ h1) fun _ hk => hk)
theorem State.memOk_failPast {s : State} (c frame : Nat) (x : Fail) (h : s.memOk) : (s.failPast c frame x).memOk :=
  memOk_out _ (memOk_pastRecord _ _ _ _ h)
theorem State.memOk_rdvReport {s : State} (c : Nat) (r : Report) (id : Nat) (h : s.memOk) : (s.rdvReport c r id).memOk := by
  unfold State.rdvReport
  extract_lets l none_ p
  have hm (frame id pkg tile : Nat) := memOk_rdvMissing c frame id pkg tile h
  have hh := memOk_holdReport c r h
  split
  · exact memOk_ite (memOk_takeReport _ _ h) (memOk_ite (hm _ _ _ _) (hm _ _ _ _))
  · exact memOk_ite (hm _ _ _ _) hh
  · exact memOk_ite (hm _ _ _ _) h
  · exact memOk_ite h hh
  · exact memOk_ite h hh
  · exact memOk_ite h hh
  · exact memOk_ite (hm _ _ _ _) (memOk_ite (hm _ _ _ _) h)
  · exact memOk_ite (memOk_failEnding _ _ _ h) h
  · exact memOk_ite (memOk_failPast _ _ _ h) h
  · exact h
theorem State.memOk_heldReport {s : State} (c : Nat) (r : Report) (h : s.memOk) : (s.heldReport c r).memOk := by
  unfold State.heldReport
  extract_lets l
  have hh := memOk_holdReport c r h
  split
  · exact memOk_takeReport _ _ h
  · exact memOk_ite (memOk_rdvMissing _ _ _ _ _ h) hh
  · exact hh
  · exact memOk_ite h hh
  · exact memOk_ite h hh
  · exact memOk_ite h hh
  · exact h
theorem State.memOk_commitReport {s : State} (c : Nat) (r : Report) (k : Nat) (h : s.memOk) : (s.commitReport c r k).memOk := by
  unfold State.commitReport
  extract_lets l own late fail keep void
  have hfail (first pkg tile : Nat) : (fail first pkg tile).memOk := memOk_failEnding _ _ _ h
  have hkeep : (keep s).memOk := memOk_modLaunch h fun _ hl => hl
  have hc (first pkg tile : Nat) := memOk_commitFault c k first pkg tile h
  have hh := memOk_holdReport c r h
  clear_value fail keep void
  split
  · exact h
  · exact h
  · split
    · exact memOk_ite hkeep (memOk_ite (hfail _ _ _) (hfail _ _ _))
    · exact memOk_ite (hfail _ _ _) h
  · refine memOk_ite h ?_
    split
    · exact memOk_ite hkeep (memOk_ite (hc _ _ _) (hc _ _ _))
    · refine memOk_ite h (memOk_ite hh (memOk_ite (memOk_ite h (hc _ _ _)) (memOk_ite (memOk_ite ?_ hh) (hc _ _ _))))
      exact memOk_rdvMissing _ _ _ _ _ h
theorem State.memOk_report {s : State} (c : Nat) (r : Report) (h : s.memOk) : (s.report c r).memOk := by
  unfold State.report
  extract_lets l first own
  have ht := memOk_takeReport c r h
  have hh := memOk_holdReport c r h
  clear_value first own
  split
  · exact memOk_ite (memOk_refuseDomain _ _ h) h
  · exact memOk_ite (memOk_cancelAt _ _ _ _ _ _ h) h
  · split
    · exact memOk_ite (memOk_relayNone _ h) h
    · exact h
  · split
    · exact memOk_ite ht h
    · exact hh
    · exact hh
    · exact h
  · exact memOk_ite (memOk_rdvReport _ _ _ h) h
  · exact memOk_ite (memOk_heldReport _ _ h) h
  · exact memOk_ite (memOk_commitReport _ _ _ h) h
  · refine memOk_ite h ?_
    split
    · exact memOk_ite h (memOk_ite ht hh)
    · exact hh
    · exact hh
    · exact hh
    · exact hh
    · exact hh
    · exact h
theorem execConditionReport_keeps (c : Nat) (r : Report) {s : State} (h : s.memOk) : allNext State.memOk (execConditionReport c r s) :=
  allNext_unit (State.memOk_ite (State.memOk_report _ _ h) h)
theorem execStartWaitTimeout_keeps (c : Nat) {s : State} (h : s.memOk) : allNext State.memOk (execStartWaitTimeout c s) := by
  refine allNext_unit ?_
  dsimp only
  split
  · exact State.memOk_ite (State.memOk_refuseAll _ _ h) h
  · exact h

end Sys2Proof.Machine

/-! Bring-up, the management controller and the cycle's own work keep every memory in canonical form (01 R30 to R34, 02 R36,
20 R368 to R371). -/
namespace Sys2Proof.Machine
open Sys2Proof

/-! ## Bring-up (01 R32, R33) -/

theorem State.memOk_bootStop {s : State} (step : Nat) (digest : Word) (h : s.memOk) : (s.bootStop step digest).memOk :=
  memOk_event _ _ _ _ _ (memOk_modPkg h fun _ hp => hp)
theorem State.memOk_trained {s : State} (h : s.memOk) : s.trained.memOk := by
  unfold State.trained
  refine memOk_foldl' h fun s p hs => ?_
  split
  · exact memOk_ite (memOk_sendCtl _ _ (memOk_out _ hs)) (memOk_out _ hs)
  · exact hs
theorem State.coach_bootPkg_launch (s : State) (c : Nat) : (s.bootPkg.coach c).launch = Launch.reset := by
  by_cases hc : c < 16 <;> simp [State.coach, State.bootPkg, Vector.getD, Coach.reset, hc]
/-- Tiles and coaches begin anew; host memory and the cursor stand. -/
theorem State.memOk_bootPkg {s : State} (h : s.memOk) : s.bootPkg.memOk := by
  refine ⟨fun t => ?_, fun c => s.coach_bootPkg_launch c ▸ Proofs.memOk_launch_reset, h.2.2.1, h.2.2.2⟩
  have ht : s.bootPkg.tiles = (List.range 384).map fun t => (t, bootTile s.pkg.flash.cfg s.pkg.flash.lives t) := rfl
  unfold State.tile
  rcases getK_mem Tile.reset s.bootPkg.tiles t with e | e
  · rw [e]; exact Proofs.memOk_tile_reset
  · rw [ht] at e ⊢
    obtain ⟨u, _, hu⟩ := List.mem_map.1 e
    rw [← (Prod.mk.inj hu).2]
    exact ⟨rfl, rfl, rfl⟩
theorem State.memOk_boot {s : State} (h : s.memOk) : s.boot.memOk := by
  unfold State.boot
  have h1 := memOk_trained (memOk_bootPkg h)
  exact memOk_out _ (memOk_ite h1 (memOk_event _ _ _ _ _ h1))
theorem execBringUp_keeps {s : State} (h : s.memOk) : allNext State.memOk (execBringUp s) :=
  allNext_ite h (allNext_ite (State.memOk_bootStop _ _ (State.memOk_draw h))
    (allNext_ite (State.memOk_bootStop _ _ h) (State.memOk_boot h)))

/-! ## The management controller (20 R368 to R371) -/

/-- A change of every coach at once. -/
theorem State.memOk_mapCoaches {s : State} {f : Coach → Coach} (h : s.memOk) (hf : ∀ k : Coach, k.launch.memOk → (f k).launch.memOk) :
    ({ s with coaches := s.coaches.map f } : State).memOk := by
  refine ⟨h.1, fun c => ?_, h.2.2⟩
  by_cases hc : c < 16
  · have hk := hf _ (h.2.1 c)
    simpa [State.coach, Vector.getD, hc] using hk
  · have hr : Coach.reset.launch.memOk := Proofs.memOk_launch_reset
    simpa [State.coach, Vector.getD, hc] using hr
theorem State.memOk_overheat {s : State} (k measured : Nat) (h : s.memOk) : (s.overheat k measured).memOk := by
  unfold State.overheat
  refine memOk_foldl' h fun s c hs => memOk_ite (memOk_event _ _ _ _ _ (memOk_modCoach (memOk_stopEvent _ _ _ hs) ?_)) hs
  exact fun _ hk => hk
theorem State.memOk_powerOff {s : State} (h : s.memOk) : s.powerOff.memOk := by
  have h1 := memOk_mapCoaches (f := fun k => { k with
    launch := Launch.reset, past := Launch.reset, ops := [], unshown := [], pushes := [], faults := [] }) h fun _ _ => Proofs.memOk_launch_reset
  exact ⟨fun _ => Proofs.memOk_tile_reset, h1.2.1, h.2.2⟩
theorem State.memOk_trip {s : State} (k measured : Nat) (h : s.memOk) : (s.trip k measured).memOk := by
  unfold State.trip
  exact memOk_powerOff (memOk_event _ _ _ _ _ (memOk_foldl' h fun _ _ hs => memOk_ite (memOk_stopEvent _ _ _ hs) hs))
theorem execThermalModelRun_keeps (temps : List (Nat × Nat)) {s : State} (h : s.memOk) :
    allNext State.memOk (execThermalModelRun temps s) := by
  unfold execThermalModelRun
  extract_lets ts s1
  have h1 : s1.memOk := State.memOk_modPkg h fun _ hp => hp
  clear_value s1
  refine allNext_ite h ?_
  split
  · exact State.memOk_trip _ _ h1
  · exact State.memOk_foldl' h1 fun _ _ hs => State.memOk_overheat _ _ hs
theorem execLifetimeCounterSave_keeps {s : State} (h : s.memOk) : allNext State.memOk (execLifetimeCounterSave s) :=
  State.memOk_ite (State.memOk_saveLives h) h
theorem execFieldRecordRequest_keeps (first : Nat) {s : State} (h : s.memOk) : allNext State.memOk (execFieldRecordRequest first s) :=
  State.memOk_out _ h
theorem execHealthTestFailure_keeps {s : State} (h : s.memOk) : allNext State.memOk (execHealthTestFailure s) :=
  State.memOk_foldl' h fun _ _ hs => State.memOk_ite (State.memOk_stopEvent _ _ _ hs) hs

/-! ## The cycle's own work (02 R36, R51 to R65) -/

theorem State.memOk_beginClosing {s : State} (c : Nat) (h : s.memOk) : (s.beginClosing c).memOk := by
  unfold State.beginClosing
  exact memOk_ite (memOk_modLaunch (memOk_closeTiles _ _ h) fun _ hl => hl) h
theorem State.memOk_beginEnd {s : State} (c : Nat) (h : s.memOk) : (s.beginEnd c).memOk := by
  unfold State.beginEnd
  exact memOk_ite (memOk_modLaunch (memOk_modTiles' h fun _ hy => hy) fun _ hl => hl) h
theorem State.memOk_beginFrame {s : State} (c : Nat) (h : s.memOk) : (s.beginFrame c).memOk := by
  unfold State.beginFrame
  dsimp only
  split
  · exact memOk_ite (memOk_startLaunch _ h) h
  · exact memOk_ite (memOk_reportNow _ _ _ h) h
  · exact memOk_ite h (memOk_reportNow _ _ _ (memOk_modLaunch h fun _ hl => hl))
  · exact h
theorem State.memOk_idlePlan {s : State} (c : Nat) (h : s.memOk) : (s.idlePlan c).memOk := memOk_ite (memOk_planIdle _ h) h
theorem State.memOk_before {s : State} (es : List Instr) (r : List Task) (h : s.memOk) : (s.before es r).memOk := memOk_todo _ h
theorem State.memOk_timers {s : State} (stage : Nat) (h : s.memOk) : (s.timers stage).memOk := by
  unfold State.timers
  split
  · exact memOk_before _ _ (memOk_foldl' (memOk_syncPorts (memOk_hostWrites _ h)) fun _ _ hs => memOk_beginClosing _ hs)
  · exact memOk_before _ _ (memOk_foldl' h fun _ _ hs => memOk_beginEnd _ hs)
  · exact memOk_before _ _ (memOk_foldl' (memOk_todo _ h) fun _ _ hs => memOk_beginFrame _ hs)
  · exact memOk_before _ _ (memOk_foldl' h fun _ _ hs => memOk_idlePlan _ hs)
  · exact memOk_of_eq h rfl rfl rfl rfl
theorem State.memOk_tick {s : State} (h : s.memOk) : s.tick.memOk := by
  have h1 : State.memOk { s with coaches := s.coaches.map fun k =>
      if k.launch.advances then { k with launch := { k.launch with frc := k.launch.frc + 1 } } else k } :=
    memOk_mapCoaches h fun k hk => by split <;> exact hk
  exact memOk_of_eq h1 rfl rfl rfl rfl
/-- One piece of the work keeps the form where the meaning given to instructions does. -/
theorem State.runTask_keeps {ex : Instr → State → Host.Outcome State Fault Refusal}
    (hex : ∀ (i : Instr) (s : State), s.memOk → allNext State.memOk (ex i s)) (t : Task) {s : State} (h : s.memOk) :
    allNext State.memOk (State.runTask ex s t) := by
  cases t with
  | ev i => exact hex _ _ h
  | arrive c => exact memOk_before _ _ h
  | mesh c => exact memOk_before _ _ (memOk_meshCycle _ h)
  | land c => exact memOk_land _ h
  | tile c t => exact runTile_keeps hex _ _ h
  | slot sl ftl w => exact runSlot_keeps hex _ _ _ h
  | endBundle => exact memOk_endBundle h
  | deadline c => exact memOk_before _ _ (memOk_closeEngines _ h)
  | endCycle c => exact memOk_endCycle _ h
  | timers k => exact memOk_timers _ h
  | tick => exact memOk_tick h

end Sys2Proof.Machine

/-! Every instruction, and so every step, keeps every memory in canonical form. -/
namespace Sys2Proof.Machine
open Sys2Proof

theorem allNext_opArith {g : Guard} {u : VSlot} {vd va vb : BitVec 6} {q : BitVec 4} {ty : Ty} {rz : Bool} {lat : Nat}
    {e : Val → Val → Val → Val × Fl} {s : State} (h : s.memOk) : allNext State.memOk (opArith g u vd va vb q ty rz lat e s) :=
  allNext_opLanes h
theorem allNext_opMinMax {g : Guard} {u : VSlot} {vd va vb : BitVec 6} {q : BitVec 4} {ty : Ty} {isMax num : Bool} {s : State}
    (h : s.memOk) : allNext State.memOk (opMinMax g u vd va vb q ty isMax num s) := allNext_opLanes h
theorem allNext_opSpecial {g : Guard} {vd va : BitVec 6} {q : BitVec 4} {lat : Nat} {f : Val → Val × Fl} {s : State} (h : s.memOk) :
    allNext State.memOk (opSpecial g vd va q lat f s) := allNext_opLanes h
theorem allNext_opInt {g : Guard} {u : VSlot} {vd va vb : BitVec 6} {q : BitVec 4} {w lat : Nat} {f : Nat → Nat → Nat} {s : State}
    (h : s.memOk) : allNext State.memOk (opInt g u vd va vb q w lat f s) := allNext_opPlain h
theorem allNext_opInt1 {g : Guard} {u : VSlot} {vd va : BitVec 6} {q : BitVec 4} {w : Nat} {f : Nat → Nat} {s : State} (h : s.memOk) :
    allNext State.memOk (opInt1 g u vd va q w f s) := allNext_opPlain h
theorem allNext_opMove {g : Guard} {vd : BitVec 6} {q : BitVec 4} {ty : Ty} {lat : Nat} {r : State → Nat → Nat} {s : State}
    (h : s.memOk) : allNext State.memOk (opMove g vd q ty lat r s) := allNext_opPlain h

theorem exec_keeps (i : Instr) {s : State} (h : s.memOk) : allNext State.memOk (exec i s) := by
  unfold exec
  cases i with
  -- the code words and the C slot (05, 06)
  | acopyIn | acopyOut => exact allNext_opAcopy h
  | farxSend | farxRecv | farmSum | farmGather | farmBcast => exact allNext_opFar h
  | nop => exact h
  | tlrd | rdsys => exact allNext_slotOp h (State.memOk_postS _ _ _ _ h)
  | prep | fclr => exact allNext_slotOp h (State.memOk_post _ _ _ h)
  | jmp => exact allNext_slotOp h (State.memOk_steer _ h)
  | trap => exact allNext_slotOp h (State.memOk_note _ _ _ _ _ h)
  | issue => exact execIssue_keeps _ h
  | escape => exact execEscape_keeps h
  | idle => exact execIdle_keeps _ h
  | seg => exact execSeg_keeps _ h
  | endStream => exact execEndStream_keeps h
  | prepr => exact execPrepr_keeps _ _ _ h
  | br => exact execBr_keeps _ _ h
  | brn => exact execBrn_keeps _ _ h
  | loop => exact execLoop_keeps _ _ _ _ h
  | lper => exact execLper_keeps _ _ _ h
  | lbrk => exact execLbrk_keeps _ _ h
  | commit => exact execCommit_keeps _ _ _ h
  | relay => exact execRelay_keeps _ h
  | rdv => exact execRdv_keeps _ _ _ h
  | tlsig => exact execTlsig_keeps _ _ h
  | ftload => exact execFtload_keeps _ _ _ h
  | wrsys => exact execWrsys_keeps _ _ _ h
  -- the S slot (06)
  | add | sub | mul | mulh | mulhn | and | or | xor | andn | shl | shr | sra | rotl | min | max | minn | maxn | sel =>
    exact allNext_opS3 h
  | clz | ctz | popc | sext | zext | mov | ins16 | addi | andi | ori | xori | shli | shri | srai => exact allNext_opS2 h
  | divs | divn | rems | remn => exact allNext_opDiv h
  | pand | por | pxor | pandn => exact allNext_opPL h
  | movi => exact allNext_slotOp h (State.memOk_postS _ _ _ _ h)
  | cmp | cmpi | scmp | scmpi => exact allNext_slotOp h (State.memOk_postCmp _ _ h)
  | blkx => exact execBlkx_keeps _ _ _ h
  | blkalloc => exact execBlkalloc_keeps _ _ _ h
  | blkfree => exact execBlkfree_keeps _ _ _ h
  | blkref => exact execBlkref_keeps _ _ _ _ h
  -- the L slot (08)
  | ldV | ldbV => exact allNext_opLM h fun _ => State.memOk_postV _ _ _ _ _ h
  | ldS => exact allNext_opLM h fun _ => State.memOk_postS _ _ _ _ h
  | ldQ => exact allNext_opLM h fun _ => State.memOk_postQ _ _ _ _ _ h
  | stV | stS | stQ => exact allNext_opLM h fun _ => State.memOk_postLine _ _ _ _ _ _ h
  | ldgV => exact allNext_opLG h fun _ _ _ => State.memOk_postV _ _ _ _ _ h
  | stgV => exact execStgV_keeps _ _ _ _ _ _ h
  | pushV => exact execPushV_keeps _ _ _ h
  | pushl => exact execPushl_keeps _ _ _ h
  | lcopy => exact execLcopy_keeps _ _ _ _ h
  -- the M slot (09)
  | mmul => exact allNext_slotOp h (State.memOk_startMmul _ _ h)
  | mzero | mmov => exact allNext_slotOp h (State.memOk_postA _ _ _ h)
  | mld => exact allNext_slotOp h (State.memOk_withExtent _ _ _ h (State.memOk_postA _ _ _ h))
  | mst => exact allNext_slotOp h (State.memOk_storeAcc _ _ _ _ _ _ h)
  | macc | mscl => exact allNext_slotOp h (State.memOk_mapAcc _ _ h)
  | mrowadd => exact allNext_slotOp h (State.memOk_withExtent _ _ _ h (State.memOk_mapAcc _ _ h))
  | mldb => exact execMldb_keeps _ _ _ _ _ _ _ h
  | mmulTableMode => exact execMmulTableMode_keeps _ _ _ _ _ _ _ h
  | mstTableMode => exact execMstTableMode_keeps _ _ _ _ h
  -- the X slot (08)
  | xclr | xmode => exact allNext_slotOp h (State.memOk_modCt h fun _ hy => hy)
  | xin => exact execXin_keeps _ _ h
  | xout => exact execXout_keeps _ _ h
  -- the DR slot (10)
  | act | acti | pre | refb => exact allNext_slotOp h (State.memOk_bankCmd _ _ _ h fun _ => rfl)
  | prea => exact execPrea_keeps _ h
  | stop => exact execStop_keeps _ _ _ h
  -- the DC slot (10)
  | rd => exact execRd_keeps _ _ _ _ h
  | rds => exact execRds_keeps _ _ _ _ h
  | wr => exact execWr_keeps _ _ _ _ h
  | wrs => exact execWrs_keeps _ _ _ _ h
  -- the vector slots (07)
  | vadd | vsub | vmul | vfma | vfms | vfnma => exact allNext_opArith h
  | vmin | vmax => exact allNext_opMinMax h
  | vscale | vdiv => exact allNext_opLanes h
  | vrcp | vrsq | vsqrt | vexp2 | vlog2 => exact allNext_opSpecial h
  | viadd | visub | vimul | vimulh | vishl | vishr | visra | vimin | vimax | viaddsat => exact allNext_opInt h
  | viabs | vpopc | vclz => exact allNext_opInt1 h
  | vabs | vneg | vclass | viaddw | vbcast => exact allNext_opPlain h
  | vlsh | vperm | vrev | vzip | vunzip => exact allNext_opMove h
  | vand | vor | vxor | vnot | vmov => exact allNext_opLogic h
  | vqand | vqor | vqxor | vqnot => exact allNext_opVq h
  | vqcnt | vext => exact allNext_slotOp h (State.memOk_postS _ _ _ _ h)
  | vcmp | vicmp => exact allNext_slotOp h (State.memOk_postCmpQ _ _ _ _ _ _ h)
  | vsel | vins => exact allNext_slotOp h (State.memOk_postV _ _ _ _ _ h)
  | vscan | vred => exact allNext_slotOp h (State.memOk_postF _ _ _ (State.memOk_postV _ _ _ _ _ h))
  | vcvt => exact allNext_slotOp h (State.memOk_postLanes _ _ _ _ _ _ _ h)
  | vtwosum => exact allNext_slotOp h (State.memOk_postV _ _ _ _ _ (State.memOk_postLanes _ _ _ _ _ _ _ h))
  | vmovi => exact allNext_ite (allNext_opPlain h) (allNext_opPlain h)
  -- events
  | pushArrival => exact execPushArrival_keeps _ h
  | bringUp => exact execBringUp_keeps h
  | bankRefreshDone => exact execBankRefreshDone_keeps _ _ h
  | stopWindowEnd => exact execStopWindowEnd_keeps _ h
  | refreshDeadlineMiss => exact execRefreshDeadlineMiss_keeps _ _ h
  | pauseRefb => exact execPauseRefb_keeps _ _ h
  | idleTileRefb => exact execIdleTileRefb_keeps _ _ h
  | pauseResume => exact execPauseResume_keeps _ h
  | rdvTimeout => exact execRdvTimeout_keeps _ h
  | phaseSettle => exact execPhaseSettle_keeps _ h
  | strikeReport => exact execStrikeReport_keeps _ _ _ h
  | replayCloseDone => exact execReplayCloseDone_keeps _ h
  | reloadDone => exact execReloadDone_keeps _ h
  | replayRestart => exact execReplayRestart_keeps _ h
  | faultHoldExpiry => exact execFaultHoldExpiry_keeps _ h
  | launchCompletion => exact execLaunchCompletion_keeps _ h
  | dispatchDecision => exact execDispatchDecision_keeps _ h
  | queueTailWrite => exact execQueueTailWrite_keeps _ _ _ h
  | queueEnable => exact execQueueEnable_keeps _ _ h
  | queueDisable => exact execQueueDisable_keeps _ _ h
  | registerWrite => exact execRegisterWrite_keeps _ _ _ h
  | cplanWrite => exact execCplanWrite_keeps _ _ _ h
  | hatboxKeepRequest => exact execHatboxKeepRequest_keeps _ _ h
  | hatboxHandoffRequest => exact execHatboxHandoffRequest_keeps _ _ h
  | hatboxRestore => exact execHatboxRestore_keeps _ _ _ h
  | apertureRead => exact execApertureRead_keeps _ _ _ h
  | apertureWrite => exact execApertureWrite_keeps _ _ _ h
  | farSessionProgram => exact execFarSessionProgram_keeps _ _ _ _ _ h
  | relayLoaderWork => exact execRelayLoaderWork_keeps _ h
  | noVariantTimeout => exact execNoVariantTimeout_keeps _ h
  | forecastPublish => exact execForecastPublish_keeps _ h
  | thermalModelRun => exact execThermalModelRun_keeps _ h
  | lifetimeCounterSave => exact execLifetimeCounterSave_keeps h
  | fieldRecordRequest => exact execFieldRecordRequest_keeps _ h
  | copyEngineColumn => exact execCopyEngineColumn_keeps _ _ _ _ h
  | engineVaultCommand => exact execEngineVaultCommand_keeps _ _ h
  | acopyComplete => exact execAcopyComplete_keeps _ _ _ h
  | farOpComplete => exact execFarOpComplete_keeps _ _ _ h
  | farmMemberWaitExpiry => exact execFarmMemberWaitExpiry_keeps _ _ _ h
  | farFrameReceive => exact execFarFrameReceive_keeps _ h
  | tandemPushFlit => exact execTandemPushFlit_keeps _ _ h
  | flitInject => exact execFlitInject_keeps _ h
  | idleFlit => exact execIdleFlit_keeps _ _ h
  | epochSync => exact execEpochSync_keeps _ _ h
  | startSync => exact execStartSync_keeps _ _ _ _ h
  | conditionReport => exact execConditionReport_keeps _ _ h
  | retrainFlit => exact execRetrainFlit_keeps _ _ _ h
  | startWaitTimeout => exact execStartWaitTimeout_keeps _ h
  | stopMessage => exact execStopMessage_keeps _ h
  | healthTestFailure => exact execHealthTestFailure_keeps h

end Sys2Proof.Machine

namespace Sys2Proof.Proofs
open Sys2Proof Sys2Proof.Machine Sys2Proof.Claims

/-- Settles O46: a step does the first piece of the work or begins a cycle, and each piece keeps the form because each instruction does. -/
theorem stepKeepsMemoriesCanonical : Obligations.StepKeepsMemoriesCanonical := by
  intro s s' h e
  have hnext : allNext State.memOk (step s) := by
    unfold step
    split
    · exact State.memOk_todo _ h
    · exact State.runTask_keeps (fun i _ hs => exec_keeps i hs) _ (State.memOk_todo _ h)
  rw [e] at hnext
  exact hnext

end Sys2Proof.Proofs

/-! Code words and slot words (05 R111, R120 to R126): the encoder and the decoder agree both ways. -/
namespace Sys2Proof.Laws.RoundTrip

/-- Every instruction decodes from the words that it encodes to: the case of each constructor, in the order of `Instr`. -/
theorem statement_holds (i : Instr) : Statement i :=
  i.casesOn (motive := Statement)
    issue escape idle seg endStream nop prep prepr br brn jmp loop lper lbrk commit relay rdv tlsig tlrd acopyIn acopyOut
    farxSend farxRecv farmSum farmGather farmBcast ftload fclr rdsys wrsys trap add sub mul mulh mulhn divs divn rems remn
    and or xor andn shl shr sra rotl min max minn maxn clz ctz popc sext zext sel mov movi ins16 addi andi ori xori shli
    shri srai cmp cmpi scmp scmpi pand por pxor pandn blkx blkalloc blkfree blkref ldV stV ldbV ldS stS ldgV stgV ldQ stQ
    pushV pushl lcopy pushArrival mldb mmul mmulTableMode mzero mld mst mstTableMode mmov macc mrowadd mscl xin xout xclr
    xmode act acti pre prea refb stop rd rds wr wrs vadd vsub vmul vfma vfms vfnma vmin vmax vabs vneg vtwosum vcmp vclass
    vscale vcvt viadd visub vimul vimulh viaddw vishl vishr visra vand vor vxor vnot vimin vimax viabs vicmp vpopc vclz
    viaddsat vsel vmov vmovi vbcast vext vins vlsh vperm vrev vzip vunzip vscan vred vqand vqor vqxor vqnot vqcnt vrcp vrsq
    vsqrt vdiv vexp2 vlog2 bringUp bankRefreshDone stopWindowEnd refreshDeadlineMiss pauseRefb idleTileRefb pauseResume
    rdvTimeout phaseSettle strikeReport replayCloseDone reloadDone replayRestart faultHoldExpiry launchCompletion
    dispatchDecision queueTailWrite queueEnable queueDisable registerWrite cplanWrite hatboxKeepRequest hatboxHandoffRequest
    hatboxRestore apertureRead apertureWrite farSessionProgram relayLoaderWork noVariantTimeout forecastPublish
    thermalModelRun lifetimeCounterSave fieldRecordRequest copyEngineColumn engineVaultCommand acopyComplete farOpComplete
    farmMemberWaitExpiry farFrameReceive tandemPushFlit flitInject idleFlit epochSync startSync conditionReport retrainFlit
    startWaitTimeout stopMessage healthTestFailure

end Sys2Proof.Laws.RoundTrip

namespace Sys2Proof.Proofs
open Sys2Proof Sys2Proof.Machine Sys2Proof.Claims Sys2Proof.Laws

/-- Settles O1, by the round trip of each constructor. -/
theorem slotWordsRoundTrip : Obligations.SlotWordsRoundTrip :=
  fun i sl hw hs => (RoundTrip.statement_holds i).1 sl hs hw

/-! ## Code words (05 R111) -/

/-- A code word whose high bits are known is those bits before its operand. -/
theorem append_extract_eq {k n : Nat} {p : BitVec k} {w : BitVec (k + n)} (h : w.toNat / 2 ^ n = p.toNat) :
    p ++ w.extractLsb' 0 n = w := by
  apply BitVec.eq_of_toNat_eq
  rw [BitVec.toNat_append, ← Nat.shiftLeft_add_eq_or_of_lt (BitVec.isLt _), BitVec.extractLsb'_toNat, Nat.shiftRight_zero,
    Nat.shiftLeft_eq, ← h, Nat.mul_comm]
  exact Nat.div_add_mod _ _
theorem encodeWord_of_decodeWord {w : CodeWord} {i : Instr} (h : decodeWord w = .ok i) : encodeWord i = w := by
  revert h
  fun_cases decodeWord w with
  | case1 => rintro ⟨⟩; exact append_extract_eq (k := 4) (n := 12) (by simp; omega)
  | case3 => rintro ⟨⟩; exact append_extract_eq (k := 6) (n := 10) (by simp; omega)
  | case4 _ _ _ he => rintro ⟨⟩; exact (BitVec.eq_of_toNat_eq he).symm
  | case6 => rintro ⟨⟩; exact append_extract_eq (k := 6) (n := 10) (by simp; omega)
  | case7 _ _ _ _ _ _ he => rintro ⟨⟩; exact (BitVec.eq_of_toNat_eq he).symm
  | _ => exact nofun
theorem decodeWord_reserved_iff (w : CodeWord) : decodeWord w = .error .reservedCodeWord ↔
    (0x1000 ≤ w.toNat ∧ w.toNat ≤ 0xEFFF) ∨ (0xF401 ≤ w.toNat ∧ w.toNat ≤ 0xF7FF) ∨ 0xFC01 ≤ w.toNat := by
  fun_cases decodeWord w <;> simp <;> omega

/-- Settles O2: the words of each kind by their round trip, and the ranges by the decoder's own comparisons. -/
theorem codeWordsBothWays : Obligations.CodeWordsBothWays :=
  ⟨fun _ _ => encodeWord_of_decodeWord, decodeWord_issue, decodeWord_idle, decodeWord_seg, rfl, rfl, decodeWord_reserved_iff⟩

/-! ## Slot words (05 R126) -/

/-- What is offered is nothing, or an operation of slot sl. -/
inductive OfSlot (sl : Slot) : Option Instr → Prop
  | none : OfSlot sl none
  | some {i : Instr} : slotOf i = some sl → OfSlot sl (some i)

theorem OfSlot.bind {α : Type} {sl : Slot} {o : Option α} {f : α → Option Instr} (h : ∀ x, OfSlot sl (f x)) :
    OfSlot sl (o.bind f) := by
  cases o with
  | none => exact .none
  | some x => exact h x
theorem OfSlot.ite {sl : Slot} {p : Prop} [Decidable p] {a b : Option Instr} (ha : OfSlot sl a) (hb : OfSlot sl b) :
    OfSlot sl (if p then a else b) := by
  split
  · exact ha
  · exact hb

theorem ofSlot_candC (g : Guard) (w : SlotWord) (op : Nat) : OfSlot .C (candC g w op) := by
  unfold candC
  split <;> (repeat' refine .ite ?_ ?_) <;> constructor <;> rfl
theorem ofSlot_candS (g : Guard) (w : SlotWord) (op : Nat) : OfSlot .S (candS g w op) := by
  unfold candS
  split <;> (repeat refine .bind fun _ => ?_) <;> constructor <;> rfl
theorem ofSlot_candL (g : Guard) (w : SlotWord) (op : Nat) : OfSlot .L (candL g w op) := by
  unfold candL
  split <;> (repeat refine .bind fun _ => ?_) <;> constructor <;> rfl
theorem ofSlot_candM (ftl : BitVec 2) (g : Guard) (w : SlotWord) (op : Nat) : OfSlot .M (candM ftl g w op) := by
  unfold candM
  split <;> (repeat' first | refine .ite ?_ ?_ | refine .bind fun _ => ?_) <;> constructor <;> rfl
theorem ofSlot_candX (g : Guard) (w : SlotWord) (op : Nat) : OfSlot .X (candX g w op) := by
  unfold candX
  split <;> constructor <;> rfl
theorem ofSlot_candDR (g : Guard) (w : SlotWord) (op : Nat) : OfSlot .DR (candDR g w op) := by
  unfold candDR
  split <;> constructor <;> rfl
theorem ofSlot_candDC (g : Guard) (w : SlotWord) (op : Nat) : OfSlot .DC (candDC g w op) := by
  unfold candDC
  split <;> constructor <;> rfl
theorem ofSlot_candVec (u : VSlot) (g : Guard) (w : SlotWord) (op : Nat) : OfSlot u.slot (candVec u g w op) := by
  unfold candVec
  split <;> (repeat refine .bind fun _ => ?_) <;> constructor <;> rfl
theorem ofSlot_candVA (g : Guard) (w : SlotWord) (op : Nat) : OfSlot .VA (candVA g w op) := by
  unfold candVA
  split <;> (repeat refine .bind fun _ => ?_) <;> constructor <;> rfl
theorem ofSlot_candVB (g : Guard) (w : SlotWord) (op : Nat) : OfSlot .VB (candVB g w op) := by
  unfold candVB
  split <;> constructor <;> rfl
theorem ofSlot_candidate (sl : Slot) (ftl : BitVec 2) (w : SlotWord) : OfSlot sl (candidate sl ftl w) := by
  cases sl with
  | C => exact ofSlot_candC ..
  | S => exact ofSlot_candS ..
  | L => exact ofSlot_candL ..
  | M => exact ofSlot_candM ..
  | X => exact ofSlot_candX ..
  | DR => exact ofSlot_candDR ..
  | DC => exact ofSlot_candDC ..
  | VA => exact .ite (ofSlot_candVA ..) (ofSlot_candVec .va ..)
  | VB => exact .ite (ofSlot_candVB ..) (ofSlot_candVec .vb ..)

/-- A slot word that decodes is `nop`, or its candidate, which is well formed and encodes to the word. -/
theorem decodeSlot_ok {sl : Slot} {ftl : BitVec 2} {w : SlotWord} {i : Instr} (h : decodeSlot sl ftl w = .ok i) :
    (i = .nop sl ∧ w = 0#40) ∨ (candidate sl ftl w = some i ∧ i.wf = true ∧ encodeSlot i = w) := by
  unfold decodeSlot at h
  split at h
  · split at h
    · next hw => exact .inl ⟨(Except.ok.inj h).symm, hw⟩
    · nomatch h
  · split at h
    · nomatch h
    · nomatch h
    · split at h
      · nomatch h
      · next j hj =>
        split at h
        · next he =>
          split at h
          · next hw =>
            obtain rfl := Except.ok.inj h
            exact .inr ⟨hj, hw, he⟩
          · nomatch h
        · split at h <;> nomatch h

/-- Settles O3: `nop` is the word 0, and any other operation is its word's candidate, kept only if whole. -/
theorem decodedSlotsAreWhole : Obligations.DecodedSlotsAreWhole := by
  intro sl ftl w i h
  rcases decodeSlot_ok h with ⟨rfl, rfl⟩ | ⟨hc, hw, he⟩
  · exact ⟨rfl, rfl, rfl⟩
  · have hs := ofSlot_candidate sl ftl w
    rw [hc] at hs
    cases hs with | some hs => exact ⟨hs, hw, he⟩

/-- Settles O4: each of the manual's words is decoded. -/
theorem writtenWordsDecode : Obligations.WrittenWordsDecode := by
  unfold Obligations.WrittenWordsDecode writtenWords
  decide
end Sys2Proof.Proofs

/-! A slot operation under a false guard (05 R120). -/
namespace Sys2Proof.Proofs
open Sys2Proof Sys2Proof.Machine Sys2Proof.Claims Sys2Proof.Laws

/-- What acts under the guard of its word does nothing where that guard is false. -/
theorem next_of_false_guard {g : Guard} {op : BitVec 7} {x : BitVec 27} {s s' : State}
    (h : s.guard (guardOf (g.pack op x)) = false) :
    (.next (if s.guard g then s' else s) : Host.Outcome State Fault Refusal) = .next s := by
  rw [guard_pack _ _ _ rfl] at h
  exact slotOp_false (fun _ => s') h

/-- Settles O6: every slot operation but `nop` acts under the guard that its word holds. -/
theorem falseGuardDoesNothing : Obligations.FalseGuardDoesNothing := by
  intro i sl s hs hg
  unfold exec
  cases i with
  -- code words, the arrival of a push and the package's events have no slot
  | issue | escape | idle | seg | endStream | pushArrival | bringUp | bankRefreshDone | stopWindowEnd | refreshDeadlineMiss
  | pauseRefb | idleTileRefb | pauseResume | rdvTimeout | phaseSettle | strikeReport | replayCloseDone | reloadDone
  | replayRestart | faultHoldExpiry | launchCompletion | dispatchDecision | queueTailWrite | queueEnable | queueDisable
  | registerWrite | cplanWrite | hatboxKeepRequest | hatboxHandoffRequest | hatboxRestore | apertureRead | apertureWrite
  | farSessionProgram | relayLoaderWork | noVariantTimeout | forecastPublish | thermalModelRun | lifetimeCounterSave
  | fieldRecordRequest | copyEngineColumn | engineVaultCommand | acopyComplete | farOpComplete | farmMemberWaitExpiry
  | farFrameReceive | tandemPushFlit | flitInject | idleFlit | epochSync | startSync | conditionReport | retrainFlit
  | startWaitTimeout | stopMessage | healthTestFailure => nomatch hs
  | nop => rfl
  | vmovi g u vd q imm t =>
    change execVmovi g u vd q imm t s = .next s
    unfold execVmovi
    split <;> exact next_of_false_guard hg
  | _ => exact next_of_false_guard hg
end Sys2Proof.Proofs

/-! The sequencer (05 R111 to R116, 06 R150, 18 R344): loop ends, the start of a bundle, and the word at the head of a tile's stream. -/
namespace Sys2Proof.Proofs
open Sys2Proof Sys2Proof.Machine Sys2Proof.Claims

/-! ## Loop ends (06 R150) -/

theorem foldl_range_induction {β : Type} {P : Nat → β → Prop} (g : β → Nat → β) (b : β) (h0 : P 0 b)
    (hs : ∀ n b, P n b → P (n + 1) (g b n)) (n : Nat) : P n ((List.range n).foldl g b) := by
  induction n with
  | zero => exact h0
  | succ n ih =>
    rw [List.range_succ, List.foldl_append]
    exact hs n _ ih

/-- The counter, among the first n that satisfy p, whose body starts last, the lowest of those that start there; or none. -/
def StartsLast (ls : Vector LoopSt 4) (p : LoopSt → Bool) (n : Nat) : Option Nat → Prop
  | none => ∀ j, j < n → ¬ p (ls.getD j LoopSt.reset) = true
  | some i => i < n ∧ p (ls.getD i LoopSt.reset) = true ∧ ∀ j, j < n → p (ls.getD j LoopSt.reset) = true → j ≠ i →
      (ls.getD j LoopSt.reset).start < (ls.getD i LoopSt.reset).start ∨
        ((ls.getD j LoopSt.reset).start = (ls.getD i LoopSt.reset).start ∧ i < j)

/-- A counter that does not satisfy p changes nothing. -/
theorem StartsLast.succ_of_not {ls : Vector LoopSt 4} {p : LoopSt → Bool} {n : Nat} {best : Option Nat} (h : StartsLast ls p n best)
    (hp : ¬ p (ls.getD n LoopSt.reset) = true) : StartsLast ls p (n + 1) best := by
  have below {j : Nat} (hj : j < n + 1) (hpj : p (ls.getD j LoopSt.reset) = true) : j < n := by
    have hne : j ≠ n := fun e => hp (e ▸ hpj)
    omega
  cases best with
  | none => exact fun j hj hpj => h j (below hj hpj) hpj
  | some i =>
    obtain ⟨hi, hpi, hlast⟩ := h
    exact ⟨by omega, hpi, fun j hj hpj => hlast j (below hj hpj) hpj⟩
theorem innermost_startsLast (ls : Vector LoopSt 4) (p : LoopSt → Bool) : StartsLast ls p 4 (innermost ls p) := by
  refine foldl_range_induction (P := StartsLast ls p) _ none (fun j hj => absurd hj (Nat.not_lt_zero j)) (fun n best h => ?_) 4
  by_cases hp : p (ls.getD n LoopSt.reset) = true
  · simp only [hp, if_true]
    cases best with
    | none => exact ⟨Nat.lt_succ_self n, hp, fun j hj hpj hne => absurd hpj (h j (by omega))⟩
    | some i =>
      obtain ⟨hi, hpi, hlast⟩ := h
      dsimp only
      split
      · refine ⟨Nat.lt_succ_self n, hp, fun j hj hpj hne => ?_⟩
        obtain rfl | hji := eq_or_ne j i
        · omega
        · have := hlast j (by omega) hpj hji
          omega
      · refine ⟨by omega, hpi, fun j hj hpj hne => ?_⟩
        obtain rfl | hjn := eq_or_ne j n
        · omega
        · exact hlast j (by omega) hpj hne
  · simp only [hp]
    exact h.succ_of_not hp

/-- The counter whose loop end a tile takes where its sequencer stands. -/
def loopEndAt (t : Tile) : Option Nat := innermost t.regs.l fun l => l.running && l.stop == t.seq.pc

theorem ends_test_iff (t : Tile) (i : Nat) : ((t.regs.l.getD i LoopSt.reset).running &&
    (t.regs.l.getD i LoopSt.reset).stop == t.seq.pc) = true ↔ (t.regs.l.getD i LoopSt.reset).running = true ∧
      (t.regs.l.getD i LoopSt.reset).start + (t.regs.l.getD i LoopSt.reset).len = t.seq.pc := by
  simp [LoopSt.stop]
theorem loopEndAt_none {t : Tile} (h : loopEndAt t = none) (i : Nat) : ¬ endsHere t i := by
  have hl := innermost_startsLast t.regs.l fun l => l.running && l.stop == t.seq.pc
  rw [← loopEndAt, h] at hl
  exact fun ⟨hi, he⟩ => hl i hi ((ends_test_iff t i).2 he)
theorem loopEndAt_some {t : Tile} {i : Nat} (h : loopEndAt t = some i) : endsFirst t i := by
  have hl := innermost_startsLast t.regs.l fun l => l.running && l.stop == t.seq.pc
  rw [← loopEndAt, h] at hl
  obtain ⟨hi, he, hlast⟩ := hl
  exact ⟨⟨hi, (ends_test_iff t i).1 he⟩, fun j ⟨hj, hje⟩ hne => hlast j hj ((ends_test_iff t j).2 hje) hne⟩

/-- One loop end of a tile: none, again, or left with the next loop's end behind it. -/
theorem loopEnds_succ (t : Tile) (f n : Nat) : t.loopEnds f (n + 1) =
    (loopEndAt t).elim t fun i =>
      let l := t.regs.l.getD i LoopSt.reset
      if l.j + 1 < l.n then wentOn (loopSet t i { l with j := l.j + 1 }) l.start (l.b0 + (l.j + 1) * l.period.toNat) 12
      else (wentOn (loopSet t i { l with running := false }) t.seq.pc (l.b0 + l.n * l.period.toNat)
        (4 * min 3 (f - l.fillAt))).loopEnds f n := by
  rw [Tile.loopEnds]
  change (match loopEndAt t with | none => _ | some i => _) = _
  cases loopEndAt t <;> rfl

/-- Number of a tile's running loops. -/
def runningLoops (t : Tile) : Nat := ((Finset.range 4).filter fun i => (t.regs.l.getD i LoopSt.reset).running = true).card

theorem runningLoops_le (t : Tile) : runningLoops t ≤ 4 := (Finset.card_filter_le _ _).trans (Finset.card_range 4).le
theorem runningLoops_left {t : Tile} {i : Nat} (h : endsHere t i) (a sb words : Nat) :
    runningLoops (wentOn (loopSet t i { t.regs.l.getD i LoopSt.reset with running := false }) a sb words) < runningLoops t := by
  obtain ⟨hi, hr, -⟩ := h
  refine Finset.card_lt_card (Finset.ssubset_iff_subset_ne.2 ⟨fun j hj => ?_, fun he => ?_⟩)
  · simp only [wentOn, loopSet, Finset.mem_filter, getD_setIfInBounds _ _ _ hi] at hj ⊢
    refine ⟨hj.1, ?_⟩
    have := hj.2
    split at this
    · nomatch this
    · exact this
  · have hm : i ∈ (Finset.range 4).filter fun j => (t.regs.l.getD j LoopSt.reset).running = true :=
      Finset.mem_filter.2 ⟨Finset.mem_range.2 hi, hr⟩
    rw [← he] at hm
    simp [wentOn, loopSet, getD_setIfInBounds _ _ _ hi] at hm

/-- A tile takes every loop end that follows: each loop that it leaves runs no more. -/
theorem ends_loopEnds (f : Nat) (n : Nat) (t : Tile) (h : runningLoops t < n) : Ends f t (t.loopEnds f n) := by
  induction n generalizing t with
  | zero => exact absurd h (Nat.not_lt_zero _)
  | succ n ih =>
    rw [loopEnds_succ]
    cases he : loopEndAt t with
    | none => exact .stay t (loopEndAt_none he)
    | some i =>
      have hf := loopEndAt_some he
      dsimp only [Option.elim_some]
      split
      · next hj => exact .again t i _ hf rfl hj
      · next hj =>
        exact .leave t _ i _ hf rfl hj (ih _ ((runningLoops_left hf.1 _ _ _).trans_le (Nat.le_of_lt_succ h)))
/-- An idle or seg word moves SB on, and the loop ends behind it follow (05 R113). -/
theorem ends_skip (f d : Nat) (t : Tile) : Ends f (pastWord t d) (t.skip f d) :=
  ends_loopEnds f 5 (pastWord t d) (Nat.lt_succ_of_le (runningLoops_le _))

/-! ## A bundle starts (05 R111, R112, R117, R121) -/

theorem slotTasks_slots {b : Bundle} {x : Task} (h : x ∈ slotTasks b) : ∃ sl ftl w, x = Task.slot sl ftl w := by
  obtain ⟨sl, -, hx⟩ := List.mem_filterMap.1 h
  split at hx
  · exact ⟨sl, _, _, (Option.some.inj hx).symm⟩
  · nomatch hx
theorem slot_mem_slotTasks (b : Bundle) (sl : Slot) :
    Task.slot sl (b.extractLsb' 362 2) (b.extractLsb' (slotLow sl) 40) ∈ slotTasks b ↔ b.getLsbD (slotEnable sl) = true := by
  have hen : bundleEn b sl = b.getLsbD (slotEnable sl) := by cases sl <;> rfl
  have hw : bundleSlot b sl = b.extractLsb' (slotLow sl) 40 := by cases sl <;> rfl
  rw [← hen, ← hw, slotTasks, List.mem_filterMap]
  constructor
  · rintro ⟨sl', -, h⟩
    split at h
    · next he =>
      obtain ⟨rfl, -⟩ := Task.slot.inj (Option.some.inj h)
      exact he
    · nomatch h
  · exact fun h => ⟨sl, by cases sl <;> decide, if_pos h⟩
theorem startBundle_started (s : State) (b : Bundle) (words : Nat) : bundleStarted s (s.startBundle b words) b words :=
  ⟨⟨slotTasks b, rfl, slot_mem_slotTasks b, fun _ => slotTasks_slots⟩, getK_setK_self _ _ _ _, rfl, rfl, rfl, rfl,
    fun _ h => getK_setK_ne _ _ _ h⟩

/-- The number that words spell behind a, most significant first. -/
def spell (a : Nat) (ws : List CodeWord) : Nat := ws.foldl (fun a w => a * 65536 + w.toNat) a

theorem spell_div (a : Nat) (ws : List CodeWord) : spell a ws / 65536 ^ ws.length = a := by
  induction ws generalizing a with
  | nil => simp [spell]
  | cons w ws ih =>
    have hw := w.isLt
    rw [List.length_cons, pow_succ, ← Nat.div_div_eq_div_mul, spell, List.foldl_cons, ← spell, ih]
    omega
theorem spell_digit (ws : List CodeWord) (a k : Nat) (hk : k < ws.length) :
    spell a ws / 65536 ^ (ws.length - 1 - k) % 65536 = ws[k].toNat := by
  induction ws generalizing a k with
  | nil => exact absurd hk (Nat.not_lt_zero k)
  | cons w ws ih =>
    rw [spell, List.foldl_cons, ← spell]
    cases k with
    | zero =>
      have hw := w.isLt
      rw [List.length_cons, Nat.add_sub_cancel, Nat.sub_zero, spell_div, List.getElem_cons_zero]
      omega
    | succ k =>
      have hk' : k < ws.length := Nat.lt_of_succ_lt_succ hk
      rw [List.getElem_cons_succ, ← ih _ k hk', List.length_cons, show ws.length + 1 - 1 - (k + 1) = ws.length - 1 - k by omega]
theorem extractLsb'_ofNat_toNat {n m lo : Nat} (v : Nat) (h : lo + m ≤ n) :
    ((BitVec.ofNat n v).extractLsb' lo m).toNat = v / 2 ^ lo % 2 ^ m := by
  rw [BitVec.extractLsb'_toNat, BitVec.toNat_ofNat, Nat.shiftRight_eq_div_pow, show n = lo + (n - lo) by omega, pow_add,
    Nat.mod_mul_right_div_self, Nat.mod_mod_of_dvd _ (pow_dvd_pow 2 (by omega))]
/-- The literal of 24 words is there, and holds them, the first in its highest bits. -/
theorem literal_words {ws : List CodeWord} (h : 24 ≤ ws.length) :
    ∃ b, literal ws = some b ∧ ∀ k (hk : k < 24), b.extractLsb' (16 * (23 - k)) 16 = ws[k] := by
  refine ⟨_, if_neg (Nat.not_lt.2 h), fun k hk => BitVec.eq_of_toNat_eq ?_⟩
  have hl : (ws.take 24).length = 24 := by simp [h]
  have hd := spell_digit (ws.take 24) 0 k (hk.trans_eq hl.symm)
  simp only [hl, List.getElem_take] at hd
  rw [extractLsb'_ofNat_toNat _ (by omega), ← hd, pow_mul]
  rfl

theorem execIssue_starts (s : State) (n : BitVec 12) (b : Bundle) (h : s.ct.seq.dict[n.toNat]? = some b) :
    exec (.issue n) s = .next (s.startBundle b 1) := by
  show execIssue n s = _
  unfold execIssue
  rw [h]
theorem execEscape_starts (s : State) (h : s.ct.seq.pc + 24 < s.ct.seq.code.length) :
    ∃ b, exec .escape s = .next (s.startBundle b 25) ∧
      ∀ k, k < 24 → b.extractLsb' (16 * (23 - k)) 16 = s.ct.seq.code.getD (s.ct.seq.pc + 1 + k) 0#16 := by
  obtain ⟨b, hb, hw⟩ := literal_words (ws := s.ct.seq.code.drop (s.ct.seq.pc + 1)) (by simp; omega)
  refine ⟨b, ?_, fun k hk => ?_⟩
  · show execEscape s = _
    unfold execEscape
    rw [hb]
  · rw [hw k hk, List.getElem_drop, List.getD_eq_getElem]

/-! ## A tile's next word (05 R113, 18 R344) -/

section
variable {ex : Instr → State → Host.Outcome State Fault Refusal}

/-- Where no code of the tile has failed its word has its effect, and with `more` the tile goes on in this same cycle. -/
theorem consume_of_no_errs {c t : Nat} {i : Instr} {more : Bool} {s : State} (h : s.ct.own.errs = []) :
    s.consume ex c t i more = ex i (if more then { s with todo := .tile c t :: s.todo } else s) := by
  have hc : s.ct.codeErrs i = [] := by simp [Tile.codeErrs, h]
  have hl : s.ct.loopsLost 1 = false := by simp [Tile.loopsLost, Tile.loopErrs, h]
  have hs : s.loopCodes 1 = s := by simp [State.loopCodes, h]
  simp [State.consume, hc, hl, hs]

section
variable {s : State} {c t addr cycle need buf : Nat} {i : Instr} (he : (s.tile t).seq.ended = false)
  (hc : (s.tile t).own.errs = []) (hd : decodeWord ((s.tile t).seq.code.getD (s.tile t).seq.pc 0xFC00#16) = .ok i)
  (hp : (s.tile t).peek (s.coach c).launch.frc codeMax = .bundle addr cycle need buf)
include he hc hd hp

/-- What a tile does where a bundle is the next item of its stream: nothing, its word, or a record of the sequencer. -/
theorem runTile_of_bundle : s.runTile ex c t =
    let q := (s.tile t).seq
    let f := (s.coach c).launch.frc
    let on := ex i { onTile s c t with todo := .tile c t :: s.todo }
    if f < q.minIssue then (if addr ≠ q.pc ∧ q.need + 1 ≤ q.buf then on else .next (onTile s c t))
    else if cycle < q.minIssue then .next ((onTile s c t).seqFault 1 addr cycle (q.minIssue - 1))
    else if cycle = f ∧ buf < need then .next ((onTile s c t).seqFault 2 addr need buf)
    else if cycle = f ∧ q.buf < q.need + 1 then .next ((onTile s c t).seqFault 2 addr (q.need + 1) q.buf)
    else if addr = q.pc then (if cycle = f then ex i (onTile s c t) else .next (onTile s c t))
    else if q.need + 1 ≤ q.buf then on else .next (onTile s c t) := by
  have hg (more : Bool) := consume_of_no_errs (ex := ex) (c := c) (t := t) (i := i) (more := more) (s := onTile s c t) hc
  have hs : ({ s with cur := { s.cur with coach := c, tile := t } } : State) = onTile s c t := rfl
  have hx : (onTile s c t).ct = s.tile t := rfl
  have hf : (onTile s c t).frc = (s.coach c).launch.frc := rfl
  have ht : (onTile s c t).todo = s.todo := rfl
  simp only [State.runTile, hs, hx, hf, he, hd, hp, hg, ht]
  simp

/-- A word before the next bundle is applied once it is usable, and the tile goes on. -/
theorem runTile_word (ha : addr ≠ (s.tile t).seq.pc) (hu : (s.tile t).seq.need + 1 ≤ (s.tile t).seq.buf)
    (h : (s.coach c).launch.frc < (s.tile t).seq.minIssue ∨
      ((s.tile t).seq.minIssue ≤ cycle ∧ (cycle = (s.coach c).launch.frc → need ≤ buf))) :
    s.runTile ex c t = ex i { onTile s c t with todo := .tile c t :: s.todo } := by
  rw [runTile_of_bundle he hc hd hp]
  dsimp only
  rcases lt_or_ge (s.coach c).launch.frc (s.tile t).seq.minIssue with hf | hf
  · rw [if_pos hf, if_pos ⟨ha, hu⟩]
  · rw [if_neg hf.not_gt, if_neg (by omega), if_neg (by omega), if_neg (by omega), if_neg ha, if_pos hu]
/-- A bundle at or below the last one issued is recorded, and not issued. -/
theorem runTile_overrun (hm : (s.tile t).seq.minIssue ≤ (s.coach c).launch.frc) (h : cycle < (s.tile t).seq.minIssue) :
    s.runTile ex c t = .next ((onTile s c t).seqFault 1 addr cycle ((s.tile t).seq.minIssue - 1)) := by
  rw [runTile_of_bundle he hc hd hp]
  dsimp only
  rw [if_neg (by omega), if_pos h]
/-- A bundle due now whose words are not usable is recorded, and not issued. -/
theorem runTile_starve (hm : (s.tile t).seq.minIssue ≤ (s.coach c).launch.frc) (hcy : cycle = (s.coach c).launch.frc)
    (h : buf < need) : s.runTile ex c t = .next ((onTile s c t).seqFault 2 addr need buf) := by
  rw [runTile_of_bundle he hc hd hp]
  dsimp only
  rw [if_neg (by omega), if_neg (by omega), if_pos ⟨hcy, h⟩]
end

/-- The bundle of this frame cycle issues. -/
theorem runTile_due {s : State} {c t need : Nat} {i : Instr}
    (hd : decodeWord ((s.tile t).seq.code.getD (s.tile t).seq.pc 0xFC00#16) = .ok i)
    (hb : bundleDue (s.tile t) (s.coach c).launch.frc need) : s.runTile ex c t = ex i (onTile s c t) := by
  obtain ⟨he, hp, hm, hu, hn, hc⟩ := hb
  rw [runTile_of_bundle he hc hd hp]
  dsimp only
  rw [if_neg (by omega), if_neg (by omega), if_neg (by omega), if_neg (by omega), if_pos rfl, if_pos rfl]
end

/-! ## The first piece of the work -/

theorem step_todo {s : State} {x : Task} {r : List Task} (h : s.todo = x :: r) : step s = State.runTask exec { s with todo := r } x := by
  unfold step
  rw [h]

theorem runSlot_ok {ex : Instr → State → Host.Outcome State Fault Refusal} {s : State} {sl : Slot} {ftl : BitVec 2} {w : SlotWord}
    {i : Instr} (hd : decodeSlot sl ftl w = .ok i) (hc : s.ct.own.errs = []) : s.runSlot ex sl ftl w = ex i s := by
  unfold State.runSlot
  simp [hd, hc]
theorem runSlot_error {ex : Instr → State → Host.Outcome State Fault Refusal} {s : State} {sl : Slot} {ftl : BitVec 2} {w : SlotWord}
    {e : DecodeErr} (hd : decodeSlot sl ftl w = .error e) : s.runSlot ex sl ftl w = .refused (.undecodable e.code) := by
  unfold State.runSlot
  simp [hd]

/-- Settles O5, by the first piece of the work. -/
theorem stepRunsTheInstruction : Obligations.StepRunsTheInstruction := by
  refine ⟨fun s r i h => ?_, fun s r sl ftl w i h hd hc => ?_, fun s r sl ftl w e h hd => ?_, fun s r c t i need h hd hb => ?_⟩ <;>
    rw [step_todo h]
  · rfl
  · exact runSlot_ok hd hc
  · exact runSlot_error hd
  · exact runTile_due hd hb

/-- Settles O39: loop ends by the loops still running, bundles by their slots' tasks, records by the tile's next word. -/
theorem codeWordsMoveTheSequencer : Obligations.CodeWordsMoveTheSequencer := by
  refine ⟨fun s => ⟨fun n => ⟨_, ends_skip _ _ _, rfl⟩, fun n => ⟨_, ends_skip _ _ _, rfl⟩, rfl, fun _ => rfl⟩,
    fun s => ⟨fun n b h => ⟨_, execIssue_starts s n b h, startBundle_started s b 1⟩, fun h => ?_⟩,
    fun s r c t addr cycle need buf i h => ?_⟩
  · obtain ⟨b, hb, hw⟩ := execEscape_starts s h
    exact ⟨_, b, hb, startBundle_started s b 25, hw⟩
  · intro x f he hc hd hp
    rw [step_todo h]
    refine ⟨fun ha hu hq => ?_, runTile_overrun (s := { s with todo := r }) he hc hd hp,
      runTile_starve (s := { s with todo := r }) he hc hd hp⟩
    refine (runTile_word (s := { s with todo := r }) he hc hd hp ha hu hq).trans ?_
    simp only [onTile, h]
end Sys2Proof.Proofs

/-! Scalar operations (06 R139 to R143): each queues its value, written as an integer modulo 2^64, at its latency. -/
namespace Sys2Proof.Proofs
open Sys2Proof Sys2Proof.Machine Sys2Proof.Claims

/-! ## Values as integers modulo 2^64 (Tables 6-1 and 6-2) -/

theorem wrapN_toNat (a : Word) : wrapN a.toNat = a := (BitVec.ofNat_toNat 64 a).trans (BitVec.setWidth_eq a)
theorem wrapI_toInt (a : Word) : wrapI a.toInt = a := BitVec.ofInt_toInt
theorem add_eq_wrapN (a b : Word) : a + b = wrapN (a.toNat + b.toNat) := by
  rw [wrapN, BitVec.ofNat_add]; exact congrArg₂ _ (wrapN_toNat a).symm (wrapN_toNat b).symm
theorem sub_eq_wrapI (a b : Word) : a - b = wrapI (a.toNat - b.toNat) := by
  rw [wrapI, Int.sub_eq_add_neg, BitVec.ofInt_add, BitVec.ofInt_neg, BitVec.sub_eq_add_neg]
  simp
theorem mul_eq_wrapN (a b : Word) : a * b = wrapN (a.toNat * b.toNat) := by
  rw [wrapN, BitVec.ofNat_mul]; exact congrArg₂ _ (wrapN_toNat a).symm (wrapN_toNat b).symm
theorem wrapI_bmod (x : Int) : wrapI (x.bmod (2 ^ 64)) = wrapI x := by
  refine BitVec.eq_of_toInt_eq ?_
  rw [wrapI, wrapI, BitVec.toInt_ofInt, BitVec.toInt_ofInt, Int.bmod_bmod]
/-- The upper half of a product of 128 bits. -/
theorem upper_half_eq_wrapI (p : BitVec 128) : (p >>> 64).truncate 64 = wrapI (p.toInt / 2 ^ 64) := by
  refine BitVec.eq_of_toNat_eq ?_
  rw [wrapI, BitVec.toNat_ofInt, BitVec.toInt_eq_toNat_cond, BitVec.truncate, BitVec.toNat_setWidth, BitVec.toNat_ushiftRight,
    Nat.shiftRight_eq_div_pow]
  split <;> omega
/-- A product of two signed words fits 128 bits. -/
theorem abs_product_le (a b : Word) : |a.toInt * b.toInt| ≤ 2 ^ 63 * 2 ^ 63 := by
  rw [abs_mul]
  exact mul_le_mul (abs_le.mpr ⟨a.le_toInt, a.toInt_lt.le⟩) (abs_le.mpr ⟨b.le_toInt, b.toInt_lt.le⟩) (abs_nonneg _) (by norm_num)
theorem mulh_eq_wrapI (a b : Word) :
    ((a.signExtend 128 * b.signExtend 128) >>> 64).truncate 64 = wrapI (a.toInt * b.toInt / 2 ^ 64) := by
  have hp : (a.signExtend 128 * b.signExtend 128).toInt = a.toInt * b.toInt := by
    rw [BitVec.toInt_mul, BitVec.toInt_signExtend_of_le (by decide), BitVec.toInt_signExtend_of_le (by decide)]
    obtain ⟨hl, hu⟩ := abs_le.mp (abs_product_le a b)
    exact Int.bmod_eq_of_le (by norm_num at hl ⊢; omega) (by norm_num at hu ⊢; omega)
  rw [upper_half_eq_wrapI, hp]
theorem mulhn_eq_wrapN (a b : Word) :
    ((a.zeroExtend 128 * b.zeroExtend 128) >>> 64).truncate 64 = wrapN (a.toNat * b.toNat / 2 ^ 64) := by
  have h : a.toNat * b.toNat < 2 ^ 64 * 2 ^ 64 := Nat.mul_lt_mul'' a.isLt b.isLt
  refine BitVec.eq_of_toNat_eq ?_
  simp [wrapN, Nat.shiftRight_eq_div_pow]
  omega
theorem sdiv_eq_wrapI (a b : Word) : a.sdiv b = wrapI (a.toInt.tdiv b.toInt) := by
  rw [← wrapI_toInt (a.sdiv b), BitVec.toInt_sdiv]
  exact wrapI_bmod _
theorem srem_eq_wrapI (a b : Word) : a.srem b = wrapI (a.toInt.tmod b.toInt) := by
  rw [← wrapI_toInt (a.srem b), BitVec.toInt_srem]
theorem udiv_eq_wrapN (a b : Word) : a / b = wrapN (a.toNat / b.toNat) := by
  rw [← wrapN_toNat (a / b), BitVec.toNat_udiv]
theorem umod_eq_wrapN (a b : Word) : a % b = wrapN (a.toNat % b.toNat) := by
  rw [← wrapN_toNat (a % b), BitVec.toNat_umod]
theorem and_eq_wrapN (a b : Word) : a &&& b = wrapN (a.toNat &&& b.toNat) := by
  rw [← BitVec.toNat_and, wrapN_toNat]
theorem or_eq_wrapN (a b : Word) : a ||| b = wrapN (a.toNat ||| b.toNat) := by
  rw [← BitVec.toNat_or, wrapN_toNat]
theorem xor_eq_wrapN (a b : Word) : a ^^^ b = wrapN (a.toNat ^^^ b.toNat) := by
  rw [← BitVec.toNat_xor, wrapN_toNat]
theorem andn_eq_wrapN (a b : Word) : a &&& ~~~b = wrapN (a.toNat &&& (2 ^ 64 - 1 - b.toNat)) := by
  rw [← BitVec.toNat_not, and_eq_wrapN]
theorem shl_eq_shlN (a : Word) {b : Word} {n : Nat} (h : b.toNat = n) : aluShl a b = shlN a.toNat n := by
  subst h
  unfold aluShl shlN
  split
  · rw [if_neg (by omega)]
    refine BitVec.eq_of_toNat_eq ?_
    simp [wrapN, Nat.shiftLeft_eq]
  · rw [if_pos (by omega)]
theorem shr_eq_shrN (a : Word) {b : Word} {n : Nat} (h : b.toNat = n) : aluShr a b = shrN a.toNat n := by
  subst h
  unfold aluShr shrN
  split
  · rw [if_neg (by omega), ← Nat.shiftRight_eq_div_pow, ← BitVec.toNat_ushiftRight, wrapN_toNat]
  · rw [if_pos (by omega)]
theorem sra_eq_sraN (a : Word) {b : Word} {n : Nat} (h : b.toNat = n) : aluSra a b = sraN a.toInt n := by
  subst h
  have hm : min b.toNat 63 = if 64 ≤ b.toNat then 63 else b.toNat := by split <;> omega
  rw [aluSra, sraN, hm, ← wrapI_toInt (a.sshiftRight _), BitVec.toInt_sshiftRight, Int.shiftRight_eq_div_pow]
  norm_cast
theorem rotl_eq_rotN (a b : Word) : aluRotl a b = rotN a.toNat b.toNat := by
  have hn : b.toNat % 64 < 64 := Nat.mod_lt _ (by decide)
  have ha := a.isLt
  unfold aluRotl rotN
  generalize b.toNat % 64 = n at hn ⊢
  have hlt : a.toNat / 2 ^ (64 - n) < 2 ^ n := by
    rw [Nat.div_lt_iff_lt_mul (Nat.two_pow_pos _), ← pow_add, Nat.add_sub_cancel' hn.le]; exact ha
  refine BitVec.eq_of_toNat_eq ?_
  rw [BitVec.toNat_rotateLeft, Nat.mod_eq_of_lt hn, wrapN, BitVec.toNat_ofNat, Nat.shiftLeft_eq, Nat.shiftRight_eq_div_pow]
  have hpow : 2 ^ (64 - n) * 2 ^ n = 2 ^ 64 := by rw [← pow_add, Nat.sub_add_cancel hn.le]
  have hm : a.toNat * 2 ^ n % 2 ^ 64 = 2 ^ n * (a.toNat % 2 ^ (64 - n)) :=
    hpow ▸ (Nat.mul_mod_mul_right ..).trans (Nat.mul_comm ..)
  have hlow : 2 ^ n * (a.toNat % 2 ^ (64 - n) + 1) ≤ 2 ^ 64 :=
    (Nat.mul_le_mul_left _ (Nat.mod_lt _ (Nat.two_pow_pos _))).trans_eq ((Nat.mul_comm ..).trans hpow)
  rw [hm, ← Nat.two_pow_add_eq_or_of_lt hlt, Nat.mod_eq_of_lt (b := 2 ^ 64) (by rw [Nat.mul_succ] at hlow; omega)]
/-- Among k bits, those above the highest one bit. -/
theorem clzBits_eq {x k : Nat} (h0 : x ≠ 0) (hx : x < 2 ^ k) : clzBits x k = k - 1 - Nat.log2 x := by
  induction k with
  | zero => omega
  | succ k ih =>
    rw [clzBits]
    split
    · next h =>
      have := Nat.ge_two_pow_of_testBit h
      have : Nat.log2 x = k := (Nat.log2_eq_iff h0).mpr ⟨this, hx⟩
      omega
    · next h =>
      have hk : x < 2 ^ k := by
        by_contra hge
        exact h (by
          rw [Nat.testBit_eq_decide_div_mod_eq, Nat.div_eq_of_lt_le (k := 1) (by omega) (by rw [pow_succ] at hx; omega)]; rfl)
      rw [ih hk]
      have := (Nat.log2_lt h0).mpr hk
      omega
theorem clzBits_eq_leadingZeros (a : Word) : clzBits a.toNat 64 = leadingZeros a := by
  unfold leadingZeros
  split
  · next h => subst h; decide
  · next h => exact clzBits_eq (fun h0 => h (BitVec.eq_of_toNat_eq h0)) a.isLt
theorem ctzBits_eq (a : Word) (i k : Nat) :
    i + ctzBits a.toNat i k = ((List.range' i k).find? fun k => a.getLsbD k).getD (i + k) := by
  induction k generalizing i with
  | zero => rfl
  | succ k ih =>
    rw [ctzBits, List.range'_succ, List.find?_cons, BitVec.testBit_toNat]
    cases a.getLsbD i with
    | true => rfl
    | false => exact (Nat.add_assoc i 1 _).symm.trans ((ih (i + 1)).trans (by rw [Nat.add_right_comm]; rfl))
theorem ctzBits_eq_lowestOne (a : Word) : ctzBits a.toNat 0 64 = lowestOne a := by
  rw [lowestOne, List.range_eq_range', ← ctzBits_eq a 0 64, Nat.zero_add]
theorem popBits_eq_length (a : Word) (k : Nat) : popBits a.toNat k = ((List.range k).filter fun k => a.getLsbD k).length := by
  induction k with
  | zero => rfl
  | succ k ih =>
    rw [popBits, List.range_succ, List.filter_append, List.length_append, ih, BitVec.testBit_toNat, Nat.add_comm, List.filter_singleton]
    cases a.getLsbD k <;> rfl
theorem toSigned_toNat {w : Nat} (x : BitVec (w + 1)) : toSigned (w + 1) x.toNat = x.toInt := by
  rw [toSigned, BitVec.toInt_eq_toNat_cond, pow_succ, Nat.add_sub_cancel]
  split <;> split <;> omega
theorem sext_eq_wrapI (a : Word) (n : Nat) : BitVec.ofInt 64 (toSigned (n + 1) (a.toNat % 2 ^ (n + 1))) = wrapI (a.truncate (n + 1)).toInt := by
  rw [← BitVec.toNat_setWidth, toSigned_toNat]; rfl
theorem zext_eq_wrapN (a : Word) (n : Nat) : BitVec.ofNat 64 (a.toNat % 2 ^ (n + 1)) = wrapN (a.truncate (n + 1)).toNat := by
  rw [← BitVec.toNat_setWidth]; rfl
theorem testBit_ins16N {a imm l k : Nat} (hi : imm < 2 ^ 16) :
    (a / 2 ^ (l + 16) * 2 ^ (l + 16) + imm * 2 ^ l + a % 2 ^ l).testBit k =
      if k < l then a.testBit k else if k < l + 16 then imm.testBit (k - l) else a.testBit k := by
  have hlow : a % 2 ^ l < 2 ^ l := Nat.mod_lt _ (Nat.two_pow_pos l)
  have hmid : 2 ^ l * imm + a % 2 ^ l < 2 ^ (l + 16) := by
    have : 2 ^ l * (imm + 1) ≤ 2 ^ l * 2 ^ 16 := Nat.mul_le_mul_left _ hi
    rw [pow_add]; rw [Nat.mul_succ] at this; omega
  rw [Nat.mul_comm _ (2 ^ (l + 16)), Nat.mul_comm imm, Nat.add_assoc, Nat.testBit_two_pow_mul_add _ hmid, Nat.testBit_two_pow_mul_add _ hlow,
    Nat.testBit_div_two_pow, Nat.testBit_mod_two_pow]
  by_cases h1 : k < l
  · simp [h1, Nat.lt_add_right 16 h1]
  · by_cases h2 : k < l + 16
    · simp [h1, h2]
    · simp [h1, h2, Nat.sub_add_cancel (Nat.not_lt.mp h2)]
theorem ins16_eq_ins16N (x : Word) (imm : BitVec 16) (j : BitVec 2) : ins16 x imm j.toNat = ins16N x.toNat imm.toNat j.toNat := by
  refine BitVec.eq_of_getLsbD_eq fun k hk => ?_
  have hones : (0xFFFF#64).getLsbD (k - 16 * j.toNat) = decide (k - 16 * j.toNat < 16) := by
    rw [show (0xFFFF#64) = (BitVec.allOnes 16).setWidth 64 from rfl, BitVec.getLsbD_setWidth, BitVec.getLsbD_allOnes]
    simp; omega
  rw [ins16N, wrapN, BitVec.getLsbD_ofNat, decide_eq_true hk, Bool.true_and, Nat.mul_succ, testBit_ins16N imm.isLt, BitVec.testBit_toNat,
    BitVec.testBit_toNat, ins16, BitVec.getLsbD_or, BitVec.getLsbD_and, BitVec.getLsbD_not, BitVec.getLsbD_shiftLeft, BitVec.getLsbD_shiftLeft,
    hones, BitVec.getLsbD_setWidth]
  by_cases h1 : k < 16 * j.toNat
  · simp [h1, hk]
  · by_cases h2 : k < 16 * j.toNat + 16
    · simp [h1, hk, show k - 16 * j.toNat < 16 by omega, show k - 16 * j.toNat < 64 by omega, h2]
    · have : imm.getLsbD (k - 16 * j.toNat) = false := BitVec.getLsbD_of_ge _ _ (by omega)
      simp [h1, h2, hk, this]; omega
theorem addi_eq_wrapI (a : Word) (imm : BitVec 15) : a + imm.signExtend 64 = wrapI (a.toInt + imm.toInt) := by
  rw [wrapI, BitVec.ofInt_add, BitVec.ofInt_toInt]; rfl
theorem min_eq_wrapI (a b : Word) : (if a.toInt ≤ b.toInt then a else b) = wrapI (min a.toInt b.toInt) := by
  rw [min_def, apply_ite wrapI, wrapI_toInt, wrapI_toInt]
theorem max_eq_wrapI (a b : Word) : (if a.toInt ≤ b.toInt then b else a) = wrapI (max a.toInt b.toInt) := by
  rw [max_def, apply_ite wrapI, wrapI_toInt, wrapI_toInt]
theorem minn_eq_wrapN (a b : Word) : (if a.toNat ≤ b.toNat then a else b) = wrapN (min a.toNat b.toNat) := by
  rw [min_def, apply_ite wrapN, wrapN_toNat, wrapN_toNat]
theorem maxn_eq_wrapN (a b : Word) : (if a.toNat ≤ b.toNat then b else a) = wrapN (max a.toNat b.toNat) := by
  rw [max_def, apply_ite wrapN, wrapN_toNat, wrapN_toNat]
theorem quotS_zero (a : Word) : quotS a 0#64 = wrapI (-1) := rfl
theorem quotN_zero (a : Word) : quotN a 0#64 = wrapI (-1) := rfl
theorem remS_zero (a : Word) : remS a 0#64 = a := rfl
theorem remN_zero (a : Word) : remN a 0#64 = a := rfl
theorem shift_toNat (k : BitVec 6) : (k.zeroExtend 64 : Word).toNat = k.toNat :=
  BitVec.toNat_setWidth_of_le (by decide)
theorem selected (p inv : Bool) (a b : Word) : (if (p != inv) = true then a else b) = if p = inv then b else a := by
  cases p <;> cases inv <;> rfl

/-! ## What the forms of Table 6-1 queue -/

section
variable {g : Guard} {s : State} (hg : s.guard g = true)
include hg

theorem opS3_gives {d a b : BitVec 6} {lat : Nat} {f : Word → Word → Word} {x : Word} (h : f (s.sv a) (s.sv b) = x) :
    opS3 g d a b lat f s = .next (queue s (toS 1 lat d x)) := by
  rw [opS3, slotOp_true _ hg, h, postS_eq_queue, scS]
theorem opS2_gives {d a : BitVec 6} {f : Word → Word} {x : Word} (h : f (s.sv a) = x) :
    opS2 g d a f s = .next (queue s (toS 1 1 d x)) := by
  rw [opS2, slotOp_true _ hg, h, postS_eq_queue, scS, latS]
/-- The divide unit: a zero divisor raises the flag with the result (06 R140). -/
theorem opDiv_by_zero {d a b : BitVec 6} {f : Word → Word → Word} {x : Word} (hz : s.sv b = 0#64) (h : f (s.sv a) 0#64 = x) :
    opDiv g d a b f s = .next (queue s (toS 1 20 d x ++ toF 1 20 2#6)) := by
  rw [opDiv, slotOp_true _ hg, queue_append]
  dsimp only
  rw [if_pos hz, hz, h, postF_eq_queue, postS_eq_queue]
  rfl
theorem opDiv_gives {d a b : BitVec 6} {f : Word → Word → Word} {x : Word} (hz : s.sv b ≠ 0#64) (h : f (s.sv a) (s.sv b) = x) :
    opDiv g d a b f s = .next (queue s (toS 1 20 d x)) := by
  rw [opDiv, slotOp_true _ hg]
  dsimp only
  rw [if_neg hz, h, postS_eq_queue, scS]
theorem opPL_gives {d a b : BitVec 5} {na nb : Bool} {f : Bool → Bool → Bool} :
    opPL g d a b na nb f s = .next (queue s (toP d.toNat (f (s.pv a ^^ na) (s.pv b ^^ nb)))) := by
  rw [opPL, slotOp_true _ hg, scS, postP_eq_queue, Bool.bne_eq_xor]
end

/-- Settles O8: each operation is one of three forms, its value the number of the tables. -/
theorem scalarResults : Obligations.ScalarResults := by
  intro i s g ws hw hg
  unfold scalarWrites at hw
  split at hw
  case h_1 => cases hw; change execAdd _ _ _ _ _ = _; exact opS3_gives hg (add_eq_wrapN _ _)
  case h_2 => cases hw; change execSub _ _ _ _ _ = _; exact opS3_gives hg (sub_eq_wrapI _ _)
  case h_3 => cases hw; change execMul _ _ _ _ _ = _; exact opS3_gives hg (mul_eq_wrapN _ _)
  case h_4 => cases hw; change execMulh _ _ _ _ _ = _; exact opS3_gives hg (mulh_eq_wrapI _ _)
  case h_5 => cases hw; change execMulhn _ _ _ _ _ = _; exact opS3_gives hg (mulhn_eq_wrapN _ _)
  case h_6 =>
    split at hw <;> cases hw <;> change execDivs _ _ _ _ _ = _
    · next hz => exact opDiv_by_zero hg hz (quotS_zero _)
    · next hz => exact opDiv_gives hg hz ((if_neg hz).trans (sdiv_eq_wrapI _ _))
  case h_7 =>
    split at hw <;> cases hw <;> change execDivn _ _ _ _ _ = _
    · next hz => exact opDiv_by_zero hg hz (quotN_zero _)
    · next hz => exact opDiv_gives hg hz ((if_neg hz).trans (udiv_eq_wrapN _ _))
  case h_8 =>
    split at hw <;> cases hw <;> change execRems _ _ _ _ _ = _
    · next hz => exact opDiv_by_zero hg hz (remS_zero _)
    · next hz => exact opDiv_gives hg hz ((if_neg hz).trans (srem_eq_wrapI _ _))
  case h_9 =>
    split at hw <;> cases hw <;> change execRemn _ _ _ _ _ = _
    · next hz => exact opDiv_by_zero hg hz (remN_zero _)
    · next hz => exact opDiv_gives hg hz ((if_neg hz).trans (umod_eq_wrapN _ _))
  case h_10 => cases hw; change execAnd _ _ _ _ _ = _; exact opS3_gives hg (and_eq_wrapN _ _)
  case h_11 => cases hw; change execOr _ _ _ _ _ = _; exact opS3_gives hg (or_eq_wrapN _ _)
  case h_12 => cases hw; change execXor _ _ _ _ _ = _; exact opS3_gives hg (xor_eq_wrapN _ _)
  case h_13 => cases hw; change execAndn _ _ _ _ _ = _; exact opS3_gives hg (andn_eq_wrapN _ _)
  case h_14 => cases hw; change execShl _ _ _ _ _ = _; exact opS3_gives hg (shl_eq_shlN _ rfl)
  case h_15 => cases hw; change execShr _ _ _ _ _ = _; exact opS3_gives hg (shr_eq_shrN _ rfl)
  case h_16 => cases hw; change execSra _ _ _ _ _ = _; exact opS3_gives hg (sra_eq_sraN _ rfl)
  case h_17 => cases hw; change execRotl _ _ _ _ _ = _; exact opS3_gives hg (rotl_eq_rotN _ _)
  case h_18 => cases hw; change execMin _ _ _ _ _ = _; exact opS3_gives hg (min_eq_wrapI _ _)
  case h_19 => cases hw; change execMax _ _ _ _ _ = _; exact opS3_gives hg (max_eq_wrapI _ _)
  case h_20 => cases hw; change execMinn _ _ _ _ _ = _; exact opS3_gives hg (minn_eq_wrapN _ _)
  case h_21 => cases hw; change execMaxn _ _ _ _ _ = _; exact opS3_gives hg (maxn_eq_wrapN _ _)
  case h_22 => cases hw; change execClz _ _ _ _ = _; exact opS2_gives hg (congrArg wrapN (clzBits_eq_leadingZeros _))
  case h_23 => cases hw; change execCtz _ _ _ _ = _; exact opS2_gives hg (congrArg wrapN (ctzBits_eq_lowestOne _))
  case h_24 => cases hw; change execPopc _ _ _ _ = _; exact opS2_gives hg (congrArg wrapN (popBits_eq_length _ 64))
  case h_25 => cases hw; change execSext _ _ _ _ _ = _; exact opS2_gives hg (sext_eq_wrapI _ _)
  case h_26 => cases hw; change execZext _ _ _ _ _ = _; exact opS2_gives hg (zext_eq_wrapN _ _)
  case h_27 => cases hw; change execSel _ _ _ _ _ _ _ = _; exact opS3_gives hg (selected _ _ _ _)
  case h_28 => cases hw; change execMov _ _ _ _ = _; exact opS2_gives hg rfl
  case h_29 => cases hw; change execMovi _ _ _ _ = _; exact (slotOp_true _ hg).trans (congrArg Host.Outcome.next (postS_eq_queue s 1 1 _ _))
  case h_30 => cases hw; change execIns16 _ _ _ _ _ = _; exact opS2_gives hg (ins16_eq_ins16N _ _ _)
  case h_31 => cases hw; change execAddi _ _ _ _ _ = _; exact opS2_gives hg (addi_eq_wrapI _ _)
  case h_32 => cases hw; change execAndi _ _ _ _ _ = _; exact opS2_gives hg rfl
  case h_33 => cases hw; change execOri _ _ _ _ _ = _; exact opS2_gives hg rfl
  case h_34 => cases hw; change execXori _ _ _ _ _ = _; exact opS2_gives hg rfl
  case h_35 => cases hw; change execShli _ _ _ _ _ = _; exact opS2_gives hg (shl_eq_shlN _ (shift_toNat _))
  case h_36 => cases hw; change execShri _ _ _ _ _ = _; exact opS2_gives hg (shr_eq_shrN _ (shift_toNat _))
  case h_37 => cases hw; change execSrai _ _ _ _ _ = _; exact opS2_gives hg (sra_eq_sraN _ (shift_toNat _))
  case h_38 => cases hw

/-! ## Compares and predicate logic (06 R142, R143) -/

theorem postCmp_eq_queue (s : State) (d : CmpDest) (c : Bool) : s.postCmp d c = queue s (toCmp d c) := by
  cases d with
  | pair k =>
    show (s.postP 1 1 _ c).postP 1 1 _ (!c) = queue s (toP _ c ++ toP _ (!c))
    rw [queue_append, postP_eq_queue, postP_eq_queue]
  | steer n => rfl
theorem condHolds_eq_holds (c : Cond) (a b : Int) : condHolds c a b = holds c a b := by
  cases c with
  | eq | lt | gt => rfl
  | ne => exact decide_not
  | ge | le => exact (decide_eq_decide.mpr Int.not_lt.symm).trans decide_not
theorem compare_gives {s : State} {g : Guard} (hg : s.guard g = true) (d : CmpDest) (c : Cond) (a b : State → Int) :
    slotOp g s (fun s => s.postCmp d (condHolds c (a s) (b s))) = .next (queue s (toCmp d (holds c (a s) (b s)))) := by
  rw [slotOp_true _ hg, condHolds_eq_holds, postCmp_eq_queue]

/-- Settles O9: the compares and the predicate logic are two forms. -/
theorem compareAndPredicateResults : Obligations.CompareAndPredicateResults := by
  intro i s g ws hw hg
  unfold predicateWrites at hw
  split at hw <;> cases hw
  case h_1 => change execCmp _ _ _ _ _ _ = _; exact compare_gives hg _ _ _ _
  case h_2 => change execCmpi _ _ _ _ _ _ = _; exact compare_gives hg _ _ _ _
  case h_3 => change execScmp _ _ _ _ _ _ = _; exact compare_gives hg _ _ _ _
  case h_4 => change execScmpi _ _ _ _ _ _ = _; exact compare_gives hg _ _ _ _
  case h_5 => change execPand _ _ _ _ _ _ _ = _; exact opPL_gives hg
  case h_6 => change execPor _ _ _ _ _ _ _ = _; exact opPL_gives hg
  case h_7 => change execPxor _ _ _ _ _ _ _ = _; exact opPL_gives hg
  case h_8 => change execPandn _ _ _ _ _ _ _ = _; exact opPL_gives hg
end Sys2Proof.Proofs

/-! The block table (06 R144 to R146, 04 R105): the list slot that a key names, and what `blkx` reads there. -/
namespace Sys2Proof.Proofs
open Sys2Proof Sys2Proof.Machine Sys2Proof.Claims

/-! ## The model's reads as little-endian numbers -/

theorem getN_four (m : Mem) (a : Nat) : m.getN a 4 = num4 m a := by
  simp only [Mem.getN, num4, num2, Nat.add_assoc, Nat.reduceAdd]
  omega
theorem num2_lt (m : Mem) (a : Nat) : num2 m a < 2 ^ 16 := by
  have h0 := (m.get a).isLt
  have h1 := (m.get (a + 1)).isLt
  unfold num2
  omega
theorem num4_lt (m : Mem) (a : Nat) : num4 m a < 2 ^ 32 := by
  have h0 := num2_lt m a
  have h1 := num2_lt m (a + 2)
  unfold num4
  omega

/-! ## Keys -/

theorem dirEntry_valid (m : Mem) (q : Nat) : (m.dirEntry q).valid = true ↔ 2 ^ 31 ≤ num4 m (4 * q) := by
  have := num4_lt m (4 * q)
  rw [Mem.dirEntry, getN_four, beq_iff_eq]
  omega
theorem keyIndex_eq_some {m : Mem} {key : Word} {x : Nat} : keyIndex m key = some x ↔ keyNames m key x := by
  unfold keyIndex keyNames
  simp only [dirEntry_valid]
  simp only [Mem.dirEntry, bits, Nat.reduceAdd, Nat.reduceSub, getN_four, Nat.pow_zero, Nat.div_one,
    Option.ite_none_right_eq_some, Option.some.injEq]
  constructor
  · rintro ⟨⟨hv, hl, hb, hx⟩, rfl⟩
    exact ⟨hv, hl, hb, rfl, hx⟩
  · rintro ⟨hv, hl, hb, rfl, hx⟩
    exact ⟨⟨hv, hl, hb, hx⟩, rfl⟩
theorem keyIndex_eq_none {m : Mem} {key : Word} (h : ∀ x, ¬ keyNames m key x) : keyIndex m key = none :=
  Option.eq_none_iff_forall_ne_some.mpr fun x hx => h x (keyIndex_eq_some.mp hx)

theorem slotOfKey_unnamed {m : Mem} {key : Word} (h : ∀ x, ¬ keyNames m key x) (full : Bool) : slotOfKey m key full = .error 1 := by
  rw [slotOfKey, keyIndex_eq_none h]
theorem slotOfKey_full {m : Mem} {key : Word} {x : Nat} (h : keyNames m key x) :
    slotOfKey m key true = if num2 m (slotAt x) = 0xFFFF then .error 2 else .ok x := by
  rw [slotOfKey, keyIndex_eq_some.mpr h]
  rfl

theorem resultWord_eq_blockWord {id : Nat} (h : id < 2 ^ 14) : resultWord id = blockWord id := by
  have hb : id % 2 ^ 14 = id := Nat.mod_eq_of_lt h
  have hr : id / 2 ^ 13 % 2 * 16 * 2 ^ 17 = id / 2 ^ 13 * 2 ^ 21 := by omega
  rw [resultWord, blockWord, wrapN, hb, hr]

/-! ## `blkx` -/

section
variable {s : State} {g : Guard} {sd sa : BitVec 6} (hg : s.guard g = true)
include hg

theorem execBlkx_found {x : Nat} (h : slotOfKey s.ct.blk.mem (s.sv sa) true = .ok x) :
    exec (.blkx g sd sa) s = .next (s.postS 1 6 sd (resultWord (num2 s.ct.blk.mem (slotAt x)))) := by
  change execBlkx g sd sa s = _
  rw [execBlkx, slotOp_true _ hg, h]
  rfl
theorem execBlkx_refused {n : Nat} (h : slotOfKey s.ct.blk.mem (s.sv sa) true = .error n) :
    exec (.blkx g sd sa) s = .next (s.raise 1 ⟨1, 9, 2, s.sv sa, wrapN n⟩) := by
  change execBlkx g sd sa s = _
  rw [execBlkx, slotOp_true _ hg, h]
  rfl
end

/-- Settles O10, by the three cases of a key: its slot full, its slot empty, no slot. -/
theorem blockLookup : Obligations.BlockLookup := by
  intro s g sd sa hg
  refine ⟨fun x hx hfull => ?_, fun x hx hempty => ?_, fun hno => ?_⟩
  · have hslot : slotOfKey s.ct.blk.mem (s.sv sa) true = .ok x := (slotOfKey_full hx).trans (if_neg (by omega))
    rw [execBlkx_found hg hslot, resultWord_eq_blockWord hfull, postS_eq_queue]
  · exact execBlkx_refused hg ((slotOfKey_full hx).trans (if_pos hempty))
  · exact execBlkx_refused hg (slotOfKey_unnamed hno true)

/-! ## `blkalloc` and the codes of the block table

A block-table operation makes the codes of the words that it writes anew, the free-list word among them (19 R348). -/

theorem queue_withBlk_own (s : State) (b : BlkSt) (ws : List (Nat × Nat × Write)) : (queue (withBlk s b) ws).ct.own = s.ct.own := by
  rw [queue_ct, withBlk, State.ct_modCt]

/-- A block table whose sequence 0 has one layer of one block, in list slot 0, which is empty; no block is free. -/
def fullTable : BlkSt := { BlkSt.reset with mem := [(0, 0x01#8), (1, 0x02#8), (3, 0x80#8), (0x9000, 0xFF#8), (0x9001, 0xFF#8)], free := 0 }
/-- That block table on tile 0, with a single-bit error in the word of the free-list fields. -/
def flawedState : State := { State.reset with
  tiles := [(0, { Tile.reset with blk := fullTable, own := { Own.reset with errs := [⟨3, 65536, 0, 1, 0, 0#64⟩] } })] }

theorem flawedState_exec : ∃ s', exec (.blkalloc g0 0#6 0#6) flawedState = .next s' ∧ s'.ct.own.errs = [] :=
  ⟨_, rfl, by decide +kernel⟩

/-- Refutes O11: with no free block `blkalloc` writes the free-list fields alone, and so makes the code of their word anew (19 R348): an
error that stood there is gone, while the statement keeps the tile's errors as they were. -/
theorem not_blockOperations : ¬ Obligations.BlockOperations := by
  intro h
  obtain ⟨-, hnone, -⟩ := h flawedState g0 0#6 0#6 0#6 0 (by decide +kernel) (by decide +kernel) (by decide +kernel) (by decide +kernel)
    (by unfold keyNames; decide +kernel)
  obtain ⟨b, -, -, -, -, hexec⟩ := hnone (by decide +kernel) (by decide +kernel)
  obtain ⟨s', hs', herrs⟩ := flawedState_exec
  have := Host.Outcome.next.inj (hs'.symm.trans hexec)
  rw [this, queue_withBlk_own] at herrs
  cases herrs
end Sys2Proof.Proofs

/-! Steering and loops (06 R147 to R152): the sequencer's target, its buffer, and the counters. -/
namespace Sys2Proof.Proofs
open Sys2Proof Sys2Proof.Machine Sys2Proof.Claims

/-! ## Redirects -/

theorem redirect_eq_wentTo (s : State) (a words : Nat) : s.redirect a words = wentTo s a words := rfl
theorem fillWords_eq (f c : Nat) : fillWords f c = if f ≤ c then 0 else if f = c + 1 then 4 else if f = c + 2 then 8 else 12 := by
  unfold fillWords
  split_ifs <;> omega
theorem steer_words (s : State) (st : BitVec 4) :
    (match (s.ct.regs.stAt st.toNat).fillAt with | some c => fillWords s.frc c | none => 0) = targetWords s st := by
  simp only [fillWords_eq]
  rfl
theorem redirect_steer (s : State) (st : BitVec 4) :
    s.redirect (steerOf s st).target.toNat (match (s.ct.regs.stAt st.toNat).fillAt with | some c => fillWords s.frc c | none => 0) =
      wentTo s (steerOf s st).target.toNat (targetWords s st) := by
  rw [redirect_eq_wentTo, steer_words]
theorem steer_allowed {s : State} {st : BitVec 4} (h : steerAllowed s st) :
    s.steer st = wentTo s (steerOf s st).target.toNat (targetWords s st) := by
  unfold State.steer
  dsimp only
  split
  · next i hi => exact (if_pos (h i hi)).trans (redirect_steer s st)
  · exact redirect_steer s st
theorem steer_outside {s : State} {st : BitVec 4} {i : Nat} (hi : s.ct.inLoop = some i)
    (h : (s.ct.regs.l.getD i LoopSt.reset).holds (steerOf s st).target.toNat = false) :
    s.steer st = s.raise 5 ⟨1, 6, 2, wrapN (steerOf s st).target.toNat, wrapN i⟩ := by
  unfold State.steer
  dsimp only
  rw [hi]
  exact if_neg (ne_true_of_eq_false h)

section
variable {s : State} {g : Guard} (hg : s.guard g = true) (st : BitVec 4)
include hg

theorem exec_prep (target : BitVec 17) : exec (.prep g st target) s = .next (queue s [(1, 5, .stTgt st.toNat target s.frc)]) :=
  show execPrep g st target s = _ from slotOp_true _ hg
theorem exec_jmp : exec (.jmp g st) s = .next (s.steer st) :=
  show execJmp g st s = _ from slotOp_true _ hg
theorem exec_br : exec (.br g st) s = .next (if (steerOf s st).cond then s.steer st else s) :=
  show execBr g st s = _ from slotOp_true _ hg
theorem exec_brn : exec (.brn g st) s = .next (if (steerOf s st).cond then s else s.steer st) :=
  show execBrn g st s = _ from slotOp_true _ hg
theorem exec_prepr (sa : BitVec 6) : exec (.prepr g st sa) s = .next
    (if (s.sv sa).toNat < 131072 ∧ itemAt s.ct.seq.code 0 (s.sv sa).toNat = true then s.prepTo st ((s.sv sa).truncate 17)
      else s.raise 5 ⟨1, 3, 2, s.sv sa, wrapN st.toNat⟩) :=
  show execPrepr g st sa s = _ from slotOp_true _ hg
end

/-- Settles O34: the three jumps steer alike, and `prepr` looks whether its target is an item's first word. -/
theorem steeringGoesToItsTarget : Obligations.SteeringGoesToItsTarget := by
  intro s g st hg
  refine ⟨fun target => exec_prep hg st target, fun sa hlt hit => ?_, fun sa hno => ?_, fun hin => ?_, fun i hi hout => ?_⟩
  · exact (exec_prepr hg st sa).trans (congrArg _ (if_pos ⟨hlt, hit⟩))
  · refine (exec_prepr hg st sa).trans (congrArg _ (if_neg fun ⟨hlt, hit⟩ => ?_))
    exact hno.elim (absurd hlt) fun h => Bool.noConfusion (hit.symm.trans h)
  · rw [← steer_allowed hin]
    exact ⟨exec_jmp hg st, exec_br hg st, exec_brn hg st⟩
  · dsimp only
    rw [← steer_outside hi hout]
    exact ⟨exec_jmp hg st, exec_br hg st, exec_brn hg st⟩

/-! ## Loops -/

theorem bodyPasses_of_bodyFits {s : State} {stop : Nat} (h : bodyFits s stop) : s.ct.bodyPasses stop = false := by
  unfold Tile.bodyPasses
  split
  · next i hi => exact decide_eq_false (Nat.not_lt.mpr (h i hi))
  · rfl

section
variable {s : State} {g : Guard} (hg : s.guard g = true) (l : BitVec 2)
include hg

theorem exec_lper (per : BitVec 16) : exec (.lper g l per) s = .next (if (loopOf s l).running then s.raise 5 ⟨1, 4, 2, wrapN per.toNat, 1#64⟩
    else queue s [(1, 5, .lper l.toNat per)]) :=
  show execLper g l per s = _ from slotOp_true _ hg
/-- The checks of a `loop` in order, and what it does where none fails (06 R149). -/
theorem exec_loop (count : LoopCount) (len : BitVec 14) : exec (.loop g l count len) s = .next (
    if (loopOf s l).running then s.raise 5 ⟨1, 4, 2, wrapN (loopCount s count), 2#64⟩
    else if (loopOf s l).period = 0#16 then s.raise 5 ⟨1, 4, 2, 0#64, 3#64⟩
    else if loopCount s count ≥ 2 ^ 32 then s.raise 5 ⟨1, 4, 2, wrapN (loopCount s count), 4#64⟩
    else if s.ct.bodyPasses (bodyStart s + len.toNat) then s.raise 5 ⟨1, 4, 2, wrapN (loopCount s count), 5#64⟩
    else if loopCount s count = 0 then wentTo s (bodyStart s + len.toNat) 0
    else withLoop s l { loopOf s l with
      running := true, j := 0, n := loopCount s count, b0 := s.ct.seq.sb, start := bodyStart s, len := len.toNat, fillAt := s.frc }) := by
  change execLoop g l count len s = _
  cases count <;> exact slotOp_true _ hg
theorem exec_lbrk_innermost (h : s.ct.inLoop = some l.toNat) : exec (.lbrk g l) s = .next
    ((withLoop (wentTo s ((loopOf s l).start + (loopOf s l).len) (fillWords s.frc (loopOf s l).fillAt)) l
      { loopOf s l with running := false }).modCt fun t =>
        { t with seq := { t.seq with sb := (loopOf s l).b0 + (loopOf s l).n * (loopOf s l).period.toNat } }) := by
  change execLbrk g l s = _
  refine (slotOp_true _ hg).trans (congrArg _ ((if_pos h).trans ?_))
  dsimp only
  rw [redirect_eq_wentTo, withLoop, wentTo, wentTo, State.modCt_modCt, State.modCt_modCt, State.modCt_modCt]
  rfl
theorem exec_lbrk_other (h : s.ct.inLoop ≠ some l.toNat) : ∃ d2, exec (.lbrk g l) s = .next (s.raise 5 ⟨1, 5, 2, wrapN l.toNat, d2⟩) :=
  ⟨_, show execLbrk g l s = _ from (slotOp_true _ hg).trans (congrArg _ (if_neg h))⟩
end

/-- Settles O35, by the order of a `loop`'s checks and the two cases of a `lbrk`. -/
theorem loopsStartAndBreak : Obligations.LoopsStartAndBreak := by
  intro s g l hg
  refine ⟨fun per hr => ?_, fun per hr => ?_, fun count len hr hp hn hb => ?_, fun count len hr => ?_, fun count len hr hp => ?_,
    fun h => ⟨_, exec_lbrk_innermost hg l h⟩, exec_lbrk_other hg l⟩
  · rw [exec_lper hg, if_neg (ne_true_of_eq_false hr)]
  · rw [exec_lper hg, if_pos hr]
  · rw [exec_loop hg, if_neg (ne_true_of_eq_false hr), if_neg hp, if_neg (Nat.not_le.mpr hn),
      if_neg (ne_true_of_eq_false (bodyPasses_of_bodyFits hb))]
  · rw [exec_loop hg, if_pos hr]
  · rw [exec_loop hg, if_neg (ne_true_of_eq_false hr), if_pos hp]
end Sys2Proof.Proofs

/-! Meetings and triggers (06 R153 to R159, 02 R53, R56): what a tile asks of the launch, and the numbers of its timelines. -/
namespace Sys2Proof.Proofs
open Sys2Proof Sys2Proof.Machine Sys2Proof.Claims

/-! ## What stands in the way of a pause (02 R56) -/

theorem copyPast_none {t : Tile} {f : Nat} (h : ∀ o, t.lcopy = some o → o.c + o.n ≤ f + 1) : t.copyPast f = none := by
  unfold Tile.copyPast
  split
  · next o ho => exact if_neg (Nat.not_lt.mpr (h o ho))
  · rfl
theorem copyPast_some {t : Tile} {f : Nat} {o : LCopy} (ho : t.lcopy = some o) (h : f + 1 < o.c + o.n) :
    t.copyPast f = some (o.c + o.n) := by
  rw [Tile.copyPast, ho]
  exact if_pos h
theorem latestAbove_none {f : Nat} {xs : List Nat} (h : ∀ x ∈ xs, x ≤ f) : latestAbove f xs = none := by
  have : xs.filter (fun x => f < x) = [] := List.filter_eq_nil_iff.mpr fun x hx => by simpa using h x hx
  rw [latestAbove, this]
theorem slot_of_isRead {p : Pend} (h : p.isRead = true) : p.src.slot = 9 := by
  rw [Pend.isRead, Bool.and_eq_true, beq_iff_eq] at h
  exact h.1
theorem ofTile_iff (p : Push) (t : Nat) : p.ofTile t = true ↔ p.tile = t ∧ p.src.slot = 6 := by
  rw [Push.ofTile, Bool.and_eq_true, beq_iff_eq, beq_iff_eq, scL]
theorem after_of_elapsed {t : Option Nat} {d f : Nat} (h : elapsed t d f) (code b : Nat) : after code b f d t = [] := by
  cases t with
  | none => rfl
  | some x => exact if_neg (Nat.not_lt.mpr (h x rfl))
theorem notClosed_nil {v : VaultSt} {f : Nat} (h : ∀ b, b < v.n → (v.bank b).st = .closed ∧ elapsed (v.bank b).pre 12 f) :
    v.notClosed f = [] := by
  refine List.filter_eq_nil_iff.mpr fun b hb => ?_
  obtain ⟨hst, hpre⟩ := h b (List.mem_range.mp hb)
  rw [hst, Config.tRP, after_of_elapsed hpre]
  simp

/-- Nothing of the tile is in flight and every bank is closed. -/
structure MayPause (s : State) : Prop where
  reads : ∀ p ∈ s.ct.pend, p.src.slot = 9 → p.at_ ≤ s.frc
  pushes : ∀ p ∈ (s.coach s.cur.coach).pushes, p.tile = s.cur.tile → p.src.slot = 6 → p.arrival ≤ s.frc
  copy : ∀ o, s.ct.lcopy = some o → o.c + o.n ≤ s.frc + 1
  banks : ∀ b, b < s.ct.vault.n → (bankOf s b).st = .closed ∧ elapsed (bankOf s b).pre 12 s.frc

theorem pauseFail_none {s : State} (h : MayPause s) (opc : Nat) : s.pauseFail opc = none := by
  have hreads : latestAbove s.frc ((s.ct.pend.filter Pend.isRead).map (·.at_)) = none := latestAbove_none fun x hx => by
    obtain ⟨p, hp, rfl⟩ := List.mem_map.mp hx
    obtain ⟨hp, hr⟩ := List.mem_filter.mp hp
    exact h.reads p hp (slot_of_isRead hr)
  have hpushes : latestAbove s.frc (((s.coach s.cur.coach).pushes.filter fun p => p.ofTile s.cur.tile).map (·.arrival)) = none :=
    latestAbove_none fun x hx => by
      obtain ⟨p, hp, rfl⟩ := List.mem_map.mp hx
      obtain ⟨hp, hof⟩ := List.mem_filter.mp hp
      obtain ⟨ht, hs⟩ := (ofTile_iff _ _).mp hof
      exact h.pushes p hp ht hs
  unfold State.pauseFail
  dsimp only
  rw [hreads, hpushes, copyPast_none h.copy, notClosed_nil h.banks]

section
variable {s : State} {g : Guard} (hg : s.guard g = true)
include hg

theorem exec_commit_asks (rl : BitVec 8) (os : BitVec 4) (h : s.ct.copyPast s.frc = none) :
    exec (.commit g rl os) s = .next (askedFor s (.commit rl.toNat os.toNat)) := by
  change execCommit g rl os s = _
  rw [execCommit, slotOp_true _ hg, h]
  rfl
theorem exec_commit_busy (rl : BitVec 8) (os : BitVec 4) {x : Nat} (h : s.ct.copyPast s.frc = some x) :
    exec (.commit g rl os) s = .next (s.raise 5 ⟨2, 9, 2, 3#64, wrapN x⟩) := by
  change execCommit g rl os s = _
  rw [execCommit, slotOp_true _ hg, h]
  rfl
theorem exec_rdv_always (id : BitVec 8) (h : MayPause s) : exec (.rdv g id .always) s = .next (askedFor s (.rdv id.toNat none)) := by
  change execRdv g id .always s = _
  rw [execRdv, slotOp_true _ hg, pauseFail_none h]
  rfl
theorem exec_rdv_level (id : BitVec 8) (tl : BitVec 3) (r : BitVec 6) (h : MayPause s) :
    exec (.rdv g id (.level tl r)) s = .next (askedFor s (.rdv id.toNat (some (tl.toNat, s.sv r)))) := by
  change execRdv g id (.level tl r) s = _
  rw [execRdv, slotOp_true _ hg, pauseFail_none h]
  rfl
theorem exec_relay_misplaced (h : s.ct.seq.lastCommit ≠ some (s.frc - 1)) : exec (.relay g) s =
    .next (s.raise 5 ⟨1, 7, 2, wrapN (s.ct.seq.lastCommit.getD 0), 0#64⟩) := by
  change execRelay g s = _
  rw [execRelay, slotOp_true _ hg]
  exact congrArg _ (if_pos (.inl h))
/-- A `relay` in the cycle after a commit looks first at the launch's relay points. -/
theorem exec_relay_after_commit (h : s.ct.seq.lastCommit = some (s.frc - 1)) (h0 : 0 < s.frc) : exec (.relay g) s = .next (
    if s.cl.nr ≤ s.cl.relayNo then s.raise 5 ⟨1, 0x10, 2, wrapN s.cl.relayNo, wrapN s.cl.nr⟩
    else match s.pauseFail 0x0A with | some x => s.raise 5 x | none => askedFor s .relay) := by
  change execRelay g s = _
  rw [execRelay, slotOp_true _ hg]
  exact congrArg _ (if_neg fun hno => hno.elim (absurd h) h0.ne')
end

/-- Settles O36: where nothing stands in the way each asks; a running copy, a misplaced `relay` and one too many are recorded. -/
theorem meetingsAreAskedFor : Obligations.MeetingsAreAskedFor := by
  intro s g hg
  refine ⟨fun rl os h => exec_commit_asks hg rl os (copyPast_none h), fun rl os o ho h => exec_commit_busy hg rl os (copyPast_some ho h),
    fun hr hp hc hb => ?_, fun h => ⟨_, exec_relay_misplaced hg h⟩, fun h h0 hn => ?_⟩
  · have hp : MayPause s := ⟨hr, hp, hc, hb⟩
    refine ⟨fun id => exec_rdv_always hg id hp, fun id tl r => exec_rdv_level hg id tl r hp, fun h h0 hn => ?_⟩
    rw [exec_relay_after_commit hg h h0, if_neg (Nat.not_le.mpr hn), pauseFail_none hp]
  · rw [exec_relay_after_commit hg h h0, if_pos hn]

/-! ## Timelines (04 R101) -/

theorem settle_issued (t : Timeline) (n : Nat) : (t.settle n).issued = t.issued := by
  induction n generalizing t with
  | zero => rfl
  | succ n ih =>
    rw [Timeline.settle]
    split
    · exact ih _
    · rfl
theorem complete_issued (t : Timeline) (n : Nat) : (t.complete n).issued = t.issued := settle_issued _ _
/-- Where every earlier number has completed, the next one raises the live value. -/
theorem complete_next {t : Timeline} (hd : t.done = []) : (t.complete (t.live + 1)).live = t.live + 1 ∧ (t.complete (t.live + 1)).done = [] := by
  have h : t.complete (t.live + 1) = { t with live := t.live + 1, done := [] } := by
    simp [Timeline.complete, Timeline.settle, hd]
  rw [h]
  exact ⟨rfl, rfl⟩

/-! ## Triggers (06 R156 to R159) -/

/-- The next number of timeline tl. -/
def nextNumber (s : State) (tl : BitVec 3) : Nat := (lineOfCoach s tl).issued + 1
/-- s with the trigger counted and its number taken. -/
def issuedNext (s : State) (tl : BitVec 3) : State :=
  withTimeline (counted s tl) tl { lineOfCoach s tl with issued := nextNumber s tl }

theorem modCoach_modCoach (s : State) (c : Nat) (f h : Coach → Coach) : (s.modCoach c f).modCoach c h = s.modCoach c fun k => h (f k) := by
  by_cases hc : c < 16
  · rw [State.modCoach, State.modCoach, State.coach_setCoach _ _ hc]
    simp [State.modCoach, State.setCoach, Vector.setIfInBounds_setIfInBounds]
  · have hno (s : State) (x : Coach) : s.setCoach c x = s := by
      simp [State.setCoach, Vector.setIfInBounds_eq_of_size_le (Nat.not_lt.mp hc)]
    simp [State.modCoach, hno]
/-- A change of the timeline whose number has just been taken. -/
theorem modTl_withTimeline (s : State) (tl : BitVec 3) (x : Timeline) (f : Timeline → Timeline) :
    (withTimeline s tl x).modCoach s.cur.coach (fun k => k.modTl tl.toNat f) = withTimeline s tl (f x) := by
  have htl : tl.toNat < 8 := tl.isLt
  rw [withTimeline, modCoach_modCoach, withTimeline]
  simp only [Coach.modTl, Coach.tl, getD_setIfInBounds _ _ _ htl, if_pos, Vector.setIfInBounds_setIfInBounds]

section
variable {s : State} {tl : BitVec 3} (opc : Nat) (f : State → Nat → State)

theorem trigger_replayed (h : replayedTrigger s tl) : s.trigger opc tl f = counted s tl := if_pos h
theorem trigger_refused (h : ¬ replayedTrigger s tl) (hm : ¬ mayTrigger s) :
    s.trigger opc tl f = s.raise 5 ⟨8, 4, 2, BitVec.ofNat 64 opc, 32#64⟩ :=
  (if_neg h).trans (if_pos (not_not.mp hm))
theorem trigger_taken (h : ¬ replayedTrigger s tl) (hm : mayTrigger s) :
    s.trigger opc tl f = f (issuedNext s tl) (nextNumber s tl) :=
  (if_neg h).trans (if_neg hm)
end

theorem issuedNext_ct (s : State) (tl : BitVec 3) : (issuedNext s tl).ct =
    { s.ct with trigs := s.ct.trigs.setIfInBounds tl.toNat (s.ct.trigs.getD tl.toNat 0 + 1) } := by
  change (counted s tl).ct = _
  rw [counted, State.ct_modCt]
theorem issuedNext_sv (s : State) (tl : BitVec 3) (n : BitVec 6) : (issuedNext s tl).sv n = s.sv n := by
  rw [State.sv, issuedNext_ct]
  rfl
theorem accept_issuedNext (s : State) (tl : BitVec 3) (kind : OpKind) (host : Word) (va len : Nat) (desc : Vec) :
    (issuedNext s tl).accept tl.toNat (nextNumber s tl) kind host va len desc = accepted s tl kind host va len desc := by
  have howner : (issuedNext s tl).ct.own.owner = s.ct.own.owner := by rw [issuedNext_ct]
  rw [State.accept, howner]
  rfl

theorem acopyFail_none {s : State} {h v n : Word} (hok : copyOk s h v n) : acopyFail h v n s.ct.vault.n = none := by
  obtain ⟨hh, hv, hn1, hn2, hend, hb⟩ := hok
  exact (if_neg (not_not.mpr hh)).trans ((if_neg (Nat.not_le.mpr hv)).trans ((if_neg (by omega)).trans
    ((if_neg (Nat.not_lt.mpr hend)).trans (if_neg (Nat.not_le.mpr hb)))))

/-! ## Descriptor lines (04 R97, 06 R158) -/

theorem checkAddr_line {a : Nat} (ha : a % 256 = 0) (hlt : a < 2 ^ 21) : checkAddr a 256 256 = none := by
  unfold checkAddr
  rw [if_neg (by norm_num [Config.spEnd]; omega), if_neg (by omega)]
theorem getN_byte (m : Mem) (a : Nat) {n j : Nat} (hj : j < n) : m.getN a n / 256 ^ j % 256 = (m.get (a + j)).toNat := by
  induction n generalizing a j with
  | zero => omega
  | succ n ih =>
    have hlt : (m.get a).toNat < 256 := (m.get a).isLt
    cases j with
    | zero => rw [Mem.getN]; simp; omega
    | succ j =>
      have hdiv : ((m.get a).toNat + 256 * m.getN (a + 1) n) / 256 = m.getN (a + 1) n := by omega
      rw [Mem.getN, pow_succ', ← Nat.div_div_eq_div_mul, hdiv, ih (a + 1) (Nat.lt_of_succ_lt_succ hj), Nat.add_right_comm, Nat.add_assoc]
theorem getN_lt (m : Mem) (a n : Nat) : m.getN a n < 256 ^ n := by
  induction n generalizing a with
  | zero => exact Nat.one_pos
  | succ n ih =>
    have h0 : (m.get a).toNat < 256 := (m.get a).isLt
    have := ih (a + 1)
    rw [Mem.getN, pow_succ]
    omega
theorem extractLsb'_getN (m : Mem) (a : Nat) {n j : Nat} (hj : j < n) :
    (BitVec.ofNat (8 * n) (m.getN a n)).extractLsb' (8 * j) 8 = m.get (a + j) := by
  have hlt : m.getN a n < 2 ^ (8 * n) := (getN_lt m a n).trans_eq (Nat.pow_mul 2 8 n).symm
  have hpow : 256 ^ j = 2 ^ (8 * j) := (Nat.pow_mul 2 8 j).symm
  refine BitVec.eq_of_toNat_eq ?_
  rw [← getN_byte m a hj, hpow, BitVec.extractLsb'_toNat, BitVec.toNat_ofNat, Nat.mod_eq_of_lt hlt, Nat.shiftRight_eq_div_pow]
theorem hasBytes_vec (m : Mem) (a : Nat) : hasBytes (m.vec a) fun j => m.get (a + j) := fun _ hj =>
  extractLsb'_getN m a (n := 256) hj
theorem physLine_eq (h : Bool) {a : Nat} (hlt : a < 2 ^ 21) : physLine h a = (if h then (a + 2 ^ 20) % 2 ^ 21 else a) / 256 := by
  have hhalf : (a / 2 ^ 20 % 2 == 1) = decide (2 ^ 20 ≤ a) := by
    rw [beq_eq_decide, decide_eq_decide]
    omega
  rw [physLine, hhalf]
  cases h with
  | false =>
    simp only [Bool.bne_false, decide_eq_true_eq, Bool.false_eq_true, if_false]
    split <;> omega
  | true =>
    simp only [Bool.bne_true, Bool.not_eq_true', decide_eq_false_iff_not, if_true]
    split <;> omega
theorem hasBytes_line (t : Tile) {a : Nat} (ha : a % 256 = 0) (hlt : a < 2 ^ 21) : hasBytes (t.line a) fun j => spByteAt t (a + j) := by
  intro j hj
  refine (hasBytes_vec t.sp _ j hj).trans (congrArg t.sp.get ?_)
  rw [physLine_eq t.h hlt]
  split <;> omega

section
variable {s : State} {g : Guard} (hg : s.guard g = true) (tl : BitVec 3)
include hg

theorem exec_tlrd (sd : BitVec 6) : exec (.tlrd g sd tl) s = .next (queue s (toS 5 1 sd (s.ct.acq.getD tl.toNat 0#64))) := by
  change execTlrd g sd tl s = _
  rw [execTlrd, slotOp_true _ hg, postS_eq_queue, scC]
theorem exec_tlsig : exec (.tlsig g tl) s = .next (s.trigger 0x0C tl fun s n => s.modCoach s.cur.coach fun k =>
    k.modTl tl.toNat fun t => t.complete n) :=
  show execTlsig g tl s = _ from slotOp_true _ hg
theorem opAcopy_gives {sh sv sn : BitVec 6} (kind : OpKind) (h : copyOk s (s.sv sh) (s.sv sv) (s.sv sn)) :
    opAcopy g kind tl sh sv sn s = .next (s.trigger 0x0E tl fun x n =>
      x.accept tl.toNat n kind (x.sv sh) (x.sv sv).toNat (x.sv sn).toNat 0#2048) := by
  rw [opAcopy, slotOp_true _ hg, acopyFail_none h]
theorem opFar_gives {sd : BitVec 6} (opc : Nat) (kind : OpKind) (ha : (s.sv sd).toNat % 256 = 0) (hlt : (s.sv sd).toNat < 2 ^ 21) :
    opFar opc kind g tl sd s = .next (s.trigger opc tl fun x n =>
      x.accept tl.toNat n kind 0#64 ((s.ct.line (s.sv sd).toNat).extractLsb' 64 64).toNat ((s.ct.line (s.sv sd).toNat).extractLsb' 128 32).toNat
        (s.ct.line (s.sv sd).toNat)) := by
  rw [opFar, slotOp_true _ hg, checkAddr_line ha hlt]
end

/-- The far operations of R158 read one descriptor line and trigger. -/
theorem exec_far {i : Instr} {s : State} {g : Guard} {tl : BitVec 3} {sd : BitVec 6} {kind : OpKind} {opc : Word}
    (hi : farShape i = some (g, tl, sd, kind, opc)) : exec i s = opFar opc.toNat kind g tl sd s := by
  unfold farShape at hi
  split at hi <;> cases hi
  case h_1 => change execFarxSend _ _ _ _ = _; rfl
  case h_2 => change execFarxRecv _ _ _ _ = _; rfl
  case h_3 => change execFarmSum _ _ _ _ = _; rfl
  case h_4 => change execFarmGather _ _ _ _ = _; rfl
  case h_5 => change execFarmBcast _ _ _ _ = _; rfl

/-- Settles O37: every trigger has three outcomes; `acopy` and the far operations hand their number to an accepted operation. -/
theorem triggersTakeNumbers : Obligations.TriggersTakeNumbers := by
  intro s g tl hg
  refine ⟨exec_tlrd hg tl, fun hr => ?_, fun hr hm => ?_, fun hr hm => ?_, fun sh sv sn hok => ?_, fun i sd kind opc hi ha hlt => ?_⟩
  · rw [exec_tlsig hg, trigger_replayed _ _ hr]
  · refine ⟨Timeline.complete { lineOfCoach s tl with issued := nextNumber s tl } (nextNumber s tl), ?_,
      complete_issued _ (nextNumber s tl), fun hd hl => ?_⟩
    · rw [exec_tlsig hg, trigger_taken _ _ hr hm]
      exact congrArg _ (modTl_withTimeline (counted s tl) tl _ _)
    · rw [nextNumber, ← hl]
      exact complete_next (t := { lineOfCoach s tl with issued := (lineOfCoach s tl).live + 1 }) hd
  · rw [exec_tlsig hg, trigger_refused _ _ hr hm]
  · have hin : exec (.acopyIn g tl sh sv sn) s = _ := show execAcopyIn g tl sh sv sn s = _ from opAcopy_gives hg tl .copyIn hok
    have hout : exec (.acopyOut g tl sh sv sn) s = _ := show execAcopyOut g tl sh sv sn s = _ from opAcopy_gives hg tl .copyOut hok
    rw [hin, hout]
    refine ⟨fun hr => ?_, fun hr hm => ?_, fun hr hm => ?_⟩
    · rw [trigger_replayed _ _ hr, trigger_replayed _ _ hr]; exact ⟨rfl, rfl⟩
    · rw [trigger_refused _ _ hr hm, trigger_refused _ _ hr hm]; exact ⟨rfl, rfl⟩
    · rw [trigger_taken _ _ hr hm, trigger_taken _ _ hr hm, accept_issuedNext, accept_issuedNext,
        issuedNext_sv, issuedNext_sv, issuedNext_sv]
      exact ⟨rfl, rfl⟩
  · rw [exec_far hi, opFar_gives hg tl _ kind ha hlt]
    refine ⟨fun hr => ?_, fun hr hm => ?_, fun hr hm => ⟨s.ct.line (s.sv sd).toNat, _, _, hasBytes_line s.ct ha hlt,
      congrArg _ ((trigger_taken _ _ hr hm).trans (accept_issuedNext ..))⟩⟩
    · rw [trigger_replayed _ _ hr]
    · rw [trigger_refused _ _ hr hm, BitVec.ofNat_toNat, BitVec.setWidth_eq]
end Sys2Proof.Proofs

/-! System registers and flags (06 R160 to R163, 03 R89, 04 R107, Tables 4-5 and 4-6): reads index by index, clears of the flag sets, and
the event that the first-event record takes. -/
namespace Sys2Proof.Proofs
open Sys2Proof Sys2Proof.Machine Sys2Proof.Claims

/-! ## Rows of a format table in the scratchpad (06 R160) -/

theorem lane_of_bytes {x : Vec} {f : Nat → Byte} (h : hasBytes x f) {m : Nat} (hm : m < 64) :
    lane x 32 m = (f (4 * m)).toNat + (f (4 * m + 1)).toNat * 256 + (f (4 * m + 2)).toNat * 256 ^ 2 + (f (4 * m + 3)).toNat * 256 ^ 3 := by
  have hbyte (i : Nat) (hi : i < 4) : (f (4 * m + i)).toNat = x.toNat / 2 ^ (32 * m) / 2 ^ (8 * i) % 2 ^ 8 := by
    rw [← h (4 * m + i) (by omega), BitVec.extractLsb'_toNat, Nat.shiftRight_eq_div_pow, Nat.div_div_eq_div_mul, ← pow_add]
    congr 3
    omega
  have h0 := hbyte 0 (by decide)
  have h1 := hbyte 1 (by decide)
  have h2 := hbyte 2 (by decide)
  have h3 := hbyte 3 (by decide)
  rw [Nat.add_zero] at h0
  rw [lane, h0, h1, h2, h3]
  generalize x.toNat / 2 ^ (32 * m) = q
  omega
theorem lane_line (t : Tile) {a m : Nat} (ha : a % 256 = 0) (hlt : a < 2 ^ 21) (hm : m < 64) :
    lane (t.line a) 32 m = elemAt t (a + 4 * m) 4 4 := by
  rw [lane_of_bytes (hasBytes_line t ha hlt) hm]
  simp only [elemAt, Nat.add_assoc, Nat.add_zero]
  omega
theorem getD_ofFn_lane (x : Vec) {m : Nat} (hm : m < 16) :
    ((Vector.ofFn fun i : Fin 16 => BitVec.ofNat 32 (lane x 32 i.val)).getD m 0#32).toNat = lane x 32 m := by
  simp [Vector.getD, hm, lane]
theorem ftFirstBad_none {x : Vec} {mask : BitVec 16} (h : ∀ m, m < 16 → mask.getLsbD m = true → ftOk (BitVec.ofNat 32 (lane x 32 m)) = true) :
    ftFirstBad x mask = none := by
  refine List.find?_eq_none.mpr fun m hm => ?_
  rw [Bool.and_eq_true, Bool.not_eq_true', not_and, Bool.not_eq_false]
  exact h m (List.mem_range.mp hm)

/-! ## Words of counters, banks and snapshots -/

theorem loopWord_eq_counterWord (l : LoopSt) (k : Nat) : loopWord l k = counterWord l k := by
  match k with
  | 0 | 1 | 2 | _ + 3 => rfl
theorem bankWord_eq_bankWordOf (v : VaultSt) (b f : Nat) : v.bankWord b f = bankWordOf v b f := by
  have hg : v.granted b f = grantedAt v b f := rfl
  unfold VaultSt.bankWord bankWordOf VaultSt.code Bank.openRow wrapN
  rw [hg, VaultSt.bank]
  dsimp only
  -- the places of the fields do not matter: as variables they keep the kernel from computing with them
  generalize v.banks.getD b Bank.reset = k
  generalize (2 : Nat) ^ 16 = w
  generalize (2 : Nat) ^ 20 = u
  cases grantedAt v b f <;> cases k.st <;> simp [Nat.add_assoc]
theorem snapWord_head (n : Snap) {o : Nat} (h : o < 5) : n.word o = snapWordOf n o := by
  unfold Snap.word snapWordOf bitAt w64 wrapN
  interval_cases o <;> simp
theorem snapWord_eq_snapWordOf (n : Snap) (o : Nat) : n.word o = snapWordOf n o := by
  obtain h | h | h | h | h | h | h | h : o < 5 ∨ (5 ≤ o ∧ o < 0x10) ∨ (0x10 ≤ o ∧ o < 0x20) ∨ (0x20 ≤ o ∧ o < 0x30) ∨ (0x30 ≤ o ∧ o < 0x38) ∨
    (0x38 ≤ o ∧ o < 0x40) ∨ (0x40 ≤ o ∧ o < 0x50) ∨ 0x50 ≤ o := by omega
  case inl => exact snapWord_head n h
  all_goals simp (disch := omega) only [Snap.word, snapWordOf, if_pos, if_neg, loopWord_eq_counterWord]

/-! ## System registers by index (04 Table 4-5) -/

section
variable (x : Tile) (l : Launch) (c t : Nat)

theorem sysRead_flags {k : Nat} (hk : 1 ≤ k ∧ k ≤ 4) : sysRead x l c t (7 + k) = (flagBits x k).zeroExtend 64 := by
  obtain ⟨h1, h4⟩ := hk
  interval_cases k <;> rfl
theorem sysRead_counter {n k : Nat} (hn : n < 4) (hk : k < 4) :
    sysRead x l c t (0x10 + 4 * n + k) = counterWord (x.regs.l.getD n LoopSt.reset) k := by
  have hnum : (0x10 + 4 * n + k - 0x10) / 4 = n := by omega
  have hword : (0x10 + 4 * n + k) % 4 = k := by omega
  simp (disch := omega) only [sysRead, if_neg, if_pos, hnum, hword, loopWord_eq_counterWord, Regs.lAt]
theorem sysRead_steer {n : Nat} (hn : n < 12) : sysRead x l c t (0x20 + n) = steerWord (x.regs.st.getD n Steer.reset) := by
  simp (disch := omega) only [sysRead, if_neg, if_pos, Nat.add_sub_cancel_left]
  rfl
theorem sysRead_format {k : Nat} (hk : k < 16) : sysRead x l c t (0x30 + k) = (x.ft.getD k 0#32).zeroExtend 64 := by
  simp (disch := omega) only [sysRead, if_neg, if_pos, Nat.add_sub_cancel_left]
theorem sysRead_acquired {k : Nat} (hk : k < 8) : sysRead x l c t (0x48 + k) = x.acq.getD k 0#64 := by
  simp (disch := omega) only [sysRead, if_neg, if_pos, Nat.add_sub_cancel_left]
theorem sysRead_vttA {e : Nat} (he : e < 16) : sysRead x l c t (0x50 + 2 * e) = x.vault.vttA.getD e 0#64 := by
  have hnum : (0x50 + 2 * e - 0x50) / 2 = e := by omega
  simp (disch := omega) only [sysRead, if_neg, if_pos, hnum]
theorem sysRead_vttB {e : Nat} (he : e < 16) : sysRead x l c t (0x51 + 2 * e) = x.vault.vttB.getD e 0#64 := by
  have hnum : (0x51 + 2 * e - 0x50) / 2 = e := by omega
  simp (disch := omega) only [sysRead, if_neg, if_pos, hnum]
theorem sysRead_bank {b : Nat} (hb : b < 32) : sysRead x l c t (0x70 + b) = bankWordOf x.vault b l.frc := by
  simp (disch := omega) only [sysRead, if_neg, if_pos, Nat.add_sub_cancel_left, bankWord_eq_bankWordOf]
theorem sysRead_snapshot {i o : Nat} (hi : i < 2) (ho : o < 128) :
    sysRead x l c t (0x100 + 128 * i + o) = snapWordOf (x.snaps.getD i Snap.reset) o := by
  obtain rfl | rfl : i = 0 ∨ i = 1 := by omega
  · simp (disch := omega) only [sysRead, if_neg, if_pos, Nat.mul_zero, Nat.add_zero, Nat.add_sub_cancel_left, snapWord_eq_snapWordOf]
  · simp (disch := omega) only [sysRead, if_neg, if_pos, Nat.mul_one, Nat.reduceAdd, Nat.add_sub_cancel_left, snapWord_eq_snapWordOf]
theorem sysRead_btst : sysRead x l c t 0x90 = wrapN (btstOf x.blk) := by
  simp (disch := omega) only [sysRead, if_neg]
  rfl
theorem sysRead_rfclass : sysRead x l c t 0x91 = wrapN (x.vault.rfclass % 8) := by
  simp (disch := omega) only [sysRead, if_neg]
  rfl
theorem sysRead_absent {i : Nat} (h : absentIndex i) : sysRead x l c t i = 0#64 := by
  unfold absentIndex at h
  simp (disch := omega) only [sysRead, if_neg]
end

theorem sysRead_tileId (s : State) : sysRead (issueTile s) s.cl s.cur.coach s.cur.tile 2 = tileIdWord s := by
  simp [sysRead, tileIdWord, bitAt, w64, wrapN]
theorem sysRead_phase (s : State) : sysRead (issueTile s) s.cl s.cur.coach s.cur.tile 3 = phaseWord s := by
  simp [sysRead, phaseWord, bitAt, w64, wrapN]

/-! ## The instructions of R160 to R163 -/

section
variable {s : State} {g : Guard} (hg : s.guard g = true)
include hg

theorem exec_ftload {sa : BitVec 6} {mask : BitVec 16} (ha : (s.sv sa).toNat % 256 = 0) (hlt : (s.sv sa).toNat < 2 ^ 21)
    (hok : ftFirstBad (s.ct.line (s.sv sa).toNat) mask = none) : exec (.ftload g sa mask) s = .next (queue s
      [(1, 5, .ft mask (Vector.ofFn fun i : Fin 16 => BitVec.ofNat 32 (lane (s.ct.line (s.sv sa).toNat) 32 i.val)))]) := by
  change execFtload g sa mask s = _
  rw [execFtload, slotOp_true _ hg, checkAddr_line ha hlt]
  dsimp only
  rw [hok]
  rfl
theorem exec_fclr (fs : BitVec 4) : exec (.fclr g fs) s = .next (queue s [(1, 5, .fclr fs)]) :=
  show execFclr g fs s = _ from slotOp_true _ hg
theorem exec_wrsys (sa : BitVec 6) (idx : BitVec 10) : exec (.wrsys g sa idx) s =
    .next (if 8 ≤ idx.toNat ∧ idx.toNat ≤ 12 then queue s [(1, 5, .sys idx.toNat (s.sv sa))] else s) :=
  show execWrsys g sa idx s = _ from slotOp_true _ hg
theorem exec_trap (k : BitVec 16) : exec (.trap g k) s =
    .next (s.note s.cur.coach s.cur.tile 5 s.cur.src.addr ⟨11, 1, 2, k.zeroExtend 64, 0#64⟩) :=
  show execTrap g k s = _ from slotOp_true _ hg
theorem exec_rdsys (sd : BitVec 6) (idx : BitVec 10) : exec (.rdsys g sd idx) s =
    .next (queue s (toS 5 1 sd (sysRead (issueTile s) s.cl s.cur.coach s.cur.tile idx.toNat))) := by
  change execRdsys g sd idx s = _
  rw [execRdsys, slotOp_true _ hg]
  dsimp only
  rw [postS_eq_queue]
  rfl
end

/-! ## Clears (06 R161, 04 R107) -/

theorem get_clear (s : FlagState) (fs : BitVec 4) {k : Nat} (hk : 1 ≤ k ∧ k ≤ 4) :
    (s.clear fs).get k = if fs.getLsbD (4 - k) then 0#6 else s.get k := by
  obtain ⟨h1, h4⟩ := hk
  interval_cases k <;> rfl
theorem clear_fer {s : FlagState} {r : FirstEvent} (h : s.fer = some r) (fs : BitVec 4) :
    (s.clear fs).fer = if fs.getLsbD (4 - r.slot.toNat) then none else some r := by
  simp only [FlagState.clear, h]
theorem get_w1c (s : FlagState) (x : Word) {i k : Nat} (hi : 1 ≤ i ∧ i ≤ 4) (hk : 1 ≤ k ∧ k ≤ 4) :
    (s.w1c i x).get k = if k = i then s.get k &&& ~~~(x.truncate 6) else s.get k := by
  obtain ⟨hi1, hi4⟩ := hi
  obtain ⟨hk1, hk4⟩ := hk
  interval_cases i <;> interval_cases k <;> rfl
theorem w1c_fer {s : FlagState} {r : FirstEvent} (h : s.fer = some r) (x : Word) (i : Nat) (hb : r.bit.toNat < 6) :
    (s.w1c i x).fer = if r.slot.toNat = i ∧ x.getLsbD r.bit.toNat = true then none else some r := by
  have hbit : (x.truncate 6 : Fl).getLsbD r.bit.toNat = x.getLsbD r.bit.toNat := by
    rw [BitVec.truncate, BitVec.getLsbD_setWidth, decide_eq_true hb, Bool.true_and]
  unfold FlagState.w1c
  rw [h]
  dsimp only
  rw [hbit]
  split <;> rfl

/-! ## The first event (03 R89) -/

theorem lowBit_lowest : ∀ f : BitVec 6, f ≠ 0#6 → lowestFlag f (lowBit f 6) := by
  unfold lowestFlag
  decide
theorem lowestFlag_unique {b : BitVec 6} {j k : Nat} (hj : lowestFlag b j) (hk : lowestFlag b k) : j = k := by
  obtain ⟨-, hjb, hjl⟩ := hj
  obtain ⟨-, hkb, hkl⟩ := hk
  rcases Nat.lt_trichotomy j k with h | h | h
  · exact Bool.noConfusion (hjb.symm.trans (hkl j h))
  · exact h
  · exact Bool.noConfusion (hkb.symm.trans (hjl k h))
theorem ne_zero_of_lowestFlag {b : BitVec 6} {k : Nat} (h : lowestFlag b k) : b ≠ 0#6 := by
  rintro rfl
  obtain ⟨-, hbit, -⟩ := h
  simp at hbit
theorem lowBit_eq {b : BitVec 6} {k : Nat} (h : lowestFlag b k) : lowBit b 6 = k :=
  lowestFlag_unique (lowBit_lowest b (ne_zero_of_lowestFlag h)) h

/-- The record of an event. -/
def eventOf (set : Nat) (b : BitVec 6) (addr : Nat) : FirstEvent := ⟨BitVec.ofNat 17 addr, BitVec.ofNat 3 set, BitVec.ofNat 3 (lowBit b 6)⟩
theorem eventOf_names {src : Src} {set : Nat} {b : BitVec 6} (hset : set ≤ 4) (hb : b ≠ 0#6) : Names (eventOf set b src.addr) src set b := by
  have hlow := lowBit_lowest b hb
  refine ⟨rfl, Nat.mod_eq_of_lt (by omega), ?_⟩
  have hbit : (eventOf set b src.addr).bit.toNat = lowBit b 6 := Nat.mod_eq_of_lt (by have := hlow.1; omega)
  rw [hbit]
  exact hlow
/-- A flag event takes the record where it is clear, and leaves it else. -/
theorem raise_fer (s : FlagState) (set : Nat) {b : BitVec 6} (hb : b ≠ 0#6) (addr : Nat) :
    (s.raise set b addr).fer = some (s.fer.getD (eventOf set b addr)) := by
  unfold FlagState.raise
  extract_lets noted
  have hfer : noted.fer = some (s.fer.getD (eventOf set b addr)) := by
    unfold noted
    rw [if_neg hb]
    cases h : s.fer with
    | none => rfl
    | some r => exact h
  split <;> exact hfer

/-- A pending flag event. -/
def flagPend (at_ set : Nat) (src : Src) (b : BitVec 6) : Pend := ⟨at_, src, .flags set b⟩

theorem landed_flag {t : Tile} {f n at1 set : Nat} {src : Src} {b : BitVec 6} (h : idleUnits t) (hat : at1 ≤ f)
    (hp : t.pend = [flagPend at1 set src b]) : (landed t f n).flags = t.flags.raise set b src.addr :=
  (landed_of_sole n h hp hat).flags
theorem flagRank_lt {at1 at2 set1 set2 k1 k2 : Nat} {src1 src2 : Src} {b1 b2 : BitVec 6} (h1 : src1.slot = set1) (h2 : src2.slot = set2)
    (hk1 : lowestFlag b1 k1) (hk2 : lowestFlag b2 k2) (hlt : set1 < set2 ∨ (set1 = set2 ∧ k1 < k2)) :
    (flagPend at1 set1 src1 b1).flagRank < (flagPend at2 set2 src2 b2).flagRank := by
  change 8 * src1.slot + lowBit b1 6 < 8 * src2.slot + lowBit b2 6
  rw [lowBit_eq hk1, lowBit_eq hk2, h1, h2]
  have := hk1.1
  omega
/-- Two flag events in either order are seen in the order of their ranks. -/
theorem sort_two {p q : Pend} (h : p.flagRank < q.flagRank) {ps : List Pend} (hps : ps = [p, q] ∨ ps = [q, p]) :
    sortBy Pend.flagOrder ps = [p, q] := by
  have hpq : p.flagOrder q = true := decide_eq_true h.le
  have hqp : q.flagOrder p = false := decide_eq_false (Nat.not_le.mpr h)
  rcases hps with rfl | rfl <;> simp [sortBy, insertBy, hpq, hqp]
theorem landed_two_flags {t : Tile} {f n at1 at2 set1 set2 : Nat} {src1 src2 : Src} {b1 b2 : BitVec 6} (h : idleUnits t)
    (hat1 : at1 ≤ f) (hat2 : at2 ≤ f) (hlt : (flagPend at1 set1 src1 b1).flagRank < (flagPend at2 set2 src2 b2).flagRank)
    (hp : t.pend = [flagPend at1 set1 src1 b1, flagPend at2 set2 src2 b2] ∨ t.pend = [flagPend at2 set2 src2 b2, flagPend at1 set1 src1 b1]) :
    (landed t f n).flags = (t.flags.raise set1 b1 src1.addr).raise set2 b2 src2.addr := by
  have hdue : unhit (comeDue t f) = t.pend := by
    rcases hp with hp | hp <;> simp [comeDue, unhit, hitUnits, hp, flagPend, hat1, hat2, Write.unit]
  have hwrite : t.pend.foldl Tile.write (taken t f) = taken t f := by
    have hi := idleUnits_taken f h
    rcases hp with hp | hp <;> simp [hp, write_of_idle _ hi, Tile.apply, flagPend]
  have hl := (landing_of_idle f n h).1.flags
  rw [hdue, hwrite, sort_two hlt hp] at hl
  exact hl

/-- Settles O38: reads by index, clears by flag set, and the event that comes first in the order of slots and flags. -/
theorem systemRegistersAndFlags : Obligations.SystemRegistersAndFlags := by
  refine ⟨fun s g hg => ⟨fun sa mask ha hlt hok => ?_, exec_fclr hg, exec_wrsys hg, exec_trap hg, fun sd idx => ?_⟩,
    fun t src at_ => ⟨fun fs k h1 h4 => ?_, fun x i k hk1 hk4 hi1 hi4 => ?_, fun x => ?_⟩,
    fun t f n at1 set1 src1 b1 hidle hat1 hset1 hset4 hslot1 hb1 => ⟨fun hp => ?_, ?_⟩⟩
  · have hlane (m : Nat) (hm : m < 16) := lane_line s.ct ha hlt (hm.trans (by decide : 16 < 64))
    refine ⟨_, fun m hm => ?_, exec_ftload hg ha hlt (ftFirstBad_none fun m hm hbit => ?_)⟩
    · rw [getD_ofFn_lane _ hm, hlane m hm]
    · rw [hlane m hm]
      exact hok m hm hbit
  · refine ⟨_, exec_rdsys hg sd idx, ?_⟩
    refine ⟨fun h => ?_, fun h => ?_, fun h => ?_, fun h => ?_, fun n k hn hk h => ?_, fun n hn h => ?_, fun h => ?_, fun b hb h => ?_, fun h => ?_,
      fun h => ?_, fun i o hi ho h => ?_, fun k h1 h4 h => ?_, fun h => ?_, fun k hk h => ?_, fun k hk h => ?_, fun e he h => ?_,
      fun e he h => ?_, fun h => sysRead_absent _ _ _ _ h⟩
    · subst h; rfl
    · subst h; rfl
    · subst h; exact sysRead_tileId s
    · subst h; exact sysRead_phase s
    · rw [h]; exact sysRead_counter _ _ _ _ hn hk
    · rw [h]; exact sysRead_steer _ _ _ _ hn
    · subst h; rfl
    · rw [h]; exact sysRead_bank _ _ _ _ hb
    · subst h; exact sysRead_btst _ _ _ _
    · subst h; exact sysRead_rfclass _ _ _ _
    · rw [h]; exact sysRead_snapshot _ _ _ _ hi ho
    · rw [h]; exact sysRead_flags _ _ _ _ ⟨h1, h4⟩
    · subst h; rfl
    · rw [h]; exact sysRead_format _ _ _ _ hk
    · rw [h]; exact sysRead_acquired _ _ _ _ hk
    · rw [h]; exact sysRead_vttA _ _ _ _ he
    · rw [h]; exact sysRead_vttB _ _ _ _ he
  · rw [flagBits_eq_get _ ⟨h1, h4⟩, flagBits_eq_get _ ⟨h1, h4⟩]
    refine ⟨get_clear t.flags fs ⟨h1, h4⟩, rfl, fun r hr hk => ?_⟩
    exact hk ▸ clear_fer hr fs
  · have hflags : (t.apply ⟨at_, src, .sys (7 + i) x⟩).flags = t.flags.w1c i x := by
      change (if 7 + i = 12 then _ else t.flags.w1c (7 + i - 7) x) = _
      rw [if_neg (by omega), Nat.add_sub_cancel_left]
    rw [flagBits_eq_get _ ⟨hk1, hk4⟩, flagBits_eq_get _ ⟨hk1, hk4⟩, hflags]
    exact ⟨get_w1c t.flags x ⟨hi1, hi4⟩ ⟨hk1, hk4⟩, rfl, fun r hr hk hb => hk ▸ w1c_fer hr x i hb⟩
  · change t.flags.ferW1c x = _
    unfold FlagState.ferW1c
    split <;> rfl
  · rw [landed_flag hidle hat1 hp, raise_fer _ _ hb1]
    refine ⟨fun r hr => ?_, fun hr => ⟨eventOf set1 b1 src1.addr, ?_, eventOf_names hset4 hb1⟩⟩
    · rw [hr]; rfl
    · rw [hr]; rfl
  · intro at2 set2 k1 k2 src2 b2 hat2 _ _ hslot2 hk1 hk2 hlt hnone hp
    have hb2 : b2 ≠ 0#6 := ne_zero_of_lowestFlag hk2
    refine ⟨eventOf set1 b1 src1.addr, ?_, eventOf_names hset4 hb1⟩
    rw [landed_two_flags hidle hat1 hat2 (flagRank_lt hslot1 hslot2 hk1 hk2 hlt) hp, raise_fer _ _ hb2, raise_fer _ _ hb1, hnone]
    rfl
end Sys2Proof.Proofs

/-! Vector operations as writes (07 R166, R167): one of each destination that the operation names, and flags in its own set alone. -/
namespace Sys2Proof.Proofs
open Sys2Proof Sys2Proof.Machine Sys2Proof.Claims

/-! ## One write of each destination -/

/-- The writes are one of each destination, all at one latency under one slot code, and at most one event of flags in that slot's set. -/
def OneWriteEach (sc lat : Nat) (ds : List (Nat × Nat)) (fl : Bool) (ws : List (Nat × Nat × Write)) : Prop :=
  ((ws.filter fun x => !isFlags x.2.2).map fun x => (x.1, x.2.1, destOf x.2.2)) = ds.map (fun r => (lat, sc, r)) ∧
  (ws.filter (fun x => isFlags x.2.2) = [] ∨ (fl = true ∧ ∃ x, ws.filter (fun x => isFlags x.2.2) = [(lat, sc, .flags sc x)]))

section
variable {sc lat : Nat} {ds : List (Nat × Nat)} {fl : Bool} {ws : List (Nat × Nat × Write)}

theorem oneWriteEach_nil : OneWriteEach sc lat [] fl [] := ⟨rfl, .inl rfl⟩
theorem oneWriteEach_cons {w : Write} (hw : isFlags w = false) (h : OneWriteEach sc lat ds fl ws) :
    OneWriteEach sc lat (destOf w :: ds) fl ((lat, sc, w) :: ws) := by
  obtain ⟨hdest, hflags⟩ := h
  refine ⟨?_, ?_⟩
  · simp [hw, hdest]
  · simpa [hw] using hflags
theorem oneWriteEach_toF (f : Fl) (h : OneWriteEach sc lat ds false ws) : OneWriteEach sc lat ds true (toF sc lat f ++ ws) := by
  obtain ⟨hdest, hflags⟩ := h
  have hnone : ws.filter (fun x => isFlags x.2.2) = [] := hflags.resolve_right fun h => nomatch h.1
  unfold toF
  split
  · exact ⟨hdest, .inl hnone⟩
  · have hf : isFlags (.flags sc f) = true := rfl
    refine ⟨by simpa [hf] using hdest, .inr ⟨rfl, f, ?_⟩⟩
    rw [List.singleton_append, List.filter_cons_of_pos (p := fun x : Nat × Nat × Write => isFlags x.2.2) hf, hnone]
theorem oneWriteEach_toQ (d : BitVec 4) (m x : Mask) (h : OneWriteEach sc lat [] fl ws) :
    OneWriteEach sc lat (if d = 0#4 then [] else [(5, d.toNat)]) fl (toQ sc lat d m x ++ ws) := by
  unfold toQ
  split
  · exact h
  · exact oneWriteEach_cons (w := .q d.toNat m x) rfl h
theorem oneWriteEach_toS (d : BitVec 6) (x : Word) : OneWriteEach sc lat (if d = 0#6 then [] else [(0, d.toNat)]) fl (toS sc lat d x) := by
  unfold toS
  split
  · exact oneWriteEach_nil
  · exact oneWriteEach_cons (w := .s d.toNat x) rfl oneWriteEach_nil
end

/-! ## Operations without flags, lane by lane -/

section
variable (g : Guard) (u : VSlot) (d a b : BitVec 6) (q : BitVec 4) (ty : Ty) (s : State)
theorem exec_vabs : exec (.vabs g u d a q ty) s =
    opPlain g u d q ty.width 2 (fun s i => lane (s.vv a) ty.width i % 2 ^ (ty.width - 1)) s := rfl
theorem exec_vneg : exec (.vneg g u d a q ty) s =
    opPlain g u d q ty.width 2 (fun s i => (lane (s.vv a) ty.width i + 2 ^ (ty.width - 1)) % 2 ^ ty.width) s := rfl
theorem exec_vclass : exec (.vclass g u d a q ty) s = opPlain g u d q ty.width 2 (fun s i => classV ty (lane (s.vv a) ty.width i)) s := rfl
theorem exec_viadd : exec (.viadd g u d a b q ty) s =
    opPlain g u d q ty.width 2 (fun s i => (lane (s.vv a) ty.width i + lane (s.vv b) ty.width i) % 2 ^ ty.width) s := rfl
theorem exec_visub : exec (.visub g u d a b q ty) s =
    opPlain g u d q ty.width 2 (fun s i => (lane (s.vv a) ty.width i + 2 ^ ty.width - lane (s.vv b) ty.width i) % 2 ^ ty.width) s := rfl
theorem exec_vimul : exec (.vimul g u d a b q ty) s =
    opPlain g u d q ty.width 5 (fun s i => lane (s.vv a) ty.width i * lane (s.vv b) ty.width i % 2 ^ ty.width) s := rfl
theorem exec_vimulh : exec (.vimulh g u d a b q ty) s = opPlain g u d q ty.width 5 (fun s i => wrap (2 * ty.width)
    (laneInt ty (lane (s.vv a) ty.width i) * laneInt ty (lane (s.vv b) ty.width i)) / 2 ^ ty.width) s := rfl
theorem exec_viaddw (hi : Bool) : exec (.viaddw g u d a b q ty hi) s = opPlain g u d q (2 * ty.width) 2 (fun s i => wrap (2 * ty.width)
    ((lane (s.vv a) (2 * ty.width) i : Int) + laneInt ty (lane (s.vv b) ty.width (if hi then i + 2048 / (2 * ty.width) else i)))) s := rfl
theorem exec_vishl : exec (.vishl g u d a b q ty) s = opPlain g u d q ty.width 2 (fun s i => if lane (s.vv b) ty.width i < ty.width then
    lane (s.vv a) ty.width i * 2 ^ lane (s.vv b) ty.width i % 2 ^ ty.width else 0) s := rfl
theorem exec_vishr : exec (.vishr g u d a b q ty) s = opPlain g u d q ty.width 2 (fun s i => if lane (s.vv b) ty.width i < ty.width then
    lane (s.vv a) ty.width i / 2 ^ lane (s.vv b) ty.width i else 0) s := rfl
theorem exec_visra : exec (.visra g u d a b q ty) s = opPlain g u d q ty.width 2 (fun s i => wrap ty.width
    (toSigned ty.width (lane (s.vv a) ty.width i) / 2 ^ min (lane (s.vv b) ty.width i) (ty.width - 1))) s := rfl
theorem exec_vimin : exec (.vimin g u d a b q ty) s = opPlain g u d q ty.width 2 (fun s i =>
    if laneInt ty (lane (s.vv a) ty.width i) ≤ laneInt ty (lane (s.vv b) ty.width i) then lane (s.vv a) ty.width i
    else lane (s.vv b) ty.width i) s := rfl
theorem exec_vimax : exec (.vimax g u d a b q ty) s = opPlain g u d q ty.width 2 (fun s i =>
    if laneInt ty (lane (s.vv a) ty.width i) ≤ laneInt ty (lane (s.vv b) ty.width i) then lane (s.vv b) ty.width i
    else lane (s.vv a) ty.width i) s := rfl
theorem exec_viabs (sat : Bool) : exec (.viabs g u d a q ty sat) s = opPlain g u d q ty.width 2 (fun s i =>
    if sat ∧ (toSigned ty.width (lane (s.vv a) ty.width i)).natAbs = 2 ^ (ty.width - 1)
    then (toSigned ty.width (lane (s.vv a) ty.width i)).natAbs - 1 else (toSigned ty.width (lane (s.vv a) ty.width i)).natAbs) s := rfl
theorem exec_viaddsat (sub : Bool) : exec (.viaddsat g u d a b q ty sub) s = opPlain g u d q ty.width 2 (fun s i => clampTy ty
    (if sub then laneInt ty (lane (s.vv a) ty.width i) - laneInt ty (lane (s.vv b) ty.width i)
    else laneInt ty (lane (s.vv a) ty.width i) + laneInt ty (lane (s.vv b) ty.width i))) s := rfl
theorem exec_vpopc : exec (.vpopc g u d a q ty) s = opPlain g u d q ty.width 2 (fun s i => popBits (lane (s.vv a) ty.width i) ty.width) s := rfl
theorem exec_vclz : exec (.vclz g u d a q ty) s = opPlain g u d q ty.width 2 (fun s i => clzBits (lane (s.vv a) ty.width i) ty.width) s := rfl
theorem exec_vmovi_byte (imm : BitVec 10) : exec (.vmovi g u d q imm true) s = opPlain g u d q 8 2 (fun _ _ => imm.toNat % 256) s := rfl
theorem exec_vmovi_word (imm : BitVec 10) : exec (.vmovi g u d q imm false) s = opPlain g u d q 32 2 (fun _ _ => wrap 32 imm.toInt) s := rfl
theorem exec_vbcast (c : BitVec 2) : exec (.vbcast g u d a q c) s =
    opPlain g u d q (8 * 2 ^ c.toNat) 2 (fun s _ => (s.sv a).toNat % 2 ^ (8 * 2 ^ c.toNat)) s := rfl
theorem exec_vlsh (rot : Bool) : exec (.vlsh g d a b q ty rot) s = opPlain g .va d q ty.width 2 (fun s i =>
    if rot then lane (s.vv a) ty.width (((i : Int) + (s.sv b).toInt) % (2048 / ty.width : Nat)).toNat
    else if 0 ≤ (i : Int) + (s.sv b).toInt ∧ (i : Int) + (s.sv b).toInt < (2048 / ty.width : Nat)
    then lane (s.vv a) ty.width ((i : Int) + (s.sv b).toInt).toNat else 0) s := rfl
theorem exec_vperm (z : Bool) : exec (.vperm g d a b q ty z) s = opPlain g .va d q ty.width 4 (fun s i =>
    if z ∧ 2048 / ty.width ≤ lane (s.vv b) ty.width i then 0
    else lane (s.vv a) ty.width (lane (s.vv b) ty.width i % (2048 / ty.width))) s := rfl
theorem exec_vrev : exec (.vrev g d a q ty) s =
    opPlain g .va d q ty.width 2 (fun s i => lane (s.vv a) ty.width (2048 / ty.width - 1 - i)) s := rfl
theorem exec_vzip (hi : Bool) : exec (.vzip g d a b q ty hi) s = opPlain g .va d q ty.width 2 (fun s i =>
    lane (if i % 2 = 0 then s.vv a else s.vv b) ty.width ((if hi then 2048 / ty.width / 2 else 0) + i / 2)) s := rfl
theorem exec_vunzip (odd : Bool) : exec (.vunzip g d a b q ty odd) s = opPlain g .va d q ty.width 2 (fun s i =>
    if 2 * i + (if odd then 1 else 0) < 2048 / ty.width then lane (s.vv a) ty.width (2 * i + if odd then 1 else 0)
    else lane (s.vv b) ty.width (2 * i + (if odd then 1 else 0) - 2048 / ty.width)) s := rfl
theorem exec_vand : exec (.vand g u d a b q) s = opLogic g u d a b q (fun a b => a &&& b) s := rfl
theorem exec_vor : exec (.vor g u d a b q) s = opLogic g u d a b q (fun a b => a ||| b) s := rfl
theorem exec_vxor : exec (.vxor g u d a b q) s = opLogic g u d a b q (fun a b => a ^^^ b) s := rfl
theorem exec_vnot : exec (.vnot g u d a q) s = opLogic g u d a a q (fun a _ => ~~~a) s := rfl
theorem exec_vmov : exec (.vmov g u d a q) s = opLogic g u d a a q (fun a _ => a) s := rfl
end
section
variable (g : Guard) (u : VSlot) (d a b : BitVec 4) (s : State)
theorem exec_vqand : exec (.vqand g u d a b) s = opVq g u d a b (fun a b => a &&& b) s := rfl
theorem exec_vqor : exec (.vqor g u d a b) s = opVq g u d a b (fun a b => a ||| b) s := rfl
theorem exec_vqxor : exec (.vqxor g u d a b) s = opVq g u d a b (fun a b => a ^^^ b) s := rfl
theorem exec_vqnot : exec (.vqnot g u d a) s = opVq g u d a a (fun a _ => ~~~a) s := rfl
end

/-! ## What the forms of vector operations queue -/

section
variable {g : Guard} {s : State} (h : s.guard g = true)
include h

theorem opPlain_eq_queue (u : VSlot) (d : BitVec 6) (q : BitVec 4) (w lat : Nat) (r : State → Nat → Nat) :
    opPlain g u d q w lat r s = .next (queue s [(lat, vsc u, .v d.toNat (s.qv q) (ofLanes w (2048 / w) (r s)))]) := by
  rw [opPlain, slotOp_true _ h, postV_eq_queue, scV_eq_vsc]; rfl
theorem opLogic_eq_queue (u : VSlot) (d a b : BitVec 6) (q : BitVec 4) (f : Vec → Vec → Vec) :
    opLogic g u d a b q f s = .next (queue s [(2, vsc u, .v d.toNat (s.qv q) (f (s.vv a) (s.vv b)))]) := by
  rw [opLogic, slotOp_true _ h, postV_eq_queue, scV_eq_vsc]
theorem opVq_eq_queue (u : VSlot) (d a b : BitVec 4) (f : Mask → Mask → Mask) :
    opVq g u d a b f s = .next (queue s (toQ (vsc u) 2 d (BitVec.allOnes 256) (f (s.qv a) (s.qv b)))) := by
  rw [opVq, slotOp_true _ h, postQ_eq_queue, scV_eq_vsc]; rfl
/-- A comparison, lane by lane. -/
theorem postCmpQ_eq_queue (u : VSlot) (lat : Nat) (d q : BitVec 4) (w : Nat) (r : State → Nat → Bool × Fl) :
    slotOp g s (fun s => s.postCmpQ u lat d q w (r s)) = .next (queue s (toQ (vsc u) lat d (s.qv q) (maskOf w (2048 / w) fun i => (r s i).1) ++
      toF (vsc u) lat (laneFlags (s.qv q) w (fun i => (r s i).2) (2048 / w)))) := by
  rw [slotOp_true _ h, State.postCmpQ, postQ_eq_queue, postF_eq_queue, laneFl_eq_laneFlags, scV_eq_vsc, ← queue_append]; rfl
theorem exec_vicmp (u : VSlot) (d : BitVec 4) (c : Cond) (a b : BitVec 6) (q : BitVec 4) (ty : Ty) :
    exec (.vicmp g u d c a b q ty) s = .next (queue s (toQ (vsc u) 2 d (s.qv q) (maskOf ty.width (2048 / ty.width) fun i =>
      condHolds c (laneInt ty (lane (s.vv a) ty.width i)) (laneInt ty (lane (s.vv b) ty.width i))))) := by
  change execVicmp g u d c a b q ty s = _
  rw [execVicmp, postCmpQ_eq_queue h]
  dsimp only
  rw [laneFlags, allFlags_eq_zero fun _ _ => ite_self _, toF, if_pos rfl, List.append_nil]
theorem exec_vcmp (u : VSlot) (d : BitVec 4) (c : FCond) (a b : BitVec 6) (q : BitVec 4) (ty : Ty) {r : Nat → Bool × Fl}
    (hr : r = fun i => fcmpV c (valueOf ty (lane (s.vv a) ty.width i)) (valueOf ty (lane (s.vv b) ty.width i))) :
    exec (.vcmp g u d c a b q ty) s = .next (queue s (toQ (vsc u) 3 d (s.qv q) (maskOf ty.width (2048 / ty.width) fun i => (r i).1) ++
      toF (vsc u) 3 (laneFlags (s.qv q) ty.width (fun i => (r i).2) (2048 / ty.width)))) := by
  subst hr
  change execVcmp g u d c a b q ty s = _
  rw [execVcmp, postCmpQ_eq_queue h]
theorem exec_vsel (u : VSlot) (d a b : BitVec 6) (q qs : BitVec 4) : exec (.vsel g u d a b q qs) s =
    .next (queue s [(2, vsc u, .v d.toNat (s.qv q) (blend (s.qv qs) (s.vv b) (s.vv a)))]) := by
  change execVsel g u d a b q qs s = _
  rw [execVsel, slotOp_true _ h, postV_eq_queue, scV_eq_vsc]
theorem exec_vext (u : VSlot) (d a : BitVec 6) (c : BitVec 2) (k : BitVec 8) (signed : Bool) : exec (.vext g u d a c k signed) s =
    .next (queue s (toS (vsc u) 2 d (if signed then ofI (toSigned (widthOf c) (lane (s.vv a) (widthOf c) k.toNat))
      else BitVec.ofNat 64 (lane (s.vv a) (widthOf c) k.toNat)))) := by
  change execVext g u d a c k signed s = _
  rw [execVext, slotOp_true _ h, ← postS_eq_queue, ← scV_eq_vsc]
theorem exec_vins (u : VSlot) (d b : BitVec 6) (q : BitVec 4) (c : BitVec 2) (k : BitVec 8) {w : Nat} (hw : w = widthOf c) :
    exec (.vins g u d b q c k) s = .next (queue s [(2, vsc u, .v d.toNat (s.qv q &&& maskOf w (2048 / w) fun i => i == k.toNat)
      (ofLanes w (2048 / w) fun i => if i = k.toNat then (s.sv b).toNat else 0))]) := by
  subst hw
  change execVins g u d b q c k s = _
  rw [execVins, slotOp_true _ h, ← scV_eq_vsc]; rfl
theorem exec_vqcnt (u : VSlot) (d : BitVec 6) (a : BitVec 4) : exec (.vqcnt g u d a) s =
    .next (queue s (toS (vsc u) 2 d (BitVec.ofNat 64 (popBits (s.qv a).toNat 256)))) := by
  change execVqcnt g u d a s = _
  rw [execVqcnt, slotOp_true _ h, postS_eq_queue, scV_eq_vsc]
theorem exec_vscan (d a : BitVec 6) (q : BitVec 4) (ty : Ty) (op : COp) (excl : Bool) {r : List Nat × Fl}
    (hr : r = scanGo op ty 1 (combInputs op ty (s.vv a) (s.qv q)) 0#6 (Nat.log2 (2048 / ty.width))) :
    exec (.vscan g d a q ty op excl) s = .next (queue s ((8, 2, .v d.toNat (s.qv q) (ofLanes ty.width (2048 / ty.width) fun i =>
      if excl then (if i = 0 then combId op ty else nth r.1 (i - 1)) else nth r.1 i)) :: toF 2 8 r.2)) := by
  subst hr
  change execVscan g d a q ty op excl s = _
  rw [execVscan, slotOp_true _ h]
  dsimp only
  rw [postV_eq_queue, postF_eq_queue, ← queue_append]; rfl
theorem exec_vred (d a : BitVec 6) (q : BitVec 4) (ty : Ty) (op : COp) {r : List Nat × Fl}
    (hr : r = redGo op ty (2048 / ty.width / 2) (combInputs op ty (s.vv a) (s.qv q)) 0#6 (Nat.log2 (2048 / ty.width))) :
    exec (.vred g d a q ty op) s = .next (queue s ((8, 2, .v d.toNat (BitVec.allOnes 256) (ofLanes ty.width 1 fun _ => nth r.1 0)) ::
      toF 2 8 r.2)) := by
  subst hr
  change execVred g d a q ty op s = _
  rw [execVred, slotOp_true _ h]
  dsimp only
  rw [postV_eq_queue, postF_eq_queue, ← queue_append]; rfl
end

/-! ## Completion (07 R166) -/

/-- An operation goes on to a state that differs by its writes alone. -/
def Completes (s : State) (sc lat : Nat) (ds : List (Nat × Nat)) (fl : Bool) (o : Host.Outcome State Fault Refusal) : Prop :=
  ∃ ws, o = .next (queue s ws) ∧ OneWriteEach sc lat ds fl ws

theorem completes_vector {s : State} {sc lat : Nat} {d : BitVec 6} {m : Mask} {x : Vec} {o : Host.Outcome State Fault Refusal}
    (ho : o = .next (queue s [(lat, sc, .v d.toNat m x)])) : Completes s sc lat [(4, d.toNat)] false o :=
  ⟨_, ho, oneWriteEach_cons (w := .v d.toNat m x) rfl oneWriteEach_nil⟩
theorem completes_vector_flags {s : State} {sc lat : Nat} {d : BitVec 6} {m : Mask} {x : Vec} {f : Fl} {o : Host.Outcome State Fault Refusal}
    (ho : o = .next (queue s ((lat, sc, .v d.toNat m x) :: toF sc lat f))) : Completes s sc lat [(4, d.toNat)] true o := by
  have hf := oneWriteEach_toF (sc := sc) (lat := lat) f oneWriteEach_nil
  rw [List.append_nil] at hf
  exact ⟨_, ho, oneWriteEach_cons (w := .v d.toNat m x) rfl hf⟩
theorem completes_mask {s : State} {sc lat : Nat} {d : BitVec 4} {m x : Mask} {o : Host.Outcome State Fault Refusal}
    (ho : o = .next (queue s (toQ sc lat d m x))) : Completes s sc lat (if d = 0#4 then [] else [(5, d.toNat)]) false o := by
  have hq := oneWriteEach_toQ (sc := sc) (lat := lat) d m x (oneWriteEach_nil (fl := false))
  rw [List.append_nil] at hq
  exact ⟨_, ho, hq⟩
theorem completes_mask_flags {s : State} {sc lat : Nat} {d : BitVec 4} {m x : Mask} {f : Fl} {o : Host.Outcome State Fault Refusal}
    (ho : o = .next (queue s (toQ sc lat d m x ++ toF sc lat f))) : Completes s sc lat (if d = 0#4 then [] else [(5, d.toNat)]) true o := by
  have hf := oneWriteEach_toF (sc := sc) (lat := lat) f oneWriteEach_nil
  rw [List.append_nil] at hf
  exact ⟨_, ho, oneWriteEach_toQ d m x hf⟩
theorem completes_two_vectors_flags {s : State} {sc lat : Nat} {d e : BitVec 6} {m k : Mask} {x y : Vec} {f : Fl} {o : Host.Outcome State Fault Refusal}
    (ho : o = .next (queue s ((lat, sc, .v d.toNat m x) :: (toF sc lat f ++ [(lat, sc, .v e.toNat k y)])))) :
    Completes s sc lat [(4, d.toNat), (4, e.toNat)] true o :=
  ⟨_, ho, oneWriteEach_cons (w := .v d.toNat m x) rfl
    (oneWriteEach_toF f (oneWriteEach_cons (w := .v e.toNat k y) rfl oneWriteEach_nil))⟩
theorem completes_lanes {g : Guard} {s : State} (h : s.guard g = true) {u : VSlot} {d : BitVec 6} {q : BitVec 4} {w lat : Nat} {r : State → Nat → Nat × Fl} :
    Completes s (vsc u) lat [(4, d.toNat)] true (opLanes g u d q w lat r s) := completes_vector_flags (opLanes_eq_queue h u d q w lat r)
theorem completes_plain {g : Guard} {s : State} (h : s.guard g = true) {u : VSlot} {d : BitVec 6} {q : BitVec 4} {w lat : Nat} {r : State → Nat → Nat} :
    Completes s (vsc u) lat [(4, d.toNat)] false (opPlain g u d q w lat r s) := completes_vector (opPlain_eq_queue h u d q w lat r)

theorem vectorShape_completes {i : Instr} {s : State} {g : Guard} {sc lat : Nat} {ds : List (Nat × Nat)} {fl : Bool}
    (hi : vectorShape i = some (g, sc, lat, ds, fl)) (h : s.guard g = true) : Completes s sc lat ds fl (exec i s) := by
  unfold vectorShape at hi
  split at hi <;> cases hi
  case h_1 => rw [exec_vadd]; exact completes_lanes h
  case h_2 => rw [exec_vsub]; exact completes_lanes h
  case h_3 => rw [exec_vmin]; exact completes_lanes h
  case h_4 => rw [exec_vmax]; exact completes_lanes h
  case h_5 => rw [exec_vscale]; exact completes_lanes h
  case h_6 => rw [exec_vmul]; exact completes_lanes h
  case h_7 => rw [exec_vfma]; exact completes_lanes h
  case h_8 => rw [exec_vfms]; exact completes_lanes h
  case h_9 => rw [exec_vfnma]; exact completes_lanes h
  case h_10 => exact completes_two_vectors_flags (exec_vtwosum h _ _ _ _ _ _ rfl)
  case h_11 => exact completes_mask_flags (exec_vcmp h _ _ _ _ _ _ _ rfl)
  case h_12 => exact completes_vector_flags (exec_vcvt h _ _ _ _ _ _ _ rfl rfl)
  case h_13 => exact completes_vector_flags (exec_vscan h _ _ _ _ _ _ rfl)
  case h_14 => exact completes_vector_flags (exec_vred h _ _ _ _ _ rfl)
  case h_15 => rw [exec_vrcp]; exact completes_lanes (u := .vb) h
  case h_16 => rw [exec_vrsq]; exact completes_lanes (u := .vb) h
  case h_17 => rw [exec_vexp2]; exact completes_lanes (u := .vb) h
  case h_18 => rw [exec_vlog2]; exact completes_lanes (u := .vb) h
  case h_19 => rw [exec_vsqrt]; exact completes_lanes (u := .vb) h
  case h_20 => rw [exec_vdiv]; exact completes_lanes (u := .vb) h
  case h_21 => rw [exec_vabs]; exact completes_plain h
  case h_22 => rw [exec_vneg]; exact completes_plain h
  case h_23 => rw [exec_vclass]; exact completes_plain h
  case h_24 => rw [exec_vpopc]; exact completes_plain h
  case h_25 => rw [exec_vclz]; exact completes_plain h
  case h_26 => rw [exec_viadd]; exact completes_plain h
  case h_27 => rw [exec_visub]; exact completes_plain h
  case h_28 => rw [exec_viaddw]; exact completes_plain h
  case h_29 => rw [exec_vishl]; exact completes_plain h
  case h_30 => rw [exec_vishr]; exact completes_plain h
  case h_31 => rw [exec_visra]; exact completes_plain h
  case h_32 => rw [exec_vimin]; exact completes_plain h
  case h_33 => rw [exec_vimax]; exact completes_plain h
  case h_34 => rw [exec_viabs]; exact completes_plain h
  case h_35 => rw [exec_viaddsat]; exact completes_plain h
  case h_36 => rw [exec_vand]; exact completes_vector (opLogic_eq_queue h _ _ _ _ _ _)
  case h_37 => rw [exec_vor]; exact completes_vector (opLogic_eq_queue h _ _ _ _ _ _)
  case h_38 => rw [exec_vxor]; exact completes_vector (opLogic_eq_queue h _ _ _ _ _ _)
  case h_39 => rw [exec_vnot]; exact completes_vector (opLogic_eq_queue h _ _ _ _ _ _)
  case h_40 => rw [exec_vmov]; exact completes_vector (opLogic_eq_queue h _ _ _ _ _ _)
  case h_41 => exact completes_vector (exec_vsel h _ _ _ _ _ _)
  case h_42 _ t =>
    cases t with
    | true => rw [exec_vmovi_byte]; exact completes_plain h
    | false => rw [exec_vmovi_word]; exact completes_plain h
  case h_43 => rw [exec_vbcast]; exact completes_plain h
  case h_44 => exact completes_vector (exec_vins h _ _ _ _ _ _ rfl)
  case h_45 => rw [exec_vimul]; exact completes_plain h
  case h_46 => rw [exec_vimulh]; exact completes_plain h
  case h_47 => rw [exec_vlsh]; exact completes_plain (u := .va) h
  case h_48 => rw [exec_vrev]; exact completes_plain (u := .va) h
  case h_49 => rw [exec_vzip]; exact completes_plain (u := .va) h
  case h_50 => rw [exec_vunzip]; exact completes_plain (u := .va) h
  case h_51 => rw [exec_vperm]; exact completes_plain (u := .va) h
  case h_52 => exact completes_mask (exec_vicmp h _ _ _ _ _ _ _)
  case h_53 => rw [exec_vqand]; exact completes_mask (opVq_eq_queue h _ _ _ _ _)
  case h_54 => rw [exec_vqor]; exact completes_mask (opVq_eq_queue h _ _ _ _ _)
  case h_55 => rw [exec_vqxor]; exact completes_mask (opVq_eq_queue h _ _ _ _ _)
  case h_56 => rw [exec_vqnot]; exact completes_mask (opVq_eq_queue h _ _ _ _ _)
  case h_57 => exact ⟨_, exec_vext h _ _ _ _ _ _, oneWriteEach_toS _ _⟩
  case h_58 => exact ⟨_, exec_vqcnt h _ _ _, oneWriteEach_toS _ _⟩

/-- Settles O19: every vector operation is one of a few forms, and each form's writes are its destinations and one event of flags at most. -/
theorem vectorOperationsComplete : Obligations.VectorOperationsComplete := by
  intro i s g sc lat ds fl hi h
  exact vectorShape_completes hi h

end Sys2Proof.Proofs

/-! Lane numbers (07 R173, R181, R184, Tables 7-6 and 7-8): what the model computes on lanes is the number of the rule, modulo 2^w. -/
namespace Sys2Proof.Proofs
open Sys2Proof Sys2Proof.Machine Sys2Proof.Claims

/-! ## Lanes as integers modulo 2^w -/

theorem ofNat_mod_two_pow (w n : Nat) : BitVec.ofNat w (n % 2 ^ w) = BitVec.ofNat w n :=
  BitVec.eq_of_toNat_eq (by rw [BitVec.toNat_ofNat, BitVec.toNat_ofNat, Nat.mod_mod])
theorem ofNat_wrap (w : Nat) (x : Int) : BitVec.ofNat w (wrap w x) = BitVec.ofInt w x :=
  BitVec.eq_of_toNat_eq (by rw [BitVec.toNat_ofNat, Nat.mod_eq_of_lt (wrap_lt w x), BitVec.toNat_ofInt, wrap])
theorem ofNat_lane (x : Vec) (w i : Nat) : BitVec.ofNat w (lane x w i) = laneBits x w i := by
  rw [← laneN_eq_lane, laneN, BitVec.ofNat_toNat, BitVec.setWidth_eq]
theorem toSigned_lane (x : Vec) {w : Nat} (hw : 0 < w) (i : Nat) : toSigned w (lane x w i) = (laneBits x w i).toInt := by
  rw [← toInt_ofNat_of_lt hw (by rw [← laneN_eq_lane]; exact laneN_lt x w i), ofNat_lane]
theorem laneInt_lane (ty : Ty) (x : Vec) (i : Nat) : laneInt ty (lane x ty.width i) = laneI ty x i := by
  rw [laneInt, laneI, toSigned_lane x (ty_width_pos ty), laneN_eq_lane]
theorem ofInt_laneI (ty : Ty) (x : Vec) (i : Nat) : BitVec.ofInt ty.width (laneI ty x i) = laneBits x ty.width i := by
  unfold laneI
  split
  · exact BitVec.ofInt_toInt
  · rw [BitVec.ofInt_natCast, laneN_eq_lane, ofNat_lane]

theorem packN_mod_two_pow (w : Nat) (f : Nat → Nat) (n : Nat) : packN w (fun i => f i % 2 ^ w) n = packN w f n := by
  induction n with
  | zero => rfl
  | succ n ih => rw [packN, packN, ih, Nat.mod_mod]
/-- A lane of a result is the number given for it modulo 2^w. -/
theorem laneBits_ofLanes {w n k : Nat} (f : Nat → Nat) (hn : w * n ≤ 2048) (hk : k < n) : laneBits (ofLanes w n f) w k = BitVec.ofNat w (f k) := by
  have hf : ofLanes w n f = ofLanes w n fun i => f i % 2 ^ w := by rw [ofLanes, ofLanes, packN_mod_two_pow]
  refine BitVec.eq_of_toNat_eq ?_
  rw [BitVec.toNat_ofNat, hf]
  exact laneN_ofLanes _ hn hk (Nat.mod_lt _ (Nat.two_pow_pos w))

/-- Where each lane's number is that of the rule, modulo 2^w, so are the lanes of the vector that is written. -/
theorem opPlain_gives {g : Guard} {s : State} (h : s.guard g = true) {u : VSlot} {d : BitVec 6} {q : BitVec 4} {w lat : Nat}
    {r : State → Nat → Nat} {f : Nat → Int} (hr : ∀ k, k < 2048 / w → BitVec.ofNat w (r s k) = BitVec.ofInt w (f k)) :
    ∃ x, (∀ k, k < 2048 / w → laneBits x w k = BitVec.ofInt w (f k)) ∧
      opPlain g u d q w lat r s = .next (queue s [(lat, vsc u, .v d.toNat (s.qv q) x)]) :=
  ⟨_, fun k hk => (laneBits_ofLanes _ (Nat.mul_div_le 2048 w) hk).trans (hr k hk), opPlain_eq_queue h u d q w lat r⟩

/-! ## Arithmetic of lanes (07 Table 7-6, R181) -/

section
variable (ty : Ty) (x y : Vec) (i : Nat)

theorem lane_sum : BitVec.ofNat ty.width ((lane x ty.width i + lane y ty.width i) % 2 ^ ty.width) =
    BitVec.ofInt ty.width (laneI ty x i + laneI ty y i) := by
  rw [ofNat_mod_two_pow, BitVec.ofNat_add, ofNat_lane, ofNat_lane, BitVec.ofInt_add, ofInt_laneI, ofInt_laneI]
theorem lane_difference : BitVec.ofNat ty.width ((lane x ty.width i + 2 ^ ty.width - lane y ty.width i) % 2 ^ ty.width) =
    BitVec.ofInt ty.width (laneI ty x i - laneI ty y i) := by
  have hy : lane y ty.width i < 2 ^ ty.width := by rw [← laneN_eq_lane]; exact laneN_lt _ _ _
  rw [Int.sub_eq_add_neg, BitVec.ofInt_add, BitVec.ofInt_neg, ofInt_laneI, ofInt_laneI, ← BitVec.sub_eq_add_neg, ← ofNat_lane, ← ofNat_lane,
    BitVec.ofNat_sub_ofNat, ofNat_mod_two_pow, Nat.mod_eq_of_lt hy, Nat.add_comm, Nat.sub_add_comm hy.le]
theorem lane_product : BitVec.ofNat ty.width (lane x ty.width i * lane y ty.width i % 2 ^ ty.width) =
    BitVec.ofInt ty.width (laneI ty x i * laneI ty y i) := by
  rw [ofNat_mod_two_pow, BitVec.ofNat_mul, ofNat_lane, ofNat_lane, BitVec.ofInt_mul, ofInt_laneI, ofInt_laneI]
theorem lane_min : BitVec.ofNat ty.width (if laneInt ty (lane x ty.width i) ≤ laneInt ty (lane y ty.width i) then lane x ty.width i
    else lane y ty.width i) = BitVec.ofInt ty.width (min (laneI ty x i) (laneI ty y i)) := by
  rw [laneInt_lane, laneInt_lane, min_def, apply_ite (BitVec.ofNat ty.width), apply_ite (BitVec.ofInt ty.width), ofNat_lane, ofNat_lane,
    ofInt_laneI, ofInt_laneI]
theorem lane_max : BitVec.ofNat ty.width (if laneInt ty (lane x ty.width i) ≤ laneInt ty (lane y ty.width i) then lane y ty.width i
    else lane x ty.width i) = BitVec.ofInt ty.width (max (laneI ty x i) (laneI ty y i)) := by
  rw [laneInt_lane, laneInt_lane, max_def, apply_ite (BitVec.ofNat ty.width), apply_ite (BitVec.ofInt ty.width), ofNat_lane, ofNat_lane,
    ofInt_laneI, ofInt_laneI]
theorem ofNat_clampTy (z : Int) : BitVec.ofNat ty.width (clampTy ty z) = BitVec.ofInt ty.width (max (tyMin ty) (min (tyMax ty) z)) := by
  rw [clampTy, ofNat_wrap, tyMin_eq, tyMax_eq]

/-- The magnitude of a signed lane, which exceeds the greatest value of its width at the least value alone. -/
theorem lane_magnitude (sat : Bool) : BitVec.ofNat ty.width
    (if sat ∧ (toSigned ty.width (lane x ty.width i)).natAbs = 2 ^ (ty.width - 1) then (toSigned ty.width (lane x ty.width i)).natAbs - 1
      else (toSigned ty.width (lane x ty.width i)).natAbs) =
    BitVec.ofInt ty.width (if sat then min ((laneBits x ty.width i).toInt.natAbs : Int) (2 ^ (ty.width - 1) - 1)
      else ((laneBits x ty.width i).toInt.natAbs : Int)) := by
  have hlo := (laneBits x ty.width i).le_toInt
  have hhi := (laneBits x ty.width i).toInt_lt
  have hp : ((2 ^ (ty.width - 1) : Nat) : Int) = 2 ^ (ty.width - 1) := by push_cast; rfl
  have hpos := Nat.two_pow_pos (ty.width - 1)
  rw [toSigned_lane x (ty_width_pos ty), ← BitVec.ofInt_natCast]
  generalize (laneBits x ty.width i).toInt = z at *
  rw [← hp] at *
  generalize (2 : Nat) ^ (ty.width - 1) = p at *
  congr 1
  cases sat
  · simp
  · by_cases h : z.natAbs = p
    · rw [if_pos ⟨rfl, h⟩, if_pos rfl]; omega
    · rw [if_neg fun hc => h hc.2, if_pos rfl]; omega
end

/-- The upper half of a product, of twice the width. -/
theorem upper_half (w : Nat) (z : Int) : BitVec.ofNat w (wrap (2 * w) z / 2 ^ w) = BitVec.ofInt w (z / 2 ^ w) := by
  have hp : (2 : Int) ^ w ≠ 0 := pow_ne_zero _ two_ne_zero
  rw [← BitVec.ofInt_natCast, Int.natCast_ediv, wrap_cast, Nat.two_mul, pow_add, Int.emod_def, mul_assoc]
  push_cast
  rw [Int.sub_mul_ediv_left _ _ hp, ← ofNat_wrap, ← ofNat_wrap w (z / 2 ^ w), wrap, wrap]
  push_cast
  rw [Int.sub_mul_emod_self_left]

/-! ## Bits of lanes -/

theorem popBits_eq_onesN (n w : Nat) : popBits n w = onesN n w := by
  unfold onesN
  induction w with
  | zero => rfl
  | succ w ih =>
    rw [popBits, List.range_succ, List.filter_append, List.length_append, ih, Nat.add_comm, List.filter_singleton]
    cases n.testBit w <;> rfl
theorem clzBits_zero (w : Nat) : clzBits 0 w = w := by
  induction w with
  | zero => rfl
  | succ w ih => rw [clzBits, Nat.zero_testBit, if_neg Bool.false_ne_true, ih, Nat.add_comm]
theorem clzBits_eq_leadN {n w : Nat} (h : n < 2 ^ w) : clzBits n w = leadN n w := by
  unfold leadN
  split
  · next h0 => rw [h0, clzBits_zero]
  · next h0 => exact clzBits_eq h0 h

/-- An encoding of a type of set F by its fields: infinity and the NaNs have all exponent bits, zero and the subnormals none. -/
theorem magCode_class {ty : Ty} (hty : ty.isF = true) (n : Nat) :
    (Ty.maxFin ty < magCode ty n → (n % 2 ^ Ty.mbits ty = 0 ↔ magCode ty n = Ty.infCode ty) ∧ Ty.infCode ty ≤ magCode ty n) ∧
    magCode ty n / 2 ^ (Ty.mbits ty - 1) % 2 = n / 2 ^ (Ty.mbits ty - 1) % 2 ∧ Ty.infCode ty = Ty.maxFin ty + 1 ∧ ty ≠ .e4m3 := by
  refine ⟨fun hm => ?_, ?_, ?_, ?_⟩
  · cases ty <;> cases hty <;> simp only [magCode, Ty.maxFin, Ty.infCode, Ty.mbits, Ty.width] at hm ⊢ <;> omega
  · cases ty <;> cases hty <;> simp only [magCode, Ty.mbits, Ty.width] <;> omega
  · cases ty <;> cases hty <;> rfl
  · rintro rfl; cases hty

/-- The class mask of an encoding (07 R176). -/
theorem classV_eq_classBit {ty : Ty} (hty : ty.isF = true) {n : Nat} (hn : n < 2 ^ ty.width) : classV ty n = 2 ^ classBit ty n := by
  have hmag := magCode_fields (isFloat_of_isF hty) n
  have hf := Nat.mod_lt n (Nat.two_pow_pos (Ty.mbits ty))
  obtain ⟨hinf, hsig, hmax, he⟩ := magCode_class hty n
  unfold classV classBit
  rw [decodeFloat_eq (isFloat_of_isF hty) hn]
  generalize hneg : negCode ty n = neg
  by_cases hspec : Ty.maxFin ty < magCode ty n
  · obtain ⟨hzero, hle⟩ := hinf hspec
    rw [if_pos hspec]
    by_cases h0 : n % 2 ^ Ty.mbits ty = 0
    · rw [if_pos ⟨he, h0⟩, if_pos (hzero.mp h0)]
      cases neg <;> rfl
    · rw [if_neg fun h => h0 h.2, if_neg (mt hzero.mpr h0), if_pos (lt_of_le_of_ne hle (Ne.symm (mt hzero.mpr h0))), hsig]
      by_cases hs : n / 2 ^ (Ty.mbits ty - 1) % 2 = 0 <;> simp [hs, he]
  · rw [if_neg hspec, if_neg (show ¬ magCode ty n = Ty.infCode ty by omega), if_neg (show ¬ Ty.infCode ty < magCode ty n by omega)]
    by_cases h0 : n / 2 ^ Ty.mbits ty % 2 ^ Ty.ebits ty = 0
    · rw [h0, Nat.zero_mul, Nat.zero_add] at hmag
      rw [if_pos h0, hmag]
      by_cases hz : n % 2 ^ Ty.mbits ty = 0
      · cases neg <;> simp [hz]
      · cases neg <;> simp [hz, hf]
    · have hge : 2 ^ Ty.mbits ty ≤ magCode ty n := by
        rw [hmag]; exact (Nat.le_mul_of_pos_left _ (Nat.pos_of_ne_zero h0)).trans (Nat.le_add_right _ _)
      have hpos := Nat.two_pow_pos (Ty.mbits ty)
      rw [if_neg h0, if_neg (show ¬ magCode ty n = 0 by omega), if_neg (show ¬ magCode ty n < 2 ^ Ty.mbits ty by omega)]
      dsimp only
      rw [if_neg (show ¬ 2 ^ Ty.mbits ty + n % 2 ^ Ty.mbits ty = 0 by omega),
        if_neg (show ¬ 2 ^ Ty.mbits ty + n % 2 ^ Ty.mbits ty < 2 ^ Ty.mbits ty by omega)]
      cases neg <;> rfl

/-! ## Immediates and moves (07 R184, Table 7-8) -/

theorem imm_byte {imm : BitVec 10} (h : imm.toNat < 256) : BitVec.ofNat 8 (imm.toNat % 256) = BitVec.ofInt 8 imm.toInt := by
  rw [BitVec.toInt_eq_toNat_of_lt (by omega), BitVec.ofInt_natCast, Nat.mod_eq_of_lt h]
theorem ofNat_lane_eq_ofInt (x : Vec) (w i : Nat) : BitVec.ofNat w (lane x w i) = BitVec.ofInt w (laneN x w i) := by
  rw [BitVec.ofInt_natCast, laneN_eq_lane]

theorem laneResults_gives {i : Instr} {s : State} {g : Guard} {sc lat : Nat} {d : BitVec 6} {q : BitVec 4} {w : Nat} {f : Nat → Int}
    (hi : laneResults s i = some (g, sc, lat, d, q, w, f)) (hwf : i.wf = true) (h : s.guard g = true) :
    ∃ x, (∀ k, k < 2048 / w → laneBits x w k = BitVec.ofInt w (f k)) ∧
      exec i s = .next (queue s [(lat, sc, .v d.toNat (s.qv q) x)]) := by
  unfold laneResults at hi
  split at hi
  case h_1 => cases hi; rw [exec_viadd]; exact opPlain_gives h fun k _ => lane_sum _ _ _ k
  case h_2 => cases hi; rw [exec_visub]; exact opPlain_gives h fun k _ => lane_difference _ _ _ k
  case h_3 => cases hi; rw [exec_vimul]; exact opPlain_gives h fun k _ => lane_product _ _ _ k
  case h_4 =>
    cases hi
    rw [exec_vimulh]
    exact opPlain_gives h fun k _ => by rw [laneInt_lane, laneInt_lane, upper_half]
  case h_5 =>
    cases hi
    rw [exec_viaddw]
    exact opPlain_gives h fun k _ => by rw [laneInt_lane, ofNat_wrap, laneN_eq_lane]
  case h_6 =>
    cases hi
    rw [exec_vishl]
    refine opPlain_gives h fun k _ => ?_
    rw [laneN_eq_lane, laneN_eq_lane]
    split
    · rw [ofNat_mod_two_pow, BitVec.ofInt_natCast]
    · rfl
  case h_7 =>
    cases hi
    rw [exec_vishr]
    refine opPlain_gives h fun k _ => ?_
    rw [laneN_eq_lane, laneN_eq_lane]
    split
    · rw [BitVec.ofInt_natCast]
    · rfl
  case h_8 =>
    cases hi
    rw [exec_visra]
    exact opPlain_gives h fun k _ => by rw [ofNat_wrap, toSigned_lane _ (ty_width_pos _), laneN_eq_lane]
  case h_9 => cases hi; rw [exec_vimin]; exact opPlain_gives h fun k _ => lane_min _ _ _ k
  case h_10 => cases hi; rw [exec_vimax]; exact opPlain_gives h fun k _ => lane_max _ _ _ k
  case h_11 => cases hi; rw [exec_viabs]; exact opPlain_gives h fun k _ => lane_magnitude _ _ k _
  case h_12 =>
    cases hi
    rw [exec_viaddsat]
    exact opPlain_gives h fun k _ => by rw [laneInt_lane, laneInt_lane, ofNat_clampTy]
  case h_13 =>
    cases hi
    rw [exec_vpopc]
    exact opPlain_gives h fun k _ => by rw [popBits_eq_onesN, laneN_eq_lane, BitVec.ofInt_natCast]
  case h_14 =>
    cases hi
    rw [exec_vclz]
    exact opPlain_gives h fun k _ => by rw [← laneN_eq_lane, clzBits_eq_leadN (laneN_lt _ _ _), BitVec.ofInt_natCast]
  case h_15 =>
    cases hi
    rw [exec_vabs]
    exact opPlain_gives h fun k _ => by rw [laneN_eq_lane, BitVec.ofInt_natCast]
  case h_16 =>
    cases hi
    rw [exec_vneg]
    exact opPlain_gives h fun k _ => by rw [ofNat_mod_two_pow, laneN_eq_lane, BitVec.ofInt_natCast]
  case h_17 =>
    cases hi
    rw [exec_vclass]
    refine opPlain_gives h fun k _ => ?_
    rw [← laneN_eq_lane, classV_eq_classBit hwf (laneN_lt _ _ _), ← BitVec.ofInt_natCast]
    push_cast; rfl
  case h_18 imm t =>
    cases t with
    | true => cases hi; rw [exec_vmovi_byte]; exact opPlain_gives h fun k _ => imm_byte (by simpa [Instr.wf] using hwf)
    | false => cases hi; rw [exec_vmovi_word]; exact opPlain_gives h fun k _ => ofNat_wrap 32 _
  case h_19 =>
    cases hi
    rw [exec_vbcast]
    exact opPlain_gives h fun k _ => by rw [ofNat_mod_two_pow, BitVec.ofInt_natCast]
  case h_20 =>
    cases hi
    rw [exec_vlsh]
    refine opPlain_gives (u := .va) h fun k _ => ?_
    dsimp only
    split
    · exact ofNat_lane_eq_ofInt _ _ _
    · split
      · exact ofNat_lane_eq_ofInt _ _ _
      · rfl
  case h_21 d a b q ty z =>
    cases hi
    rw [exec_vperm]
    refine opPlain_gives (u := .va) h fun k _ => ?_
    dsimp only
    rw [← laneN_eq_lane (s.vv b)]
    by_cases hx : laneN (s.vv b) ty.width k < 2048 / ty.width
    · rw [if_neg (fun hz => Nat.not_le.mpr hx hz.2), if_pos hx, Nat.mod_eq_of_lt hx]
      exact ofNat_lane_eq_ofInt _ _ _
    · rw [if_neg hx]
      cases z with
      | true => rw [if_pos ⟨rfl, Nat.not_lt.mp hx⟩, if_pos rfl]; rfl
      | false => rw [if_neg (fun hz => nomatch hz.1), if_neg Bool.false_ne_true]; exact ofNat_lane_eq_ofInt _ _ _
  case h_22 => cases hi; rw [exec_vrev]; exact opPlain_gives (u := .va) h fun k _ => ofNat_lane_eq_ofInt _ _ _
  case h_23 =>
    cases hi
    rw [exec_vzip]
    refine opPlain_gives (u := .va) h fun k _ => ?_
    dsimp only
    split
    · exact ofNat_lane_eq_ofInt _ _ _
    · rw [show k / 2 = (k - 1) / 2 by omega]; exact ofNat_lane_eq_ofInt _ _ _
  case h_24 odd =>
    cases hi
    rw [exec_vunzip]
    refine opPlain_gives (u := .va) h fun k _ => ?_
    dsimp only
    generalize (2 * k + if odd = true then 1 else 0) = j
    split <;> exact ofNat_lane_eq_ofInt _ _ _
  case h_25 => cases hi

/-- Settles O20: each operation writes lane by lane, and its lane is the number of its rule modulo 2^w. -/
theorem laneResults : Obligations.LaneResults :=
  fun _ _ _ _ _ _ _ _ _ hi hwf h => laneResults_gives hi hwf h

end Sys2Proof.Proofs

/-! The order of float lanes (07 R172, Table 7-5): the model's comparisons of values are comparisons of encodings. -/
namespace Sys2Proof.Proofs
open Sys2Proof Sys2Proof.Machine Sys2Proof.Claims

/-! ## Encodings that are no NaN -/

theorem code_eq_sign_add_mag {ty : Ty} {n : Nat} (hn : n < 2 ^ ty.width) : n = (if negCode ty n then 2 ^ (ty.width - 1) else 0) + magCode ty n := by
  have hw : (2 : Nat) ^ ty.width = 2 ^ (ty.width - 1) + 2 ^ (ty.width - 1) := by
    rw [← Nat.two_mul, ← Nat.pow_succ', Nat.succ_eq_add_one, Nat.sub_add_cancel (ty_width_pos ty)]
  rw [negCode, magCode]
  by_cases hs : 2 ^ (ty.width - 1) ≤ n
  · rw [if_pos (decide_eq_true hs), Nat.mod_eq_sub_mod hs, Nat.mod_eq_of_lt (by omega)]; omega
  · rw [if_neg (by simpa using hs), Nat.mod_eq_of_lt (by omega), Nat.zero_add]

section
variable {ty : Ty} (hty : ty.isF = true) {n : Nat} (hn : n < 2 ^ ty.width)
include hty hn

theorem valueOf_eq_decodeFloat : valueOf ty n = decodeFloat ty n := by cases ty <;> cases hty <;> rfl
theorem isNaNCode_iff : isNaNCode ty n ↔ Ty.maxFin ty < magCode ty n ∧ n % 2 ^ Ty.mbits ty ≠ 0 := by
  cases ty <;> cases hty <;> simp only [isNaNCode, magCode, Ty.maxFin, Ty.mbits, Ty.ebits, Ty.width] at hn ⊢ <;> omega

/-- An encoding that is no NaN is an infinity or finite. -/
theorem valueOf_of_not_nan (h : ¬ isNaNCode ty n) :
    (valueOf ty n = .inf (negCode ty n) ∧ magCode ty n = Ty.infCode ty) ∨
    ∃ m e, valueOf ty n = .fin (negCode ty n) m e ∧ (m = 0 ↔ magCode ty n = 0) ∧ magCode ty n ≤ Ty.maxFin ty := by
  obtain ⟨hinf, -, hmax, he⟩ := magCode_class hty n
  have hmag := magCode_fields (isFloat_of_isF hty) n
  have hpos := Nat.two_pow_pos (Ty.mbits ty)
  rw [isNaNCode_iff hty hn] at h
  rw [valueOf_eq_decodeFloat hty hn, decodeFloat_eq (isFloat_of_isF hty) hn]
  by_cases hspec : Ty.maxFin ty < magCode ty n
  · have h0 : n % 2 ^ Ty.mbits ty = 0 := not_not.mp fun h0 => h ⟨hspec, h0⟩
    rw [if_pos hspec, if_pos ⟨he, h0⟩]
    exact .inl ⟨rfl, (hinf hspec).1.mp h0⟩
  · rw [if_neg hspec]
    refine .inr ?_
    split
    · next h0 =>
      rw [h0, Nat.zero_mul, Nat.zero_add] at hmag
      exact ⟨_, _, rfl, by rw [hmag], Nat.not_lt.mp hspec⟩
    · next h0 =>
      have hge := Nat.le_mul_of_pos_left (2 ^ Ty.mbits ty) (Nat.pos_of_ne_zero h0)
      exact ⟨_, _, rfl, by omega, Nat.not_lt.mp hspec⟩

theorem isNaN_valueOf : (valueOf ty n).isNaN = true ↔ isNaNCode ty n := by
  refine ⟨fun h => by_contra fun hc => ?_, fun h => by rw [valueOf_of_isNaNCode hty hn h]; rfl⟩
  rcases valueOf_of_not_nan hty hn hc with ⟨hv, -⟩ | ⟨m, e, hv, -⟩ <;> rw [hv] at h <;> cases h
theorem isSig_valueOf : (valueOf ty n).isSig = true ↔ isSigCode ty n := by
  by_cases hc : isNaNCode ty n
  · rw [valueOf_of_isNaNCode hty hn hc, Val.isSig, decide_eq_true_iff]
    exact ⟨fun h => ⟨hc, h⟩, fun h => h.2⟩
  · refine ⟨fun h => ?_, fun h => absurd h.1 hc⟩
    rcases valueOf_of_not_nan hty hn hc with ⟨hv, -⟩ | ⟨m, e, hv, -⟩ <;> rw [hv] at h <;> cases h

/-- An encoding that is no NaN rounds to itself, exactly. -/
theorem roundTo_valueOf (h : ¬ isNaNCode ty n) : roundTo ty .rne 0 (valueOf ty n) = (n, 0#6) := by
  have hf := isFloat_of_isF hty
  have hcode := code_eq_sign_add_mag hn
  obtain ⟨-, -, -, he⟩ := magCode_class hty n
  have hm := valueOf_means ty hn
  rcases valueOf_of_not_nan hty hn h with ⟨hv, hmag⟩ | ⟨m, e, hv, hz, -⟩
  · rw [hv, roundTo_inf .rne 0 hf, if_neg (by decide), if_neg he, signBit_eq hf, ← hmag, ← hcode]
  · rw [hv] at hm ⊢
    by_cases h0 : m = 0
    · rw [h0, roundTo_zero .rne 0 hf, signBit_eq hf]
      rw [hz.mp h0, Nat.add_zero] at hcode
      rw [← hcode]
    · have hr := roundTo_rounds ty .rne (Nat.zero_le 256) hm
      generalize hx : exactOf ty n = x at hm hr
      cases hm with
      | zero => exact absurd rfl h0
      | num =>
        obtain ⟨h1, h2⟩ := rounds_of_code hf hn hx hr
        exact Prod.ext h1 h2
end

/-! ## Order -/

/-- A rising function of the magnitude keeps the order of signed magnitudes. -/
theorem signed_lt_signed {f : Nat → Nat} (hf : StrictMono f) (h0 : f 0 = 0) (i j : Bool) (x y : Nat) :
    signed i (f x) < signed j (f y) ↔ signed i x < signed j y := by
  have hxy := hf.lt_iff_lt (a := x) (b := y)
  have hyx := hf.lt_iff_lt (a := y) (b := x)
  have hx := hf.lt_iff_lt (a := 0) (b := x)
  have hy := hf.lt_iff_lt (a := 0) (b := y)
  cases i <;> cases j <;> simp only [signed, if_true, if_false, Bool.false_eq_true] <;> omega

theorem ltV_fin {n1 n2 : Bool} {m1 m2 : Nat} {e1 e2 : Int} {x y : Exact} (h1 : Means (.fin n1 m1 e1) x) (h2 : Means (.fin n2 m2 e2) y) :
    ltV (.fin n1 m1 e1) (.fin n2 m2 e2) = decide (numOf x < numOf y) := by
  refine decide_eq_decide.mpr ?_
  have hp := two_zpow_pos (min e1 e2)
  have h8 := two_zpow_pos 800
  rw [← Int.cast_lt (R := ℝ), ← Int.cast_lt (R := ℝ), means_fin_real h1, means_fin_real h2, zpow_two_add, zpow_two_add, ← mul_assoc, ← mul_assoc,
    ← scaled_real n1 m1 (min_le_left e1 e2), ← scaled_real n2 m2 (min_le_right e1 e2), mul_lt_mul_iff_left₀ h8, mul_lt_mul_iff_left₀ hp]

theorem numOf_finite {ty : Ty} (hty : Ty.isFloat ty = true) {n : Nat} (h : magCode ty n ≤ Ty.maxFin ty) :
    numOf (exactOf ty n) = signed (negCode ty n) (codeVal ty (magCode ty n) * 2 ^ leastAt ty) := by
  have hp : ty ≠ .p2s8 := by rintro rfl; cases hty
  rw [exactOf, if_neg hp, if_pos hty]
  by_cases h0 : magCode ty n = 0
  · rw [if_pos h0, h0]
    have hz : codeVal ty 0 = 0 := by rw [codeVal, if_pos (Nat.two_pow_pos _)]
    rw [hz, Nat.zero_mul]
    cases negCode ty n <;> rfl
  · rw [if_neg h0, if_pos h]; rfl

section
variable {ty : Ty} (hty : ty.isF = true) {a b : Nat} (ha : a < 2 ^ ty.width) (hb : b < 2 ^ ty.width)
  (hna : ¬ isNaNCode ty a) (hnb : ¬ isNaNCode ty b)
include hty ha hb hna hnb

theorem ltV_valueOf : ltV (valueOf ty a) (valueOf ty b) = decide (codeOrder ty a < codeOrder ty b) := by
  have hf := isFloat_of_isF hty
  obtain ⟨-, -, hmax, -⟩ := magCode_class hty a
  have hma := valueOf_means ty ha
  have hmb := valueOf_means ty hb
  unfold codeOrder
  rcases valueOf_of_not_nan hty ha hna with ⟨hva, hia⟩ | ⟨m1, e1, hva, -, hla⟩ <;>
    rcases valueOf_of_not_nan hty hb hnb with ⟨hvb, hib⟩ | ⟨m2, e2, hvb, -, hlb⟩
  · rw [hva, hvb, hia, hib, Bool.eq_iff_iff, decide_eq_true_iff]
    change (negCode ty a && !negCode ty b) = true ↔ _
    cases negCode ty a <;> cases negCode ty b <;> simp [signed]
    omega
  · rw [hva, hvb, hia, Bool.eq_iff_iff, decide_eq_true_iff]
    change negCode ty a = true ↔ _
    cases negCode ty a <;> cases negCode ty b <;> simp [signed] <;> omega
  · rw [hva, hvb, hib, Bool.eq_iff_iff, decide_eq_true_iff]
    change (!negCode ty b) = true ↔ _
    cases negCode ty a <;> cases negCode ty b <;> simp [signed] <;> omega
  · rw [hva] at hma ⊢
    rw [hvb] at hmb ⊢
    rw [ltV_fin hma hmb, numOf_finite hf hla, numOf_finite hf hlb]
    refine decide_eq_decide.mpr (signed_lt_signed (f := fun k => codeVal ty k * 2 ^ leastAt ty) ?_ ?_ _ _ _ _)
    · exact fun i j hij => Nat.mul_lt_mul_of_pos_right (codeVal_strictMono ty hij) (Nat.two_pow_pos _)
    · rw [codeVal, if_pos (Nat.two_pow_pos _), Nat.zero_mul]

theorem eqV_valueOf : eqV (valueOf ty a) (valueOf ty b) = (codeOrder ty a == codeOrder ty b) := by
  have hlt := ltV_valueOf hty ha hb hna hnb
  have hgt := ltV_valueOf hty hb ha hnb hna
  have heq : eqV (valueOf ty a) (valueOf ty b) = (!ltV (valueOf ty a) (valueOf ty b) && !ltV (valueOf ty b) (valueOf ty a)) := by
    rcases valueOf_of_not_nan hty ha hna with ⟨hva, -⟩ | ⟨m1, e1, hva, -⟩ <;>
      rcases valueOf_of_not_nan hty hb hnb with ⟨hvb, -⟩ | ⟨m2, e2, hvb, -⟩ <;> rw [hva, hvb] <;> rfl
  rw [heq, hlt, hgt, Bool.eq_iff_iff]
  simp
  omega

/-- With -0 below +0 the order is that of `codeRank`. -/
theorem ltZ_valueOf : ltZ (valueOf ty a) (valueOf ty b) = decide (codeRank ty a < codeRank ty b) := by
  obtain ⟨-, -, hmax, -⟩ := magCode_class hty a
  have hzero {n : Nat} (hn : n < 2 ^ ty.width) (hc : ¬ isNaNCode ty n) :
      (valueOf ty n).isZero = decide (magCode ty n = 0) ∧ (valueOf ty n).sign = negCode ty n := by
    rcases valueOf_of_not_nan hty hn hc with ⟨hv, hi⟩ | ⟨m, e, hv, hz, -⟩
    · exact ⟨by rw [hv, hi, hmax]; rfl, by rw [hv]; rfl⟩
    · exact ⟨by rw [hv, Bool.eq_iff_iff, Val.isZero, beq_iff_eq, hz, decide_eq_true_iff], by rw [hv]; rfl⟩
  rw [ltZ, ltV_valueOf hty ha hb hna hnb, (hzero ha hna).1, (hzero hb hnb).1, (hzero ha hna).2, (hzero hb hnb).2, Bool.eq_iff_iff]
  unfold codeOrder codeRank
  cases negCode ty a <;> cases negCode ty b <;> simp [signed] <;> omega
end

end Sys2Proof.Proofs

/-! Minimum, maximum and comparison of float lanes (07 R172, R175), logic, selection and exchange (07 R182 to R184, R189). -/
namespace Sys2Proof.Proofs
open Sys2Proof Sys2Proof.Machine Sys2Proof.Claims

/-! ## Minimum and maximum (07 R172) -/

theorem sigFl_two (x y : Val) : sigFl [x, y] = if x.isSig || y.isSig then IV else 0#6 := by
  simp [sigFl]

/-- No value compares equal to a NaN. -/
theorem eqV_nan {x y : Val} (h : (x.isNaN || y.isNaN) = true) : eqV x y = false := by
  rcases (Bool.or_eq_true _ _).mp h with h | h <;> obtain ⟨i, rfl⟩ := eq_nan_of_isNaN h
  · rfl
  · cases x <;> rfl
theorem codeRank_injective {ty : Ty} {a b : Nat} (ha : a < 2 ^ ty.width) (hb : b < 2 ^ ty.width) (h : codeRank ty a = codeRank ty b) : a = b := by
  have hca := code_eq_sign_add_mag ha
  have hcb := code_eq_sign_add_mag hb
  unfold codeRank at h
  cases hna : negCode ty a <;> cases hnb : negCode ty b <;> simp [hna, hnb] at h hca hcb <;> omega

section
variable {ty : Ty} (hty : ty.isF = true)
include hty

theorem roundWith_nan (f : Fl) : roundWith ty .rne (.nan false, f) = (Ty.canonNaN ty, f) := by
  rw [roundWith_eq, roundTo_nan .rne 0 (isFloat_of_isF hty)]
  simp
theorem roundWith_valueOf {n : Nat} (hn : n < 2 ^ ty.width) (h : ¬ isNaNCode ty n) (f : Fl) : roundWith ty .rne (valueOf ty n, f) = (n, f) := by
  rw [roundWith_eq, roundTo_valueOf hty hn h]
  simp

variable {a b : Nat} (ha : a < 2 ^ ty.width) (hb : b < 2 ^ ty.width)
include ha hb

theorem sigFl_valueOf : (isSigCode ty a ∨ isSigCode ty b → sigFl [valueOf ty a, valueOf ty b] = 0x01#6) ∧
    (¬ isSigCode ty a → ¬ isSigCode ty b → sigFl [valueOf ty a, valueOf ty b] = 0#6) := by
  rw [sigFl_two, ← isSig_valueOf hty ha, ← isSig_valueOf hty hb]
  cases (valueOf ty a).isSig <;> cases (valueOf ty b).isSig <;> simp [IV]

theorem minMaxV_extreme (isMax num : Bool) : Extreme ty isMax num a b
    (roundWith ty .rne (minMaxV isMax num (valueOf ty a) (valueOf ty b))).1 (roundWith ty .rne (minMaxV isMax num (valueOf ty a) (valueOf ty b))).2 := by
  obtain ⟨hsig, hquiet⟩ := sigFl_valueOf hty ha hb
  have hNa := isNaN_valueOf hty ha
  have hNb := isNaN_valueOf hty hb
  unfold minMaxV
  generalize sigFl [valueOf ty a, valueOf ty b] = f at hsig hquiet
  by_cases ca : isNaNCode ty a
  · by_cases cb : isNaNCode ty b
    · simp only [hNa.mpr ca, hNb.mpr cb, Bool.and_self, if_true, roundWith_nan hty]
      exact ⟨fun _ => rfl, fun _ h => absurd cb h, fun h => absurd ca h, fun h => absurd ca h, hsig, hquiet⟩
    · simp only [hNa.mpr ca, Bool.not_eq_true _ ▸ mt hNb.mp cb, Bool.and_false, Bool.false_eq_true, if_true, if_false]
      have hr : roundWith ty .rne (if num then valueOf ty b else .nan false, f) = (if num then b else Ty.canonNaN ty, f) := by
        cases num
        · exact roundWith_nan hty f
        · exact roundWith_valueOf hty hb cb f
      rw [hr]
      exact ⟨fun h => absurd h.2 cb, fun _ _ => rfl, fun h => absurd ca h, fun h => absurd ca h, hsig, hquiet⟩
  · by_cases cb : isNaNCode ty b
    · simp only [hNb.mpr cb, Bool.not_eq_true _ ▸ mt hNa.mp ca, Bool.false_and, Bool.false_eq_true, if_true, if_false]
      have hr : roundWith ty .rne (if num then valueOf ty a else .nan false, f) = (if num then a else Ty.canonNaN ty, f) := by
        cases num
        · exact roundWith_nan hty f
        · exact roundWith_valueOf hty ha ca f
      rw [hr]
      exact ⟨fun h => absurd h.1 ca, fun h => absurd h ca, fun _ _ => rfl, fun _ h => absurd cb h, hsig, hquiet⟩
    · simp only [Bool.not_eq_true _ ▸ mt hNa.mp ca, Bool.not_eq_true _ ▸ mt hNb.mp cb, Bool.false_and, Bool.false_eq_true, if_false]
      rw [ltZ_valueOf hty ha hb ca cb, ltZ_valueOf hty hb ha cb ca]
      have hr : roundWith ty .rne (if isMax = true then if decide (codeRank ty a < codeRank ty b) = true then valueOf ty b else valueOf ty a
          else if decide (codeRank ty b < codeRank ty a) = true then valueOf ty b else valueOf ty a, f) =
          (if (codeRank ty a ≤ codeRank ty b) = (isMax = true) then b else a, f) := by
        cases isMax
        · by_cases h : codeRank ty b < codeRank ty a
          · simpa [h] using roundWith_valueOf hty hb cb f
          · simpa [h, Int.not_lt.mp h] using roundWith_valueOf hty ha ca f
        · rcases lt_trichotomy (codeRank ty a) (codeRank ty b) with h | h | h
          · simpa [h, h.le] using roundWith_valueOf hty hb cb f
          · simpa [h, codeRank_injective ha hb h] using roundWith_valueOf hty hb cb f
          · simpa [h.not_gt, h.not_ge] using roundWith_valueOf hty ha ca f
      rw [hr]
      exact ⟨fun h => absurd h.1 ca, fun h => absurd h ca, fun _ h => absurd h cb, fun _ _ => rfl, hsig, hquiet⟩

/-! ## Comparison (07 Table 7-5) -/

theorem fcmpV_compares (c : FCond) : Compares ty c a b (fcmpV c (valueOf ty a) (valueOf ty b)).1 (fcmpV c (valueOf ty a) (valueOf ty b)).2 := by
  obtain ⟨hsig, hquiet⟩ := sigFl_valueOf hty ha hb
  have hNa := isNaN_valueOf hty ha
  have hNb := isNaN_valueOf hty hb
  refine ⟨fun ca cb => ?_, fun hn => ?_⟩
  · have hf := hquiet (fun h => ca h.1) fun h => cb h.1
    have hun : ((valueOf ty a).isNaN || (valueOf ty b).isNaN) = false := by
      rw [Bool.or_eq_false_iff, ← Bool.not_eq_true, ← Bool.not_eq_true, hNa, hNb]; exact ⟨ca, cb⟩
    unfold fcmpV
    dsimp only
    rw [hun, hf, ltV_valueOf hty ha hb ca cb, ltV_valueOf hty hb ha cb ca, eqV_valueOf hty ha hb ca cb]
    cases c with
    | ge | le => exact ⟨decide_not.symm.trans (decide_eq_decide.mpr Int.not_lt), rfl⟩
    | eq | ne | lt | gt | un => exact ⟨rfl, rfl⟩
  · have hun : ((valueOf ty a).isNaN || (valueOf ty b).isNaN) = true := by
      rw [Bool.or_eq_true, hNa, hNb]; exact hn
    unfold fcmpV
    dsimp only
    rw [hun, eqV_nan hun]
    cases c with
    | eq | ne | un => exact ⟨by simp, fun h => hsig (by simpa using h), fun h1 h2 _ => hquiet h1 h2⟩
    | lt | ge | le | gt => exact ⟨by simp, fun _ => rfl, fun _ _ h => by simp at h⟩
end

/-! ## Masks of lanes (07 R165) -/

/-- A byte lane of a lane mask has the bit of its lane. -/
theorem getLsbD_maskOf {m n j : Nat} (f : Nat → Bool) (hj : j < 256) (hn : j < m * n) : (maskOf (8 * m) n f).getLsbD j = f (8 * j / (8 * m)) := by
  have hm : 0 < m := Nat.pos_of_ne_zero fun h => by rw [h, Nat.zero_mul] at hn; exact Nat.not_lt_zero _ hn
  have hb : j % m < m := Nat.mod_lt _ hm
  have hk : j / m < n := Nat.div_lt_of_lt_mul hn
  have hbit := testBit_packN (fun i => if f i then 2 ^ m - 1 else 0) hb hk
  rw [Nat.div_add_mod] at hbit
  rw [maskOf, BitVec.getLsbD_ofNat, decide_eq_true hj, Bool.true_and, Nat.mul_div_cancel_left m (by decide : 0 < 8), hbit,
    Nat.mul_div_mul_left _ _ (by decide : 0 < 8)]
  cases f (j / m)
  · rw [if_neg Bool.false_ne_true, Nat.zero_testBit]
  · rw [if_pos rfl, Nat.testBit_two_pow_sub_one, decide_eq_true hb]
theorem getLsbD_maskOf_ty (ty : Ty) (f : Nat → Bool) {j : Nat} (hj : j < 256) :
    (maskOf ty.width (2048 / ty.width) f).getLsbD j = f (8 * j / ty.width) := by
  have hw : ty.width = 8 * (ty.width / 8) := by cases ty <;> rfl
  have hn : ty.width / 8 * (2048 / ty.width) = 256 := by cases ty <;> rfl
  have := getLsbD_maskOf (m := ty.width / 8) (n := 2048 / ty.width) f hj (by rw [hn]; exact hj)
  rwa [← hw] at this
theorem widthCode_lanes (c : BitVec 2) : 2 ^ c.toNat * (2048 / (8 * 2 ^ c.toNat)) = 256 := by revert c; decide

/-! ## The results lane by lane -/

section
variable {g : Guard} {s : State} (h : s.guard g = true)
include h

theorem vsel_gives (u : VSlot) (d a b : BitVec 6) (q qs : BitVec 4) :
    ∃ x, hasBytes x (fun j => if (s.qv qs).getLsbD j then (s.vv a).extractLsb' (8 * j) 8 else (s.vv b).extractLsb' (8 * j) 8) ∧
      exec (.vsel g u d a b q qs) s = .next (queue s [(2, vsc u, .v d.toNat (s.qv q) x)]) :=
  ⟨_, hasBytes_blend _ _ _, exec_vsel h u d a b q qs⟩
theorem vicmp_gives (u : VSlot) (d : BitVec 4) (c : Cond) (a b : BitVec 6) (q : BitVec 4) (ty : Ty) :
    ∃ m : Mask, (∀ j, j < 256 → m.getLsbD j = holds c (laneI ty (s.vv a) (8 * j / ty.width)) (laneI ty (s.vv b) (8 * j / ty.width))) ∧
      exec (.vicmp g u d c a b q ty) s = .next (queue s (toQ (vsc u) 2 d (s.qv q) m)) := by
  refine ⟨_, fun j hj => ?_, exec_vicmp h u d c a b q ty⟩
  rw [getLsbD_maskOf_ty ty _ hj, laneInt_lane, laneInt_lane, condHolds_eq_holds]
theorem vext_gives (u : VSlot) (d a : BitVec 6) (c : BitVec 2) (k : BitVec 8) (signed : Bool) :
    exec (.vext g u d a c k signed) s = .next (queue s (toS (vsc u) 2 d
      (if signed then wrapI (laneBits (s.vv a) (8 * 2 ^ c.toNat) k.toNat).toInt else wrapN (laneN (s.vv a) (8 * 2 ^ c.toNat) k.toNat)))) := by
  rw [exec_vext h, widthOf, toSigned_lane _ (Nat.mul_pos (by decide) (Nat.two_pow_pos _)), laneN_eq_lane]; rfl
theorem vins_gives (u : VSlot) (d b : BitVec 6) (q : BitVec 4) {c : BitVec 2} {k : BitVec 8} (hk : k.toNat < 256 / 2 ^ c.toNat) :
    ∃ m x, (∀ j, j < 256 → m.getLsbD j = ((s.qv q).getLsbD j && 8 * j / (8 * 2 ^ c.toNat) == k.toNat)) ∧
      laneN x (8 * 2 ^ c.toNat) k.toNat = (s.sv b).toNat % 2 ^ (8 * 2 ^ c.toNat) ∧
      exec (.vins g u d b q c k) s = .next (queue s [(2, vsc u, .v d.toNat m x)]) := by
  refine ⟨_, _, fun j hj => ?_, ?_, exec_vins h u d b q c k (w := 8 * 2 ^ c.toNat) rfl⟩
  · rw [BitVec.getLsbD_and, getLsbD_maskOf _ hj (by rw [widthCode_lanes]; exact hj)]
  · have hn : k.toNat < 2048 / (8 * 2 ^ c.toNat) := by rwa [Nat.mul_div_mul_left 256 _ (by decide : 0 < 8)]
    rw [laneN, laneBits_ofLanes _ (Nat.mul_div_le 2048 _) hn, if_pos rfl, BitVec.toNat_ofNat]
theorem vqcnt_gives (u : VSlot) (d : BitVec 6) (a : BitVec 4) :
    exec (.vqcnt g u d a) s = .next (queue s (toS (vsc u) 2 d (wrapN (onesN (s.qv a).toNat 256)))) := by
  rw [exec_vqcnt h, popBits_eq_onesN]; rfl

variable {ty : Ty} (hty : ty.isF = true)
include hty

/-- Minimum and maximum are one operation, in either direction. -/
theorem minMax_gives (u : VSlot) (d a b : BitVec 6) (q : BitVec 4) (isMax num : Bool) :
    ∃ x fs, (∀ k, k < 2048 / ty.width → Extreme ty isMax num (laneN (s.vv a) ty.width k) (laneN (s.vv b) ty.width k)
        (laneN x ty.width k) (fs k)) ∧
      opMinMax g u d a b q ty isMax num s = .next (queue s ((3, vsc u, .v d.toNat (s.qv q) x) ::
        toF (vsc u) 3 (laneFlags (s.qv q) ty.width fs (2048 / ty.width)))) := by
  refine opLanes_gives (g := g) h u d q ty 3 fun k _ => ⟨?_, roundWith_lt _ _ _⟩
  rw [← laneN_eq_lane, ← laneN_eq_lane]
  exact minMaxV_extreme hty (laneN_lt _ _ _) (laneN_lt _ _ _) isMax num
theorem vcmp_gives (u : VSlot) (d : BitVec 4) (c : FCond) (a b : BitVec 6) (q : BitVec 4) : ∃ (m : Mask) (fs : Nat → BitVec 6),
    (∀ j k, j < 256 → k = 8 * j / ty.width → Compares ty c (laneN (s.vv a) ty.width k) (laneN (s.vv b) ty.width k) (m.getLsbD j) (fs k)) ∧
    exec (.vcmp g u d c a b q ty) s = .next (queue s (toQ (vsc u) 3 d (s.qv q) m ++
      toF (vsc u) 3 (laneFlags (s.qv q) ty.width fs (2048 / ty.width)))) := by
  refine ⟨_, _, fun j k hj hk => ?_, exec_vcmp h u d c a b q ty rfl⟩
  rw [getLsbD_maskOf_ty ty _ hj, ← hk, ← laneN_eq_lane, ← laneN_eq_lane]
  exact fcmpV_compares hty (laneN_lt _ _ _) (laneN_lt _ _ _) c
end

/-- Settles O21: the bitwise operations and the predicate operations are two forms, and the other operations go lane by lane. -/
theorem logicAndExchangeResults : Obligations.LogicAndExchangeResults := by
  intro s g u d a b q qs h
  refine ⟨?_, ?_, ?_, ?_, ?_, vsel_gives h u d a b q qs, fun qd c ty _ => vicmp_gives h u qd c a b q ty,
    fun c k signed hk => ⟨vext_gives h u d a c k signed, vins_gives h u d b q hk⟩,
    fun ty num hty => ⟨minMax_gives h hty u d a b q false num, minMax_gives h hty u d a b q true num⟩,
    fun qd c ty hty => vcmp_gives h hty u qd c a b q, fun qd qa qb => ⟨?_, ?_, ?_, ?_, vqcnt_gives h u d qa⟩⟩
  · rw [exec_vand, opLogic_eq_queue h]
  · rw [exec_vor, opLogic_eq_queue h]
  · rw [exec_vxor, opLogic_eq_queue h]
  · rw [exec_vnot, opLogic_eq_queue h]
  · rw [exec_vmov, opLogic_eq_queue h]
  · rw [exec_vqand, opVq_eq_queue h]
  · rw [exec_vqor, opVq_eq_queue h]
  · rw [exec_vqxor, opVq_eq_queue h]
  · rw [exec_vqnot, opVq_eq_queue h]

end Sys2Proof.Proofs

/-! Reductions and scans (07 R186 to R188): the model's lists of lanes combine step by step, and an integer sum is the sum modulo 2^w. -/
namespace Sys2Proof.Proofs
open Sys2Proof Sys2Proof.Machine Sys2Proof.Claims

/-! ## One combining step (07 R186) -/

/-- The magnitude of an encoding has the magnitude of its value. -/
theorem valueOf_magCode {ty : Ty} (hty : ty.isF = true) {n : Nat} (hn : n < 2 ^ ty.width) : valueOf ty (magCode ty n) = (valueOf ty n).abs := by
  have hf := isFloat_of_isF hty
  have hlt : magCode ty n < 2 ^ (ty.width - 1) := Nat.mod_lt _ (Nat.two_pow_pos _)
  have hm : magCode ty n < 2 ^ ty.width := hlt.trans_le (Nat.pow_le_pow_right two_pos (Nat.sub_le _ _))
  have hneg : negCode ty (magCode ty n) = false := decide_eq_false (Nat.not_le.mpr hlt)
  have hmag : magCode ty (magCode ty n) = magCode ty n := Nat.mod_mod _ _
  have hfields : magCode ty n / 2 ^ Ty.mbits ty % 2 ^ Ty.ebits ty = n / 2 ^ Ty.mbits ty % 2 ^ Ty.ebits ty ∧
      magCode ty n % 2 ^ Ty.mbits ty = n % 2 ^ Ty.mbits ty := by
    cases ty <;> cases hty <;> simp only [magCode, Ty.mbits, Ty.ebits, Ty.width] <;> omega
  obtain ⟨-, hsig, -, -⟩ := magCode_class hty n
  rw [valueOf_eq_decodeFloat hty hm, valueOf_eq_decodeFloat hty hn, decodeFloat_eq hf hm, decodeFloat_eq hf hn, hneg, hmag, hfields.1, hfields.2,
    hsig]
  by_cases hspec : Ty.maxFin ty < magCode ty n
  · rw [if_pos hspec, if_pos hspec]
    split <;> rfl
  · rw [if_neg hspec, if_neg hspec]
    split <;> rfl
theorem magCode_lt (ty : Ty) (n : Nat) : magCode ty n < 2 ^ ty.width :=
  (Nat.mod_lt _ (Nat.two_pow_pos _)).trans_le (Nat.pow_le_pow_right two_pos (Nat.sub_le _ _))

theorem combId_eq_identity (op : COp) (ty : Ty) : combId op ty = identity ty op := by cases ty <;> cases op <;> decide
theorem identity_lt (op : COp) (ty : Ty) : identity ty op < 2 ^ ty.width := by cases ty <;> cases op <;> decide

section
variable (op : COp) {ty : Ty} {a b : Nat} (ha : a < 2 ^ ty.width) (hb : b < 2 ^ ty.width)
include ha hb

theorem combine_float (hty : ty.isF = true) : Combines ty op a b (combine op ty a b).1 (combine op ty a b).2 := by
  unfold Combines combine
  rw [if_pos hty, if_pos hty]
  cases op with
  | add => exact roundWith_rounds (isFloat_of_isF hty) .rne (gives_addV (valueOf_means ty ha) (valueOf_means ty hb))
  | max => exact minMaxV_extreme hty ha hb true false
  | min => exact minMaxV_extreme hty ha hb false false
  | amax =>
    dsimp only
    rw [← valueOf_magCode hty ha, ← valueOf_magCode hty hb]
    exact minMaxV_extreme hty (magCode_lt ty a) (magCode_lt ty b) true false
theorem combine_int (hty : ty.isF = false) : Combines ty op a b (combine op ty a b).1 (combine op ty a b).2 := by
  have hx {n : Nat} (hn : n < 2 ^ ty.width) : laneInt ty n = if ty.signed then (BitVec.ofNat ty.width n).toInt else n := by
    rw [laneInt, toInt_ofNat_of_lt (ty_width_pos ty) hn]
  unfold Combines combine
  rw [hty, if_neg Bool.false_ne_true, if_neg Bool.false_ne_true, hx ha, hx hb]
  cases op <;> exact ⟨rfl, rfl⟩
theorem combine_combines : Combines ty op a b (combine op ty a b).1 (combine op ty a b).2 := by
  cases hty : ty.isF
  · exact combine_int op ha hb hty
  · exact combine_float op ha hb hty
theorem combine_lt : (combine op ty a b).1 < 2 ^ ty.width := by
  unfold combine
  split
  · exact roundWith_lt _ _ _
  · cases op with
    | add => exact Nat.mod_lt _ (Nat.two_pow_pos _)
    | max | min | amax => dsimp only; split <;> assumption
end

/-! ## Lists of lanes -/

theorem nth_range_map {n i : Nat} (x : Nat → Nat) (h : i < n) : nth ((List.range n).map x) i = x i := by
  rw [nth, List.getD_eq_getElem _ _ (by simpa using h)]; simp
theorem flUnion_append (xs ys : List (Nat × Fl)) : flUnion (xs ++ ys) = flUnion xs ||| flUnion ys := by
  induction xs with
  | nil => exact (BitVec.zero_or).symm
  | cons x xs ih => rw [List.cons_append, flUnion, flUnion, ih, BitVec.or_assoc]
theorem flUnion_range_map (r : Nat → Nat × Fl) (n : Nat) : flUnion ((List.range n).map r) = allFlags (fun i => (r i).2) n := by
  induction n with
  | zero => rfl
  | succ n ih => rw [List.range_succ, List.map_append, flUnion_append, ih, allFlags, List.map_singleton, flUnion, flUnion, BitVec.or_zero]

theorem combInputs_eq (op : COp) (ty : Ty) (x : Vec) (q : Mask) :
    combInputs op ty x q = (List.range (2048 / ty.width)).map (inputAt ty op x q) :=
  List.map_congr_left fun i _ => by rw [inputAt, laneOn_eq_anyOn, laneN_eq_lane, combId_eq_identity]
theorem inputAt_lt (ty : Ty) (op : COp) (x : Vec) (q : Mask) (i : Nat) : inputAt ty op x q i < 2 ^ ty.width := by
  unfold inputAt
  split
  · exact laneN_lt _ _ _
  · exact identity_lt op ty

/-! ## The steps (07 R187, R188) -/

theorem redStep_range (op : COp) (ty : Ty) (x : Nat → Nat) (k : Nat) : redStep op ty (2 ^ k) ((List.range (2 ^ (k + 1))).map x) =
    (List.range (2 ^ k)).map fun i => combine op ty (x i) (x (i + 2 ^ k)) := by
  refine List.map_congr_left fun i hi => ?_
  have hi := List.mem_range.mp hi
  rw [nth_range_map x (by rw [pow_succ]; omega), nth_range_map x (by rw [pow_succ]; omega)]
/-- Halving steps down to one lane. -/
theorem redGo_reduces (op : COp) (ty : Ty) (k : Nat) (x : Nat → Nat) (f : Fl) (hx : ∀ i, i < 2 ^ k → x i < 2 ^ ty.width) :
    ∃ r fl, redGo op ty (2 ^ k / 2) ((List.range (2 ^ k)).map x) f k = ([r], f ||| fl) ∧ Reduces ty op k x r fl ∧ r < 2 ^ ty.width := by
  induction k generalizing x f with
  | zero => exact ⟨x 0, 0#6, by simp [redGo], ⟨rfl, rfl⟩, hx 0 Nat.one_pos⟩
  | succ k ih =>
    have hlow {i : Nat} (hi : i < 2 ^ k) : x i < 2 ^ ty.width := hx i (by rw [pow_succ]; omega)
    have hhigh {i : Nat} (hi : i < 2 ^ k) : x (i + 2 ^ k) < 2 ^ ty.width := hx _ (by rw [pow_succ]; omega)
    obtain ⟨r, fl, hgo, hred, hr⟩ := ih (fun i => (combine op ty (x i) (x (i + 2 ^ k))).1)
      (f ||| allFlags (fun i => (combine op ty (x i) (x (i + 2 ^ k))).2) (2 ^ k)) fun i hi => combine_lt op (hlow hi) (hhigh hi)
    refine ⟨r, _, ?_, ⟨_, _, fl, fun i hi => combine_combines op (hlow hi) (hhigh hi), hred, rfl⟩, hr⟩
    rw [redGo, pow_succ, Nat.mul_div_cancel _ two_pos, ← pow_succ, redStep_range]
    rw [flUnion_range_map, List.map_map, ← BitVec.or_assoc]
    exact hgo

/-- Lane i after a scanning step at distance d. -/
def scanLane (op : COp) (ty : Ty) (x : Nat → Nat) (d i : Nat) : Nat × Fl :=
  if i < d then (x i, 0#6) else combine op ty (x (i - d)) (x i)
theorem scanStep_range (op : COp) (ty : Ty) (x : Nat → Nat) (d l : Nat) :
    scanStep op ty d ((List.range l).map x) = (List.range l).map (scanLane op ty x d) := by
  refine List.ext_getElem (by simp [scanStep]) fun i h1 h2 => ?_
  have hi : i < l := by simpa using h2
  simp [scanStep, scanLane, nth_range_map x (show i - d < l by omega)]
theorem scanLane_spec (op : COp) {ty : Ty} {x : Nat → Nat} (d : Nat) {l i : Nat} (hx : ∀ i, i < l → x i < 2 ^ ty.width) (hi : i < l) :
    (if i < d then (scanLane op ty x d i).1 = x i ∧ (scanLane op ty x d i).2 = 0#6
      else Combines ty op (x (i - d)) (x i) (scanLane op ty x d i).1 (scanLane op ty x d i).2) ∧ (scanLane op ty x d i).1 < 2 ^ ty.width := by
  have hback : x (i - d) < 2 ^ ty.width := hx _ ((Nat.sub_le i d).trans_lt hi)
  unfold scanLane
  by_cases hd : i < d
  · rw [if_pos hd, if_pos hd]; exact ⟨⟨rfl, rfl⟩, hx i hi⟩
  · rw [if_neg hd, if_neg hd]; exact ⟨combine_combines op hback (hx i hi), combine_lt op hback (hx i hi)⟩
/-- Steps over l lanes at doubling distances from d. -/
theorem scanGo_scans (op : COp) (ty : Ty) (l k d : Nat) (x : Nat → Nat) (f : Fl) (hx : ∀ i, i < l → x i < 2 ^ ty.width) :
    ∃ r fl, scanGo op ty d ((List.range l).map x) f k = ((List.range l).map r, f ||| fl) ∧ Scans ty op l k d x r fl ∧
      ∀ i, i < l → r i < 2 ^ ty.width := by
  induction k generalizing d x f with
  | zero => exact ⟨x, 0#6, by simp [scanGo], ⟨fun _ _ => rfl, rfl⟩, hx⟩
  | succ k ih =>
    obtain ⟨r, fl, hgo, hscan, hr⟩ := ih (2 * d) (fun i => (scanLane op ty x d i).1) (f ||| allFlags (fun i => (scanLane op ty x d i).2) l)
      fun i hi => (scanLane_spec op d hx hi).2
    refine ⟨r, _, ?_, ⟨_, _, fl, fun i hi => (scanLane_spec op d hx hi).1, hscan, rfl⟩, hr⟩
    rw [scanGo, scanStep_range, flUnion_range_map, List.map_map, ← BitVec.or_assoc]
    exact hgo

/-! ## The instructions -/

theorem two_pow_log2_lanes (ty : Ty) : 2 ^ Nat.log2 (2048 / ty.width) = 2048 / ty.width := by cases ty <;> decide

section
variable {g : Guard} {s : State} (h : s.guard g = true)
include h

theorem vred_gives (d a : BitVec 6) (q : BitVec 4) (ty : Ty) (op : COp) : ∃ r fl,
    Reduces ty op (Nat.log2 (2048 / ty.width)) (inputAt ty op (s.vv a) (s.qv q)) r fl ∧ r < 2 ^ ty.width ∧
    exec (.vred g d a q ty op) s = .next (queue s ((8, 2, .v d.toNat (BitVec.allOnes 256) (BitVec.ofNat 2048 r)) :: toF 2 8 fl)) := by
  obtain ⟨r, fl, hgo, hred, hr⟩ := redGo_reduces op ty (Nat.log2 (2048 / ty.width)) (inputAt ty op (s.vv a) (s.qv q)) 0#6
    fun i _ => inputAt_lt ty op _ _ i
  rw [two_pow_log2_lanes, BitVec.zero_or] at hgo
  refine ⟨r, fl, hred, hr, ?_⟩
  have hone : ofLanes ty.width 1 (fun _ => nth [r] 0) = BitVec.ofNat 2048 r := by
    simp [ofLanes, packN, nth, Nat.mod_eq_of_lt hr]
  rw [exec_vred h d a q ty op (r := ([r], fl)) (by rw [combInputs_eq, hgo]), hone]
theorem vscan_gives (d a : BitVec 6) (q : BitVec 4) (ty : Ty) (op : COp) (excl : Bool) : ∃ r fl x,
    Scans ty op (2048 / ty.width) (Nat.log2 (2048 / ty.width)) 1 (inputAt ty op (s.vv a) (s.qv q)) r fl ∧
    (∀ k, k < 2048 / ty.width → r k < 2 ^ ty.width) ∧
    (∀ k, k < 2048 / ty.width → laneN x ty.width k = if excl then (if k = 0 then identity ty op else r (k - 1)) else r k) ∧
    exec (.vscan g d a q ty op excl) s = .next (queue s ((8, 2, .v d.toNat (s.qv q) x) :: toF 2 8 fl)) := by
  obtain ⟨r, fl, hgo, hscan, hr⟩ := scanGo_scans op ty (2048 / ty.width) (Nat.log2 (2048 / ty.width)) 1 (inputAt ty op (s.vv a) (s.qv q)) 0#6
    fun i _ => inputAt_lt ty op _ _ i
  rw [BitVec.zero_or] at hgo
  refine ⟨r, fl, _, hscan, hr, fun k hk => ?_,
    exec_vscan h d a q ty op excl (r := ((List.range (2048 / ty.width)).map r, fl)) (by rw [combInputs_eq, hgo])⟩
  have hback : k - 1 < 2048 / ty.width := (Nat.sub_le k 1).trans_lt hk
  rw [laneN, laneBits_ofLanes _ (ty_lanes ty).le hk, BitVec.toNat_ofNat]
  dsimp only
  rw [nth_range_map r hk, nth_range_map r hback, combId_eq_identity, Nat.mod_eq_of_lt]
  split
  · split
    · exact identity_lt op ty
    · exact hr _ hback
  · exact hr k hk
end

/-! ## Integer sums (07 R186 to R188) -/

theorem isF_of_isI {ty : Ty} (h : ty.isI = true) : ty.isF = false := by cases ty <;> cases h <;> rfl
section
variable {ty : Ty} (hty : ty.isF = false)
include hty

theorem combines_add_int {a b c : Nat} {f : BitVec 6} (h : Combines ty .add a b c f) : c = (a + b) % 2 ^ ty.width ∧ f = 0#6 := by
  rw [Combines, hty, if_neg Bool.false_ne_true] at h
  exact ⟨h.2, h.1⟩
/-- Halving steps keep the sum of the lanes. -/
theorem reduces_add_int {n : Nat} {x : Nat → Nat} {r : Nat} {fl : BitVec 6} (h : Reduces ty .add n x r fl) :
    r % 2 ^ ty.width = (∑ i ∈ Finset.range (2 ^ n), x i) % 2 ^ ty.width ∧ fl = 0#6 := by
  induction n generalizing x fl with
  | zero =>
    obtain ⟨hr, hfl⟩ := h
    exact ⟨by rw [hr, pow_zero, Finset.sum_range_one], hfl⟩
  | succ n ih =>
    obtain ⟨y, f, fl', hy, hred, hfl⟩ := h
    obtain ⟨hr, hfl'⟩ := ih hred
    refine ⟨?_, by rw [hfl, hfl', allFlags_eq_zero fun i hi => (combines_add_int hty (hy i hi)).2, BitVec.zero_or]⟩
    have hsum : ∑ i ∈ Finset.range (2 ^ n), y i = ∑ i ∈ Finset.range (2 ^ n), (x i + x (i + 2 ^ n)) % 2 ^ ty.width :=
      Finset.sum_congr rfl fun i hi => (combines_add_int hty (hy i (Finset.mem_range.mp hi))).1
    rw [hr, hsum, ← Finset.sum_nat_mod, Finset.sum_add_distrib, pow_succ, Nat.mul_two, Finset.sum_range_add]
    simp only [Nat.add_comm]
/-- Where each lane, added to the sum p of the lanes that end d before it, makes the sum that ends at it, scanning steps from distance d keep this
at doubled distances. -/
theorem scans_add_int {l n d : Nat} {x : Nat → Nat} {r : Nat → Nat} {fl : BitVec 6} {p : Nat → Nat} (h : Scans ty .add l n d x r fl)
    (hx : ∀ i, i < l → x i + p (i + 1 - d) ≡ p (i + 1) [MOD 2 ^ ty.width]) :
    (∀ i, i < l → r i + p (i + 1 - 2 ^ n * d) ≡ p (i + 1) [MOD 2 ^ ty.width]) ∧ fl = 0#6 := by
  induction n generalizing d x fl with
  | zero =>
    obtain ⟨hr, hfl⟩ := h
    exact ⟨fun i hi => by rw [hr i hi, pow_zero, Nat.one_mul]; exact hx i hi, hfl⟩
  | succ n ih =>
    obtain ⟨y, f, fl', hy, hscan, hfl⟩ := h
    have hstep (i : Nat) (hi : i < l) : y i + p (i + 1 - 2 * d) ≡ p (i + 1) [MOD 2 ^ ty.width] ∧ f i = 0#6 := by
      have hyi := hy i hi
      by_cases hd : i < d
      · rw [if_pos hd] at hyi
        refine ⟨?_, hyi.2⟩
        rw [hyi.1, show i + 1 - 2 * d = i + 1 - d by omega]
        exact hx i hi
      · rw [if_neg hd] at hyi
        obtain ⟨hsum, hf⟩ := combines_add_int hty hyi
        refine ⟨?_, hf⟩
        have hback := hx (i - d) (by omega)
        rw [show i - d + 1 - d = i + 1 - 2 * d by omega, show i - d + 1 = i + 1 - d by omega] at hback
        refine Nat.ModEq.add_right_cancel' (p (i + 1 - d)) ?_
        calc y i + p (i + 1 - 2 * d) + p (i + 1 - d)
            ≡ x (i - d) + x i + p (i + 1 - 2 * d) + p (i + 1 - d) [MOD 2 ^ ty.width] := by
              rw [hsum]; exact ((Nat.mod_modEq _ _).add_right _).add_right _
          _ = (x (i - d) + p (i + 1 - 2 * d)) + (x i + p (i + 1 - d)) := by ring
          _ ≡ p (i + 1 - d) + p (i + 1) [MOD 2 ^ ty.width] := hback.add (hx i hi)
          _ = p (i + 1) + p (i + 1 - d) := Nat.add_comm _ _
    obtain ⟨hr, hfl'⟩ := ih hscan fun i hi => (hstep i hi).1
    refine ⟨fun i hi => ?_, by rw [hfl, hfl', allFlags_eq_zero fun i hi => (hstep i hi).2, BitVec.zero_or]⟩
    have := hr i hi
    rwa [← Nat.mul_assoc, ← pow_succ] at this
end

theorem identity_add {ty : Ty} (h : ty.isI = true) : identity ty .add = 0 := if_neg (by rw [isF_of_isI h]; exact Bool.false_ne_true)
theorem sumLanes_succ {ty : Ty} (h : ty.isI = true) (x : Vec) (q : Mask) (n : Nat) :
    sumLanes x q ty.width (n + 1) = sumLanes x q ty.width n + inputAt ty .add x q n := by
  rw [sumLanes, inputAt, identity_add h]
theorem sumLanes_eq_sum {ty : Ty} (h : ty.isI = true) (x : Vec) (q : Mask) (n : Nat) :
    sumLanes x q ty.width n = ∑ i ∈ Finset.range n, inputAt ty .add x q i := by
  induction n with
  | zero => rfl
  | succ n ih => rw [sumLanes_succ h, ih, Finset.sum_range_succ]

section
variable {g : Guard} {s : State} (h : s.guard g = true) {ty : Ty} (hty : ty.isI = true)
include h hty

theorem vred_add_int (d a : BitVec 6) (q : BitVec 4) : exec (.vred g d a q ty .add) s = .next (queue s [(8, 2, .v d.toNat (BitVec.allOnes 256)
    (BitVec.ofNat 2048 (sumLanes (s.vv a) (s.qv q) ty.width (2048 / ty.width) % 2 ^ ty.width)))]) := by
  obtain ⟨r, fl, hred, hr, hexec⟩ := vred_gives h d a q ty .add
  obtain ⟨hsum, hfl⟩ := reduces_add_int (isF_of_isI hty) hred
  rw [Nat.mod_eq_of_lt hr, two_pow_log2_lanes, ← sumLanes_eq_sum hty] at hsum
  rw [hexec, hsum, hfl]; rfl
theorem vscan_add_int (d a : BitVec 6) (q : BitVec 4) (excl : Bool) : ∃ x, (∀ k, k < 2048 / ty.width → laneN x ty.width k =
      sumLanes (s.vv a) (s.qv q) ty.width (if excl then k else k + 1) % 2 ^ ty.width) ∧
    exec (.vscan g d a q ty .add excl) s = .next (queue s [(8, 2, .v d.toNat (s.qv q) x)]) := by
  obtain ⟨r, fl, x, hscan, hr, hx, hexec⟩ := vscan_gives h d a q ty .add excl
  obtain ⟨hsum, hfl⟩ := scans_add_int (isF_of_isI hty) (p := sumLanes (s.vv a) (s.qv q) ty.width) hscan fun i _ => by
    rw [Nat.add_sub_cancel, sumLanes_succ hty, Nat.add_comm]
  rw [two_pow_log2_lanes, Nat.mul_one] at hsum
  have hlead (k : Nat) (hk : k < 2048 / ty.width) : r k = sumLanes (s.vv a) (s.qv q) ty.width (k + 1) % 2 ^ ty.width := by
    have := hsum k hk
    rw [Nat.sub_eq_zero_of_le hk] at this
    exact (Nat.mod_eq_of_lt (hr k hk)).symm.trans this
  refine ⟨x, fun k hk => ?_, by rw [hexec, hfl]; rfl⟩
  rw [hx k hk]
  cases excl with
  | false => exact hlead k hk
  | true =>
    cases k with
    | zero => rw [if_pos rfl, if_pos rfl, if_pos rfl, identity_add hty]; exact (Nat.zero_mod _).symm
    | succ k => exact hlead k (Nat.lt_of_succ_lt hk)
end

/-- Settles O24: the lists of the model are lanes that combine step by step, and integer steps keep the sums modulo 2^w. -/
theorem integerLaneSums : Obligations.IntegerLaneSums := by
  refine ⟨fun s g d a q ty op h => ⟨fun _ => ?_, fun excl _ => ?_⟩, fun s g d a q ty h hty => ⟨vred_add_int h hty d a q, vscan_add_int h hty d a q⟩⟩
  · obtain ⟨r, fl, hred, -, hexec⟩ := vred_gives h d a q ty op
    exact ⟨r, fl, hred, hexec⟩
  · obtain ⟨r, fl, x, hscan, -, hx, hexec⟩ := vscan_gives h d a q ty op excl
    exact ⟨r, fl, x, hscan, hx, hexec⟩

end Sys2Proof.Proofs

/-! The scratchpad of a tile (08 R191 to R197, 04 R97): its bytes by address under H, what a line write changes, and the loads and
stores of Table 8-1. -/
namespace Sys2Proof.Proofs
open Sys2Proof Sys2Proof.Machine Sys2Proof.Claims

/-! ## Addresses and bytes -/

theorem physLine_eq_lineOf (t : Tile) {a : Nat} (h : a < 2 ^ 21) : physLine t.h a = lineOf t a := physLine_eq t.h h
theorem checkAddr_none {a n : Nat} (h : accessOk a n) : checkAddr a n n = none := by
  obtain ⟨hend, halign⟩ := h
  have hin : ¬((a : Int) < 0 ∨ (a : Int) + n > Config.spEnd ∧ ((a : Int) % n = 0 ∨ (a : Int) ≥ Config.spEnd)) := by
    norm_num [Config.spEnd]; omega
  rw [checkAddr, if_neg hin, if_neg (by omega)]
/-- The bytes of one line follow each other in the storage, whichever half the line lies in. -/
theorem spByte_add (t : Tile) {a j : Nat} (ha : a < 2 ^ 21) (hj : a % 256 + j < 256) :
    t.spByte a + j = if t.h then (a + j + 2 ^ 20) % 2 ^ 21 else a + j := by
  rw [Tile.spByte, physLine_eq t.h ha]
  split <;> omega
theorem get_spByte_add (t : Tile) {a j : Nat} (ha : a < 2 ^ 21) (hj : a % 256 + j < 256) : t.sp.get (t.spByte a + j) = spByteAt t (a + j) :=
  congrArg t.sp.get (spByte_add t ha hj)
/-- An aligned access of n bytes, n a divisor of a line, stays in one line. -/
theorem offset_add_lt {a n j : Nat} (hn : n ∣ 256) (ha : a % n = 0) (hj : j < n) : a % 256 + j < 256 := by
  obtain ⟨k, hk⟩ := hn
  have hline : a % 256 % n = 0 := by rw [hk, Nat.mod_mul_right_mod, ha]
  obtain ⟨q, hq⟩ := Nat.dvd_of_mod_eq_zero hline
  have hlt : n * q < n * k := by have := Nat.mod_lt a (y := 256) (by decide); omega
  have : n * (q + 1) ≤ n * k := Nat.mul_le_mul_left n (Nat.lt_of_mul_lt_mul_left hlt)
  rw [Nat.mul_succ] at this
  omega

section
variable {t : Tile} {a n : Nat} (h : accessOk a n) (hn : n ∣ 256)
include h hn

theorem get_access {j : Nat} (hj : j < n) : t.sp.get (t.spByte a + j) = spByteAt t (a + j) := by
  obtain ⟨hend, halign⟩ := h
  exact get_spByte_add t (by omega) (offset_add_lt hn halign hj)
theorem extractLsb'_getN_access {j : Nat} (hj : j < n) :
    (BitVec.ofNat (8 * n) (t.sp.getN (t.spByte a) n)).extractLsb' (8 * j) 8 = spByteAt t (a + j) :=
  (extractLsb'_getN t.sp _ hj).trans (get_access h hn hj)
end

/-! ## Loads (08 R192, R193) -/

theorem toNat_add_ofInt (a : Word) (x : Int) : (a + BitVec.ofInt 64 x).toNat = ((a.toNat + x) % 2 ^ 64).toNat := by
  rw [BitVec.toNat_add, BitVec.toNat_ofInt]
  omega
theorem lmEA_eq_lmAddr (s : State) (base : BitVec 5) (off : BitVec 12) (pi : Bool) : s.lmEA base off pi = lmAddr s base off pi := by
  have hb : s.ct.regs.sAt base.toNat = s.sv (base.zeroExtend 6) := by
    rw [State.sv, BitVec.toNat_setWidth_of_le (by decide)]
  unfold State.lmEA lmAddr
  rw [hb]
  cases pi with
  | true =>
    have := (s.sv (base.zeroExtend 6)).isLt
    simp only [if_true]; omega
  | false => exact toNat_add_ofInt _ _
theorem postInc_eq_queue (s : State) (base : BitVec 5) (off : BitVec 12) (pi : Bool) : s.postInc base off pi = queue s (lmInc s base off pi) := by
  have hb : s.ct.regs.sAt base.toNat = s.sv (base.zeroExtend 6) := by
    rw [State.sv, BitVec.toNat_setWidth_of_le (by decide)]
  have hw (a : Word) : lmSum a off = wrapI (a.toNat + 256 * off.toInt) := by
    rw [lmSum, wrapI, BitVec.ofInt_add, BitVec.ofInt_natCast]; exact congrArg (· + _) (wrapN_toNat a).symm
  unfold State.postInc lmInc
  cases pi with
  | true => simp only [if_true]; rw [hb, hw, postS_eq_queue]; rfl
  | false => rfl
theorem lmInc_queue (s : State) (ws : List (Nat × Nat × Write)) (base : BitVec 5) (off : BitVec 12) (pi : Bool) :
    lmInc (queue s ws) base off pi = lmInc s base off pi := by
  rw [lmInc, lmInc, queue_sv]

section
variable {s : State} {g : Guard} {base : BitVec 5} {off : BitVec 12} {pi : Bool} (hg : s.guard g = true)
include hg

/-- An access that passes its checks queues its writes, then the post-increment. -/
theorem opLM_gives {opc n : Nat} {f : State → Nat → State} {ws : List (Nat × Nat × Write)} (ha : accessOk (lmAddr s base off pi) n)
    (hf : f s (lmAddr s base off pi) = queue s ws) : opLM opc n g base off pi s f = .next (queue s (ws ++ lmInc s base off pi)) := by
  rw [opLM, slotOp_true _ hg, lmEA_eq_lmAddr]
  dsimp only
  rw [checkAddr_none ha]
  dsimp only
  rw [hf, postInc_eq_queue, lmInc_queue, queue_append]
/-- One that fails a check raises that check's record alone. -/
theorem opLM_raises {opc n : Nat} {f : State → Nat → State} {e : AddrFail} (hc : checkAddr (lmAddr s base off pi) n n = some e) :
    opLM opc n g base off pi s f = .next (s.raise 6 (opFail e.code e.addr (lDetail opc 0xFF))) := by
  rw [opLM, slotOp_true _ hg, lmEA_eq_lmAddr]
  dsimp only
  rw [hc]
  rfl
end

/-- Byte j of a vector is a byte of the lane that holds it. -/
theorem extractLsb'_laneBits (x : Vec) {wb : Nat} (hw : 0 < wb) (j : Nat) :
    (laneBits x (8 * wb) (j / wb)).extractLsb' (8 * (j % wb)) 8 = x.extractLsb' (8 * j) 8 := by
  have hj : 8 * wb * (j / wb) + 8 * (j % wb) = 8 * j := by rw [Nat.mul_assoc, ← Nat.mul_add, Nat.div_add_mod]
  have hlt : j % wb < wb := Nat.mod_lt j hw
  refine BitVec.eq_of_getLsbD_eq fun b hb => ?_
  rw [laneBits, BitVec.getLsbD_extractLsb', BitVec.getLsbD_extractLsb', BitVec.getLsbD_extractLsb', ← Nat.add_assoc, hj]
  simp only [hb, show 8 * (j % wb) + b < 8 * wb by omega, decide_true, Bool.true_and]

section
variable (g : Guard) (base : BitVec 5) (off : BitVec 12) (pi : Bool) (s : State)
theorem exec_ldV (vd : BitVec 6) (q : BitVec 3) : exec (.ldV g vd base off pi q) s =
    opLM 1 256 g base off pi s fun s a => s.postV scL 4 vd (s.qv (q.zeroExtend 4)) (s.ct.line a) := rfl
theorem exec_ldbV (vd : BitVec 6) (q : BitVec 3) : exec (.ldbV g vd base off pi q) s = opLM 3 4 g base off pi s fun s a =>
    s.postV scL 4 vd (s.qv (q.zeroExtend 4)) (ofLanes 32 64 fun _ => s.ct.sp.getN (s.ct.spByte a) 4) := rfl
theorem exec_ldS (sd : BitVec 6) : exec (.ldS g sd base off pi) s =
    opLM 4 8 g base off pi s fun s a => s.postS scL 4 sd (BitVec.ofNat 64 (s.ct.sp.getN (s.ct.spByte a) 8)) := rfl
theorem exec_ldQ (qd : BitVec 4) : exec (.ldQ g qd base off pi) s =
    opLM 8 32 g base off pi s fun s a => s.postQ scL 4 qd allOn (BitVec.ofNat 256 (s.ct.sp.getN (s.ct.spByte a) 32)) := rfl
end

/-- Settles O12: each load is an access whose write holds the bytes from its address on, which lie in one line. -/
theorem loadsDeliverTheBytes : Obligations.LoadsDeliverTheBytes := by
  intro s g base off pi hg
  refine ⟨fun vd q ha => ⟨_, ?line, (exec_ldV ..).trans (opLM_gives (ws := [_]) hg ha (postV_eq_queue ..))⟩,
    fun vd q ha => ⟨_, fun j hj => ?word, (exec_ldbV ..).trans (opLM_gives (ws := [_]) hg ha (postV_eq_queue ..))⟩,
    fun sd ha => ⟨_, fun j hj => ?scalar, (exec_ldS ..).trans (opLM_gives hg ha (postS_eq_queue ..))⟩,
    fun qd ha => ⟨_, fun j hj => ?mask, (exec_ldQ ..).trans (opLM_gives hg ha (postQ_eq_queue ..))⟩⟩
  case line => exact hasBytes_line s.ct ha.2 (by have := ha.1; omega)
  case word =>
    have hlane : laneBits (ofLanes 32 64 fun _ => s.ct.sp.getN (s.ct.spByte (lmAddr s base off pi)) 4) 32 (j / 4) = _ :=
      laneBits_ofLanes _ (by decide) (by omega)
    rw [← extractLsb'_laneBits _ (by decide : 0 < 4), hlane]
    exact extractLsb'_getN_access ha (by decide) (Nat.mod_lt j (by decide))
  case scalar => exact extractLsb'_getN_access ha (by decide) hj
  case mask => exact extractLsb'_getN_access ha (by decide) hj
end Sys2Proof.Proofs

/-! Stores, accesses that fail their checks, and line writes of the scratchpad (08 R191 to R194, 18 R341). -/
namespace Sys2Proof.Proofs
open Sys2Proof Sys2Proof.Machine Sys2Proof.Claims
/-! ## Stores (08 R191, R192) -/

theorem getLsbD_byteMask {o n k : Nat} (hk : k < 256) : (byteMask o n).getLsbD k = true ↔ o ≤ k ∧ k < o + n := by
  rw [byteMask, BitVec.getLsbD_ofNat, decide_eq_true hk, Bool.true_and, Nat.mul_comm, Nat.testBit_two_pow_mul, Nat.testBit_two_pow_sub_one,
    Bool.and_eq_true, decide_eq_true_iff, decide_eq_true_iff]
  omega
/-- A value moved up by o bytes has its bytes there. -/
theorem extractLsb'_shiftLeft_bytes {w o j : Nat} (x : BitVec w) (ho : o + j < 256) :
    (x.zeroExtend 2048 <<< (8 * o)).extractLsb' (8 * (o + j)) 8 = x.extractLsb' (8 * j) 8 := by
  refine BitVec.eq_of_getLsbD_eq fun b hb => ?_
  have hlow : ¬ 8 * (o + j) + b < 8 * o := by omega
  have hsub : 8 * (o + j) + b - 8 * o = 8 * j + b := by omega
  simp only [BitVec.getLsbD_extractLsb', BitVec.getLsbD_shiftLeft, BitVec.truncate_eq_setWidth, BitVec.getLsbD_setWidth, hsub, hb, hlow,
    show 8 * (o + j) + b < 2048 by omega, show 8 * j + b < 2048 by omega, decide_true, decide_false, Bool.not_false, Bool.true_and]
theorem lineBytes_store {a n : Nat} (x : BitVec (8 * n)) (ha : a % n = 0) (hn : n ∣ 256) :
    lineBytes (byteMask (a % 256) n) (x.zeroExtend 2048 <<< (8 * (a % 256))) a n fun j => x.extractLsb' (8 * j) 8 :=
  ⟨fun _ hk => getLsbD_byteMask hk, fun _ hj => extractLsb'_shiftLeft_bytes x (offset_add_lt hn ha hj)⟩
theorem postLine_eq_queue (s : State) (sc lat kind : Nat) {a : Nat} (m : Mask) (x : Vec) (h : a < 2 ^ 21) :
    s.postLine sc lat kind a m x = queue s [(lat, sc, .line (lineOf s.ct a) m x kind)] := by
  rw [State.postLine, physLine_eq_lineOf s.ct h, post_eq_queue]

section
variable (g : Guard) (base : BitVec 5) (off : BitVec 12) (pi : Bool) (s : State)
theorem exec_stV (vs : BitVec 6) (q : BitVec 3) : exec (.stV g vs base off pi q) s =
    opLM 2 256 g base off pi s fun s a => s.postLine scL 1 1 a (s.qv (q.zeroExtend 4)) (s.vv vs) := rfl
theorem exec_stS (ss : BitVec 6) : exec (.stS g ss base off pi) s = opLM 5 8 g base off pi s fun s a =>
    s.postLine scL 1 1 a (byteMask (a % 256) 8) ((s.sv ss).zeroExtend 2048 <<< (8 * (a % 256))) := rfl
theorem exec_stQ (qs : BitVec 4) : exec (.stQ g qs base off pi) s = opLM 9 32 g base off pi s fun s a =>
    s.postLine scL 1 1 a (byteMask (a % 256) 32) ((s.qv qs).zeroExtend 2048 <<< (8 * (a % 256))) := rfl
end

/-- Settles O13: each store is an access that queues one line write, its bytes moved to their place in the line. -/
theorem storesWriteTheBytes : Obligations.StoresWriteTheBytes := by
  intro s g base off pi hg ea
  have hin {n : Nat} (hn : 0 < n) (ha : accessOk ea n) : ea < 2 ^ 21 := by have := ha.1; omega
  refine ⟨fun vs q ha => ?_, fun ss ha => ⟨_, _, lineBytes_store (n := 8) (s.sv ss) ha.2 (by decide), ?_⟩,
    fun qs ha => ⟨_, _, lineBytes_store (n := 32) (s.qv qs) ha.2 (by decide), ?_⟩⟩
  · exact (exec_stV ..).trans (opLM_gives (ws := [_]) hg ha (postLine_eq_queue _ _ _ _ _ _ (hin (by decide) ha)))
  · exact (exec_stS ..).trans (opLM_gives (ws := [_]) hg ha (postLine_eq_queue _ _ _ _ _ _ (hin (by decide) ha)))
  · exact (exec_stQ ..).trans (opLM_gives (ws := [_]) hg ha (postLine_eq_queue _ _ _ _ _ _ (hin (by decide) ha)))

/-! ## Accesses that fail their checks (08 R194, 18 R341) -/

theorem checkAddr_beyond {a n : Nat} (ha : a % n = 0) (h : 2 ^ 21 < a + n) : checkAddr a n n = some ⟨0x01, wrapN a⟩ := by
  have hout : (a : Int) < 0 ∨ (a : Int) + n > Config.spEnd ∧ ((a : Int) % n = 0 ∨ (a : Int) ≥ Config.spEnd) := by
    norm_num [Config.spEnd]; omega
  rw [checkAddr, if_pos hout, ofI, BitVec.ofInt_natCast, wrapN]
theorem checkAddr_misaligned {a n : Nat} (ha : a % n ≠ 0) (h : a + n ≤ 2 ^ 21) : checkAddr a n n = some ⟨0x02, wrapN a⟩ := by
  have hin : ¬((a : Int) < 0 ∨ (a : Int) + n > Config.spEnd ∧ ((a : Int) % n = 0 ∨ (a : Int) ≥ Config.spEnd)) := by
    norm_num [Config.spEnd]; omega
  rw [checkAddr, if_neg hin, if_pos (by omega), ofI, BitVec.ofInt_natCast, wrapN]
/-- Every instruction of the LM format makes one access. -/
theorem exec_lmShape {i : Instr} {g : Guard} {b : BitVec 5} {o : BitVec 12} {p : Bool} {opc n : Nat} (s : State)
    (h : lmShape i = some (g, b, o, p, opc, n)) : ∃ f, exec i s = opLM opc n g b o p s f := by
  unfold lmShape at h
  split at h <;> cases h
  · exact ⟨_, exec_ldV ..⟩
  · exact ⟨_, exec_stV ..⟩
  · exact ⟨_, exec_ldbV ..⟩
  · exact ⟨_, exec_ldS ..⟩
  · exact ⟨_, exec_stS ..⟩
  · exact ⟨_, exec_ldQ ..⟩
  · exact ⟨_, exec_stQ ..⟩

/-- Settles O14: the check of the one access raises its record, whatever the instruction would do. -/
theorem badAccessesAreRecorded : Obligations.BadAccessesAreRecorded := by
  intro i s g b o p opc n hshape hg ea
  obtain ⟨f, hf⟩ := exec_lmShape s hshape
  have hdetail : lDetail opc 0xFF = wrapN (0xFF00 + opc) := rfl
  rw [hf]
  refine ⟨fun ha hend => ?_, fun ha hend => ?_⟩
  · rw [opLM_raises hg (checkAddr_beyond ha hend), hdetail]; rfl
  · rw [opLM_raises hg (checkAddr_misaligned ha hend), hdetail]; rfl

/-! ## Line writes (08 R191, 11 Table 11-1) -/

theorem get_putLine {m : Mem} (h : m.wf = true) (l : Nat) (mask : Mask) (x : Vec) (a : Nat) :
    (m.putVec (256 * l) mask x 0 256).get a =
      if a / 256 = l ∧ mask.getLsbD (a % 256) = true then x.extractLsb' (8 * (a % 256)) 8 else m.get a := by
  rw [Mem.get_putVec 256 _ _ _ _ _ h]
  by_cases hl : a / 256 = l
  · have hoff : a - 256 * l = a % 256 := by omega
    have hline : 256 * l + 0 ≤ a ∧ a < 256 * l + 0 + 256 := by omega
    simp only [hoff, hl, hline, true_and]
    rfl
  · rw [if_neg (by omega), if_neg (by omega)]

/-- Settles O15: a line write puts the masked bytes of one line. -/
theorem lineWriteChangesItsBytes : Obligations.LineWriteChangesItsBytes := by
  intro t l kind at_ src m x a hwf
  have hsp : (t.apply ⟨at_, src, .line l m x kind⟩).sp = t.sp.putVec (256 * l) m x 0 256 := by simp only [Tile.apply]
  rw [hsp]
  exact ⟨Mem.putVec_wf 256 _ _ _ 0 hwf, get_putLine hwf l m x a⟩

end Sys2Proof.Proofs

/-! Gather and scatter (08 R195): the lanes' addresses, and the byte that a scatter leaves where several lanes meet. -/
namespace Sys2Proof.Proofs
open Sys2Proof Sys2Proof.Machine Sys2Proof.Claims

/-! ## Active lanes and their addresses -/

theorem gatherAddr_toNat (base : Word) (vi : Vec) (wb i : Nat) : (gatherAddr base vi wb i).toNat = gatherAt base vi wb i := by
  rw [gatherAddr, gatherAt, BitVec.toNat_add, BitVec.toNat_ofNat, ← laneN_eq_lane, Nat.add_mod_mod]
  rfl
theorem laneOn_iff (q : Mask) (wb i : Nat) : laneOn q (8 * wb) i = true ↔ ∃ e, e < wb ∧ q.getLsbD (wb * i + e) = true := by
  rw [laneOn_eq_anyOn, anyOn, List.any_eq_true, Nat.mul_div_cancel_left wb (by decide : 0 < 8)]
  simp only [List.mem_range]
theorem laneOn_of_getLsbD {q : Mask} {wb j : Nat} (hw : 0 < wb) (h : q.getLsbD j = true) : laneOn q (8 * wb) (j / wb) = true :=
  (laneOn_iff q wb _).mpr ⟨j % wb, Nat.mod_lt j hw, by rwa [Nat.div_add_mod]⟩

section
variable {base : Word} {vi : Vec} {q : Mask} {wb : Nat} (h : gatherOk base vi q wb)
include h

theorem gatherOk_access {i : Nat} (hi : i < 64) (hon : laneOn q (8 * wb) i = true) : accessOk (gatherAt base vi wb i) wb := by
  obtain ⟨e, he, hq⟩ := (laneOn_iff q wb i).mp hon
  exact h i hi ⟨wb * i + e, by omega, by omega, hq⟩
theorem gatherFail_none (i k : Nat) (hk : i + k ≤ 64) : gatherFail base vi q (8 * wb) i k = none := by
  induction k generalizing i with
  | zero => rfl
  | succ k ih =>
    have hrest := ih (i + 1) (by omega)
    rw [gatherFail, Nat.mul_div_cancel_left wb (by decide : 0 < 8)]
    split
    · next hon => rw [gatherAddr_toNat, checkAddr_none (gatherOk_access h (by omega) hon)]; exact hrest
    · exact hrest
theorem opLG_gives {opc : Nat} {g : Guard} {vi' : BitVec 6} {base' : BitVec 5} {q' : BitVec 4} {s : State} {f : State → Word → Vec → Mask → State}
    (hg : s.guard g = true) (hb : s.sv (base'.zeroExtend 6) = base) (hv : s.vv vi' = vi) (hq : s.qv q' = q) :
    opLG opc g vi' base' q' (8 * wb) s f = .next (f s base vi q) := by
  have hb' : s.ct.regs.sAt base'.toNat = base := by
    rw [← hb, State.sv, BitVec.toNat_setWidth_of_le (by decide)]
  rw [opLG, slotOp_true _ hg]
  dsimp only
  rw [hb', hv, hq, gatherFail_none h 0 64 (by decide)]
end
/-- The element types of a gather or scatter are whole bytes, and a line is whole elements. -/
theorem exists_bytes (ty : Ty) : ∃ wb, ty.width = 8 * wb ∧ 0 < wb ∧ wb ∣ 256 :=
  ⟨ty.width / 8, by cases ty <;> rfl, by cases ty <;> decide, by cases ty <;> decide⟩

/-! ## Gather -/

/-- The elements of wb bytes that a gather delivers. -/
def gathered (t : Tile) (base : Word) (vi : Vec) (q : Mask) (wb : Nat) : Vec := ofLanes (8 * wb) (lanes (8 * wb)) fun i =>
  if i < 64 ∧ laneOn q (8 * wb) i then t.sp.getN (t.spByte (gatherAt base vi wb i)) wb else 0
theorem gathered_byte (t : Tile) {base : Word} {vi : Vec} {q : Mask} {wb j : Nat} (h : gatherOk base vi q wb) (hpos : 0 < wb) (hdvd : wb ∣ 256)
    (hj : j < 256) (hq : q.getLsbD j = true) : (gathered t base vi q wb).extractLsb' (8 * j) 8 =
      if j < 64 * wb then spByteAt t (gatherAt base vi wb (j / wb) + j % wb) else 0#8 := by
  have hon := laneOn_of_getLsbD hpos hq
  have hlane : j / wb < lanes (8 * wb) := by
    rw [lanes, ← Nat.div_div_eq_div_mul]
    exact Nat.div_lt_div_of_lt_of_dvd hdvd hj
  have hiff : j / wb < 64 ↔ j < 64 * wb := Nat.div_lt_iff_lt_mul hpos
  rw [← extractLsb'_laneBits _ hpos, gathered, laneBits_ofLanes (n := lanes (8 * wb)) _ (Nat.mul_div_le 2048 _) hlane, hon]
  by_cases hlow : j < 64 * wb
  · rw [if_pos hlow, if_pos ⟨hiff.mpr hlow, rfl⟩]
    exact extractLsb'_getN_access (gatherOk_access h (hiff.mpr hlow) hon) hdvd (Nat.mod_lt j hpos)
  · rw [if_neg hlow, if_neg fun hl => hlow (hiff.mp hl.1)]
    simp
theorem exec_ldgV (g : Guard) (vd vi : BitVec 6) (base : BitVec 5) (q : BitVec 4) (ty : Ty) (s : State) : exec (.ldgV g vd vi base q ty) s =
    opLG 6 g vi base q ty.width s fun s b ix m => s.postV scL 12 vd m (ofLanes ty.width (lanes ty.width) fun i =>
      if i < 64 ∧ laneOn m ty.width i then s.ct.sp.getN (s.ct.spByte (gatherAddr b ix (ty.width / 8) i).toNat) (ty.width / 8) else 0) := rfl
theorem ldgV_gives {g : Guard} {vi : BitVec 6} {base : BitVec 5} {q : BitVec 4} {s : State} {ty : Ty} {wb : Nat} (hg : s.guard g = true)
    (hw : ty.width = 8 * wb) (h : gatherOk (s.sv (base.zeroExtend 6)) (s.vv vi) (s.qv q) wb) (vd : BitVec 6) : exec (.ldgV g vd vi base q ty) s =
      .next (queue s [(12, 6, .v vd.toNat (s.qv q) (gathered s.ct (s.sv (base.zeroExtend 6)) (s.vv vi) (s.qv q) wb))]) := by
  rw [exec_ldgV, hw, opLG_gives h hg rfl rfl rfl, postV_eq_queue]
  simp only [Nat.mul_div_cancel_left wb (by decide : 0 < 8), gatherAddr_toNat]
  rfl

/-! ## Scatter: the line writes of the lanes, merged by line -/

/-- What a line write leaves of a byte of the storage, and what several leave in order. -/
def lineLeaves (w : LineWr) (p : Nat) (old : Byte) : Byte :=
  if p / 256 = w.l ∧ w.mask.getLsbD (p % 256) = true then w.x.extractLsb' (8 * (p % 256)) 8 else old
def leftBy (ws : List LineWr) (p : Nat) (old : Byte) : Byte := ws.foldl (fun b w => lineLeaves w p b) old
/-- A line write of a scatter, as it is queued. -/
def lineWrite (w : LineWr) : Nat × Nat × Write := (1, 6, .line w.l w.mask w.x 2)

theorem get_afterLines (ws : List LineWr) {t : Tile} (h : t.sp.wf = true) (p : Nat) :
    (afterLines t (ws.map lineWrite)).get p = leftBy ws p (t.sp.get p) := by
  induction ws generalizing t with
  | nil => rfl
  | cons w ws ih =>
    have hsp : (t.apply ⟨0, ⟨0, 0, 0⟩, .line w.l w.mask w.x 2⟩).sp = t.sp.putVec (256 * w.l) w.mask w.x 0 256 := by simp only [Tile.apply]
    have hwf : (t.apply ⟨0, ⟨0, 0, 0⟩, .line w.l w.mask w.x 2⟩).sp.wf = true := by rw [hsp]; exact Mem.putVec_wf 256 _ _ _ 0 h
    rw [List.map_cons, leftBy, List.foldl_cons, ← leftBy, lineLeaves, ← get_putLine h, ← hsp, ← ih hwf]
    rfl
theorem leftBy_eq_of_forall_ne {ws : List LineWr} {p : Nat} (h : ∀ w ∈ ws, w.l ≠ p / 256) (old : Byte) : leftBy ws p old = old := by
  induction ws with
  | nil => rfl
  | cons w ws ih =>
    have hw : lineLeaves w p old = old := if_neg fun e => h w List.mem_cons_self e.1.symm
    rw [leftBy, List.foldl_cons, hw]
    exact ih fun y hy => h y (List.mem_cons_of_mem _ hy)
theorem mergeWr_lines (w : LineWr) (ws : List LineWr) :
    (mergeWr w ws).map LineWr.l = if w.l ∈ ws.map LineWr.l then ws.map LineWr.l else ws.map LineWr.l ++ [w.l] := by
  induction ws with
  | nil => rfl
  | cons y ws ih =>
    rw [mergeWr]
    by_cases hy : y.l = w.l
    · simp [hy]
    · simp only [hy, if_false, List.map_cons, ih, List.mem_cons, Ne.symm hy, false_or]
      split <;> rfl
theorem mergeWr_nodup {w : LineWr} {ws : List LineWr} (h : (ws.map LineWr.l).Nodup) : ((mergeWr w ws).map LineWr.l).Nodup := by
  rw [mergeWr_lines]
  split
  · exact h
  · next hn => exact List.nodup_append.mpr ⟨h, List.nodup_singleton _, fun a ha b hb e => hn (by rw [← List.mem_singleton.mp hb, ← e]; exact ha)⟩
theorem lineLeaves_of_ne {w : LineWr} {p : Nat} (h : p / 256 ≠ w.l) (old : Byte) : lineLeaves w p old = old := if_neg fun e => h e.1
/-- Two writes of a line in one: the later one's bytes stand. -/
theorem lineLeaves_merged {y w : LineWr} (h : y.l = w.l) (p : Nat) (old : Byte) :
    lineLeaves ⟨y.l, y.mask ||| w.mask, blend w.mask y.x w.x⟩ p old = lineLeaves w p (lineLeaves y p old) := by
  by_cases hl : p / 256 = w.l
  · have hbyte := hasBytes_blend w.mask y.x w.x (p % 256) (Nat.mod_lt p (by decide))
    simp only [lineLeaves, h, hl, hbyte, BitVec.getLsbD_or, Bool.or_eq_true, true_and]
    cases w.mask.getLsbD (p % 256) <;> simp
  · rw [lineLeaves_of_ne hl, lineLeaves_of_ne (h ▸ hl), lineLeaves_of_ne (h ▸ hl)]
/-- A merged write stands last, each line being written once. -/
theorem leftBy_mergeWr (w : LineWr) {ws : List LineWr} (h : (ws.map LineWr.l).Nodup) (p : Nat) (old : Byte) :
    leftBy (mergeWr w ws) p old = lineLeaves w p (leftBy ws p old) := by
  induction ws generalizing old with
  | nil => rfl
  | cons y ws ih =>
    rw [List.map_cons, List.nodup_cons] at h
    obtain ⟨hy, hws⟩ := h
    rw [mergeWr]
    split
    · next hl =>
      show leftBy ws p (lineLeaves _ p old) = lineLeaves w p (leftBy ws p (lineLeaves y p old))
      rw [lineLeaves_merged hl]
      by_cases hp : p / 256 = w.l
      · have hne : ∀ x ∈ ws, x.l ≠ p / 256 := fun x hx e => hy (List.mem_map.mpr ⟨x, hx, by rw [e, hp, hl]⟩)
        rw [leftBy_eq_of_forall_ne hne, leftBy_eq_of_forall_ne hne]
      · rw [lineLeaves_of_ne hp, lineLeaves_of_ne hp]
    · exact ih hws (lineLeaves y p old)

/-! ## Scatter: the write of a lane, byte by byte -/

/-- The line write of a lane. -/
def laneWr (t : Tile) (base : Word) (vi vs : Vec) (q : Mask) (wb i : Nat) : LineWr :=
  ⟨physLine t.h (gatherAt base vi wb i), BitVec.ofNat 256 (q.toNat / 2 ^ (wb * i) % 2 ^ wb) <<< (gatherAt base vi wb i % 256),
    BitVec.ofNat 2048 (lane vs (8 * wb) i) <<< (8 * (gatherAt base vi wb i % 256))⟩
/-- The turn of byte lane j in `scattered`. -/
def scatterTurn (t : Tile) (base : Word) (vi vs : Vec) (q : Mask) (wb p : Nat) (old : Byte) (j : Nat) : Byte :=
  let a := gatherAt base vi wb (j / wb) + j % wb
  if q.getLsbD j = true ∧ (if t.h then (a + 2 ^ 20) % 2 ^ 21 else a) = p then vs.extractLsb' (8 * j) 8 else old
theorem scattered_eq (t : Tile) (base : Word) (vi vs : Vec) (q : Mask) (wb p : Nat) :
    scattered t base vi vs q wb p = (List.range' 0 (64 * wb)).foldl (scatterTurn t base vi vs q wb p) (t.sp.get p) := by
  rw [← List.range_eq_range']; rfl
/-- Turns of which those that hit leave one value. -/
theorem foldl_of_hits {α β : Type} {P : α → Prop} [DecidablePred P] {f : β → α → β} {x : β} (l : List α)
    (hit : ∀ b, ∀ j ∈ l, P j → f b j = x) (miss : ∀ b, ∀ j ∈ l, ¬ P j → f b j = b) (b : β) :
    l.foldl f b = if ∃ j ∈ l, P j then x else b := by
  induction l generalizing b with
  | nil => simp
  | cons j l ih =>
    have hrest := ih (fun b k hk => hit b k (List.mem_cons_of_mem j hk)) fun b k hk => miss b k (List.mem_cons_of_mem j hk)
    rw [List.foldl_cons, hrest]
    by_cases hl : ∃ k ∈ l, P k
    · rw [if_pos hl, if_pos (by simpa using .inr hl)]
    · by_cases hj : P j
      · rw [if_neg hl, if_pos ⟨j, List.mem_cons_self, hj⟩, hit b j List.mem_cons_self hj]
      · rw [if_neg hl, if_neg (by simpa [hj] using hl), miss b j List.mem_cons_self hj]

section
variable {t : Tile} {base : Word} {vi vs : Vec} {q : Mask} {wb i : Nat}

theorem laneWr_mask (hi : wb * i + wb ≤ 256) {k : Nat} (hk : k < 256) : (laneWr t base vi vs q wb i).mask.getLsbD k = true ↔
    ∃ e, e < wb ∧ k = gatherAt base vi wb i % 256 + e ∧ q.getLsbD (wb * i + e) = true := by
  rw [laneWr, BitVec.getLsbD_shiftLeft, BitVec.getLsbD_ofNat, Nat.testBit_mod_two_pow, Nat.testBit_div_two_pow, BitVec.testBit_toNat]
  simp only [Bool.and_eq_true, Bool.not_eq_true', decide_eq_true_eq, decide_eq_false_iff_not]
  constructor
  · rintro ⟨⟨-, hlow⟩, -, he, hq⟩
    exact ⟨_, he, by omega, by rwa [Nat.add_comm]⟩
  · rintro ⟨e, he, rfl, hq⟩
    rw [Nat.add_sub_cancel_left]
    exact ⟨⟨hk, by omega⟩, by omega, he, by rwa [Nat.add_comm]⟩
theorem laneWr_byte {e : Nat} (he : e < wb) (hline : gatherAt base vi wb i % 256 + e < 256) :
    (laneWr t base vi vs q wb i).x.extractLsb' (8 * (gatherAt base vi wb i % 256 + e)) 8 = vs.extractLsb' (8 * (wb * i + e)) 8 := by
  have hval : BitVec.ofNat 2048 (lane vs (8 * wb) i) = (laneBits vs (8 * wb) i).zeroExtend 2048 := by
    rw [← laneN_eq_lane, laneN, BitVec.ofNat_toNat]
  have hdiv : (wb * i + e) / wb = i := by rw [Nat.mul_add_div (by omega), Nat.div_eq_of_lt he, Nat.add_zero]
  rw [← extractLsb'_laneBits vs (by omega : 0 < wb), hdiv, Nat.mul_add_mod, Nat.mod_eq_of_lt he, laneWr, hval]
  exact extractLsb'_shiftLeft_bytes _ hline
/-- A lane writes byte e of its element where the predicate has that byte's bit. -/
theorem laneWr_leaves (h : accessOk (gatherAt base vi wb i) wb) (hdvd : wb ∣ 256) (hi : wb * i + wb ≤ 256) (p : Nat) (old : Byte) :
    lineLeaves (laneWr t base vi vs q wb i) p old = (List.range' (wb * i) wb).foldl (scatterTurn t base vi vs q wb p) old := by
  obtain ⟨hend, halign⟩ := h
  have hline {e : Nat} (he : e < wb) : gatherAt base vi wb i % 256 + e < 256 := offset_add_lt hdvd halign he
  have hturn {e : Nat} (he : e < wb) (b : Byte) : scatterTurn t base vi vs q wb p b (wb * i + e) =
      if q.getLsbD (wb * i + e) = true ∧ t.spByte (gatherAt base vi wb i) + e = p then vs.extractLsb' (8 * (wb * i + e)) 8 else b := by
    have hdiv : (wb * i + e) / wb = i := by rw [Nat.mul_add_div (by omega), Nat.div_eq_of_lt he, Nat.add_zero]
    rw [scatterTurn, hdiv, Nat.mul_add_mod, Nat.mod_eq_of_lt he, spByte_add t (by omega) (hline he)]
  have hplace {e : Nat} (he : e < wb) : t.spByte (gatherAt base vi wb i) + e = p ↔
      p / 256 = physLine t.h (gatherAt base vi wb i) ∧ p % 256 = gatherAt base vi wb i % 256 + e := by
    have := hline he
    rw [Tile.spByte]; omega
  rw [foldl_of_hits (P := fun j => q.getLsbD j = true ∧ t.spByte (gatherAt base vi wb i) + (j - wb * i) = p)
    (x := (laneWr t base vi vs q wb i).x.extractLsb' (8 * (p % 256)) 8)]
  · refine if_congr ?_ rfl rfl
    rw [laneWr_mask hi (Nat.mod_lt p (by decide))]
    constructor
    · rintro ⟨hl, e, he, hk, hq⟩
      exact ⟨wb * i + e, List.mem_range'_1.mpr (by omega), hq, by rw [Nat.add_sub_cancel_left]; exact (hplace he).mpr ⟨hl, hk⟩⟩
    · rintro ⟨j, hj, hq, hp⟩
      obtain ⟨hlo, hhi⟩ := List.mem_range'_1.mp hj
      have he : j - wb * i < wb := by omega
      obtain ⟨hl, hk⟩ := (hplace he).mp hp
      exact ⟨hl, j - wb * i, he, hk, by rwa [Nat.add_sub_cancel' hlo]⟩
  all_goals
    intro b j hj hP
    obtain ⟨hlo, hhi⟩ := List.mem_range'_1.mp hj
    obtain ⟨e, rfl⟩ := Nat.exists_eq_add_of_le hlo
    rw [Nat.add_sub_cancel_left] at hP
    have he : e < wb := by omega
  · rw [hturn he, if_pos hP, ((hplace he).mp hP.2).2, laneWr_byte he (hline he)]
  · rw [hturn he, if_neg hP]
end

section
variable {t : Tile} {base : Word} {vi vs : Vec} {q : Mask} {wb : Nat} (h : gatherOk base vi q wb) (hdvd : wb ∣ 256)
include h hdvd

/-- The lanes from i on, merged into what the lanes before them wrote, leave each byte as their turns do. -/
theorem leftBy_scatterWr (k : Nat) {i : Nat} (hk : i + k ≤ 64) (hw : 64 * wb ≤ 256) {ws : List LineWr} (hws : (ws.map LineWr.l).Nodup) (p : Nat)
    (old : Byte) : leftBy (scatterWr t.h base vi vs q wb i k ws) p old =
      (List.range' (wb * i) (wb * k)).foldl (scatterTurn t base vi vs q wb p) (leftBy ws p old) := by
  induction k generalizing i ws with
  | zero => rfl
  | succ k ih =>
    have hsplit : List.range' (wb * i) (wb * (k + 1)) = List.range' (wb * i) wb ++ List.range' (wb * (i + 1)) (wb * k) := by
      rw [Nat.mul_succ, Nat.mul_succ, Nat.add_comm (wb * k), ← List.range'_append_1]
    rw [hsplit, List.foldl_append]
    have hi : wb * i + wb ≤ 256 := by
      have : wb * (i + 1) ≤ wb * 64 := Nat.mul_le_mul_left wb (by omega)
      rw [Nat.mul_succ] at this; omega
    unfold scatterWr
    split
    · next hon =>
      have hstep := ih (i := i + 1) (by omega) (mergeWr_nodup (w := laneWr t base vi vs q wb i) hws)
      rw [leftBy_mergeWr _ hws, laneWr_leaves (gatherOk_access h (by omega) hon) hdvd hi] at hstep
      rw [← hstep]
      simp only [gatherAddr_toNat]
      rfl
    · next hoff =>
      have hsame : (List.range' (wb * i) wb).foldl (scatterTurn t base vi vs q wb p) (leftBy ws p old) = leftBy ws p old := by
        refine (foldl_of_hits (P := fun _ => False) (x := 0#8) _ (fun _ _ _ hf => hf.elim) (fun b j hj _ => if_neg fun hq => hoff ?_) _).trans (by simp)
        obtain ⟨hlo, hhi⟩ := List.mem_range'_1.mp hj
        exact (laneOn_iff q wb i).mpr ⟨j - wb * i, by omega, by rw [Nat.add_sub_cancel' hlo]; exact hq.1⟩
      rw [hsame]
      exact ih (by omega) hws
theorem leftBy_scatter (hw : 64 * wb ≤ 256) (p : Nat) :
    leftBy (scatterWr t.h base vi vs q wb 0 64 []) p (t.sp.get p) = scattered t base vi vs q wb p := by
  rw [leftBy_scatterWr (ws := []) h hdvd 64 (by decide) hw List.nodup_nil, scattered_eq, Nat.mul_zero, Nat.mul_comm]
  rfl
end

theorem foldl_post_lines (s : State) (ws : List LineWr) :
    ws.foldl (fun s w => s.post scL 1 (.line w.l w.mask w.x 2)) s = queue s (ws.map lineWrite) := by
  induction ws generalizing s with
  | nil => rfl
  | cons w ws ih => exact ih _
theorem exec_stgV (g : Guard) (vs vi : BitVec 6) (base : BitVec 5) (q : BitVec 4) (ty : Ty) (s : State) : exec (.stgV g vs vi base q ty) s =
    opLG 7 g vi base q ty.width s fun s b ix m => (scatterWr s.ct.h b ix (s.vv vs) m (ty.width / 8) 0 64 []).foldl
      (fun s w => s.post scL 1 (.line w.l w.mask w.x 2)) s := rfl
theorem stgV_gives {g : Guard} {vi : BitVec 6} {base : BitVec 5} {q : BitVec 4} {s : State} {ty : Ty} {wb : Nat} (hg : s.guard g = true)
    (hw : ty.width = 8 * wb) (h : gatherOk (s.sv (base.zeroExtend 6)) (s.vv vi) (s.qv q) wb) (vs : BitVec 6) : exec (.stgV g vs vi base q ty) s =
      .next (queue s ((scatterWr s.ct.h (s.sv (base.zeroExtend 6)) (s.vv vi) (s.vv vs) (s.qv q) wb 0 64 []).map lineWrite)) := by
  rw [exec_stgV, hw, opLG_gives h hg rfl rfl rfl, foldl_post_lines, Nat.mul_div_cancel_left wb (by decide : 0 < 8)]

/-- Settles O16: a gather packs the active lanes' elements; a scatter merges their writes by line, each line written once. -/
theorem gatherAndScatter : Obligations.GatherAndScatter := by
  intro s g vi base q ty hg hty h
  obtain ⟨wb, hw, hpos, hdvd⟩ := exists_bytes ty
  have hwb : ty.width / 8 = wb := by rw [hw, Nat.mul_div_cancel_left wb (by decide)]
  rw [hwb] at h ⊢
  refine ⟨fun vd => ⟨_, fun j hj hq => gathered_byte s.ct h hpos hdvd hj hq, ldgV_gives hg hw h vd⟩, fun vs hsp => ⟨_, ?lines, fun p => ?left,
    stgV_gives hg hw h vs⟩⟩
  case lines => rw [List.all_map]; exact List.all_eq_true.mpr fun _ _ => rfl
  case left => rw [get_afterLines _ hsp]; exact leftBy_scatter h hdvd (by omega) p

end Sys2Proof.Proofs

/-! Line copy (08 R196): how it starts, is refused, and goes on. -/
namespace Sys2Proof.Proofs
open Sys2Proof Sys2Proof.Machine Sys2Proof.Claims

theorem lcopyFail_none {src dst : Word} {n : Nat} (hs : src.toNat % 256 = 0) (hd : dst.toNat % 256 = 0) (hse : src.toNat + 256 * n ≤ 2 ^ 21)
    (hde : dst.toNat + 256 * n ≤ 2 ^ 21) : lcopyFail src dst n = none := by
  have hse' : ¬ 0x200000 < src.toNat + 256 * n := by omega
  have hde' : ¬ 0x200000 < dst.toNat + 256 * n := by omega
  simp only [lcopyFail, Config.spEnd, gt_iff_lt, hs, hd, hse', hde', decide_false, ne_eq, not_true, Bool.false_eq_true, if_false]
theorem copyBusy_none {t : Tile} {f : Nat} (h : ∀ o, t.lcopy = some o → 1 ≤ o.n ∧ o.c + o.n ≤ f) : t.copyBusy f = none := by
  unfold Tile.copyBusy
  split
  · next o ho =>
    have := h o ho
    rw [if_neg (by omega)]
  · rfl
theorem copyBusy_some {t : Tile} {f : Nat} {o : LCopy} (h : t.lcopy = some o) (hf : f < o.c + o.n) :
    t.copyBusy f = some (unitFail 0x06 1 (o.c + o.n)) := by
  unfold Tile.copyBusy
  rw [h]
  exact if_pos (by omega)

section
variable {s : State} {g : Guard} {sd ss : BitVec 6} {cnt : BitVec 12} (hg : s.guard g = true) (hs : (s.sv ss).toNat % 256 = 0)
  (hd : (s.sv sd).toNat % 256 = 0) (hse : (s.sv ss).toNat + 256 * (cnt.toNat + 1) ≤ 2 ^ 21)
  (hde : (s.sv sd).toNat + 256 * (cnt.toNat + 1) ≤ 2 ^ 21)
include hg hs hd hse hde

/-- With its ranges in order a copy is refused only by one at work. -/
theorem execLcopy_eq : exec (.lcopy g sd ss cnt) s =
    .next (s.checked 6 (s.ct.copyBusy s.frc).toList fun s => s.startCopy (s.sv sd) (s.sv ss) (cnt.toNat + 1)) := by
  change execLcopy g sd ss cnt s = _
  rw [execLcopy, slotOp_true _ hg]
  dsimp only
  rw [lcopyFail_none hs hd hse hde]
  rfl
theorem lcopy_starts (h : s.ct.copyBusy s.frc = none) : exec (.lcopy g sd ss cnt) s =
    .next ((queue s [(1, 6, .line (lineOf s.ct (s.sv sd).toNat) (BitVec.allOnes 256) (s.ct.line (s.sv ss).toNat) 3)]).modCt
      fun t => { t with lcopy := some ⟨(s.sv ss).toNat, (s.sv sd).toNat, cnt.toNat + 1, s.ct.h, s.frc, ⟨s.cur.src.addr, s.cur.src.issued, 6⟩⟩ }) := by
  rw [execLcopy_eq hg hs hd hse hde, h, ← physLine_eq_lineOf s.ct (by omega)]
  show Host.Outcome.next (s.startCopy _ _ _) = _
  rw [← post_eq_queue, State.post, State.modCt_modCt]
  rfl
theorem lcopy_refused {o : LCopy} (h : s.ct.lcopy = some o) (hf : s.frc < o.c + o.n) :
    exec (.lcopy g sd ss cnt) s = .next (s.raise 6 ⟨2, 6, 2, 1#64, wrapN (o.c + o.n)⟩) := by
  rw [execLcopy_eq hg hs hd hse hde, copyBusy_some h hf]
  rfl
end

theorem unitLost_of_no_errs {t : Tile} (h : t.own.errs = []) (f sc : Nat) : t.unitLost f sc = false := by
  simp [Tile.unitLost, Tile.unitErrs, h]
/-- A copy at work moves line f - c in frame cycle f. -/
theorem units_copies {t : Tile} {f : Nat} {o : LCopy} (h : t.lcopy = some o) (herr : t.own.errs = []) (hm : t.mtx.mldb = none) (hlo : o.c < f)
    (hhi : f < o.c + o.n) : (t.units f).pend = t.pend ++ [⟨f + 1, o.by_, .line (physLine o.h (o.dst + 256 * (f - o.c))) allOn
      (t.sp.vec (256 * physLine o.h (o.src + 256 * (f - o.c)))) 3⟩] := by
  have hrun : ¬(f ≤ o.c ∨ o.c + o.n ≤ f ∨ t.unitLost f scL = true) := by
    rw [unitLost_of_no_errs herr]; simp; omega
  simp only [Tile.units, h, hm, if_neg hrun]

/-- Settles O17: the start, the refusal, and one line a cycle of a copy at work. -/
theorem lineCopy : Obligations.LineCopy := by
  refine ⟨fun s g sd ss cnt hg hs hd hse hde => ⟨fun hfree => ⟨s.ct.line (s.sv ss).toNat, ?bytes, ?start⟩, fun o ho hf => ?refused⟩,
    fun t f o ho herr hm hlo hhi hse hde hs hd => ⟨t.sp.vec (256 * physLine o.h (o.src + 256 * (f - o.c))), ?copied, ?write⟩⟩
  case bytes => exact hasBytes_line s.ct hs (by omega)
  case start => exact lcopy_starts hg hs hd hse hde (copyBusy_none hfree)
  case refused => exact lcopy_refused hg hs hd hse hde ho hf
  case copied => exact hasBytes_line { t with h := o.h } (a := o.src + 256 * (f - o.c)) (by omega) (by omega)
  case write =>
    rw [units_copies ho herr hm hlo hhi, ← physLine_eq_lineOf { t with h := o.h } (by omega)]
    rfl

end Sys2Proof.Proofs

/-! The transposer (08 R206, R207): its slots, and the four operations of Table 8-5. -/
namespace Sys2Proof.Proofs
open Sys2Proof Sys2Proof.Machine Sys2Proof.Claims

/-! ## Slots and pointers -/

section
variable (x : Tx) (p : Bool) (y : TxSlot)
theorem txSlot_setSlot : txSlot (x.setSlot p y) p = y := by cases p <;> rfl
theorem txSlot_setSlot_other : txSlot (x.setSlot p y) (!p) = txSlot x (!p) := by cases p <;> rfl
theorem setSlot_b16 : (x.setSlot p y).b16 = x.b16 := by cases p <;> rfl
theorem setSlot_fill : (x.setSlot p y).fill = x.fill := by cases p <;> rfl
theorem setSlot_drain : (x.setSlot p y).drain = x.drain := by cases p <;> rfl
theorem elem_eq : x.elem = 2048 / txSize x := by
  unfold Tx.elem txSize
  cases x.b16 <;> rfl
end

/-- The slot that fills with one row more, ready 8 cycles after its last. -/
def rowSlot (s : State) (v : Vec) : TxSlot := ⟨(txSlot s.ct.tx s.ct.tx.fill).rows ++ [v],
  if (txSlot s.ct.tx s.ct.tx.fill).rows.length + 1 = txSize s.ct.tx then s.frc + 8 else 0, 0⟩
/-- The transposer after a row: where the slot is full the fill pointer has moved on. -/
def rowTaken (s : State) (v : Vec) : Tx :=
  if (txSlot s.ct.tx s.ct.tx.fill).rows.length + 1 = txSize s.ct.tx
    then { s.ct.tx.setSlot s.ct.tx.fill (rowSlot s v) with fill := s.ct.tx.other s.ct.tx.fill }
    else s.ct.tx.setSlot s.ct.tx.fill (rowSlot s v)
/-- The slot that drains with one column more taken, empty after its last. -/
def columnSlot (x : Tx) : TxSlot :=
  if (txSlot x x.drain).taken + 1 = txSize x then ⟨[], 0, 0⟩ else { txSlot x x.drain with taken := (txSlot x x.drain).taken + 1 }
/-- The transposer after a column: where the slot is empty the drain pointer has moved on. -/
def columnTaken (x : Tx) : Tx :=
  if (txSlot x x.drain).taken + 1 = txSize x then { x.setSlot x.drain (columnSlot x) with drain := x.other x.drain }
    else x.setSlot x.drain (columnSlot x)
/-- Column `taken` of the slot that drains. -/
def columnOf (x : Tx) : Vec :=
  ofLanes x.elem (txSize x) fun i => lane ((txSlot x x.drain).rows.getD i 0#2048) x.elem (txSlot x x.drain).taken

section
variable (s : State) (v : Vec)

theorem rowTaken_fields : (rowTaken s v).b16 = s.ct.tx.b16 ∧ (rowTaken s v).drain = s.ct.tx.drain := by
  unfold rowTaken
  split <;> exact ⟨setSlot_b16 .., setSlot_drain ..⟩
theorem txSlot_rowTaken : txSlot (rowTaken s v) s.ct.tx.fill = rowSlot s v := by
  unfold rowTaken
  split <;> exact txSlot_setSlot ..
theorem txSlot_rowTaken_other : txSlot (rowTaken s v) (!s.ct.tx.fill) = txSlot s.ct.tx (!s.ct.tx.fill) := by
  unfold rowTaken
  split <;> exact txSlot_setSlot_other ..
theorem rowTaken_fill : (rowTaken s v).fill =
    if (txSlot s.ct.tx s.ct.tx.fill).rows.length + 1 = txSize s.ct.tx ∧ s.ct.tx.b16 = false then !s.ct.tx.fill else s.ct.tx.fill := by
  unfold rowTaken
  split
  · next hfull =>
    show s.ct.tx.other s.ct.tx.fill = _
    unfold Tx.other
    cases s.ct.tx.b16 <;> simp [hfull]
  · next hmore => rw [if_neg fun h => hmore h.1]; exact setSlot_fill ..
end

section
variable (x : Tx)

theorem columnTaken_fields : (columnTaken x).b16 = x.b16 ∧ (columnTaken x).fill = x.fill := by
  unfold columnTaken
  split <;> exact ⟨setSlot_b16 .., setSlot_fill ..⟩
theorem txSlot_columnTaken_other : txSlot (columnTaken x) (!x.drain) = txSlot x (!x.drain) := by
  unfold columnTaken
  split <;> exact txSlot_setSlot_other ..
theorem columnTaken_slot : if (txSlot x x.drain).taken + 1 = txSize x
    then txSlot (columnTaken x) x.drain = ⟨[], 0, 0⟩ ∧ ((columnTaken x).drain = if x.b16 then x.drain else !x.drain)
    else txSlot (columnTaken x) x.drain = { txSlot x x.drain with taken := (txSlot x x.drain).taken + 1 } ∧ (columnTaken x).drain = x.drain := by
  by_cases hlast : (txSlot x x.drain).taken + 1 = txSize x
  · simp only [columnTaken, columnSlot, hlast, if_true]
    exact ⟨txSlot_setSlot .., rfl⟩
  · simp only [columnTaken, columnSlot, hlast, if_false]
    exact ⟨txSlot_setSlot .., setSlot_drain ..⟩
theorem columnOf_lane {i : Nat} (hi : i < txSize x) : laneBits (columnOf x) (2048 / txSize x) i =
    laneBits ((txSlot x x.drain).rows.getD i 0#2048) (2048 / txSize x) (txSlot x x.drain).taken := by
  rw [columnOf, elem_eq, laneBits_ofLanes _ (Nat.div_mul_le_self ..) hi, ofNat_lane]
end

/-! ## The operations under their guard -/

/-- Codes stay where no row is written anew. -/
theorem withTx_same_codes (s : State) (x : Tx) : (s.modCt fun t => { t with tx := x }) = withTx s x fun _ _ => false := by
  simp only [withTx, Bool.and_false, Bool.not_false, List.filter_true]

section
variable {s : State} {g : Guard} (hg : s.guard g = true)
include hg

theorem xin_takes (vs : BitVec 6) (h : (txSlot s.ct.tx s.ct.tx.fill).rows.length < txSize s.ct.tx) : exec (.xin g vs) s =
    .next (withTx s (rowTaken s (s.vv vs)) fun k r => k == s.ct.tx.fill.toNat && r == (txSlot s.ct.tx s.ct.tx.fill).rows.length) := by
  change execXin g vs s = _
  rw [execXin, slotOp_true _ hg]
  exact congrArg Host.Outcome.next (if_neg (Nat.not_le.mpr h))
theorem xin_refused (vs : BitVec 6) (h : txSize s.ct.tx ≤ (txSlot s.ct.tx s.ct.tx.fill).rows.length) :
    exec (.xin g vs) s = .next (s.raise 7 ⟨2, 8, 2, 1#64, wrapN (txSlot s.ct.tx s.ct.tx.fill).ready⟩) := by
  change execXin g vs s = _
  rw [execXin, slotOp_true _ hg]
  exact congrArg Host.Outcome.next (if_pos h)
theorem xout_gives (vd : BitVec 6) (hfull : txSize s.ct.tx ≤ (txSlot s.ct.tx s.ct.tx.drain).rows.length)
    (hready : (txSlot s.ct.tx s.ct.tx.drain).ready ≤ s.frc) : exec (.xout g vd) s =
    .next (queue (withTx s (columnTaken s.ct.tx) fun _ _ => false) [(2, 7, .v vd.toNat (BitVec.allOnes 256) (columnOf s.ct.tx))]) := by
  change execXout g vd s = _
  rw [execXout, slotOp_true _ hg]
  rw [← withTx_same_codes]
  exact congrArg Host.Outcome.next ((if_neg (Nat.not_lt.mpr hfull)).trans (if_neg (Nat.not_lt.mpr hready)))
theorem xout_not_full (vd : BitVec 6) (h : (txSlot s.ct.tx s.ct.tx.drain).rows.length < txSize s.ct.tx) :
    exec (.xout g vd) s = .next (s.raise 7 ⟨2, 8, 2, 2#64, 0#64⟩) := by
  change execXout g vd s = _
  rw [execXout, slotOp_true _ hg]
  exact congrArg Host.Outcome.next (if_pos h)
theorem xout_not_ready (vd : BitVec 6) (hfull : txSize s.ct.tx ≤ (txSlot s.ct.tx s.ct.tx.drain).rows.length)
    (hready : s.frc < (txSlot s.ct.tx s.ct.tx.drain).ready) :
    exec (.xout g vd) s = .next (s.raise 7 ⟨2, 8, 2, 3#64, wrapN (txSlot s.ct.tx s.ct.tx.drain).ready⟩) := by
  change execXout g vd s = _
  rw [execXout, slotOp_true _ hg]
  exact congrArg Host.Outcome.next ((if_neg (Nat.not_lt.mpr hfull)).trans (if_pos hready))
theorem xmode_clears (b16 : Bool) : exec (.xmode g b16) s = .next (withTx s ⟨b16, ⟨[], 0, 0⟩, ⟨[], 0, 0⟩, false, false⟩ fun _ _ => true) := by
  change execXmode g b16 s = _
  rw [execXmode, slotOp_true _ hg]
  rfl
theorem xclr_clears : exec (.xclr g) s = .next (withTx s ⟨s.ct.tx.b16, ⟨[], 0, 0⟩, ⟨[], 0, 0⟩, false, false⟩ fun _ _ => true) := by
  change execXclr g s = _
  rw [execXclr, slotOp_true _ hg]
  rfl
end

/-- Settles O30, by the state of the slot that fills or drains. -/
theorem transposerOperations : Obligations.TransposerOperations := by
  intro s g hg x
  refine ⟨fun vs h => ?xin, fun vs h => xin_refused hg vs h, fun vd hfull hready _ => ?xout, fun vd h => xout_not_full hg vd h,
    fun vd hfull hready => xout_not_ready hg vd hfull hready, xclr_clears hg, fun b16 => xmode_clears hg b16⟩
  case xin =>
    obtain ⟨hb16, hdrain⟩ := rowTaken_fields s (s.vv vs)
    exact ⟨_, xin_takes hg vs h, hb16, hdrain, txSlot_rowTaken s _, txSlot_rowTaken_other s _, rowTaken_fill s _⟩
  case xout =>
    obtain ⟨hb16, hfill⟩ := columnTaken_fields x
    exact ⟨_, _, xout_gives hg vd hfull.ge hready, fun i hi => columnOf_lane x hi, hb16, hfill, txSlot_columnTaken_other x, columnTaken_slot x⟩

end Sys2Proof.Proofs

/-! Pushes (08 R198 to R202, 19 R353): the length of a path and its stack boundaries, what an admitted push carries, and its arrival. -/
namespace Sys2Proof.Proofs
open Sys2Proof Sys2Proof.Machine Sys2Proof.Claims

/-! ## Paths (08 R200, R201) -/

theorem hopsX_length (y : Nat) (east : Bool) (x n : Nat) : (hopsX y east x n).length = n := by
  induction n generalizing x with
  | zero => rfl
  | succ n ih => cases east <;> exact congrArg Nat.succ (ih _)
theorem hopsY_length (x : Nat) (south : Bool) (y n : Nat) : (hopsY x south y n).length = n := by
  induction n generalizing y with
  | zero => rfl
  | succ n ih => cases south <;> exact congrArg Nat.succ (ih _)
theorem pathXY_length (a b : Nat) : (pathXY a b).length = hopCount a b := by
  rw [pathXY, List.length_append, hopsX_length, hopsY_length, Nat.add_comm]
  rfl
theorem crossings_cons (h : Hop) (p : List Hop) : crossings (h :: p) = (if h.cross then 1 else 0) + crossings p := by
  unfold crossings
  cases hc : h.cross <;> simp [hc, Nat.add_comm]
theorem crossings_append (p q : List Hop) : crossings (p ++ q) = crossings p + crossings q := by
  rw [crossings, List.filter_append, List.length_append]
  rfl
/-- The columns, or rows, of n hops from x on, rising or falling. -/
def stepsFrom (up : Bool) (x : Nat) : Nat → List Nat
  | 0 => []
  | n + 1 => x :: stepsFrom up (if up then x + 1 else x - 1) n
/-- Along a row the boundary lies between columns 11 and 12; along a column between rows 7 and 8. -/
theorem crossings_hopsX (y : Nat) (east : Bool) (x n : Nat) : crossings (hopsX y east x n) = (stepsFrom east x n).count (if east then 11 else 12) := by
  induction n generalizing x with
  | zero => rfl
  | succ n ih => cases east <;> rw [hopsX, stepsFrom, List.count_cons, ← ih] <;> exact (crossings_cons _ _).trans (Nat.add_comm _ _)
theorem crossings_hopsY (x : Nat) (south : Bool) (y n : Nat) : crossings (hopsY x south y n) = (stepsFrom south y n).count (if south then 7 else 8) := by
  induction n generalizing y with
  | zero => rfl
  | succ n ih => cases south <;> rw [hopsY, stepsFrom, List.count_cons, ← ih] <;> exact (crossings_cons _ _).trans (Nat.add_comm _ _)
theorem count_stepsFrom {up : Bool} {x n : Nat} (h : n ≤ x ∨ up = true) (e : Nat) : (stepsFrom up x n).count e =
    if up then (if x ≤ e ∧ e < x + n then 1 else 0) else if x - n < e ∧ e ≤ x then 1 else 0 := by
  induction n generalizing x with
  | zero => rw [stepsFrom, List.count_nil]; split_ifs <;> omega
  | succ n ih =>
    rw [stepsFrom, List.count_cons, ih (by cases up <;> simp_all; omega)]
    simp only [beq_iff_eq]
    cases up with
    | true => simp only [if_true]; split_ifs <;> omega
    | false => simp only [Bool.false_eq_true, or_false] at h ⊢; simp only [if_false]; split_ifs <;> omega
/-- A leg from x to x' passes the edge above e where the two lie on either side of it. -/
theorem leg_crosses (x x' e : Nat) : (stepsFrom (decide (x < x')) x (max x x' - min x x')).count (if decide (x < x') = true then e else e + 1) =
    if x ≤ e ↔ x' ≤ e then 0 else 1 := by
  rw [count_stepsFrom (by simp; omega)]
  simp only [decide_eq_true_eq]
  split_ifs <;> omega
theorem crossings_pathXY {a b : Nat} (ha : a < 384) (hb : b < 384) : crossings (pathXY a b) = boundaries a b := by
  have hx : (colOf a ≤ 11 ↔ colOf b ≤ 11) ↔ a % 24 / 12 = b % 24 / 12 := by rw [colOf, colOf]; omega
  have hy : (rowOf a ≤ 7 ↔ rowOf b ≤ 7) ↔ a / 192 = b / 192 := by rw [rowOf, rowOf]; omega
  rw [pathXY, crossings_append, crossings_hopsX, crossings_hopsY, leg_crosses, leg_crosses, boundaries, if_congr hx rfl rfl, if_congr hy rfl rfl,
    Nat.add_comm]
theorem portTile_lt (p : Nat) : portTile p < 384 := by
  have hall : ∀ x ∈ [3, 8, 48, 120, 15, 20, 71, 143, 363, 368, 240, 312, 375, 380, 263, 335], x < 384 := by decide
  unfold portTile nth
  rw [List.getD_eq_getElem?_getD]
  cases h : [3, 8, 48, 120, 15, 20, 71, 143, 363, 368, 240, 312, 375, 380, 263, 335][p]? with
  | none => decide
  | some x => exact hall x (List.mem_of_getElem? h)

theorem localArrival_eq (c : Nat) {a b : Nat} (ha : a < 384) (hb : b < 384) : localArrival c a b = c + 3 + hopCount a b + 24 * boundaries a b := by
  rw [localArrival, pathXY_length, crossings_pathXY ha hb]
theorem firstLeg_cycle (c pad : Nat) {a b : Nat} (ha : a < 384) (hb : b < 384) :
    (firstLeg c a b pad).2 = c + 1 + hopCount a b + 24 * boundaries a b + pad := by
  simp only [firstLeg, pathXY_length, crossings_pathXY ha hb, Nat.add_assoc]
theorem secondLeg_arrival (i : Nat) {a b : Nat} (ha : a < 384) (hb : b < 384) :
    (secondLeg i a b).2 = i + 2 + hopCount a b + 24 * boundaries a b := by
  simp only [secondLeg, pathXY_length, crossings_pathXY ha hb, Nat.add_assoc]

/-! ## Sending (08 R198, R199) -/

theorem tile_lt_of_pushFail_none {s : State} {x : Word} (h : s.pushFail x = none) : (descOf x).tile < 384 := by
  unfold State.pushFail at h
  dsimp only at h
  split_ifs at h
  omega

/-- Within the package a push takes its path's length and 24 cycles for each boundary. -/
theorem sendPush_local {s : State} {x : Word} (data : Vec) (h : (descOf x).pkg = s.cl.lrec.index) : s.sendPush x data =
    sent s ⟨s.pkg.nextId, s.cur.tile, x, (descOf x).tile, (descOf x).addr, data, pushCrc data x, localArrival s.frc s.cur.tile (descOf x).tile,
      localTakes s.frc s.cur.tile (descOf x).tile, none, s.srcOf 6⟩ := by
  simp only [State.sendPush, if_pos h]
  rfl
/-- The port tile to which a port's link leads. -/
def farTile (q : Port) : Nat := portTile (match q.peer with | some (_, n) => n | none => 0)
theorem sendPush_far {s : State} {x : Word} (data : Vec) (h : (descOf x).pkg ≠ s.cl.lrec.index) :
    let port := s.pkg.ports.getD (descOf x).port Port.reset
    let leg := firstLeg s.frc s.cur.tile (portTile (descOf x).port) port.pad
    s.sendPush x data = sent s ⟨s.pkg.nextId, s.cur.tile, x, (descOf x).tile, (descOf x).addr, data, pushCrc data x,
      (secondLeg leg.2 (farTile port) (descOf x).tile).2, leg.1, some ((descOf x).port, leg.2), s.srcOf 6⟩ := by
  simp only [State.sendPush, if_neg h]
  rfl

/-- An admitted push carries its line and arrives as its path gives. -/
theorem sendPush_gives {s : State} {x : Word} (data : Vec) (h : s.pushFail x = none) (ht : s.cur.tile < 384) :
    ∃ p, pushCarries s x data p ∧ pushArrives s x p ∧ s.sendPush x data = sent s p := by
  have hdst := tile_lt_of_pushFail_none h
  have haddr : (descOf x).addr = x.toNat % 2 ^ 21 := by
    show x.toNat / 2 ^ 0 % 2 ^ 21 = _
    rw [Nat.pow_zero, Nat.div_one]
  by_cases hpkg : (descOf x).pkg = s.cl.lrec.index
  · exact ⟨_, ⟨rfl, rfl, rfl, haddr, rfl, rfl, rfl, rfl⟩, Eq.mpr (if_pos hpkg) ⟨rfl, localArrival_eq _ ht hdst⟩, sendPush_local data hpkg⟩
  · exact ⟨_, ⟨rfl, rfl, rfl, haddr, rfl, rfl, rfl, rfl⟩,
      Eq.mpr (if_neg hpkg) ⟨_, rfl, firstLeg_cycle _ _ ht (portTile_lt _), secondLeg_arrival _ (portTile_lt _) hdst⟩, sendPush_far data hpkg⟩

section
variable {s : State} {g : Guard} {dsc : BitVec 6} (hg : s.guard g = true) (h : s.pushFail (s.sv dsc) = none)
include hg h

theorem pushV_sends (v : BitVec 6) : exec (.pushV g v dsc) s = .next (s.sendPush (s.sv dsc) (s.vv v)) := by
  change execPushV g v dsc s = _
  rw [execPushV, slotOp_true _ hg, h]
theorem pushl_sends {v : BitVec 6} (ha : (s.sv v).toNat % 256 = 0) (hlt : (s.sv v).toNat < 2 ^ 21) :
    exec (.pushl g v dsc) s = .next (s.sendPush (s.sv dsc) (s.ct.line (s.sv v).toNat)) := by
  change execPushl g v dsc s = _
  rw [execPushl, slotOp_true _ hg]
  dsimp only
  rw [h, checkAddr_line ha hlt]
  rfl
end

/-! ## Arrival (08 R201, 19 R353) -/

theorem pushArrival_gives {s : State} {id c : Nat} {p : Push} (h : s.pushCoach id = some (c, p)) (ha : p.addr < 2 ^ 21) :
    let s' := s.modCoach c fun k => { k with pushes := k.pushes.filter (fun q => q.id != id) }
    exec (.pushArrival id) s = .next (if pushCrc (s.pushData p) p.desc = p.crc then
        s'.modTile p.dst fun t => { t with pend := t.pend ++
          [⟨(s.coach c).launch.frc, { p.src with slot := 6 }, .line (lineOf (s.tile p.dst) p.addr) (BitVec.allOnes 256) (s.pushData p) 4⟩] }
      else s'.note c p.dst 11 0 ⟨7, 1, 5, wrapN (lineOf (s.tile p.dst) p.addr), wrapN p.tile⟩) := by
  intro s'
  change execPushArrival id s = _
  rw [execPushArrival, h, ← physLine_eq_lineOf _ ha]
  by_cases hcrc : pushCrc (s.pushData p) p.desc = p.crc
  · rw [if_pos hcrc]; exact if_pos hcrc
  · rw [if_neg hcrc]; exact if_neg hcrc

/-- Settles O18: what a push carries does not depend on its path, whose length and boundaries give its arrival; it arrives with or without
its CRC-32. -/
theorem pushesDeliverTheirLine : Obligations.PushesDeliverTheirLine := by
  refine ⟨fun s g v dsc hg hok ht => ⟨?vector, fun ha hlt => ?line⟩, fun s id c p h ha => pushArrival_gives h ha⟩
  case vector =>
    obtain ⟨p, hcarries, harrives, hsent⟩ := sendPush_gives (s.vv v) hok ht
    exact ⟨p, hcarries, harrives, by rw [pushV_sends hg hok, hsent]⟩
  case line =>
    obtain ⟨p, hcarries, harrives, hsent⟩ := sendPush_gives (s.ct.line (s.sv v).toNat) hok ht
    exact ⟨p, _, hasBytes_line s.ct ha hlt, hcarries, harrives, by rw [pushl_sends hg hok ha hlt, hsent]⟩

end Sys2Proof.Proofs

/-! A push flit received good and in sequence before its I (08 R202, 19 R355): what becomes of the count of its discarded copies. -/
namespace Sys2Proof.Proofs
open Sys2Proof Sys2Proof.Machine Sys2Proof.Claims

theorem portCoach_congr {s s' : State} (h : s'.coaches = s.coaches) (p : Nat) : s'.portCoach p = s.portCoach p := by
  simp only [State.portCoach, State.coachHasPort, State.coach, h]
theorem coach_congr {s s' : State} (h : s'.coaches = s.coaches) (c : Nat) : s'.coach c = s.coach c := by
  rw [State.coach, State.coach, h]
theorem port_modPort_self (s : State) {p : Nat} (f : Port → Port) (hp : p < 16) : (s.modPort p f).pkg.port p = f (s.pkg.port p) :=
  (port_modPort s f hp).trans (if_pos rfl)
theorem nearFrame_next (frc : Nat) : nearFrame frc ((frc + 1) % 2 ^ 32) = frc + 1 := by
  unfold nearFrame
  dsimp only
  split_ifs <;> omega
/-- A flit of the port's generation whose I is the next frame cycle is taken for it. -/
theorem takes_next {s : State} {p c : Nat} {f : Flit} (hgen : f.gen = (s.pkg.port p).gen) (hc : s.portCoach p = some c)
    (hi : f.inject.toNat = ((s.coach c).launch.frc + 1) % 2 ^ 32) : s.takes p f = some (c, (s.coach c).launch.frc + 1) := by
  rw [State.takes, hgen, hc, genOlder, bne_self_eq_false, Bool.false_and, if_neg Bool.false_ne_true, Option.map_some, hi, nearFrame_next]
theorem takeAck_of_not_nak {f : Flit} (h : f.nak = false) (s : State) (p : Nat) : s.takeAck p f = s.modPort p fun q => q.acked f.ack := by
  rw [State.takeAck, h]; rfl
theorem delivered_copies (q : Port) (n : Nat) : (q.delivered n).copies = delK q.copies n := by
  unfold Port.delivered
  split <;> rfl
theorem delivered_gen (q : Port) (n : Nat) : (q.delivered n).gen = q.gen := by
  unfold Port.delivered
  split <;> rfl
/-- s after a flit in sequence is acknowledged at a port. -/
def received (s : State) (p : Nat) (f : Flit) : State := s.modPort p fun q => { q.delivered f.seq.toNat with got := f.seq }
theorem received_coaches (s : State) (p : Nat) (f : Flit) : (received s p f).coaches = s.coaches := rfl
/-- A flit that comes before its I is held, and is lost no more. -/
theorem goodFlit_held {s : State} {p c i : Nat} {f : Flit} (htakes : (received s p f).takes p f = some (c, i))
    (hi : (s.coach c).launch.frc < i) : s.goodFlit p f =
      ((received s p f).modPort p fun q => { q with lost := q.lost.erase (i, f.seq.toNat) }).modPort p fun q => { q with holding := q.holding ++ [f] } := by
  unfold State.goodFlit
  rw [← received]
  simp only [htakes]
  exact if_pos hi

theorem exec_tandemPushFlit {s : State} {p : Nat} (f : Flit) (hp : p < 16) (hb : s.pkg.boot = 6) :
    exec (.tandemPushFlit p f) s = .next (s.pushFlit p f) := by
  have hup : s.up = true := by rw [State.up, hb]; rfl
  change execTandemPushFlit p f s = _
  rw [execTandemPushFlit, if_pos hp, if_pos hup]

theorem sendAck_copies (s : State) {p : Nat} (nak : Bool) (hp : p < 16) :
    ((s.sendAck p nak).pkg.port p).copies = (s.pkg.port p).copies := by
  rw [State.sendAck, port_modPort_self _ _ hp]
  rfl
/-- A flit received in sequence takes one entry of its number from the counts of discarded copies. -/
theorem received_copies (s : State) {p : Nat} (f : Flit) (hp : p < 16) :
    ((received s p f).pkg.port p).copies = delK (s.pkg.port p).copies f.seq.toNat := by
  rw [received, port_modPort_self _ _ hp]
  exact delivered_copies _ _
theorem received_gen (s : State) {p : Nat} (f : Flit) (hp : p < 16) : ((received s p f).pkg.port p).gen = (s.pkg.port p).gen := by
  rw [received, port_modPort_self _ _ hp]
  exact delivered_gen _ _

section
variable {s : State} {p c : Nat} {f : Flit} (hp : p < 16) (hgen : f.gen = (s.pkg.port p).gen) (hc : s.portCoach p = some c)
  (hi : f.inject.toNat = ((s.coach c).launch.frc + 1) % 2 ^ 32)
include hp hgen hc hi

/-- One entry of the flit's number leaves the counts of discarded copies. -/
theorem goodFlit_copies : ((s.goodFlit p f).pkg.port p).copies = delK (s.pkg.port p).copies f.seq.toNat := by
  have hcoach := coach_congr (received_coaches s p f) c
  have htakes := takes_next (hgen.trans (received_gen s f hp).symm) ((portCoach_congr (received_coaches s p f) p).trans hc) (by rw [hcoach, hi])
  have hnext : (s.coach c).launch.frc < ((received s p f).coach c).launch.frc + 1 := by rw [hcoach]; exact Nat.lt_succ_self _
  rw [goodFlit_held htakes hnext, port_modPort_self _ _ hp, port_modPort_self _ _ hp]
  exact received_copies s f hp
theorem pushFlit_copies (hgood : flitGood f = true) (hkind : f.kind = 0x01#8) (hnak : f.nak = false) (hseq : f.seq = (s.pkg.port p).got + 1) :
    ((s.pushFlit p f).pkg.port p).copies = delK (s.pkg.port p).copies f.seq.toNat := by
  have hpush : s.pushFlit p f = (((s.linkCounts p f).modPort p fun q => q.acked f.ack).goodFlit p f).sendAck p false := by
    have hpush : ¬(f.kind = 0x00#8 ∨ 5 < f.kind.toNat) := by rw [hkind]; decide
    unfold State.pushFlit
    dsimp only
    rw [hgood, takeAck_of_not_nak hnak, if_neg (by decide), if_neg hpush, if_pos hseq, if_pos hkind]
  have hcoaches : ((s.linkCounts p f).modPort p fun q => q.acked f.ack).coaches = s.coaches := rfl
  have hport : ∃ q, ((s.linkCounts p f).modPort p fun q => q.acked f.ack).pkg.port p = q ∧ q.gen = (s.pkg.port p).gen ∧
      q.copies = (s.pkg.port p).copies := ⟨_, rfl, by rw [port_modPort_self _ _ hp, State.linkCounts, port_modPort_self _ _ hp]; exact ⟨rfl, rfl⟩⟩
  obtain ⟨q, hq, hqgen, hqcopies⟩ := hport
  rw [hpush, sendAck_copies _ _ hp]
  generalize (s.linkCounts p f).modPort p (fun q => q.acked f.ack) = s1 at hcoaches hq ⊢
  rw [goodFlit_copies hp (by rw [hq, hqgen, hgen]) ((portCoach_congr hcoaches p).trans hc) (by rw [coach_congr hcoaches, hi]), hq, hqcopies]
end

/-! ## The counts of discarded copies where a number stands twice -/

/-- Coach 0 runs a domain launch; port 0 has two counts of discarded copies for flit 1, its next. -/
def doubledState : State := { State.reset with
  todo := []
  coaches := (Vector.replicate 16 Coach.reset).setIfInBounds 0
    { Coach.reset with launch := { Launch.reset with mode := .running, lrec := { LaunchRec.reset with type := 2 } } }
  pkg := { Pkg.reset with boot := 6, ports := Pkg.reset.ports.setIfInBounds 0 { Port.reset with copies := [(1, 1), (1, 1)] } } }
/-- Flit 1, to be injected at frame cycle 1. -/
def nextFlit : Flit := flitSeal ⟨0x01#8, 0#8, 1#16, 0#16, false, 0#9, 0#21, 1#32, 0#2048, 0#32, 0, 0#9, 0#64, 0#32⟩

/-- Refutes O58: a good flit in sequence takes one entry of its number from the counts of discarded copies, so where a state names that number
twice a count of it is left. -/
theorem not_tandemPortsReceive : ¬ Obligations.TandemPortsReceive := by
  intro h
  obtain ⟨-, -, -, -, hgood, -⟩ := h
  have hcoach : doubledState.portCoach 0 = some 0 := by decide +kernel
  have hin : (0 : Nat) < 16 := by decide
  have hseq : nextFlit.seq = (doubledState.pkg.port 0).got + 1 := by decide +kernel
  have hgen : nextFlit.gen = (doubledState.pkg.port 0).gen := by decide +kernel
  have hi : nextFlit.inject.toNat = ((doubledState.coach 0).launch.frc + 1) % 2 ^ 32 := by decide +kernel
  obtain ⟨s', hexec, -, -, -, -, -, hzero, -⟩ := hgood doubledState 0 0 nextFlit hin rfl (flitGood_flitSeal _) rfl rfl hseq hgen hcoach hi
  have hrun : exec (.tandemPushFlit 0 nextFlit) doubledState = .next (doubledState.pushFlit 0 nextFlit) := exec_tandemPushFlit _ hin rfl
  have hs : s' = doubledState.pushFlit 0 nextFlit := Host.Outcome.next.inj (hexec.symm.trans hrun)
  rw [hs, pushFlit_copies hin hgen hcoach hi (flitGood_flitSeal _) rfl rfl hseq] at hzero
  exact absurd hzero (by decide +kernel)

end Sys2Proof.Proofs
